-- ==== Sys2Proof/Word.lean ====
section
/-! DEFINITION. Word types of the FKL-T7 model and the index types of its parts. -/

namespace Sys2Proof

abbrev U8 := BitVec 8
abbrev U16 := BitVec 16
abbrev U32 := BitVec 32
abbrev U64 := BitVec 64
abbrev U128 := BitVec 128
abbrev U256 := BitVec 256
abbrev U384 := BitVec 384

/-- A string of bytes, byte 0 first (R10). -/
abbrev Bytes := List U8

/-- Tiles T0 to T159 (R16). -/
abbrev Tile := Fin 160
/-- Partitions P0 to P15 (R22). -/
abbrev Part := Fin 16
/-- PCIe functions: 0 the physical function, 1 to 16 the virtual functions (R574, R576). -/
abbrev Fn := Fin 17
/-- Rigging ports L0 to L11 (R20). -/
abbrev PortNo := Fin 12
/-- Device positions of a troupe (R353). -/
abbrev Pos := Fin 64
/-- Onlyn's components in the order of R425. -/
abbrev Comp := Fin 9
/-- Power domains (R545). -/
abbrev Domain := Fin 96

end Sys2Proof
end

