-- ==== Sys2Proof/Syntax.lean ====
section
/-! DEFINITION. The commands of the FKL-T7 block: one constructor of `Instr` for each row of the
manual's table of operations and events, with the row's operands, and the enumerations the operands
and the state share. -/

namespace Sys2Proof

/-! ### Codes shared by operands and state -/

/-- Status codes of completion, event and fault records (R3). -/
inductive Status
  | ok | aborted | contextLost | bounds | handle | integrity | tierFail | timeout | partialDone
  | normReject | digestMismatch | parity | key | feature | malformed | stale
  deriving DecidableEq, Repr

/-- The four fault scopes, narrowest first (R5). -/
inductive Scope
  | request | context | partition | device
  deriving DecidableEq, Repr

/-- A queue: its function and its local queue index; index 0 is the admin queue (R397). -/
structure QId where
  fn : Fn
  idx : Nat
  deriving DecidableEq, Repr

/-! ### Host commands (R403, R404) -/

structure RunArgs where
  imageSlot : U8
  strict : Bool
  stream : BitVec 24
  slots : List U64
  deriving DecidableEq, Repr

structure CopyArgs where
  src : U32
  dst : U32
  srcOff : U64
  dstOff : U64
  len : U64
  host : U64
  wrap : U16
  deriving DecidableEq, Repr

structure FillArgs where
  handle : U32
  pattern : U32
  off : U64
  len : U64
  deriving DecidableEq, Repr

structure WaitArgs where
  event : U32
  target : U64
  deadline : U64
  deriving DecidableEq, Repr

structure SignalArgs where
  event : U32
  value : U64
  deriving DecidableEq, Repr

structure ObjectArgs where
  tier : U8
  kind : U8
  keySlot : U16
  pages : BitVec 24
  flags : U16
  deriving DecidableEq, Repr

structure EventArgs where
  initial : U64
  cookie : U32
  vector : U16
  flags : U16
  deriving DecidableEq, Repr

structure LoadArgs where
  handle : U32
  slot : U8
  off : U64
  deriving DecidableEq, Repr

structure PublishArgs where
  handle : U32
  keySlot : U16
  deriving DecidableEq, Repr

structure PinArgs where
  form : U8
  slot : U16
  handle : U32
  deriving DecidableEq, Repr

structure ProbeArgs where
  slot : U16
  handle : U32
  off : U64
  deriving DecidableEq, Repr

structure RecipeArgs where
  entry : U8
  handle : U32
  off : U64
  deriving DecidableEq, Repr

structure SetArgs where
  set : U8
  handle : U32
  off : U64
  deriving DecidableEq, Repr

structure JoinArgs where
  group : U8
  member : U8
  generation : U32
  owner : U128
  digest : U128
  deriving DecidableEq, Repr

structure CtxArgs where
  evLog2 : U8
  part : U8
  deriving DecidableEq, Repr

structure QueueArgs where
  ctx : U16
  sqLog2 : U8
  cqLog2 : U8
  deriving DecidableEq, Repr

structure QueueRef where
  ctx : U16
  idx : U16
  deriving DecidableEq, Repr

structure TableArgs where
  handle : U32
  off : U64
  deriving DecidableEq, Repr

/-- A decoded submission entry's command (R404); `bad` is an entry the decoder finds MALFORMED. -/
inductive HostCmd
  | run (a : RunArgs)
  | copy (a : CopyArgs)
  | fill (a : FillArgs)
  | wait (a : WaitArgs)
  | signal (a : SignalArgs)
  | objectCreate (a : ObjectArgs)
  | objectFree (handle : U32)
  | eventCreate (a : EventArgs)
  | eventDestroy (event : U32)
  | seedSet (seed : U64)
  | eventQuery (event : U32)
  | loadImage (a : LoadArgs)
  | unloadImage (slot : U8)
  | seal (handle : U32)
  | publish (a : PublishArgs)
  | pinAdapter (a : PinArgs)
  | unpinAdapter (slot : U16)
  | evictAdapter (slot : U16)
  | probeReport (a : ProbeArgs)
  | snapshot
  | rekey (slot : U16)
  | recipeLoad (a : RecipeArgs)
  | updateSetCreate (a : SetArgs)
  | updateSetDestroy (set : U8)
  | groupJoin (a : JoinArgs)
  | contextCreate (a : CtxArgs)
  | contextDestroy (ctx : U16)
  | queueCreate (a : QueueArgs)
  | queueDestroy (a : QueueRef)
  | queueAbort (a : QueueRef)
  | partitionAbort (part : U8)
  | troupeSet (a : TableArgs)
  | groupSet (a : TableArgs)
  | groupClear (a : TableArgs)
  | basePropose (handle : U32)
  | baseCommit
  | baseAbandon
  | bad
  deriving DecidableEq, Repr

/-! ### Stage-program words -/

/-- The fields of a VXU instruction word below the opcode (R110). `lo` is bits [5:0]; in the memory
instructions `vb`, `vc` and `lo` together are the unsigned offset (R111). -/
structure Vx where
  fmt : BitVec 4
  sfmt : BitVec 4
  rnd : BitVec 3
  srw : BitVec 2
  gen : Bool
  grd : BitVec 3
  form : BitVec 2
  vd : BitVec 6
  va : BitVec 6
  vb : BitVec 6
  vc : BitVec 6
  lo : BitVec 6
  deriving DecidableEq, Repr

/-- Fields of an MXU operation: word 0 and word 1 (R173). -/
structure MxuArgs where
  stat : U8
  sport : BitVec 4
  oport : BitVec 4
  fromMem : Bool
  toMem : Bool
  reg : BitVec 5
  rows : U16
  carry : U8
  outT : U8
  streamT : U8
  mode : U32
  deriving DecidableEq, Repr

/-! ### Media, links and messages -/

/-- What comes back for an HBM access (R278, R281): the lines of the access whose tag failed at the
first read, those that failed again at the re-read, and a node or counter block that failed twice, by a line beneath it and its height. -/
structure Arrival where
  bad1 : List Nat
  bad2 : List Nat
  node : Option (Nat × Nat)
  phyError : Bool
  deriving DecidableEq, Repr

/-- What comes back for one part of a flash row (R249, R278): a media error, or the part, with the lines in it whose tag fails. -/
structure PartAnswer where
  mediaError : Bool
  badLines : List Nat
  deriving DecidableEq, Repr

/-- How one try of a beat's crossing ends (R149, R294): with a parity error, and across the bridge with a frame whose tag fails. -/
structure Crossing where
  parity : Bool
  tag : Bool
  deriving DecidableEq, Repr

/-- Where a 32-bit read falls: in BAR0, or in BAR4, the doorbell pages (R398, R589). -/
structure ReadAt where
  bar4 : Bool
  off : U32
  deriving DecidableEq, Repr

/-- One host-side block of a COPY as it crosses the link (R482): header fields, data as it decrypts,
and whether its tag verifies under the wrap slot's key. -/
structure HostBlock where
  direction : U8
  counter : BitVec 24
  offset : U64
  data : Bytes
  tag : U128
  deriving DecidableEq, Repr

/-- A Rigging flit (R331). The payload is the plaintext of bytes 8 to 247. -/
structure Flit where
  link : U32
  route : U32
  payload : Bytes
  tag : U64
  deriving DecidableEq, Repr

/-- An FEC frame as the receiver's decoder finds it (R330). -/
inductive FrameOutcome
  | clean | corrected | uncorrectable
  deriving DecidableEq, Repr

/-- The payload of a heartbeat (R349). -/
structure Heartbeat where
  k : U64
  tSend : U64
  tEcho : U64
  tRx : U64
  state : U8
  master : U8
  depth : U8
  deriving DecidableEq, Repr

/-- A HELLO, REPLY or FINISH of a link authentication (R472). -/
structure AuthMsg where
  position : U8
  generation : U32
  ts : U64
  nonce : U256
  leaf : Bytes
  kem : Bytes
  signature : Bytes
  deriving DecidableEq, Repr

/-- The header of a group message (R374) and its data. -/
structure GroupMsg where
  group : U8
  epoch : U32
  key : U64
  op : U8
  tree : U8
  sender : U8
  wire : U8
  count : U32
  elems : U32
  off : U32
  scale : U32
  data : Bytes
  deriving DecidableEq, Repr

/-- A mirror message's header and body (R499). -/
structure MirrorMsg where
  part : Part
  mseq : U64
  body : Bytes
  deriving DecidableEq, Repr

/-- The header of a message to SEC (R462), with the tag that ends a tenant's message, its reserved bytes 2 and 3, and the reserved
bytes of the body: 6 of a KEY_IMPORT, 4 of a CORE_START and 7 of a LIFECYCLE (R463). -/
structure SecHdr where
  part : U8
  seq : U64
  tag : U256
  rsv : U16
  pad : U64
  deriving DecidableEq, Repr

/-- A partition layout as LAYOUT_SET supplies it (R460). `reservedZero` says whether every reserved
field and every field SEC fills in is zero. -/
structure Layout where
  bridgeAB : U8
  bridgeBA : U8
  columns : U32
  cores : U32
  llcWays : U16
  adapterQuota : U16
  hbmPages : U32
  adapterPages : U32
  flashSegments : U32
  snapSegments : U32
  keyBase : U16
  keyCount : U16
  budgets : List U32
  reservedZero : Bool
  deriving DecidableEq, Repr

/-- A consent token (R484), its reserved fields included. -/
structure ConsentToken where
  magic : U32
  part : U8
  flags : U8
  rsv1 : U16
  seq : U64
  notBefore : U64
  notAfter : U64
  sessionId : U128
  rsv2 : U128
  tag : U256
  deriving DecidableEq, Repr

/-- The body of CORE_START (R463). -/
structure CoreStartArgs where
  handle : U32
  off : U64
  len : U64
  entry : U64
  digest : U384
  deriving DecidableEq, Repr

/-- Outcomes of the tests of start-up (R554). -/
structure StartupOutcome where
  tilesFailed : List Nat
  hbmPairsClosed : List Nat
  flashUnitsClosed : List Nat
  portsClosed : List Nat
  bridgeClosed : Bool
  pcieClosed : Bool
  stacksFailed : List Nat
  channelsDown : List Nat
  lifecycleRailsOk : Bool
  slotSignaturesOk : Bool
  railsOk : Bool
  deriving DecidableEq, Repr

/-- What a firmware image brings to its checks (R441). -/
structure FwImage where
  bytes : Bytes
  rsaOk : Bool
  slhOk : Bool
  securityVersion : U16
  deriving DecidableEq, Repr

/-- Configuration requests the manual names an effect of (R556, R562, R563, R574). -/
inductive CfgReq
  | read (off : U16)
  | write (off : U16) (value : U32)
  | vfEnable (on : Bool)
  | dState (d3hot : Bool)
  | ctoRange (micros : U32)
  deriving DecidableEq, Repr

/-- IDE_KM requests (R578). -/
inductive IdeReq
  | keyProg (key : U256)
  | setGo
  | setStop
  deriving DecidableEq, Repr

/-- TDISP requests (R578). -/
inductive TdispReq
  | lock | startInterface | stopInterface
  deriving DecidableEq, Repr

/-- Commands of the FKL-T7 block: one for each row of the manual's table.
Log entry 183, DESIGN CHOICE. -/
inductive Instr
  -- context-queue and admin-queue commands (R403, R404)
  | run (q : QId) (a : RunArgs) (pick : Nat)
  | copy (q : QId) (a : CopyArgs)
  | fill (q : QId) (a : FillArgs)
  | wait (q : QId) (a : WaitArgs)
  | signal (q : QId) (a : SignalArgs)
  | objectCreate (q : QId) (a : ObjectArgs) (pick : List Nat)
  | objectFree (q : QId) (handle : U32)
  | eventCreate (q : QId) (a : EventArgs) (pick : Nat)
  | eventDestroy (q : QId) (event : U32)
  | seedSet (q : QId) (seed : U64)
  | eventQuery (q : QId) (event : U32)
  | loadImage (q : QId) (a : LoadArgs)
  | unloadImage (q : QId) (slot : U8)
  | sealObject (q : QId) (handle : U32)
  | publish (q : QId) (a : PublishArgs)
  | pinAdapter (q : QId) (a : PinArgs)
  | unpinAdapter (q : QId) (slot : U16)
  | evictAdapter (q : QId) (slot : U16)
  | probeReport (q : QId) (a : ProbeArgs)
  | snapshot (q : QId)
  | rekey (q : QId) (slot : U16)
  | recipeLoad (q : QId) (a : RecipeArgs)
  | updateSetCreate (q : QId) (a : SetArgs)
  | updateSetDestroy (q : QId) (set : U8)
  | groupJoin (q : QId) (a : JoinArgs)
  | contextCreate (q : QId) (a : CtxArgs) (pick : Nat)
  | contextDestroy (q : QId) (ctx : U16)
  | queueCreate (q : QId) (a : QueueArgs) (pick : Nat)
  | queueDestroy (q : QId) (a : QueueRef)
  | queueAbort (q : QId) (a : QueueRef)
  | partitionAbort (q : QId) (part : U8)
  | troupeSet (q : QId) (a : TableArgs)
  | groupSet (q : QId) (a : TableArgs)
  | groupClear (q : QId) (a : TableArgs)
  | basePropose (q : QId) (handle : U32)
  | baseCommit (q : QId)
  | baseAbandon (q : QId)
  -- rings and the queue engine (R397 to R418)
  | doorbell (q : QId) (value : U32)
  | cqHeadWrite (q : QId) (value : U32)
  | entryFetch (q : QId)
  | runStart (r : Nat)
  | runComplete (r : Nat)
  | loadImageDone (p : Part) (slot : BitVec 6)
  | pipelineWatchdog (r : Nat)
  -- vector unit (R112)
  | vadd (t : Tile) (w : Vx)
  | vsub (t : Tile) (w : Vx)
  | vmul (t : Tile) (w : Vx)
  | vfma (t : Tile) (w : Vx)
  | vfms (t : Tile) (w : Vx)
  | vfnma (t : Tile) (w : Vx)
  | vdiv (t : Tile) (w : Vx)
  | vsqrt (t : Tile) (w : Vx)
  | vmin (t : Tile) (w : Vx)
  | vmax (t : Tile) (w : Vx)
  | vabs (t : Tile) (w : Vx)
  | vneg (t : Tile) (w : Vx)
  | vcpysgn (t : Tile) (w : Vx)
  | vcmpeq (t : Tile) (w : Vx)
  | vcmplt (t : Tile) (w : Vx)
  | vcmple (t : Tile) (w : Vx)
  | vcmpun (t : Tile) (w : Vx)
  | gand (t : Tile) (w : Vx)
  | gor (t : Tile) (w : Vx)
  | gnot (t : Tile) (w : Vx)
  | vsel (t : Tile) (w : Vx)
  | vexp (t : Tile) (w : Vx)
  | vexp2 (t : Tile) (w : Vx)
  | vexpm1 (t : Tile) (w : Vx)
  | vlog (t : Tile) (w : Vx)
  | vlog2 (t : Tile) (w : Vx)
  | vrcp (t : Tile) (w : Vx)
  | vrsqrt (t : Tile) (w : Vx)
  | vsinpi (t : Tile) (w : Vx)
  | vcospi (t : Tile) (w : Vx)
  | vsigm (t : Tile) (w : Vx)
  | vtanh (t : Tile) (w : Vx)
  | vsilu (t : Tile) (w : Vx)
  | cvt (t : Tile) (w : Vx)
  | vhi (t : Tile) (w : Vx)
  | vlo (t : Tile) (w : Vx)
  | vrsum (t : Tile) (w : Vx)
  | vrmax (t : Tile) (w : Vx)
  | vrmin (t : Tile) (w : Vx)
  | vrsum16 (t : Tile) (w : Vx)
  | vrmax16 (t : Tile) (w : Vx)
  | rld (t : Tile) (w : Vx)
  | radd (t : Tile) (w : Vx)
  | rst (t : Tile) (w : Vx)
  | ld (t : Tile) (w : Vx)
  | st (t : Tile) (w : Vx)
  | sin (t : Tile) (w : Vx)
  | sout (t : Tile) (w : Vx)
  | sinq (t : Tile) (w : Vx)
  | soutq (t : Tile) (w : Vx)
  | vrand (t : Tile) (w : Vx)
  | vand (t : Tile) (w : Vx)
  | vor (t : Tile) (w : Vx)
  | vxor (t : Tile) (w : Vx)
  | vmov (t : Tile) (w : Vx)
  | vrot (t : Tile) (w : Vx)
  | vsync (t : Tile) (w : Vx)
  -- control unit (R172)
  | loop (t : Tile) (useReg : Bool) (reg : BitVec 5) (count : U32)
  | endloop (t : Tile)
  | sets (t : Tile) (reg : BitVec 5) (imm : U32)
  | adds (t : Tile) (reg : BitVec 5) (imm : U32)
  | args (t : Tile) (reg : BitVec 5) (slot : BitVec 6)
  | mrd (t : Tile) (tensor : U8) (port : BitVec 4) (rows : U32)
  | mwr (t : Tile) (tensor : U8) (port : BitVec 4) (rows : U32)
  | endProgram (t : Tile)
  -- matrix unit (R173, R103, R98)
  | mxuOp (t : Tile) (a : MxuArgs)
  | mxuTileStart (t : Tile)
  | mxuDrain (t : Tile)
  -- ticket unit (R191)
  | tatt (t : Tile) (slot : U8) (port : BitVec 4) (reg : BitVec 5) (rows : U32)
  | tsrc (t : Tile) (port : BitVec 4)
  | troute (t : Tile) (port : BitVec 4) (reg : BitVec 5)
  | tsort (t : Tile) (inp outp plan : BitVec 4)
  | tgath (t : Tile) (plan : BitVec 4) (restore pack : Bool)
  | temit (t : Tile) (outp : BitVec 4)
  | adapterWaitTimeout (t : Tile)
  -- exchange and update feed (R380, R309)
  | xallred (t : Tile) (wire inp outp : BitVec 4) (group : U8) (count : U32)
  | xredsc (t : Tile) (wire inp outp : BitVec 4) (group : U8) (count : U32)
  | xallga (t : Tile) (wire inp outp : BitVec 4) (group : U8) (count : U32)
  | xdisp (t : Tile) (inp outp : BitVec 4) (group : U8)
  | xcomb (t : Tile) (inp outp : BitVec 4) (group : U8)
  | ufeed (t : Tile) (fmt port set : BitVec 4) (reg : BitVec 5) (count : U32)
  | uend (t : Tile) (set : BitVec 4)
  | updBucketApply (p : Part) (set : BitVec 4)
  | updAttemptClose (p : Part) (set : BitVec 4)
  -- beats and credits (R144, R146)
  | beatSend (r strm route : Nat)
  | beatArrive (r strm route : Nat) (first again : Crossing)
  | creditReturn (r strm route : Nat)
  -- memory tiers (R238 to R258)
  | hbmReadReturn (acc : Nat) (v : Arrival)
  | hbmAccessTimeout (acc : Nat)
  | subtreeRebuild (height node : Nat) (fromCatcher : List Nat)
  | flashPartReturn (acc part : Nat) (v : PartAnswer)
  | flashPartLate (acc part : Nat)
  | tierStallTimeout (acc : Nat)
  | segmentErase (seg : Nat)
  | segmentRelocate (seg : Nat) (pick : List Nat) (failed : Bool)
  | pageWipeDone (frame : Nat)
  | adapterLoadDone (entry : Nat) (status : Status)
  | adapterWipeDone (entry : Nat)
  | carouselBlock (sweep : Fin 8) (badLines : List Nat) (unverifiable : Option Nat)
  | carouselFlashPage (sweep : Fin 8) (pick : Nat) (failed : Option Status)
  | snapPageCopy (p : Part) (failed : Option Status)
  | snapshotSeal (p : Part) (failed : Option Status)
  | restoreGo (p : Part)
  | restoreDone (p : Part) (failed : Option Status)
  | replayArm (p : Part) (value : U64)
  -- firmware, power, registers; `core` says that the access comes from the partition cores of the function's partition (R596)
  | negGo (fn : Fn)
  | fwStart
  | fwActivate (o : StartupOutcome)
  | warmReset (o : StartupOutcome)
  | pwrStateSleep
  | dbgAccess (off : U32) (write : Bool) (size : Nat) (value : U64)
  | regHighWordLatch (core : Bool) (fn : Fn) (place : ReadAt)
  | regWrite (core : Bool) (fn : Fn) (off : U32) (size : Nat) (value : U64)
  -- SEC (R463)
  | layoutSet (h : SecHdr) (l : Layout)
  | layoutClear (h : SecHdr)
  | sessionKey (h : SecHdr)
  | sessionBind (h : SecHdr) (ct : Bytes) (report : U384) (maskedSeal : U256)
  | keyGenerate (h : SecHdr) (slot : U16)
  | keyImport (h : SecHdr) (slot : U16) (ct wrapped : Bytes)
  | keyWithdraw (h : SecHdr) (slot : U16)
  | consentSet (h : SecHdr) (tok : ConsentToken)
  | coreStart (h : SecHdr) (a : CoreStartArgs)
  | sessionClose (h : SecHdr)
  | lifecycle (h : SecHdr) (target : U8) (token : Bytes)
  | lifecycleWipeDone
  | getVersion
  | getCapabilities
  | negotiateAlgorithms (request : Bytes)
  | getDigests
  | getCertificate (slot : U8) (off len : U16)
  | getMeasurements (index : U8) (nonce : U256) (signed : Bool)
  | challenge (slot : U8) (nonce : U256)
  | chunkGet (handle : U8) (seqNo : U16)
  | ideKmRequest (fn : Fn) (c : IdeReq)
  | tdispRequest (fn : Fn) (c : TdispReq)
  | secFault
  | secRestartDone
  -- Onlyn components (R427, R429)
  | componentWatchdog (c : Comp)
  | componentRestartDone (c : Comp) (codeOk : Bool)
  -- Rigging (R328 to R362, R472)
  | rigFrameReceive (port : PortNo) (o : FrameOutcome) (flit : Flit)
  | flitReceive (port : PortNo) (flit : Flit)
  | rigFrameSlot (port : PortNo)
  | rigAckTimeout (port : PortNo)
  | rigHeartbeatSend (port : PortNo)
  | rigHeartbeatReceive (port : PortNo) (hb : Heartbeat) (tArrive : U64)
  | rigHeartbeatMiss (port : PortNo) (k : U64)
  | fenceNoticeTimeout (p : Part)
  | portTrainStart (port : PortNo)
  | portRetrainTimer (port : PortNo)
  | portLaneLock (port : PortNo)
  | portTrainTimeout (port : PortNo)
  | portLockLost (port : PortNo)
  | authHello (port : PortNo) (m : AuthMsg)
  | authReply (port : PortNo) (m : AuthMsg)
  | authFinish (port : PortNo) (m : AuthMsg)
  | authTimeout (port : PortNo)
  | memberUnreachable (pos : Pos)
  | timeParentTimeout
  | fwdSubmission (queue : U16) (index : U32) (ts : U64) (entry : Bytes)
  | fwdCompletion (pos : Pos) (queue : U16) (index : U32) (record : Bytes)
  | fwdEvent (pos : Pos) (event : U32) (record : Bytes)
  | fwdRegRequest (head : Pos) (off value : U64)
  | fwdRegResponse (pos : Pos) (off value : U64)
  -- collectives (R373 to R390)
  | collectiveUp (m : GroupMsg)
  | collectiveDown (m : GroupMsg)
  | collectiveClose (m : GroupMsg)
  | collectiveVerdict (m : GroupMsg)
  | collectiveAbort (m : GroupMsg)
  | dispatch (m : GroupMsg)
  | combine (m : GroupMsg)
  | groupWaitLimit (group : U8)
  | digestListArrive (p : Part) (set : BitVec 4) (lists : List (U8 × List U128))
  | lineDigestsArrive (p : Part) (set : BitVec 4) (page : U32) (lines : List (Nat × Bytes))
  -- safety net (R494 to R519)
  | mirrorLine (m : MirrorMsg)
  | mirrorState (m : MirrorMsg)
  | mirrorCommit (m : MirrorMsg)
  | mirrorFlash (m : MirrorMsg)
  | mirrorSnap (m : MirrorMsg)
  | mirrorResync (m : MirrorMsg)
  | resyncDone (p : Part)
  | mirrorAck (m : MirrorMsg)
  | mirrorPage (m : MirrorMsg)
  | mirrorPair (m : MirrorMsg)
  | takeoverNotice (flyer : Pos) (identity : U128) (ts : U64)
  -- time, budgets, power (R446, R542 to R551)
  | aonTick
  | budgetPeriod
  | waitDeadline (index : Nat)
  | pwrDomainLoop
  | pwrCapLoop (watts : Nat)
  | pwrThermalLoop (celsius : Nat)
  | domainAwake (d : Domain)
  | domainWakeTimeout (d : Domain)
  | faultAutoReset (o : StartupOutcome)
  | domainIdle (d : Domain)
  | powerBrakeAssert
  | powerBrakeRelease
  | thermalTrip (celsius : Nat)
  | thermalTripClear (celsius : Nat)
  | thermalShutdown (celsius : Nat)
  -- start-up, resets, PCIe, sideband
  | powerGood (o : StartupOutcome)
  | powerGoodLoss
  | romRailRecheck (railsOk : Bool)
  | railOutOfTolerance (rail : Fin 19)
  | startupReady
  | perstAssert (o : StartupOutcome)
  | perstRelease
  | wakeN (o : StartupOutcome)
  | functionLevelReset (fn : Fn)
  | ideCheckFail (fn : Fn)
  | tdispLeaveRun (fn : Fn)
  | hostCompletionTimeout (acc : Nat)
  | pcieLinkChange (rate : BitVec 3) (width : BitVec 5) (flit : Bool)
  | i3cDaa (addr : BitVec 7)
  | mctpControl (request : Bytes)
  | pldmRequest (type command : U8) (arg : Bytes)
  | sensorUpdate (id : Nat) (value : Int)
  | hostReadCompletion (acc : Nat) (blocks : List HostBlock) (fw : Option FwImage)
  | hbmWriteAnswer (acc : Nat) (v : Arrival)
  | flashWriteDone (acc : Nat) (okWrite : Bool)
  | bootFlashWriteDone (readBack : Bytes) (o : StartupOutcome)
  | partitionResetDone (p : Part)
  | runGroupWaitLimit (r : Nat)
  | ringWindowWrite (fn : Fn) (off : U64) (data : Bytes)
  | pcieConfigRequest (fn : Fn) (c : CfgReq)
  | partitionCoreWfi (core : Fin 32) (enter : Bool)
  | cipherUnitFail (unit : Nat)
  deriving DecidableEq, Repr

end Sys2Proof
end

