-- ==== Sys2Proof/Decode.lean ====
section
/-! DEFINITION. Commands from words. The manual's table of commands gives no row an encoding, so no
word spells a command. Submission entries and stage-program words are decoded by the commands that
fetch them (Sys2Proof/Machine/Entries.lean and Sys2Proof/Machine/Words.lean). -/

namespace Sys2Proof

/-- The command a table word spells: none, for the table gives no bits (log entry 4, DESIGN CHOICE). -/
def decodeTableWord (_nbits _w : Nat) : Option Instr := none

end Sys2Proof
end

