-- ==== Sys2Proof/Machine/Bits.lean ====
section
/-! DEFINITION. Byte order, bit fields, and the canonical finite maps that hold sparse state: sorted
association lists (`Tbl`) and memories whose unlisted cells are zero (`Mem`). -/

namespace Sys2Proof.Machine

/-! ### Finite maps with strictly rising keys -/

/-- A finite map: entries with strictly rising keys. -/
abbrev Tbl (α : Type) := List (Nat × α)

/-- Look a key up. -/
def Tbl.get {α : Type} : Tbl α → Nat → Option α
  | [], _ => none
  | (k, v) :: r, i => if k = i then some v else Tbl.get r i

/-- Set a key, keeping the keys rising. -/
def Tbl.set {α : Type} : Tbl α → Nat → α → Tbl α
  | [], i, a => [(i, a)]
  | (k, v) :: r, i, a =>
    if i < k then (i, a) :: (k, v) :: r
    else if i = k then (i, a) :: r
    else (k, v) :: Tbl.set r i a

/-- Remove a key. -/
def Tbl.erase {α : Type} : Tbl α → Nat → Tbl α
  | [], _ => []
  | (k, v) :: r, i => if k = i then r else (k, v) :: Tbl.erase r i

/-- Look a key up, with a default for absent keys. -/
def Tbl.getD {α : Type} (t : Tbl α) (i : Nat) (d : α) : α := (t.get i).getD d

/-- Whether a key is present. -/
def Tbl.has {α : Type} (t : Tbl α) (i : Nat) : Bool := (t.get i).isSome

/-- Change the entry at a key, where there is one. -/
def Tbl.modify {α : Type} (t : Tbl α) (i : Nat) (f : α → α) : Tbl α :=
  match t.get i with
  | some a => t.set i (f a)
  | none => t

/-- The lowest key below `n`, from `i` on, that the map does not hold. -/
def Tbl.lowestFree {α : Type} (t : Tbl α) : (fuel i : Nat) → Nat
  | 0, i => i
  | k + 1, i => if t.has i then Tbl.lowestFree t k (i + 1) else i

/-- The free key a command picks where it may pick any: `pick` when it is free and below `n`,
otherwise the lowest free one; none when all are taken (log entry 5, DESIGN CHOICE). -/
def Tbl.pickFree {α : Type} (t : Tbl α) (n pick : Nat) : Option Nat :=
  if pick < n && !t.has pick then some pick
  else
    let i := t.lowestFree n 0
    if i < n then some i else none

/-- A free key, where any number serves: `pick` when it is free, otherwise the lowest free one.
Log entry 5, DESIGN CHOICE. -/
def Tbl.pickAny {α : Type} (t : Tbl α) (pick : Nat) : Nat :=
  if t.has pick then t.lowestFree (t.length + 1) 0 else pick

/-- Keys strictly rising from a bound. -/
def Tbl.risingFrom {α : Type} : Nat → Tbl α → Bool
  | _, [] => true
  | b, (k, _) :: r => b ≤ k && Tbl.risingFrom (k + 1) r

/-- The canonical form of a finite map. -/
def Tbl.wf {α : Type} (t : Tbl α) : Bool := Tbl.risingFrom 0 t

/-! ### Memories -/

/-- Memory: address and byte pairs, addresses strictly rising, no zero byte listed. An unlisted
address reads zero (log entry 2, DESIGN CHOICE; R239 gives zero for a wiped page). -/
abbrev Mem := List Host.Cell

/-- Read one byte.
Log entry 2, DESIGN CHOICE. -/
def Mem.read : Mem → Nat → U8
  | [], _ => 0
  | (k, v) :: r, a => if k = a then v else Mem.read r a

/-- Write one byte, keeping the canonical form.
Log entry 2, DESIGN CHOICE. -/
def Mem.write : Mem → Nat → U8 → Mem
  | [], a, b => if b = 0 then [] else [(a, b)]
  | (k, v) :: r, a, b =>
    if a < k then (if b = 0 then (k, v) :: r else (a, b) :: (k, v) :: r)
    else if a = k then (if b = 0 then r else (a, b) :: r)
    else (k, v) :: Mem.write r a b

/-- Write bytes at rising addresses. -/
def Mem.writes (m : Mem) : Nat → Bytes → Mem
  | _, [] => m
  | a, b :: r => Mem.writes (m.write a b) (a + 1) r

/-- Read `n` bytes from an address. -/
def Mem.reads (m : Mem) (a n : Nat) : Bytes := (List.range n).map (fun i => m.read (a + i))

/-- Clear the bytes of `[a, a + n)`. -/
def Mem.clear (m : Mem) (a n : Nat) : Mem := m.filter (fun c => c.1 < a || a + n ≤ c.1)

/-- Addresses strictly rising from a bound, no zero byte. -/
def Mem.canonFrom : Nat → Mem → Bool
  | _, [] => true
  | b, (k, v) :: r => b ≤ k && v != 0 && Mem.canonFrom (k + 1) r

/-- The canonical form of memory. -/
def Mem.wf (m : Mem) : Bool := Mem.canonFrom 0 m

/-! ### Little-endian fields (R10) -/

/-- A byte string as a number, byte 0 least significant. -/
def leNat : Bytes → Nat
  | [] => 0
  | b :: r => b.toNat + 256 * leNat r

/-- The low `n` bytes of a number, byte 0 first. -/
def leBytes : Nat → Nat → Bytes
  | 0, _ => []
  | k + 1, v => BitVec.ofNat 8 v :: leBytes k (v / 256)

/-- The number at `[off, off + n)` of a byte string; missing bytes are zero. -/
def fieldLE (bs : Bytes) (off n : Nat) : Nat := leNat ((bs.drop off).take n)

/-- `n` zero bytes. -/
def zeros (n : Nat) : Bytes := List.replicate n 0

/-- Whether every byte of `[off, off + n)` is zero: a reserved field (R11). -/
def reservedZero (bs : Bytes) (off n : Nat) : Bool := fieldLE bs off n == 0

/-- Cut or pad a byte string with zeros to `n` bytes. -/
def padTo (n : Nat) (bs : Bytes) : Bytes := (bs ++ zeros (n - bs.length)).take n

/-- Bits `[lo, lo + w)` of a number. -/
def bitsOf (v lo w : Nat) : Nat := v / 2 ^ lo % 2 ^ w

/-- One bit of a number. -/
def bitOf (v i : Nat) : Bool := v / 2 ^ i % 2 == 1

/-- A truth value as a bit. -/
def b2n (b : Bool) : Nat := if b then 1 else 0

/-- Round up to a multiple. -/
def ceilDiv (a b : Nat) : Nat := (a + b - 1) / b

/-- Replace element `i` of a list. -/
def lset {α : Type} : List α → Nat → α → List α
  | [], _, _ => []
  | _ :: r, 0, a => a :: r
  | x :: r, i + 1, a => x :: lset r i a

/-- Element `i` of a list of numbers; zero past the end. -/
def nth0 (l : List Nat) (i : Nat) : Nat := l.getD i 0

end Sys2Proof.Machine
end

