-- ==== Sys2Proof/Machine/Crypto.lean ====
section
/-! DEFINITION. The symmetric functions of the standards that the manual names: AES-256 (FIPS 197), AES-256-GCM (SP 800-38D), AES-KW (SP 800-38F)
and KMAC256 (SP 800-185). The manual cites them without defining them (R158, R266, R267, R335, R454 to R468, R482); log entry 9, PRESUMED. -/

namespace Sys2Proof.Machine

/-! ### AES-256 (FIPS 197): a block and a key as bytes, the first byte first -/

/-- The S-box, 32 entries a number, the first in its low byte. -/
def sboxRows : List Nat := [
  0xC072A49CAFA2D4ADF04759FA7DC982CA76ABD7FE2B670130C56F6BF27B777C63,
  0x75B227EBE28012079A059618C323C7041531D871F1E5A534CCF73F362693FDB7,
  0xCF584C4A39BECB6A5BB1FC20ED00D153842FE329B3D63B52A05A6E1B1A2C8309,
  0xD2F3FF1021DAB6BCF5389D928F40A351A89F3C507F02F94585334D43FBAAEFD0,
  0xDB0B5EDE14B8EE4688902A22DC4F816073195D643D7EA7C41744975FEC130CCD,
  0x08AE7A65EAF4566CA94ED58D6D37C8E779E4959162ACD3C25C2406490A3A32E0,
  0x9E1DC186B95735610EF6034866B53E708A8BBD4B1F74DDE8C6B4A61C2E2578BA,
  0x16BB54B00F2D99416842E6BF0D89A18CDF2855CEE9871E9B948ED9691198F8E1]

/-- Its inverse. -/
def invSboxRows : List Nat := [
  0xCBE9DEC444438E3487FF2F9B8239E37CFBD7F3819EA340BF38A53630D56A0952,
  0x25D18B6D49A25B76B224D92866A12E084EC3FA420B954CEE3D23C2A632947B54,
  0x849D8DA75746155EDAB9EDFD5048706C92B6655DCC5CA4D41698688664F6F872,
  0x6B8A130103BDAFC1020F3FCA8F1E2CD00645B3B80558E4F70AD3BC8C00ABD890,
  0x6EDF751CE837F9E28535ADE72274AC9673E6B4F0CECFF297EADC674F4111913A,
  0xF45ACD78FEC0DB9A2079D2C64B3E56FC1BBE18AA0E62B76F89C5291D711AF147,
  0xEF9CC9939F7AE52D0D4AB519A97F51605FEC8027591012B131C7078833A8DD1F,
  0x7D0C2155631469E126D677BA7E042B17619953833CBBEBC8B0F52AAE4D3BE0A0]

def boxAt (rows : List Nat) (x : Nat) : Nat := bitsOf (nth0 rows (x / 32)) (8 * (x % 32)) 8

/-- Multiplication by 2 in the field of AES, and by the constants of the columns' mixing. -/
def xtime (a : Nat) : Nat := if a < 128 then 2 * a else (2 * a).xor 0x11B
def aesTimes (n a : Nat) : Nat :=
  let b := xtime a
  let c := xtime b
  let d := xtime c
  match n with
  | 2 => b
  | 3 => b.xor a
  | 9 => d.xor a
  | 11 => (d.xor b).xor a
  | 13 => (d.xor c).xor a
  | 14 => (d.xor c).xor b
  | _ => a

def xorNats (a b : List Nat) : List Nat := List.zipWith Nat.xor a b

/-- One column times the circulant matrix whose first row is given. -/
def mixColumn (m c : List Nat) : List Nat :=
  (List.range 4).map (fun r => (List.range 4).foldl (fun (a : Nat) i => a.xor (aesTimes (nth0 m ((i + 4 - r) % 4)) (nth0 c i))) 0)

def mixColumns (m s : List Nat) : List Nat := (List.range 4).flatMap (fun c => mixColumn m ((s.drop (4 * c)).take 4))

/-- Substitution and the shift of the rows, forwards and back. -/
def subShift (s : List Nat) : List Nat := (List.range 16).map (fun i => boxAt sboxRows (nth0 s ((i + 4 * (i % 4)) % 16)))
def invSubShift (s : List Nat) : List Nat := (List.range 16).map (fun i => boxAt invSboxRows (nth0 s ((i + 16 - 4 * (i % 4)) % 16)))

/-- The key schedule: words of four bytes, each from the one before and the one eight back. -/
def expandKey : (n i rc : Nat) → (ws : List (List Nat)) → List (List Nat)
  | 0, _, _, ws => ws
  | n + 1, i, rc, ws =>
    let prev := ws.getLastD []
    let t :=
      if i % 8 = 0 then xorNats ((prev.drop 1 ++ prev.take 1).map (boxAt sboxRows)) [rc, 0, 0, 0]
      else if i % 8 = 4 then prev.map (boxAt sboxRows)
      else prev
    expandKey n (i + 1) (if i % 8 = 0 then xtime rc else rc) (ws ++ [xorNats (ws.getD (i - 8) []) t])

/-- The fifteen round keys. -/
def roundKeys (key : List Nat) : List (List Nat) :=
  let ws := expandKey 52 8 1 ((List.range 8).map (fun i => (key.drop (4 * i)).take 4))
  (List.range 15).map (fun r => ((ws.drop (4 * r)).take 4).flatten)

def aesRounds : (ks : List (List Nat)) → (s : List Nat) → List Nat
  | [], s => s
  | [k], s => xorNats (subShift s) k
  | k :: r, s => aesRounds r (xorNats (mixColumns [2, 3, 1, 1] (subShift s)) k)

def aesInvRounds : (ks : List (List Nat)) → (s : List Nat) → List Nat
  | [], s => s
  | [k], s => xorNats (invSubShift s) k
  | k :: r, s => aesInvRounds r (mixColumns [14, 11, 13, 9] (xorNats (invSubShift s) k))

/-- The cipher and its inverse on a block. -/
def aesWith (ks : List (List Nat)) (b : List Nat) : List Nat :=
  match ks with
  | k :: r => aesRounds r (xorNats b k)
  | [] => b
def aesBlock (key b : List Nat) : List Nat := aesWith (roundKeys key) b
def aesInvWith (ks : List (List Nat)) (b : List Nat) : List Nat :=
  match ks with
  | k :: r => aesInvRounds r (xorNats b k)
  | [] => b
def aesInvBlock (key b : List Nat) : List Nat := aesInvWith (roundKeys key).reverse b

/-! ### Blocks and keys as numbers -/

def natsOf (b : Bytes) : List Nat := b.map BitVec.toNat
def bytesOf (l : List Nat) : Bytes := l.map (fun x => BitVec.ofNat 8 x)
/-- A key's bytes, the low byte of its number first (R10). -/
def keyBytes (key : U256) : List Nat := natsOf (leBytes 32 key.toNat)

/-- A block whose byte 0 holds bits 127 to 120 (R265). -/
def blockBytesBE (d : U128) : Bytes := (leBytes 16 d.toNat).reverse
def blockOfBytes (b : Bytes) : U128 := BitVec.ofNat 128 (leNat b.reverse)

/-- AES-256 encryption of one block.
Log entry 9, PRESUMED. -/
def aes256 (key : U256) (d : U128) : U128 := blockOfBytes (bytesOf (aesBlock (keyBytes key) (natsOf (blockBytesBE d))))

/-! ### GHASH and GCM (SP 800-38D) -/

def xorBytes (a b : Bytes) : Bytes := List.zipWith (fun (x y : U8) => x ^^^ y) a b

/-- A product in the field of GHASH (SP 800-38D, 6.3): bit 127 is the coefficient of the constant. -/
def gfMulGo (x : U128) : (n : Nat) → (z v : U128) → U128
  | 0, z, _ => z
  | n + 1, z, v =>
    gfMulGo x n (if x.getLsbD n then z ^^^ v else z) (if v.getLsbD 0 then (v >>> 1) ^^^ (0xE1 <<< 120) else v >>> 1)
def gfMul (x y : U128) : U128 := gfMulGo x 128 0 y

/-- GHASH over whole blocks. -/
def ghash (h : U128) : (n : Nat) → Bytes → U128 → U128
  | 0, _, y => y
  | n + 1, b, y => ghash h n (b.drop 16) (gfMul (y ^^^ blockOfBytes (b.take 16)) h)

/-- Counter block `i` after the one that a 96-bit nonce starts from. -/
def gcmBlock (nonce : Bytes) (i : Nat) : U128 := blockOfBytes (padTo 12 nonce ++ (leBytes 4 (i + 1)).reverse)

/-- The first `n` bytes of the keystream.
Log entry 9, PRESUMED. -/
def gcmStream (key : U256) (nonce : Bytes) (n : Nat) : Bytes :=
  ((List.range (ceilDiv n 16)).flatMap (fun i => blockBytesBE (aes256 key (gcmBlock nonce (i + 1))))).take n

/-- Encryption, which is its own inverse. -/
def gcmCrypt (key : U256) (nonce text : Bytes) : Bytes := xorBytes text (gcmStream key nonce text.length)

def padBlock (b : Bytes) : Bytes := padTo (16 * ceilDiv b.length 16) b

/-- The tag over associated data and the ciphertext of a plaintext; its first byte is the low byte of the number.
Log entry 9, PRESUMED. -/
def gcmTag (key : U256) (nonce aad text : Bytes) : U128 :=
  let a := padBlock aad ++ padBlock (gcmCrypt key nonce text) ++ (leBytes 8 (8 * aad.length)).reverse ++ (leBytes 8 (8 * text.length)).reverse
  BitVec.ofNat 128 (leNat (blockBytesBE (ghash (aes256 key 0) (a.length / 16) a 0 ^^^ aes256 key (gcmBlock nonce 0))))

/-! ### AES-KW (SP 800-38F) -/

/-- One step of the unwrapping: the register and the semiblocks, of which the last is the one at hand. -/
def kwStep (ks : List (List Nat)) (t : Nat) (a : List Nat) (r : List (List Nat)) : List Nat × List (List Nat) :=
  let b := aesInvWith ks (xorNats a (natsOf (leBytes 8 t).reverse) ++ r.getLastD [])
  (b.take 8, b.drop 8 :: r.dropLast)

def kwUnwrapGo (ks : List (List Nat)) : (t : Nat) → (a : List Nat) → (r : List (List Nat)) → List Nat × List (List Nat)
  | 0, a, r => (a, r)
  | t + 1, a, r => let (a, r) := kwStep ks (t + 1) a r; kwUnwrapGo ks t a r

def kwWrapGo (ks : List (List Nat)) : (n : Nat) → (a : List Nat) → (r : List (List Nat)) → List Nat × List (List Nat)
  | 0, a, r => (a, r)
  | n + 1, a, r =>
    let b := aesWith ks (a ++ r.headD [])
    kwWrapGo ks n (xorNats (b.take 8) (natsOf (leBytes 8 (24 - n)).reverse)) (r.tail ++ [b.drop 8])

/-- A 256-bit key wrapped into 40 bytes.
Log entry 9, PRESUMED. -/
def aesKwWrap (kek key : U256) : Bytes :=
  let (a, r) := kwWrapGo (roundKeys (keyBytes kek)) 24 (List.replicate 8 0xA6) ((List.range 4).map (fun i => ((keyBytes key).drop (8 * i)).take 8))
  bytesOf (a ++ r.flatten)

/-- The 256-bit key in a 40-byte field; none when the integrity check fails.
Log entry 9, PRESUMED. -/
def aesKwUnwrap (kek : U256) (wrapped : Bytes) : Option U256 :=
  let w := natsOf wrapped
  let (a, r) := kwUnwrapGo (roundKeys (keyBytes kek)).reverse 24 (w.take 8) ((List.range 4).map (fun i => (w.drop (8 + 8 * i)).take 8))
  if w.length = 40 ∧ a = List.replicate 8 0xA6 then some (BitVec.ofNat 256 (leNat (bytesOf r.flatten))) else none

/-! ### KMAC256 (SP 800-185) over Keccak (FIPS 202) -/

/-- The register of eight bits behind the round constants, one step on (FIPS 202, algorithm 5). -/
def rcStep (r : Nat) : Nat := if bitOf r 7 then (2 * r).xor 0x171 else 2 * r

/-- The register `n` steps on. -/
def rcAfter : (n r : Nat) → Nat
  | 0, r => r
  | n + 1, r => rcAfter n (rcStep r)

/-- The constant of a round that begins with a register: its output at step `j` is the bit 2^j - 1 of the lane. -/
def rcLane (r : Nat) : Nat := ((List.range 7).map (fun j => rcAfter j r % 2 * 2 ^ (2 ^ j - 1))).sum

/-- The constants of `n` rounds, seven steps of the register apart. -/
def rcLanes : (n r : Nat) → List Nat
  | 0, _ => []
  | n + 1, r => rcLane r :: rcLanes n (rcAfter 7 r)

/-- Lanes by column and row: the walk that gives every lane but the first its rotation (FIPS 202, algorithm 2), from step `t` on. -/
def rhoWalk : (n t x y : Nat) → Tbl Nat
  | 0, _, _, _ => []
  | n + 1, t, x, y => (rhoWalk n (t + 1) y ((2 * x + 3 * y) % 5)).set (5 * y + x) ((t + 1) * (t + 2) / 2 % 64)

/-- The rotation of each lane. -/
def rhoTable : Tbl Nat := rhoWalk 24 0 1 0

def turnLane (v n : Nat) : Nat := v % 2 ^ (64 - n) * 2 ^ n + v / 2 ^ (64 - n)

/-- The lane of a column and a row, both taken modulo five. -/
def laneAt (a : List Nat) (x y : Nat) : Nat := nth0 a (5 * (y % 5) + x % 5)

/-- A state whose lanes a function gives. -/
def byLane (f : Nat → Nat → Nat) : List Nat := (List.range 5).flatMap (fun y => (List.range 5).map (fun x => f x y))

/-- The sum of a column. -/
def parityOf (a : List Nat) (x : Nat) : Nat := ((List.range 5).map (laneAt a x)).foldl Nat.xor 0

def thetaStep (a : List Nat) : List Nat :=
  let d := (List.range 5).map (fun x => (parityOf a (x + 4)).xor (turnLane (parityOf a (x + 1)) 1))
  byLane (fun x y => (laneAt a x y).xor (nth0 d x))

/-- Each lane turned, and moved: the lane that comes to a place stood in the column x + 3y and the row x. -/
def rhoPiStep (a : List Nat) : List Nat := byLane (fun x y => turnLane (laneAt a (x + 3 * y) x) (rhoTable.getD (5 * x + (x + 3 * y) % 5) 0))

def chiStep (a : List Nat) : List Nat := byLane (fun x y => (laneAt a x y).xor ((laneAt a (x + 2) y).xor ((laneAt a (x + 1) y).land (laneAt a (x + 2) y))))

/-- One round. -/
def keccakRound (a : List Nat) (rc : Nat) : List Nat :=
  match chiStep (rhoPiStep (thetaStep a)) with
  | v :: r => v.xor rc :: r
  | [] => []

def keccakF (a : List Nat) : List Nat := (rcLanes 24 1).foldl keccakRound a

/-- Absorb whole blocks of 136 bytes. -/
def keccakAbsorb : (n : Nat) → Bytes → (a : List Nat) → List Nat
  | 0, _, a => a
  | n + 1, b, a => keccakAbsorb n (b.drop 136) (keccakF (a.mapIdx (fun i v => if i < 17 then v.xor (fieldLE b (8 * i) 8) else v)))

/-- A number's bytes, the high one first and none of them a leading zero, with their count before or after. -/
def lenBytes (n : Nat) : Bytes := (leBytes (max 1 (ceilDiv (n.log2 + 1) 8)) n).reverse
def leftEncode (n : Nat) : Bytes := leBytes 1 (lenBytes n).length ++ lenBytes n
def rightEncode (n : Nat) : Bytes := lenBytes n ++ leBytes 1 (lenBytes n).length
def encodeString (b : Bytes) : Bytes := leftEncode (8 * b.length) ++ b
def bytePad (b : Bytes) : Bytes := let p := leftEncode 136 ++ b; padTo (136 * ceilDiv p.length 136) p

def asciiBytes (s : String) : Bytes := s.toList.map (fun c => BitVec.ofNat 8 c.toNat)

/-- KMAC256 of a key and a message, with output length in bits (at most 256) and customisation string; the first output byte is the low byte of the number.
Log entry 9, PRESUMED. -/
def kmac256 (key x : Bytes) (l : Nat) (s : String) : U256 :=
  let m := bytePad (encodeString (asciiBytes "KMAC") ++ encodeString (asciiBytes s)) ++ bytePad (encodeString key) ++ x ++ rightEncode l ++ [4]
  let m := padTo (136 * ceilDiv m.length 136) m
  let m := m.dropLast ++ [m.getLastD 0 ||| 0x80]
  let a := keccakAbsorb (m.length / 136) m (List.replicate 25 0)
  BitVec.ofNat 256 (leNat ((a.flatMap (leBytes 8)).take (l / 8)))

/-- The low `l` bits of a KMAC256 output as bytes. -/
def kmacBytes (key x : Bytes) (l : Nat) (name : String) : Bytes := leBytes (l / 8) (kmac256 key x l name).toNat

end Sys2Proof.Machine
end

