-- ==== Sys2Proof/Machine/Fp.lean ====
section
/-! DEFINITION. Numbers: the formats of R29 to R53, rounding by R54 and R55, conversion by R62 to R67,
and IEEE arithmetic on exact values (R30, R113). A magnitude is an exact dyadic number, with a mark for a
result that lies strictly above it by less than any rounding boundary (quotients, roots, transcendentals). -/

namespace Sys2Proof.Machine

/-! ### Flags (R68) -/

/-- The flag word of STAGE_FLAGS: satur 6, nanzero 5, inexact 4, underflow 3, overflow 2, divzero 1,
invalid 0. -/
abbrev Flags := BitVec 7

def flInvalid : Flags := 1
def flDivzero : Flags := 2
def flOverflow : Flags := 4
def flUnderflow : Flags := 8
def flInexact : Flags := 16
def flNanzero : Flags := 32
def flSatur : Flags := 64

/-- A flag where a condition holds. -/
def flIf (b : Bool) (f : Flags) : Flags := if b then f else 0

/-! ### Formats -/

/-- The formats the T7 holds (R29), with P20 (R49). -/
inductive Fmt
  | f32 | f16 | w16 | e4 | e5 | f6 | f4 | i8 | i4 | f64 | x48 | p20
  deriving DecidableEq, Repr

/-- The format of a code of R29; none for a reserved code. -/
def Fmt.ofCode : Nat → Option Fmt
  | 0 => some .f32
  | 1 => some .f16
  | 2 => some .w16
  | 3 => some .e4
  | 4 => some .e5
  | 5 => some .f6
  | 6 => some .f4
  | 7 => some .i8
  | 8 => some .i4
  | 9 => some .f64
  | 10 => some .x48
  | _ => none

/-- How a format's codes read: fraction bits, exponent bits, exponent of the smallest normal number,
largest finite magnitude code, whether it has infinities, whether it is an integer format. For an
integer format the fraction field is the whole magnitude, at unit 1. -/
structure Shape where
  frac : Nat
  ebits : Nat
  emin : Int
  maxCode : Nat
  hasInf : Bool
  isInt : Bool
  width : Nat

def Fmt.shape : Fmt → Shape
  | .f64 => ⟨52, 11, -1022, 0x7FEFFFFFFFFFFFFF, true, false, 64⟩
  | .f32 => ⟨23, 8, -126, 0x7F7FFFFF, true, false, 32⟩
  | .f16 => ⟨10, 5, -14, 0x7BFF, true, false, 16⟩
  | .w16 => ⟨7, 8, -126, 0x7F7F, true, false, 16⟩
  | .e4 => ⟨3, 4, -6, 0x7E, false, false, 8⟩
  | .e5 => ⟨2, 5, -14, 0x7B, true, false, 8⟩
  | .f6 => ⟨2, 3, -2, 0x1F, false, false, 6⟩
  | .f4 => ⟨1, 2, 0, 0x7, false, false, 4⟩
  | .i8 => ⟨6, 1, 6, 127, false, true, 8⟩
  | .i4 => ⟨2, 1, 2, 7, false, true, 4⟩
  | .x48 => ⟨39, 8, -126, 0x7F7FFFFFFFFF, true, false, 48⟩
  | .p20 => ⟨11, 8, -126, 0x7F7FF, true, false, 20⟩

/-- Storage width in bits. -/
def Fmt.width (f : Fmt) : Nat := f.shape.width

/-- Whether tensors in the format are block-scaled (R40). -/
def Fmt.blockScaled : Fmt → Bool
  | .e4 | .e5 | .f6 | .f4 | .i8 | .i4 => true
  | _ => false

/-- The IEEE-like float formats of the VXU (R112 "Float"). -/
def Fmt.isFloat : Fmt → Bool
  | .f64 | .f32 | .f16 | .w16 => true
  | _ => false

/-- "Short float" (R112). -/
def Fmt.isShort : Fmt → Bool
  | .f32 | .f16 | .w16 => true
  | _ => false

def Fmt.is16 : Fmt → Bool
  | .f16 | .w16 => true
  | _ => false

def Fmt.isIntFmt (f : Fmt) : Bool := f.shape.isInt

/-! ### Values -/

/-- The magnitude `m · 2^k`, and strictly above it by less than `2^k` when `st`. -/
structure Mag where
  m : Nat
  k : Int
  st : Bool
  deriving DecidableEq, Repr

/-- A decoded value. A NaN carries its sign, whether it is quiet, and the payload below the quiet bit,
left-aligned in 51 bits (R66). -/
inductive FV
  | nan (neg quiet : Bool) (payload : Nat)
  | inf (neg : Bool)
  | fin (neg : Bool) (x : Mag)
  deriving DecidableEq, Repr

def Mag.zero : Mag := ⟨0, 0, false⟩
def Mag.isZero (x : Mag) : Bool := x.m == 0 && !x.st
def FV.zero (neg : Bool) : FV := .fin neg Mag.zero
def FV.one : FV := .fin false ⟨1, 0, false⟩
/-- The default NaN (R31): quiet, sign 0, no payload. -/
def FV.dnan : FV := .nan false true 0
def FV.isNan : FV → Bool
  | .nan .. => true
  | _ => false
def FV.isSig : FV → Bool
  | .nan _ q _ => !q
  | _ => false
def FV.isInf : FV → Bool
  | .inf _ => true
  | _ => false
def FV.isZero : FV → Bool
  | .fin _ x => x.isZero
  | _ => false
def FV.isFin : FV → Bool
  | .fin .. => true
  | _ => false
def FV.neg? : FV → Bool
  | .nan n _ _ => n
  | .inf n => n
  | .fin n _ => n
def FV.negate : FV → FV
  | .nan n q p => .nan n q p
  | .inf n => .inf !n
  | .fin n x => .fin (!n) x
def FV.quieten : FV → FV
  | .nan n _ p => .nan n true p
  | v => v
def FV.mag : FV → Mag
  | .fin _ x => x
  | _ => Mag.zero

/-- Shift a natural number left by an integer amount, dropping bits on a right shift. -/
def shlI (m : Nat) (d : Int) : Nat := if d < 0 then m >>> d.natAbs else m <<< d.natAbs

/-- The numerators of two exact magnitudes over a common power of two. -/
def Mag.align (a b : Mag) : Nat × Nat × Int :=
  let k := min a.k b.k
  (a.m <<< (a.k - k).toNat, b.m <<< (b.k - k).toNat, k)

/-- Compare two exact magnitudes. -/
def Mag.le (a b : Mag) : Bool := let (x, y, _) := Mag.align a b; x ≤ y
def Mag.lt (a b : Mag) : Bool := !Mag.le b a
def Mag.mul (a b : Mag) : Mag := ⟨a.m * b.m, a.k + b.k, false⟩
def Mag.max (a b : Mag) : Mag := if Mag.le a b then b else a

/-- A quotient of exact magnitudes to at least 100 bits; `b` not zero. -/
def Mag.div (a b : Mag) : Mag :=
  if a.m = 0 then Mag.zero
  else
    let t := 100 + Nat.log2 b.m - Nat.log2 a.m
    let n := a.m <<< t
    ⟨n / b.m, a.k - b.k - t, n % b.m != 0⟩

/-- Integer square root by binary digits. -/
def isqrtGo (n : Nat) : (bits r : Nat) → Nat
  | 0, r => r
  | i + 1, r =>
    let c := r + 2 ^ i
    isqrtGo n i (if c * c ≤ n then c else r)

def isqrt (n : Nat) : Nat := isqrtGo n (Nat.log2 n / 2 + 1) 0

/-- A square root of an exact magnitude to at least 100 bits. -/
def Mag.sqrt (a : Mag) : Mag :=
  if a.m = 0 then Mag.zero
  else
    let t := 200 + (if (a.k % 2 = 0) then 0 else 1)
    let n := a.m <<< t
    let r := isqrt n
    ⟨r, (a.k - t) / 2, r * r != n⟩

/-! ### Rounding (R54, R55) -/

inductive Rnd
  | rne | rna | rtz | rup | rdn
  | sr (bits : Nat)
  deriving DecidableEq, Repr

/-- The rounding of a rounding field and an SR width field; none when either is reserved or an SR
width stands beside another mode (R54). -/
def Rnd.ofFields (rnd srw : Nat) : Option Rnd :=
  if rnd = 5 then
    (match srw with
     | 0 => some (.sr 12)
     | 1 => some (.sr 8)
     | 2 => some (.sr 16)
     | _ => none)
  else if srw ≠ 0 then none
  else
    match rnd with
    | 0 => some .rne
    | 1 => some .rna
    | 2 => some .rtz
    | 3 => some .rup
    | 4 => some .rdn
    | _ => none

/-- Random bits per element (R60): none outside SR. -/
def Rnd.bits : Rnd → Nat
  | .sr n => n
  | _ => 0

def Rnd.isSr : Rnd → Bool
  | .sr _ => true
  | _ => false

/-- Round a magnitude to a multiple of `2^u`: the multiple, and whether it is inexact. `r` is the draw
of an SR rounding. -/
def roundAt (rm : Rnd) (r : Nat) (neg : Bool) (x : Mag) (u : Int) : Nat × Bool :=
  let d := u - x.k
  let pad := (24 - d).toNat
  let m := x.m <<< pad
  let d := (d + pad).toNat
  let q := m >>> d
  let rem := m % 2 ^ d
  let half := 2 ^ (d - 1)
  let inexact := rem != 0 || x.st
  let up := match rm with
    | .rne => decide (half < rem) || (rem == half && (x.st || q % 2 == 1))
    | .rna => decide (half ≤ rem)
    | .rtz => false
    | .rup => inexact && !neg
    | .rdn => inexact && neg
    | .sr n => decide (r < (rem <<< n) >>> d)
  (if up then q + 1 else q, inexact)

/-- Whether an overflow goes to the infinity, in a format that has one (R64). -/
def overflowsToInf (rm : Rnd) (neg : Bool) : Bool :=
  match rm with
  | .rne | .rna | .sr _ => true
  | .rtz => false
  | .rup => !neg
  | .rdn => neg

/-- The code of a sign and a magnitude code. An integer format is two's complement (R38, R39). -/
def Shape.signed (s : Shape) (neg : Bool) (mag : Nat) : Nat :=
  if s.isInt then (if neg && mag != 0 then 2 ^ s.width - mag else mag)
  else mag + (if neg then 2 ^ (s.width - 1) else 0)

/-- The magnitude code of infinity. -/
def Shape.infCode (s : Shape) : Nat := s.maxCode + 1

/-- Round a finite value into a format (R63, R64): its code and flags. Underflow is judged after
rounding, at an unbounded exponent range (log entry 20, DEDUCED); no result in I8 or I4, which have no exponents, is tiny.
Log entry 199, DESIGN CHOICE. -/
def roundFin (s : Shape) (rm : Rnd) (r : Nat) (neg : Bool) (x : Mag) : Nat × Flags :=
  if x.isZero then (s.signed neg 0, 0)
  else
    let l : Int := (Nat.log2 x.m : Int) + x.k
    let e := max l s.emin
    let (n, inexact) := roundAt rm r neg x (e - s.frac)
    let code := (e - s.emin).toNat * 2 ^ s.frac + n
    if s.maxCode < code then
      if s.hasInf then
        (s.signed neg (if overflowsToInf rm neg then s.infCode else s.maxCode), flOverflow ||| flInexact)
      else (s.signed neg s.maxCode, flOverflow ||| flInexact ||| flSatur)
    else
      let tiny := decide (l < s.emin) && !s.isInt &&
        !(l == s.emin - 1 && (roundAt rm r neg x (l - s.frac)).1 == 2 ^ (s.frac + 1))
      (s.signed neg code, flIf inexact flInexact ||| flIf (inexact && tiny) flUnderflow)

/-- The code of a quiet NaN in a format that has NaNs; 0 in one that has none (R65, R66). -/
def nanCode (f : Fmt) (neg : Bool) (payload : Nat) : Nat :=
  let s := f.shape
  match f with
  | .e4 => s.signed neg 0x7F
  | .f6 | .f4 | .i8 | .i4 => 0
  | .p20 => 0x7FC00
  | _ => s.signed neg ((2 ^ s.ebits - 1) * 2 ^ s.frac + 2 ^ (s.frac - 1) + (payload >>> (52 - s.frac)) % 2 ^ (s.frac - 1))

/-- Convert a value into a format (R63 to R67).
Log entry 185, DESIGN CHOICE. -/
def convert (f : Fmt) (rm : Rnd) (r : Nat) (v : FV) : Nat × Flags :=
  let s := f.shape
  match v with
  | .fin neg x => roundFin s rm r neg x
  | .inf neg =>
    if s.hasInf then (s.signed neg s.infCode, 0)
    else (s.signed neg s.maxCode, flInvalid ||| flSatur)
  | .nan neg quiet p =>
    match f with
    | .f6 | .f4 | .i8 | .i4 => (0, flInvalid ||| flNanzero)
    | _ => (nanCode f neg p, flIf (!quiet) flInvalid)

/-! ### Decoding (R30 to R39) -/

/-- The value of a code of an integer format (R38): the spare code decodes as the most negative value. -/
def decodeInt (s : Shape) (c : Nat) : FV :=
  if c < 2 ^ (s.width - 1) then .fin false ⟨c, 0, false⟩
  else .fin true ⟨min (2 ^ s.width - c) s.maxCode, 0, false⟩

/-- The value of a code. For X48 the code is the high word followed by the extension. The F8E4 NaN codes, which R33 gives no payload, stand for a quiet
NaN with payload zero.
Log entry 199, DESIGN CHOICE. -/
def decode (f : Fmt) (code : Nat) : FV :=
  let s := f.shape
  let c := code % 2 ^ s.width
  if s.isInt then decodeInt s c
  else
    let neg := bitOf c (s.width - 1)
    let e := bitsOf c s.frac s.ebits
    let fr := bitsOf c 0 s.frac
    let finite : FV :=
      if e = 0 then .fin neg ⟨fr, s.emin - s.frac, false⟩
      else .fin neg ⟨2 ^ s.frac + fr, s.emin + (e - 1) - s.frac, false⟩
    match f with
    | .e4 => if bitsOf c 0 7 = 0x7F then .nan neg true 0 else finite
    | .f6 | .f4 => finite
    | .x48 =>
      if e = 255 then
        (if bitsOf c 16 23 = 0 then .inf neg
         else .nan neg (bitOf c 38) (bitsOf c 16 22 <<< 29))
      else finite
    | _ =>
      if e = 2 ^ s.ebits - 1 then
        (if fr = 0 then .inf neg
         else .nan neg (bitOf fr (s.frac - 1)) (bitsOf fr 0 (s.frac - 1) <<< (52 - s.frac)))
      else finite

/-! ### Arithmetic on exact values (R113) -/

/-- The first NaN among the operands, quiet, and the invalid flag of a signalling one. -/
def firstNan : List FV → Option FV
  | [] => none
  | v :: r => if v.isNan then some v.quieten else firstNan r

def sigFlag (l : List FV) : Flags := flIf (l.any FV.isSig) flInvalid

/-- Give a NaN operand precedence over a result. -/
def nanFirst (l : List FV) (k : FV × Flags) : FV × Flags :=
  match firstNan l with
  | some n => (n, sigFlag l)
  | none => k

/-- The exact sum of two finite values; a zero sum takes the sign of equal zeros, else `rdn`. -/
def addFin (rdn : Bool) (na : Bool) (a : Mag) (nb : Bool) (b : Mag) : FV :=
  let (x, y, k) := Mag.align a b
  if na = nb then .fin na ⟨x + y, k, false⟩
  else if x = y then .fin rdn Mag.zero
  else if y < x then .fin na ⟨x - y, k, false⟩
  else .fin nb ⟨y - x, k, false⟩

/-- Sum without NaN operands. -/
def addNum (rdn : Bool) : FV → FV → FV × Flags
  | .inf a, .inf b => if a = b then (.inf a, 0) else (FV.dnan, flInvalid)
  | .inf a, _ => (.inf a, 0)
  | _, .inf b => (.inf b, 0)
  | .fin na a, .fin nb b => (addFin rdn na a nb b, 0)
  | a, _ => (a, 0)

def fadd (rdn : Bool) (a b : FV) : FV × Flags := nanFirst [a, b] (addNum rdn a b)

def fsub (rdn : Bool) (a b : FV) : FV × Flags := nanFirst [a, b] (addNum rdn a b.negate)

/-- Product without NaN operands. -/
def mulNum : FV → FV → FV × Flags
  | .inf a, b => if b.isZero then (FV.dnan, flInvalid) else (.inf (a != b.neg?), 0)
  | a, .inf b => if a.isZero then (FV.dnan, flInvalid) else (.inf (a.neg? != b), 0)
  | .fin na a, .fin nb b => (.fin (na != nb) (a.mul b), 0)
  | a, _ => (a, 0)

def fmul (a b : FV) : FV × Flags := nanFirst [a, b] (mulNum a b)

/-- Fused multiply-add with an optional negation of the product and of the addend. A product of an
infinity and a zero is invalid even beside a quiet NaN addend (R113). -/
def ffma (rdn negP negC : Bool) (a b c : FV) : FV × Flags :=
  let bad := (a.isInf && b.isZero) || (a.isZero && b.isInf)
  match firstNan [a, b, c] with
  | some n => (n, sigFlag [a, b, c] ||| flIf bad flInvalid)
  | none =>
    let (p, fl) := mulNum a b
    if p.isNan then (p, fl)
    else
      addNum rdn (if negP then p.negate else p) (if negC then c.negate else c)

def divNum : FV → FV → FV × Flags
  | .inf _, .inf _ => (FV.dnan, flInvalid)
  | .inf a, b => (.inf (a != b.neg?), 0)
  | a, .inf b => (FV.zero (a.neg? != b), 0)
  | .fin na a, .fin nb b =>
    if b.m = 0 then
      (if a.m = 0 then (FV.dnan, flInvalid) else (.inf (na != nb), flDivzero))
    else (.fin (na != nb) (a.div b), 0)
  | a, _ => (a, 0)

def fdiv (a b : FV) : FV × Flags := nanFirst [a, b] (divNum a b)

def fsqrt (a : FV) : FV × Flags :=
  nanFirst [a] <|
    match a with
    | .inf false => (.inf false, 0)
    | .inf true => (FV.dnan, flInvalid)
    | .fin n x => if x.m = 0 then (.fin n x, 0) else if n then (FV.dnan, flInvalid) else (.fin false x.sqrt, 0)
    | v => (v, 0)

/-- Order of two values that are not NaN: -1, 0 or 1. The zeros are equal. -/
def cmpNum (a b : FV) : Int :=
  let sign (v : FV) : Int := if v.neg? then -1 else 1
  let key (v : FV) : Int := if v.isZero then 0 else sign v
  if key a ≠ key b then (if key a < key b then -1 else 1)
  else if key a = 0 then 0
  else
    let c : Int :=
      match a, b with
      | .inf _, .inf _ => 0
      | .inf _, _ => 1
      | _, .inf _ => -1
      | x, y => if Mag.lt x.mag y.mag then -1 else if Mag.lt y.mag x.mag then 1 else 0
    c * key a

/-- IEEE 754-2019 minimum: NaNs propagate and -0 is below +0. -/
def fmin (a b : FV) : FV × Flags :=
  nanFirst [a, b] <|
    if cmpNum a b = 0 then (if a.neg? then (a, 0) else (b, 0))
    else if cmpNum a b < 0 then (a, 0) else (b, 0)

/-- IEEE 754-2019 maximum. -/
def fmax (a b : FV) : FV × Flags :=
  nanFirst [a, b] <|
    if cmpNum a b = 0 then (if a.neg? then (b, 0) else (a, 0))
    else if cmpNum a b < 0 then (b, 0) else (a, 0)

/-- The compares of R112: equal is quiet; less and less-or-equal signal on any NaN (log entry 21, PRESUMED);
unordered is quiet. -/
inductive Cmp
  | eq | lt | le | un
  deriving DecidableEq, Repr

/-- Floating-point comparison: its result and the flags it raises.
Log entry 21, PRESUMED. -/
def fcmp (c : Cmp) (a b : FV) : Bool × Flags :=
  let un := a.isNan || b.isNan
  let sig := sigFlag [a, b]
  match c with
  | .eq => (!un && cmpNum a b == 0, sig)
  | .lt => (!un && cmpNum a b == -1, flIf un flInvalid)
  | .le => (!un && cmpNum a b != 1, flIf un flInvalid)
  | .un => (un, sig)

/-! ### Transcendental functions, to 448 fraction bits (R118) -/

/-- Fraction bits of the fixed-point working values. -/
def fxW : Nat := 448

/-- `2·Σ z^(2i+1)/(2i+1)`: twice the inverse hyperbolic tangent of a fixed-point value. -/
def fxAtanhGo (z2 : Int) : (n : Nat) → (i : Nat) → (p acc : Int) → Int
  | 0, _, _, acc => acc
  | n + 1, i, p, acc => fxAtanhGo z2 n (i + 1) (p * z2 / 2 ^ fxW) (acc + p / (2 * i + 1))

def fxAtanh2 (z : Int) : Int := 2 * fxAtanhGo (z * z / 2 ^ fxW) 150 0 z 0

def fxLn2 : Int := fxAtanh2 (2 ^ fxW / 3)

/-- `Σ (-1)^i / ((2i+1) q^(2i+1))`: the arc tangent of `1/q`. -/
def fxAtanInvGo (q2 : Int) : (n : Nat) → (i : Nat) → (p acc : Int) → Int
  | 0, _, _, acc => acc
  | n + 1, i, p, acc =>
    fxAtanInvGo q2 n (i + 1) (p / q2) (if i % 2 = 0 then acc + p / (2 * i + 1) else acc - p / (2 * i + 1))

def fxPi : Int :=
  16 * fxAtanInvGo 25 110 0 (2 ^ fxW / 5) 0 - 4 * fxAtanInvGo 57121 40 0 (2 ^ fxW / 239) 0

/-- Taylor terms `x^i / i!` from `i`, on a running term. -/
def fxExpGo (x : Int) : (n : Nat) → (i : Nat) → (t acc : Int) → Int
  | 0, _, _, acc => acc
  | n + 1, i, t, acc => fxExpGo x n (i + 1) (t * x / 2 ^ fxW / (i + 1)) (acc + t)

/-- `e^x - 1` for a small fixed-point value. -/
def fxExpm1 (x : Int) : Int := fxExpGo x 110 1 x 0

/-- `e^x = s · 2^k` for a fixed-point value: `s` fixed-point between one half and two. -/
def fxExp (x : Int) : Int × Int :=
  let k := (x + fxLn2 / 2) / fxLn2
  (2 ^ fxW + fxExpm1 (x - k * fxLn2), k)

/-- Sine of a fixed-point angle by its series. -/
def fxSinGo (x2 : Int) : (n : Nat) → (i : Nat) → (t acc : Int) → Int
  | 0, _, _, acc => acc
  | n + 1, i, t, acc => fxSinGo x2 n (i + 2) (-(t * x2 / 2 ^ fxW / ((i + 1) * (i + 2)))) (acc + t)

def fxSin (x : Int) : Int := fxSinGo (x * x / 2 ^ fxW) 60 1 x 0

/-- A finite value in fixed point; exact for every binary32. -/
def fxOf (neg : Bool) (x : Mag) : Int :=
  let m : Int := shlI x.m (x.k + fxW)
  if neg then -m else m

/-- An inexact fixed-point result as a value. -/
def fxVal (s : Int) (k : Int) : FV := .fin (s < 0) ⟨s.natAbs, k - fxW, true⟩

/-- Results far above and far below the range of every format. -/
def hugeVal (neg : Bool) : FV := .fin neg ⟨1, 2000, true⟩
def minuteVal (neg : Bool) : FV := .fin neg ⟨1, -2000, true⟩

def isBig (x : Mag) (b : Int) : Bool := x.m != 0 && decide (b ≤ (Nat.log2 x.m : Int) + x.k)

/-- The value as an integer, when it is one. -/
def asInt? (neg : Bool) (x : Mag) : Option Int :=
  let m := shlI x.m x.k
  if x.k < 0 && x.m % 2 ^ x.k.natAbs != 0 then none
  else some (if neg then -(m : Int) else m)

def texp : FV → FV × Flags
  | .nan n q p => (.nan n true p, flIf (!q) flInvalid)
  | .inf n => (if n then FV.zero false else .inf false, 0)
  | .fin n x =>
    if x.m = 0 then (FV.one, 0)
    else if isBig x 8 then (if n then minuteVal false else hugeVal false, 0)
    else let (s, k) := fxExp (fxOf n x); (fxVal s k, 0)

def texp2 : FV → FV × Flags
  | .nan n q p => (.nan n true p, flIf (!q) flInvalid)
  | .inf n => (if n then FV.zero false else .inf false, 0)
  | .fin n x =>
    if isBig x 10 then (if n then minuteVal false else hugeVal false, 0)
    else
      match asInt? n x with
      | some i => (.fin false ⟨1, i, false⟩, 0)
      | none => let (s, k) := fxExp (fxOf n x * fxLn2 / 2 ^ fxW); (fxVal s k, 0)

def texpm1 : FV → FV × Flags
  | .nan n q p => (.nan n true p, flIf (!q) flInvalid)
  | .inf n => (if n then .fin true ⟨1, 0, false⟩ else .inf false, 0)
  | .fin n x =>
    if x.m = 0 then (.fin n x, 0)
    else if isBig x 8 then
      (if n then .fin true ⟨2 ^ 200 - 1, -200, true⟩ else hugeVal false, 0)
    else if isBig x 0 then
      let (s, k) := fxExp (fxOf n x)
      let t : Int := if k < 0 then s / 2 ^ k.natAbs else s * 2 ^ k.natAbs
      (fxVal (t - 2 ^ fxW) 0, 0)
    else (fxVal (fxExpm1 (fxOf n x)) 0, 0)

/-- `ln x` of a positive magnitude in fixed point. -/
def fxLn (x : Mag) : Int :=
  let l := Nat.log2 x.m
  let y : Int := (x.m <<< fxW) >>> l
  let big := decide (3 * 2 ^ fxW < 2 * y)
  let y := if big then y / 2 else y
  let e : Int := (l : Int) + x.k + (if big then 1 else 0)
  e * fxLn2 + fxAtanh2 ((y - 2 ^ fxW) * 2 ^ fxW / (y + 2 ^ fxW))

def isPow2 (m : Nat) : Bool := m != 0 && 2 ^ Nat.log2 m == m

def tlog (base2 : Bool) : FV → FV × Flags
  | .nan n q p => (.nan n true p, flIf (!q) flInvalid)
  | .inf n => if n then (FV.dnan, flInvalid) else (.inf false, 0)
  | .fin n x =>
    if x.m = 0 then (.inf true, flDivzero)
    else if n then (FV.dnan, flInvalid)
    else
      let e : Int := (Nat.log2 x.m : Int) + x.k
      if isPow2 x.m && e == 0 then (FV.zero false, 0)
      else if base2 then
        if isPow2 x.m then (.fin (e < 0) ⟨e.natAbs, 0, false⟩, 0)
        else (fxVal (fxLn x * 2 ^ fxW / fxLn2) 0, 0)
      else (fxVal (fxLn x) 0, 0)

def trsqrt : FV → FV × Flags
  | .nan n q p => (.nan n true p, flIf (!q) flInvalid)
  | .inf n => if n then (FV.dnan, flInvalid) else (FV.zero false, 0)
  | .fin n x =>
    if x.m = 0 then (.inf n, flDivzero)
    else if n then (FV.dnan, flInvalid)
    else
      let odd := x.k % 2 != 0
      let m := if odd then 2 * x.m else x.m
      let k := if odd then x.k - 1 else x.k
      let s := Nat.log2 m / 2 + 100
      let q := isqrt (2 ^ (2 * s) / m)
      (.fin false ⟨q, -(k / 2) - s, q * q * m != 2 ^ (2 * s)⟩, 0)

/-- `sin(π y)` for a fixed-point value, with exact values at multiples of one half. -/
def fxSinPi (y : Int) : FV :=
  let one : Int := 2 ^ fxW
  let r := y % (2 * one)
  let neg := decide (one ≤ r)
  let r := if neg then r - one else r
  if r = 0 then FV.zero false
  else if 2 * r = one then .fin neg ⟨1, 0, false⟩
  else
    let r := if one < 2 * r then one - r else r
    let s := fxSin (r * fxPi / one)
    fxVal (if neg then -s else s) 0

def tsinpi : FV → FV × Flags
  | .nan n q p => (.nan n true p, flIf (!q) flInvalid)
  | .inf _ => (FV.dnan, flInvalid)
  | .fin n x =>
    let v := fxSinPi (fxOf n x)
    (if v.isZero then FV.zero n else v, 0)

def tcospi : FV → FV × Flags
  | .nan n q p => (.nan n true p, flIf (!q) flInvalid)
  | .inf _ => (FV.dnan, flInvalid)
  | .fin n x => (fxSinPi (fxOf n x + 2 ^ fxW / 2), 0)

/-! ### Block scales (R41 to R48) -/

/-- The value of a non-zero BS8 code. -/
def bs8 (c : Nat) : Mag := ⟨8 + c % 8, (c / 8 : Int) - 15 - 3, false⟩

/-- A TS32 that R42 accepts: finite, positive and normal. -/
def ts32Ok (w : Nat) : Bool := let e := bitsOf w 23 9; 1 ≤ e && e ≤ 254

def ts32 (w : Nat) : Mag := (decode .f32 w).mag

/-- The largest finite magnitude of a format. -/
def Fmt.maxMag (f : Fmt) : Mag := (decode f f.shape.maxCode).mag

/-- The smallest code from `c` on whose scale covers the magnitude (R48). -/
def bs8Search (m : Mag) (unit : Mag) : (fuel c : Nat) → Nat
  | 0, _ => 255
  | n + 1, c => if Mag.le m (unit.mul (bs8 c)) then c else bs8Search m unit n (c + 1)

/-- The BS8 a block takes (R48), from its real elements. -/
def chooseBs8 (f : Fmt) (ts : Mag) (l : List FV) : Nat :=
  let m := l.foldl (fun a v => match v with
    | .fin _ x => a.max x
    | _ => a) Mag.zero
  if m.m = 0 then 0 else bs8Search m (f.maxMag.mul ts) 255 1

/-- Convert one element of a quantised block with a given BS8 (R48, R67). -/
def quantElem (f : Fmt) (rm : Rnd) (r : Nat) (c : Nat) (ts : Mag) (v : FV) : Nat × Flags :=
  if c = 0 then
    match v with
    | .fin .. => (0, 0)
    | .inf _ => (0, flInvalid)
    | .nan .. => (0, flInvalid ||| flNanzero)
  else
    match v with
    | .fin n x => convert f rm r (.fin n (x.div ((bs8 c).mul ts)))
    | v => convert f rm r v

/-- The stored value of a block-scaled element (R43). -/
def stored (f : Fmt) (c : Nat) (ts : Mag) (code : Nat) : FV :=
  if c = 0 then FV.zero false
  else
    match decode f code with
    | .fin n x => .fin n ((x.mul (bs8 c)).mul ts)
    | v => v

/-- Whether an element code decodes to zero. -/
def codeIsZero (f : Fmt) (code : Nat) : Bool := (decode f code).isZero

/-- Pack element codes, the first in the lowest bits (R45). -/
def packCodes (w : Nat) : List Nat → Nat
  | [] => 0
  | c :: r => c % 2 ^ w + 2 ^ w * packCodes w r

/-- Element `i` of packed codes. -/
def unpackCode (w : Nat) (v i : Nat) : Nat := bitsOf v (w * i) w

/-- Element bytes of a block of `n` elements. -/
def blockBytes (f : Fmt) (n : Nat) : Nat := ceilDiv (n * f.width) 8

/-! ### Generators (R56, R57) -/

/-- The next state of a generator. -/
def xorshift (x : U64) : U64 :=
  let x := x ^^^ (x >>> 13)
  let x := x ^^^ (x <<< 7)
  x ^^^ (x >>> 17)

/-- A draw of `n` bits: the new state and the drawn value.
Log entry 185, DESIGN CHOICE. -/
def draw (n : Nat) (x : U64) : U64 × Nat :=
  let y := xorshift x
  (y, ((y * 0x2545F4914F6CDD1D#64) >>> 48).toNat >>> (16 - n))

def splitmix64 (v : U64) : U64 :=
  let z := v + 0x9E3779B97F4A7C15#64
  let z := (z ^^^ (z >>> 30)) * 0xBF58476D1CE4E5B9#64
  let z := (z ^^^ (z >>> 27)) * 0x94D049BB133111EB#64
  z ^^^ (z >>> 31)

/-- Seed a generator from the context seed, tile number, lane number and stream number (R57). -/
def seedGen (cs : U64) (t l s : Nat) : U64 :=
  let x := splitmix64 (cs ^^^ ((BitVec.ofNat 64 t <<< 16) ||| BitVec.ofNat 64 l) ^^^ (BitVec.ofNat 64 s <<< 40))
  if x = 0 then 0x9E3779B97F4A7C15#64 else x

/-! ### Rounded binary32 steps, as the update units and composites use them -/

/-- Round an exact result into a format. -/
def rnd1 (f : Fmt) (rm : Rnd) (r : Nat) (v : FV × Flags) : Nat × Flags :=
  let (c, fl) := convert f rm r v.1
  (c, fl ||| v.2)

/-- Round to nearest even in binary32. -/
def r32 (v : FV × Flags) : Nat × Flags := rnd1 .f32 .rne 0 v

def d32 (c : Nat) : FV := decode .f32 c

/-! ### Matrix-unit arithmetic (R93 to R96) -/

/-- A NaN inside the matrix unit carries no payload. -/
def canonNan (v : FV) : FV := if v.isNan then FV.dnan else v

/-- Round into P20 (R49); the result as a value, which promotes exactly (R50). -/
def toP20 (v : FV) : FV := decode .p20 (convert .p20 .rne 0 (canonNan v)).1

/-- Add two P20 values. -/
def p20Add (a b : FV) : FV := toP20 (fadd false a b).1

/-- One level of the chunk tree: neighbours added, an odd last value passed up (R93). -/
def treeLevel {α : Type} (op : α → α → α) : List α → List α
  | a :: b :: r => op a b :: treeLevel op r
  | l => l

/-- The tree of R93 over a list, with fuel for its levels. -/
def tree {α : Type} (op : α → α → α) : Nat → List α → Option α
  | _, [] => none
  | _, [a] => some a
  | 0, a :: _ => some a
  | n + 1, l => tree op n (treeLevel op l)

/-- Add a scaled value into a binary32 accumulator code, to nearest even. -/
def accAdd (acc : Nat) (v : FV) : Nat :=
  (convert .f32 .rne 0 (canonNan (fadd false (d32 acc) v).1)).1

end Sys2Proof.Machine
end

