-- ==== Sys2Proof/Machine/State.lean ====
section
/-! DEFINITION. The state of the FKL-T7 block, its stops, and the state after reset. Register blocks the
manual lays out by offset (counters, configuration words) are finite maps from offset to value, absent
entries holding the reset value of the register's table; every other piece of state has a field of its
own. -/

namespace Sys2Proof.Machine

/-! ### Stops -/

/-- Faults of the model: places where the manual gives no address or unit to act on. -/
inductive Fault
  /-- A command names a frame, tile, port or record that the hardware does not have. No meaning raises it:
  the operands' types and the refusals of the manual cover every such command; safe. -/
  | noSuchUnit
  deriving DecidableEq, Repr

/-- Refusals. -/
inductive Refusal
  /-- The command has no meaning yet. Raised only by `exec`; safe. -/
  | notModelled (mnemonic : String)
  deriving DecidableEq, Repr

/-! ### Host objects (R395 to R424) -/

/-- Where a fetched entry stands: waiting to start, or started and not complete. -/
inductive EntrySt
  | waiting | started
  deriving DecidableEq, Repr

/-- A fetched submission entry that has no completion record yet. -/
structure Entry where
  sub : Nat
  ts : Nat
  tag : U32
  barrier : Bool
  hostTs : U64
  cmd : HostCmd
  st : EntrySt
  startTs : Nat
  deriving DecidableEq, Repr

/-- Queue states (R408). -/
inductive QSt
  | active | aborting
  deriving DecidableEq, Repr

/-- A queue: indices run freely modulo 2^32 (R398). `stamps` holds, for each doorbell that made
entries ready, the tail it set and its TS, oldest first (R399). -/
structure Queue where
  ctx : Option Nat
  sqLog : Nat
  cqLog : Nat
  ring : Nat
  bar2 : Nat
  head : Nat
  tail : Nat
  stamps : List (Nat × Nat)
  written : Nat
  cqHead : Nat
  st : QSt
  abortTail : Nat
  fetched : List Entry
  blockedSince : Option Nat
  deriving DecidableEq, Repr

inductive CtxSt
  | active | lost | draining
  deriving DecidableEq, Repr

/-- A context (R408): its function, its partition (none for an operator context), its seed, and its
event ring with the count of records written (R407). `restoring` holds while a restore of its partition runs (R517). -/
structure Ctx where
  st : CtxSt
  fn : Nat
  part : Option Nat
  seed : U64
  evLog : Nat
  ring : Nat
  bar2 : Nat
  evWritten : Nat
  evOverflow : Bool
  restoring : Bool
  deriving DecidableEq, Repr

/-- What a set of pages is for: a memory object behind a handle, or pages Onlyn keeps. -/
inductive Use
  | object
  | image (part slot : Nat)
  | cache (entry : Nat)
  | ring
  | table
  deriving DecidableEq, Repr

/-- A page table entry (R236): control word, its complement, frame number and handle. `covered` marks
the bytes written since the page became INCOMPLETE, as disjoint rising ranges (R238); `sinceSnap` is the journal's note that the
page was written since the latest snapshot that holds it (R283). -/
structure Pte where
  ctl : U32
  ctlN : U32
  frame : U32
  handle : U32
  covered : List (Nat × Nat)
  sinceSnap : Bool
  deriving DecidableEq, Repr

/-- A memory object (R410): generation of its index, owning context, partition, tier, region kind,
key slot, flags, pages, seal and flash major, with the new major that a sweep gives its pages (R290); `half` is the committed half of a paired
object (R302), `inSet` the update set that holds it. -/
structure Obj where
  gen : Nat
  use : Use
  owner : Option Nat
  part : Option Nat
  tier : Nat
  kind : Nat
  keySlot : Nat
  mirrored : Bool
  snapshot : Bool
  trainable : Bool
  paired : Bool
  draining : Option Nat
  pages : List Pte
  isSealed : Bool
  digest : Bytes
  major : Nat
  nextMajor : Option Nat
  half : Nat
  inSet : Option Nat
  deriving DecidableEq, Repr

/-- An event (R414); `shown` is the value EVENT_QUERY can read (R501). -/
structure Event where
  owner : Nat
  shared : Bool
  value : U64
  shown : U64
  cookie : U32
  vector : U16
  signalTs : Nat
  deriving DecidableEq, Repr

/-- An outstanding WAIT (R416). -/
structure Wait where
  q : Nat
  sub : Nat
  event : Nat
  target : U64
  deadline : Nat
  deriving DecidableEq, Repr

/-! ### Memory accesses in flight (R241, R249, R254) -/

/-- The unit an access serves. -/
inductive Owner
  | tile (t : Nat)
  | work (id : Nat)
  | update (part set : Nat)
  | none
  deriving DecidableEq, Repr

inductive AccKind
  | hbmRead | hbmWrite | flashRead | flashWrite | hostRead
  deriving DecidableEq, Repr

/-- One row of a stripe being read (R249): the page and the frame it was issued to, the group positions wanted, those read and not answered,
those that arrived, those late or failed, and those retried after a media error; the TS at which a part was read after the access began, and the lines of the
page whose tag failed once, and twice (R278). -/
structure RowRead where
  page : Nat
  frame : Nat
  row : Nat
  want : List Nat
  out : List Nat
  arrived : List Nat
  late : List Nat
  retried : List Nat
  done : Bool
  sent : Tbl Nat
  bad1 : List Nat
  bad2 : List Nat
  deriving DecidableEq, Repr

/-- An access in flight: a range of an object, with the data of a write. `chunk` is the piece of a
split request it serves; `adm` says that its activity's budget has admitted it (R447). `born` is the TS of its issue, `excused` the time since then, up to
the last budget period, in which its partition's flash read budget was exhausted (R252). -/
structure Access where
  kind : AccKind
  owner : Owner
  priv : Bool
  obj : Nat
  off : Nat
  len : Nat
  data : Bytes
  tries : Nat
  since : Nat
  rows : List RowRead
  chunk : Nat
  adm : Bool
  born : Nat
  excused : Nat
  deriving DecidableEq, Repr

/-- A piece of a split request: its offset within the request, length, and part (R254). -/
structure Chunk where
  off : Nat
  len : Nat
  part : Nat
  deriving DecidableEq, Repr

/-- What a long command is doing. A BASE_PROPOSE reads the headers of the adapters it lists, by registry slot and object, a PROBE_REPORT its block, and a
PIN_ADAPTER in train form its object's header (R225, R228, R229). -/
inductive WorkKind
  | copy (a : CopyArgs)
  | fill (a : FillArgs)
  | sealing (obj : Nat)
  | publish (obj : Nat) (slot : Nat) (newObj : Option Nat)
  | loadImage (a : LoadArgs) (slot : Nat)
  | adapterLoad (src dst : Nat)
  | headers (model : Nat) (ads : List (Nat × Nat))
  | report (slot obj off : Nat)
  | pinTrain (obj : Nat) (handle : U32)
  | rekey (slot : Nat)
  | snapshot (number : Nat)
  | relocate (seg : Nat)
  deriving DecidableEq, Repr

/-- A command under way: its record's queue and index, its chunks with those that are done, the part bitmaps of R254, the counter of a COPY's
host blocks (for a LOAD_IMAGE, 1 once the body is being read), and what the management DMA has read, by chunk. -/
structure Work where
  q : Option Nat
  sub : Nat
  ctx : Option Nat
  part : Option Nat
  kind : WorkKind
  chunks : List Chunk
  done : List Nat
  failed : List Nat
  firstBad : Option Status
  started : Nat
  hostCtr : Nat
  got : Tbl Bytes
  deriving DecidableEq, Repr

/-! ### Images, tiles and RUNs -/

/-- Image slot states (R180). -/
inductive SlotSt
  | empty | loading | loaded | draining
  deriving DecidableEq, Repr

/-- A STAGES entry (R164). -/
structure Stage where
  kind : Nat
  tileCount : Nat
  firstTile : Nat
  ticketTable : Nat
  progOff : Nat
  progLen : Nat
  resOff : Nat
  resLen : Nat
  slotMask : Nat
  deriving DecidableEq, Repr

/-- A STREAMS entry (R168). -/
structure StreamD where
  producer : Nat
  consumer : Nat
  mode : Nat
  width : Nat
  residual : Bool
  blockScaled : Bool
  ticketed : Bool
  outPort : Nat
  inPort : Nat
  bufferBeats : Nat
  routeCount : Nat
  routeFirst : Nat
  bufferOff : Nat
  rowBytes : Nat
  deriving DecidableEq, Repr

/-- A ROUTES entry (R170). -/
structure RouteD where
  src : Nat
  dst : Nat
  bridge : Nat
  hops : List Nat
  links : Nat
  deriving DecidableEq, Repr

/-- A TENSORS entry (R174). -/
structure TensorD where
  fmt : Nat
  sparsity : Nat
  elemSlot : Nat
  scaleSlot : Nat
  metaSlot : Nat
  tsSrc : Nat
  elemOff : Nat
  scaleOff : Nat
  metaOff : Nat
  rows : Nat
  kLen : Nat
  ts32 : Nat
  outOff : Nat
  tsOff : Nat
  deriving DecidableEq, Repr

/-- An ARGUMENTS entry (R176). -/
structure ArgD where
  type : Nat
  tiers : Nat
  minBytes : Nat
  deriving DecidableEq, Repr

/-- A decoded image body (R160). -/
structure Image where
  tiles : List Nat
  stages : List Stage
  streams : List StreamD
  routes : List RouteD
  progs : List (List Nat)
  tables : List (Nat × Bytes)
  consts : List Nat
  tensors : List TensorD
  args : List ArgD
  deriving DecidableEq, Repr

/-- An image slot: its state, the context that filled it, its image, digest and resident copy, and the TS of its load. -/
structure ImgSlot where
  st : SlotSt
  owner : Nat
  load : Nat
  image : Option Image
  digest : Bytes
  body : Nat
  unloadTs : Nat
  unloadWait : List (Nat × Nat)
  loadTs : Nat
  deriving DecidableEq, Repr

/-- The image a bank holds: partition, slot and load number. -/
structure BankImg where
  part : Nat
  slot : Nat
  load : Nat
  deriving DecidableEq, Repr

/-- One 64-byte beat with its sideband (R142). `grp` is the model's own note, on a beat of a row that a sort has emitted, of the group's key, so that a
reader of rows in plan order knows which of a token's two experts a row belongs to.
Log entry 73, DEDUCED. -/
structure Beat where
  data : Bytes
  scale : U64
  zmask : U8
  last : Bool
  resid : Bool
  rend : Bool
  rstart : Bool
  tkt : BitVec 48
  grp : Option Nat
  deriving DecidableEq, Repr

/-- One route of a stream during a RUN: credits, beats waiting at the producer, in flight, and in the
receive buffer; `owed` counts beats read whose credits are not yet returned (R144), `count` the beats that have left on it, which say by which of the
stream's links the next one leaves (R146).
Log entry 189, DEDUCED. -/
structure Lane where
  credits : Nat
  out : List Beat
  flight : List Beat
  buf : List Beat
  owed : Nat
  count : Nat
  deriving DecidableEq, Repr

/-- A lane without credits or beats. -/
def Lane.empty : Lane := ⟨0, [], [], [], 0, 0⟩

/-- An accumulator set that holds a finished output tile, waiting for its drain (R103). -/
structure AccSet where
  rowTile : Nat
  colBlock : Nat
  acc : List Nat
  deriving DecidableEq, Repr

/-- One streamed row: element codes, block scales, zero-block mask. -/
structure XRow where
  elems : List Nat
  scales : List Nat
  zmask : Nat
  deriving DecidableEq, Repr

/-- The MXU operation in progress: its words, its row count (a group's under TGATH), its stationary operand
as stored with its rows and K, the tile-memory address, the three TS32 values, the streamed rows and the carry rows of the row tile
at hand, the next output tile to start, the output rows of the row tile being drained, and for an operation of a packed group (R202) whether its matrix
is already loaded and the absent blocks that packing adds to each of its rows. -/
structure MxuOp where
  a : MxuArgs
  base : Nat
  rows : Nat
  group : Option Nat
  w : Bytes
  wScale : Bytes
  wMeta : Bytes
  wRows : Nat
  wK : Nat
  wTs : Nat
  xTs : Nat
  oTs : Nat
  xr : List XRow
  cr : List XRow
  rowTile : Nat
  colBlock : Nat
  out : List XRow
  packed : Bool
  padding : Nat
  deriving DecidableEq, Repr

/-- A row of the ticket window: its ticket, gate word and beats (R195). -/
structure TktRow where
  tkt : Nat
  gate : Nat
  beats : List Beat
  deriving DecidableEq, Repr

/-- What a stalled instruction does when its memory reads have returned. -/
inductive After
  | mrd (row : Nat)
  | mxu (group : Option Nat)
  | tatt (off : Nat)
  deriving DecidableEq, Repr

/-- A tile's wait for memory: accesses outstanding, and what follows. -/
structure TileWait where
  accs : List Nat
  after : After
  since : Nat
  deriving DecidableEq, Repr

/-- A place of a tile whose parity check fails when it is next used (R105, R129, R207): a vector, guard or scalar register, a byte of tile memory, the
stationary tile, an accumulator set, the ticket window or the window store. Where an upset strikes comes from outside the block: no command's row names one.
Log entry 197, DESIGN CHOICE. -/
inductive Upset
  | vec (n : Nat) | guard (n : Nat) | scalar (n : Nat) | mem (a : Nat) | stat | acc | window | store
  deriving DecidableEq, Repr

/-- The ticket unit of a tile (R187 to R209): the source port; by in port, the tickets and gate words of
the rows received and the low part of a ticket whose second beat has not been read; by out port, tickets
TATT attached, the TROUTE value of the next row, and the ticket of the row being sent; the window being
filled with whether its last row has come, its number, the groups of a gather, whether and in which format and length
it restores rows, the restored rows, what
a TEMIT has sent, the voided sequences, and the TS since which the window waits for an adapter; whether the TGATH at hand has taken its plan, the number of
plans taken by the unit, which rows of the closed window are voided once they have been judged, by group of a gather the number of groups packed with it
and its place among them (R202), and the tickets of the tokens of a gather's window (R204). -/
structure TktUnit where
  source : Nat
  recv : Tbl (List (Nat × Nat))
  low : Tbl Nat
  attach : Tbl (List (Nat × Nat))
  route : Tbl Nat
  cur : Tbl (Nat × Nat)
  window : List TktRow
  closed : Bool
  number : Nat
  plan : Bytes
  groups : List (Nat × List Nat)
  gathered : Nat
  restore : Bool
  fmt : Nat
  cols : Nat
  stored : Tbl (List Beat)
  emitted : Nat
  voids : List Nat
  waiting : Option Nat
  taking : Bool
  plans : Nat
  judged : Option (List Bool)
  packs : List (Nat × Nat)
  tokens : List (Nat × Nat)
  deriving DecidableEq, Repr

/-- A tile: two program banks (R150) with the words a debug access has written over them (R597), the image slots whose loads are writing its shadow bank, the stage program's position and loops (R172), register files
(R107), generators (R56) with their draw counts, flags (R68), tile memory, the matrix unit, the rows being
collected from a stream port and from the carry port, the rows a row-by-row instruction has done, the out ports the
program's instructions have sent on, by port the bytes of elements read with a beat that no instruction has taken, the ticket unit, its counters by offset in the tile control block (R595),
the places whose parity fails, the stationary tile of the matrix unit's last pass when that pass's operation has one tile (R82), the cycles of the last output
tile (R103), and the port of the vector unit's last SOUT or SOUTQ (R130). -/
structure Tile where
  bank0 : Option BankImg
  bank1 : Option BankImg
  cur1 : Bool
  patch0 : Tbl Nat
  patch1 : Tbl Nat
  loading : List (Nat × Nat)
  run : Option Nat
  pos : Nat
  loops : List (Nat × Nat)
  ended : Bool
  v : Tbl (List U32)
  g : Tbl (BitVec 512)
  x : Tbl U64
  gens : Tbl U64
  draws : Tbl Nat
  flags : Flags
  mem : Mem
  sets : List AccSet
  mxu : Option MxuOp
  rowBuf : List Beat
  carryBuf : List Beat
  rowsDone : Nat
  sent : List Nat
  rest : Tbl Bytes
  wait : Option TileWait
  cursors : Tbl Nat
  tkt : TktUnit
  regs : Tbl Nat
  failed : Bool
  upsets : List Upset
  held : Option (Bytes × Bytes × Bytes)
  lastT : Option Nat
  vxPort : Option Nat
  deriving DecidableEq, Repr

inductive RunSt
  | queued | running
  deriving DecidableEq, Repr

/-- A RUN (R151 to R153): its command, its latched mode, its streams' lanes keyed by
64 x stream + route, the producers' row positions, the update sets and groups it uses, the partitions whose
tickets it received by dispatch (R201), its record in the step ledger (R534), the status of its attempts' closes (R320), and the bitmap of shards
a torn grouped attempt had not applied (R389); the cycles before its first instruction issues (R151, R184), by source tile and link the stream and route served
last (R146), and by sorting tile the tickets of each window's rows, skipped ones included (R204). -/
structure Run where
  q : Nat
  sub : Nat
  ctx : Nat
  part : Nat
  slot : Nat
  load : Nat
  strict : Bool
  stream : Nat
  args : List U64
  st : RunSt
  heldForGroup : Option Nat
  tiles : List Nat
  seed : U64
  startTs : Nat
  issueTs : Nat
  lastMove : Nat
  lanes : Tbl Lane
  outPos : Tbl Nat
  inPos : Tbl Nat
  sets : List Nat
  groups : List Nat
  flags : Flags
  ageDomains : List Nat
  dispParts : List Nat
  ledAt : Option Nat
  closeSt : Option Status
  torn : Nat
  lead : Nat
  turns : Tbl Nat
  windows : Tbl (List (List (Nat × Nat)))
  deriving DecidableEq, Repr

/-! ### Memory guard (R261 to R292) -/

/-- A counter block (R263): major and the non-zero minors. -/
structure CtrBlock where
  major : Nat
  minors : Tbl Nat
  deriving DecidableEq, Repr

/-- A Carousel sweep (R286 to R291, R296): `kind` 1 over HBM, 2 over flash; the counter block it holds locked, with the TS of the lock (R287). -/
structure Sweep where
  kind : Nat
  paused : Bool
  slot : Nat
  boundary : Nat
  obj : Nat
  work : Nat
  freed : List Nat
  lock : Option (Nat × Nat)
  deriving DecidableEq, Repr

/-- A tree node of height 1 to 8 as memory holds it (R263): its eight child fields and its MAC. -/
structure TreeNode where
  fields : List Nat
  mac : Nat
  deriving DecidableEq, Repr

/-- A line of the metadata cache (R275): a counter block, the child fields of a node, or neither for a line of tags; dirty until it is written back. -/
structure MetaLine where
  dirty : Bool
  block : CtrBlock
  fields : List Nat
  deriving DecidableEq, Repr

/-- The Shroud: in memory, counter blocks by position (frame x 16 + block) and tree nodes by height and index; the metadata cache, and its lines whose
parity fails when they are next used (R276), and how many it has given up; lines that fail verification (line addresses of R265, HBM and flash), those of HBM that are poisoned (R274), the
high-water mark and the root as dual-rail values, failed nodes, the tree key, and the eight sweeps.
Log entry 207, DESIGN CHOICE. -/
structure Shroud where
  blocks : Tbl CtrBlock
  nodes : Tbl TreeNode
  cache : Tbl MetaLine
  upsets : List Nat
  evicted : Nat
  bad : List Nat
  poison : List Nat
  badFlash : List Nat
  hwm : Nat
  hwmN : Nat
  root : List Nat
  rootN : List Nat
  failed : List (Nat × Nat)
  treeKey : U256
  sweeps : Tbl Sweep
  deriving DecidableEq, Repr

/-- The flash medium (R246 to R258): bytes by frame, frames in use by object key, erase counts, retired
segments, frames awaiting erase, channels down, late or failed reads in a row per channel, frames a sweep has left that reads in flight still use (R290),
and the erases of the whole tier, which count for every segment (R489, R558). -/
structure Flash where
  mem : Mem
  used : Tbl Nat
  dead : List Nat
  erases : Tbl Nat
  retired : List Nat
  owner : Tbl Nat
  down : List Nat
  lateRun : Tbl (List Nat)
  leaving : List Nat
  wipes : Nat
  deriving DecidableEq, Repr

/-! ### The whole -/

/-- A function's selective IDE stream (R578). -/
inductive IdeSt
  | none | keyed | secure | insecure
  deriving DecidableEq, Repr

/-- States of a virtual function's TDISP interface (R578). -/
inductive TdispSt
  | configUnlocked | configLocked | run | error
  deriving DecidableEq, Repr

/-- A function (R398, R435, R590, R593): registers by BAR0 offset, the latched high word, rings mapped
in BAR2, MSI-X table and pending bits; its IDE stream and key, its TDISP interface, and whether it is in D3hot (R574, R578). -/
structure FnSt where
  regs : Tbl Nat
  latch : Option (Nat × Nat)
  maps : List (Nat × Nat × Nat)
  msix : Mem
  pba : List Nat
  ide : IdeSt
  ideKey : Option U256
  tdisp : TdispSt
  d3hot : Bool
  deriving DecidableEq, Repr

/-- Session states (R465). -/
inductive Sess
  | free | assigned | bound | closing
  deriving DecidableEq, Repr

inductive KeySt
  | empty | active | held
  deriving DecidableEq, Repr

/-- Kinds of key slot (R458). -/
inductive KeyKind
  | memory | tier | transport
  deriving DecidableEq, Repr

/-- A key slot (R457 to R459): state, valid word and its complement, kind, the number of the current generation, keys of the current and the
next generation, outbound COPYs made under it (R483), and the TS of its withdrawal in this session (R516). -/
structure KeySlot where
  st : KeySt
  valid : U32
  validN : U32
  kind : KeyKind
  gen : Nat
  key : U256
  next : Option U256
  outCount : Nat
  gone : Option Nat
  deriving DecidableEq, Repr

/-- A session (R465, R466, R484): its state, layout, key pair, channel key, last sequence number, seal
value, times, identity, consent, core start record with the a0 its cores started with, and last report digests. -/
structure Session where
  st : Sess
  layout : Option Layout
  keyPair : U256
  channel : Option U256
  lastSeq : Nat
  sealValue : U256
  bindTs : Nat
  sessionId : U128
  consentFlags : Nat
  consentSeq : Nat
  consentFrom : Nat
  consentTo : Nat
  coreDigest : U384
  coreTs : Nat
  coreA0 : Nat
  core : Option CoreStartArgs
  reports : List (U384 × Nat)
  clearing : Bool
  closeTs : Nat
  deriving DecidableEq, Repr

/-- A step ledger entry (R534); `recs` holds its ticket records, `runs` its RUN records. -/
structure LedgerEntry where
  epoch : Nat
  tsOpen : Nat
  tsClose : Nat
  status : Nat
  flags : Nat
  runCount : Nat
  tickets : Nat
  seed : Nat
  cursors : List Nat
  ticketDigest : Nat
  writeDigest : Nat
  runs : List Bytes
  recs : Bytes
  deriving DecidableEq, Repr

/-- A partition's step ledger (R533, R535): the step being assembled with the bytes its units wrote, the ring
oldest first, the reference ledger, whether a replay is armed, the reference entry it stands at, and the RUN
records of that entry already matched.
Log entry 88, DEDUCED. -/
structure Ledger where
  cur : LedgerEntry
  writes : Bytes
  ring : List LedgerEntry
  ref : List LedgerEntry
  armed : Bool
  stepAt : Nat
  runAt : Nat
  deriving DecidableEq, Repr

/-- A lane of the die bridge in one direction (R293): its key, the key's epoch, and the beats it has carried under that key. -/
structure BridgeLane where
  key : U256
  epoch : Nat
  beats : Nat
  deriving DecidableEq, Repr

/-- Device-wide registers by BAR0 offset, the device fault held (R559), units closed or failed at start-up (R554): HBM pairs,
flash groups without their segments, flash units, Rigging ports, the bridge unit, the PCIe unit; the units spent in this budget period by
activity (R447), the activities whose budget is exhausted with the TS since which it is, and the bridge's lanes by twice the lane plus the direction, A to B
first (R293). -/
structure Dev where
  regs : Tbl Nat
  fault : Option (Status × Nat)
  closedPairs : List Nat
  closedFlash : List Nat
  closedUnits : List Nat
  closedPorts : List Nat
  closedBridge : Bool
  closedPcie : Bool
  used : Tbl Nat
  dry : Tbl Nat
  bridge : Tbl BridgeLane
  deriving DecidableEq, Repr

/-! ### Onlyn (R425 to R443) -/

/-- A component's restart: the fault it restarts from with its TS, and the TS of its faults in the last second. -/
structure CompSt where
  down : Option (Status × Nat)
  falls : List Nat
  deriving DecidableEq, Repr

/-- What LOG records: a component's restart and its cause (R429), a lost device (R351), a degraded PCIe link (R575), a flash channel down (R250), a failed
counter block or node by height and index (R281). -/
inductive LogItem
  | restart (comp : Nat) (cause : Status)
  | lost (pos : Nat)
  | degraded
  | channel (c : Nat)
  | node (h n : Nat)
  deriving DecidableEq, Repr

/-- What the boot flash slot holds, or what runs (R440 to R443): the image of manufacture, an image written by an update, or bytes
that do not verify. -/
inductive BootImg
  | factory
  | written (bytes : Bytes)
  | broken
  deriving DecidableEq, Repr

/-- Onlyn: components in the order of R425, the log with records held while LOG restarts and the count lost, the staged image of an
update, the boot flash slot, the running image, whether the ROM recovery loader runs, the TS since which RING holds 256 control commands, and replay
requests that wait for DIGEST. -/
structure Onlyn where
  comps : Tbl CompSt
  log : List (Nat × LogItem)
  logHeld : List (Nat × LogItem)
  logLost : Nat
  staged : Option FwImage
  slot : BootImg
  running : BootImg
  recovery : Bool
  fullSince : Option Nat
  replays : List (Nat × U64)
  deriving DecidableEq, Repr

/-! ### SEC (R453 to R492) -/

/-- SPDM connection states (R473). -/
inductive SpdmSt
  | start | version | capabilities | negotiated
  deriving DecidableEq, Repr

/-- A full wipe under way (R489): the life-cycle state it belongs to, and the LIFECYCLE that asked for it: its seq, the TS at which it was
accepted, and whether it is still to be answered. -/
structure Wipe where
  target : Nat
  seq : Nat
  accepted : Nat
  answer : Bool
  deriving DecidableEq, Repr

/-- SEC: the operator key pair, the TS since which it restarts, mailbox messages held meanwhile, responses given to the DOE mailbox,
the SPDM connection, the large response being fetched in chunks (handle, bytes, next sequence number) with the last handle given, the life-cycle word and its
complement, the full wipe that runs, whether the unique secret is blown, and the wipe-complete record of the boot flash. -/
structure Sec where
  opPair : U256
  down : Option Nat
  mailbox : List Instr
  doe : List Bytes
  spdm : SpdmSt
  large : Option (Nat × Bytes × Nat)
  handle : Nat
  life : U32
  lifeN : U32
  wiping : Option Wipe
  secretGone : Bool
  record : Option Nat
  deriving DecidableEq, Repr

/-! ### Start-up, PCIe and the sideband (R541 to R588) -/

/-- Start-up (R553): the outcomes of the run under way, none when none runs; whether it waits for the rails, whether its PCIe link is trained afresh, and
whether the link has come up. -/
structure Boot where
  run : Option StartupOutcome
  held : Bool
  fresh : Bool
  linked : Bool
  deriving DecidableEq, Repr

/-- Pins, PCIe and sideband (R553, R562, R574, R581 to R586): PERST_N asserted, PWRGOOD asserted, Device Readiness Status messages sent, VF Enable, the completion timeout, configuration space of a
function as written (function times 65,536, plus offset), register values answered to the host (function, offset, value), the I3C address and the MCTP endpoint, messages sent on the sideband,
and sensor values. -/
structure Pins where
  perst : Bool
  pwrGood : Bool
  drs : Nat
  vfEnable : Bool
  ctoUs : Nat
  config : Tbl Nat
  regOut : List (Nat × Nat × Nat)
  i3c : Option Nat
  eid : Nat
  out : List Bytes
  sensors : Tbl Int
  deriving DecidableEq, Repr

/-! ### Adapters (R210 to R234) -/

/-- A registry entry (R214); `probes` and `allowDrifted` are the header's fields ADPT keeps beside it. -/
structure RegEntry where
  ctl : U32
  ctlN : U32
  base : Bytes
  object : U32
  cacheIdx : Option Nat
  layers : Nat
  probeLoss : U32
  lossBound : U32
  publishTs : Nat
  carryTs : Nat
  probes : Nat
  allowDrifted : Bool
  deriving DecidableEq, Repr

inductive CacheSt
  | loading | resident | void
  deriving DecidableEq, Repr

/-- An entry of the HBM adapter cache (R217 to R224): its partition and registry slot, pins by context,
evict_pending, the TS of its last unpin, its page set (none while it waits for room, or for a TRAINING
entry), PINs that wait for its load, the RUNs that hold it VOID, whether a revocation voided it, and whether an EVICT_ADAPTER is behind
evict_pending. -/
structure CacheEntry where
  st : CacheSt
  part : Nat
  slot : Nat
  pins : Tbl Nat
  evict : Bool
  unpinTs : Nat
  pages : Option Nat
  waiters : List (Nat × Nat × Nat)
  hold : List Nat
  revoked : Bool
  byCommand : Bool
  deriving DecidableEq, Repr

/-- ADPT: the registry, the cache by index, page sets being wiped by index with their partition and the REVOKED registry slot that becomes FREE
then, the current base's digest and layer table, and the proposed base. -/
structure Adpt where
  reg : Tbl RegEntry
  cache : Tbl CacheEntry
  wipes : Tbl (Nat × Nat × Option Nat)
  base : Bytes
  baseTable : Bytes
  proposal : Option (Bytes × Bytes)
  deriving DecidableEq, Repr

/-! ### Power (R541 to R552) -/

/-- A power domain: powered (or out of self-refresh), the TS of its wake request, and the TS since which
nothing has used it. -/
structure Dom where
  on : Bool
  waking : Option Nat
  idleSince : Nat
  deriving DecidableEq, Repr

/-- A request of the AVSBus master (R572): the bus (0 for A, 1 for B), the rail select (0 VDD_COL, 1 VDD_CPU), and millivolts. -/
structure AvsReq where
  bus : Nat
  rail : Nat
  mv : Nat
  deriving DecidableEq, Repr

/-- PWR's loops and the hardware trip (R444, R548 to R552): domains and their operating points, the three
demands, the brake input, the trip in force, the TS since which a diode reads 110 C or more, the last
average power, and the TS since which RUN starts are held for the cap; DEEP_SLEEP, power removed from all but the always-on domain, a thermal shutdown that no start-up has followed, the TS at which
the trip in force began, partition
cores in WFI (R545), the 32-bit fraction of the time base, the nanoseconds of TS that mesh cycles have added since the last tick (R542), and of the two AVSBus
buses the voltage PWR holds right for each rail at REEF0, by 2 x bus + rail select, and the requests made since start-up, oldest first (R572). -/
structure Pwr where
  doms : Tbl Dom
  points : Tbl Nat
  iters : Nat
  capDemand : Nat
  thermDemand : Nat
  brakeDemand : Nat
  brake : Bool
  trip : Bool
  hotSince : Option Nat
  watts : Nat
  holdSince : Option Nat
  asleep : Bool
  off : Bool
  shut : Bool
  tripAt : Nat
  wfi : List Nat
  frac : Nat
  sub : Nat
  rails : Tbl Nat
  avs : List AvsReq
  deriving DecidableEq, Repr

/-! ### Update sets (R297 to R327) -/

/-- A parameter descriptor (R299), its object by key. -/
structure Desc where
  recipe : Nat
  fmt : Nat
  obj : Nat
  rows : Nat
  kLen : Nat
  wc : Nat
  sc : Nat
  master : Nat
  m1 : Nat
  m2 : Nat
  ts : Nat
  deriving DecidableEq, Repr

/-- A recipe (R304, R305). -/
structure Recipe where
  state : Nat
  mfmt : Nat
  rnd : Nat
  srw : Nat
  words : List Nat
  deriving DecidableEq, Repr

/-- A bucket in staging: descriptor, first parameter, the tile that fed it, its elements widened to
binary32, the bytes it occupies (R309, R310), and whether its place in staging is spoiled (R326).
Log entry 197, DESIGN CHOICE. -/
structure Bucket where
  desc : Nat
  first : Nat
  tile : Nat
  gs : List Nat
  size : Nat
  spoiled : Bool
  deriving DecidableEq, Repr

/-- An update set (R297 to R323): its record, which names the objects of hyperparameters and of the loss scale by their handles, descriptors and registers; the RUN of its open attempt and of
its last one; the attempt's hyperparameters by recipe, accumulator, buckets in staging in UFEED order, ranges
fed, rows and columns whose factor has been scaled (R306), ranges written whole and ranges of which the
working copy alone came down, tiles that executed UEND, for a
group whether CLOSE was sent and the VERDICT that stands, whether no attempt has opened since the last commit, the mseq of the
COMMIT whose ACK a close awaits, the reads of state outstanding for the bucket being applied or for carry-forward, none before they are issued, whether
carry-forward has been written, and the writes that have not been answered (R241). -/
structure USet where
  ctx : Nat
  mode : Nat
  group : Option Nat
  absB : Nat
  bucketB : Nat
  scaleMin : Nat
  scaleMax : Nat
  growth : Nat
  descs : List Desc
  hyper : Nat × Nat
  scaleAt : Nat × Nat
  commit : U32
  commitN : U32
  epoch : Nat
  norm : Nat
  scale : Nat
  streak : Nat
  run : Option Nat
  lastRun : Option Nat
  openTs : Nat
  hyp : Tbl (List Nat)
  acc : Nat
  staging : List Bucket
  fed : List (Nat × Nat × Nat)
  begun : List (Nat × Bool × Nat)
  written : List (Nat × Nat × Nat)
  wcOnly : List (Nat × Nat × Nat)
  ended : List Nat
  closeSent : Bool
  closeTs : Nat
  verdict : Option (Status × Nat × Nat)
  fresh : Bool
  ackAt : Option Nat
  fetch : Option (List Nat)
  carried : Bool
  writes : List Nat
  deriving DecidableEq, Repr

/-! ### Groups (R366 to R394) -/

inductive GrpSt
  | empty | joining | active | aborting
  deriving DecidableEq, Repr

/-- Why a group abort started, as R388 tells causes apart. -/
inductive GCause
  | self | timeout | mismatch | stale | other
  deriving DecidableEq, Repr

/-- An operation of a local member: a collective of R380, or a bucket (op 0xA8). `hi` is its lane, or the
bucket's descriptor; `seq` its sequence number, or the bucket's first parameter. The own elements are codes of
format `ofmt`; `sent` are the trees whose UP has gone, `results` the shards that have come, `applied` the
shards of a bucket that stand in this member's working copy, `since` when it began and `heard` when a message for it last came (R386, R394), `die` the die whose staging a
bucket occupies (R310), `spoiled` whether its staging is (R393).
Log entry 197, DESIGN CHOICE. -/
structure Coll where
  member : Nat
  op : Nat
  hi : Nat
  seq : Nat
  rid : Nat
  count : Nat
  wire : Nat
  scale : Nat
  ofmt : Nat
  own : List Nat
  sent : List Nat
  results : Tbl (List Nat)
  applied : List Nat
  since : Nat
  heard : Nat
  die : Nat
  spoiled : Bool
  deriving DecidableEq, Repr

/-- A dispatch window of a local member (R382): the rows it sent with the members they went to, the rows that
came by sender, whether they have been emitted, whether its results went back, the results by sender, when it began, and when a message for it last came. -/
structure Disp where
  member : Nat
  lane : Nat
  window : Nat
  rid : Nat
  rows : List (Nat × TktRow)
  got : Tbl (List TktRow)
  emitted : Bool
  returned : Bool
  back : Tbl (List (List Beat))
  since : Nat
  heard : Nat
  deriving DecidableEq, Repr

/-- A group on this device (R367, R370): its state, its entry as GROUP_SET supplied it, the generation last
set, the epoch, the owner_id of each joined member, the local operations, messages and CLOSEs staged for a local member,
each lane's next sequence number by 64 x member + lane, and why an abort under way started. -/
structure Group where
  st : GrpSt
  entry : Bytes
  gen : Nat
  epoch : Nat
  owners : Tbl Nat
  colls : List Coll
  disps : List Disp
  staged : List (Nat × GroupMsg)
  closes : List (Nat × GroupMsg)
  seqs : Tbl Nat
  windows : Tbl Nat
  cause : Option GCause
  digest : Bytes
  deriving DecidableEq, Repr

/-! ### The safety net (R493 to R532) -/

/-- The fields of a completion record before it has a place in the ring (R405). -/
structure Rec where
  sub : Nat
  st : Status
  sc : Scope
  flags : Nat
  stage : Nat
  tag : U32
  result : Nat
  ts : Nat
  detail : Nat
  deriving DecidableEq, Repr

/-- What a PAIRED partition holds back until its catcher has acknowledged (R501). -/
inductive HoldItem
  | rcd (q : Nat) (r : Rec)
  | event (ctx ev : Nat) (cookie : U32) (value : U64) (st : Status) (ts : Nat)
  | irq (fn vec : Nat)
  | fence (ev : Nat) (value : U64)
  deriving DecidableEq, Repr

/-- An item held, the mseq it waits for, and since when. -/
structure Held where
  mseq : Nat
  since : Nat
  item : HoldItem
  deriving DecidableEq, Repr

/-- A group membership as the journal keeps it: group, member, owner_id, digest, epoch, lane sequence numbers, and the owner_ids of the group's entry. -/
structure Member where
  group : Nat
  member : Nat
  owner : Nat
  digest : Bytes
  epoch : Nat
  seqs : List Nat
  owners : Tbl Nat
  deriving DecidableEq, Repr

/-- A tile's generators of a running RUN, by stream: states and draw counts (R61). -/
structure GenRec where
  stream : Nat
  tile : Nat
  gens : Tbl U64
  draws : Tbl Nat
  deriving DecidableEq, Repr

/-- A partition's control state as Onlyn's journal holds it (R498): contexts, queues, events, objects, image
slots, registry entries, update sets, recipes, group memberships, COPYs made under key slots, the CORE_START record, and the cursors. -/
structure JView where
  ctxs : Tbl Ctx
  queues : Tbl Queue
  events : Tbl Event
  objs : Tbl Obj
  slots : Tbl ImgSlot
  regs : Tbl RegEntry
  sets : Tbl USet
  recipes : Tbl Recipe
  groups : List Member
  keys : Tbl Nat
  core : Option CoreStartArgs
  cursors : List Nat
  deriving DecidableEq, Repr

/-- One journal record (R498, R529): a changed entry of a kind, none when it is gone. -/
inductive JRec
  | ctx (k : Nat) (x : Option Ctx)
  | queue (k : Nat) (x : Option Queue)
  | event (k : Nat) (x : Option Event)
  | obj (k : Nat) (x : Option Obj)
  | slot (k : Nat) (x : Option ImgSlot)
  | reg (k : Nat) (x : Option RegEntry)
  | set (k : Nat) (x : Option USet)
  | recipe (k : Nat) (x : Option Recipe)
  | groups (l : List Member)
  | key (k : Nat) (n : Option Nat)
  | core (a : Option CoreStartArgs)
  | cursors (l : List Nat)
  | digest (set epoch : Nat) (l : List Nat)
  deriving DecidableEq, Repr

/-- A page's copy in a snapshot (R513): object, page of its page list, logical page, SNAPSHOT frame, the snapshot that holds it,
its page table entry, the key slot, generation pair and boundary within the page. -/
structure SnapPage where
  obj : Nat
  page : Nat
  logical : Nat
  frame : Nat
  holder : Nat
  entry : Pte
  slot : Nat
  gens : Nat × Nat
  boundary : Nat
  deriving DecidableEq, Repr

/-- A snapshot (R509 to R513): its number, TS and flags, the SNAPSHOT command that waits for it, the pages still to
copy as object and page, the pages copied, the captured state, each running RUN's generators and draw counts by
stream and tile, its key, the source slots' keys, the seal value it opens under, the pins held, and the resident copies of
the image slots; and whether the page at hand is being read a second time (R241, R278).
Log entry 49, DESIGN CHOICE. -/
structure Snap where
  number : Nat
  ts : Nat
  caught : Bool
  fromCatcher : Bool
  cmd : Option (Nat × Nat)
  todo : List (Nat × Nat)
  pages : List SnapPage
  view : JView
  gens : List GenRec
  key : U256
  keys : List (Nat × KeySlot)
  sealed : U256
  pins : List (Nat × Nat)
  bodies : List (Nat × Bytes)
  again : Bool
  deriving DecidableEq, Repr

/-- SNAPSHOT segments that no session holds (R470, R557): their owner tag, the segments, and the
snapshots in them with the last number given; and the partition whose grant they stand in, until its layout is cleared.
Log entry 94, DEDUCED. -/
structure HeldRegion where
  part : Option Nat
  owner : U256
  segs : List Nat
  snaps : List Snap
  last : Nat
  deriving DecidableEq, Repr

/-- A restore under way (R515, R516): the snapshot, the restoring context, and the map so far. -/
structure Restore where
  number : Nat
  ctx : Nat
  deriving DecidableEq, Repr

/-- States of a caught partition (R496). -/
inductive PairSt
  | unpaired | resync | paired | catching | solo | fenced
  deriving DecidableEq, Repr

/-- NET's state for a partition: pair state; the last PAIR body that came; mirror sequence numbers sent, acknowledged and
applied; messages waiting at the source (mseq, kind, body), messages sent and not acknowledged, and messages that came ahead of their turn; items held; pages a RESYNC has
still to send as object and page; the control state the catcher has been told; the TS of the FENCED entry; whether a takeover waits
for a port; pages written by writer on the catcher; the sealed snapshots oldest first, the running one and the last number; a restore; the generators
and draw counts a restore left for the first replayable step; and whether RUNs wait for their groups. -/
structure Net where
  st : PairSt
  heard : Option Bytes
  txSeq : Nat
  acked : Nat
  rxSeq : Nat
  out : List (Nat × Nat × Bytes)
  unacked : List (Nat × Nat × Bytes)
  stash : Tbl (Nat × Bytes)
  held : List Held
  resync : List (Nat × Nat)
  view : JView
  fencedAt : Option Nat
  takeAt : Option Nat
  writers : List (Nat × Nat × Nat × Nat)
  snaps : List Snap
  running : Option Snap
  snapNo : Nat
  restore : Option Restore
  gens : List GenRec
  waitGroups : Bool
  deriving DecidableEq, Repr

/-- A digest round (R527 to R532): its epoch, its own page digests, and by member the lists that have come (16 write digests,
then page digests); pages whose line digests or lines are awaited, and lines requested, each with whether a majority holds another
value; pages located; whether a page needs arbitration; the buckets of the attempt; on a flyer the mseq of the list it sent; the
diagnosis to record at the end (R538); whether the round runs, and since when. -/
structure Round where
  epoch : Nat
  own : List Nat
  lists : Tbl (List Nat)
  todo : List (Nat × Bool)
  lines : List (Nat × Nat × Bool)
  found : List Nat
  split : Bool
  fed : List (Nat × Nat × Nat)
  sentAt : Option Nat
  diag : Option Nat
  running : Bool
  since : Nat
  deriving DecidableEq, Repr

/-- A partition: registers by window offset (R596), image slots, session, the high word its cores' last read latched (R590); `table` and `tableN`, the word of its partition
table entry that says SEC has written one and the complement of it (R449, R461). -/
structure PartSt where
  regs : Tbl Nat
  slots : Tbl ImgSlot
  sess : Session
  table : U32
  tableN : U32
  led : Ledger
  net : Net
  rounds : Tbl Round
  latch : Option (Nat × Nat)
  deriving DecidableEq, Repr

/-! ### Rigging (R328 to R365) -/

/-- Port states (R348). -/
inductive PortSt
  | down | training | auth | up | authFail | joinRefused | masked
  deriving DecidableEq, Repr

/-- A flit at a sender: its sequence number once sent, route word, payload, and the partition charged for it
(R342); the class and number of credits it returns, and since when it has waited for budget.
Log entry 110, DEDUCED. -/
structure TxFlit where
  seq : Nat
  route : U32
  payload : Bytes
  part : Option Nat
  since : Nat
  cred : Nat × Nat
  held : Option Nat
  deriving DecidableEq, Repr

/-- A link authentication under way (R472): the messages' bytes so far, this end's nonce and TS, the key pair
drawn for it, the peer's certificate, and the secret once known.
Log entry 116, DEDUCED. -/
structure AuthSt where
  transcript : Bytes
  nonce : U256
  keyPair : U256
  secret : U256
  leaf : Bytes
  deriving DecidableEq, Repr

/-- A port (R328 to R352). Sequence numbers count all flits since UP; the key epoch is their quotient by 2^32.
`sent` holds unacknowledged flits, oldest first, of which the last `resend` wait to be sent again; `queue` the
flits waiting by class; `credits` and `owed` the credits held and to return by class; `stall` the TS since which the first flit of a class waits
for credit; `hbGot` the next heartbeat that may come or be missed. -/
structure RPort where
  st : PortSt
  since : Nat
  falls : List Nat
  byLoss : Bool
  retrain : Option Nat
  secret : U256
  txSeq : Nat
  rxSeq : Nat
  sent : List TxFlit
  resend : Nat
  ackTs : Nat
  failed : Option Nat
  nak : Bool
  queue : Tbl (List TxFlit)
  credits : Tbl Nat
  owed : Tbl Nat
  ctlGap : Nat
  turn : Nat
  hbDue : Option Nat
  hbNext : Nat
  hbMiss : Nat
  hbGot : Nat
  stall : Tbl Nat
  echo : Nat × Nat
  peer : Nat
  auth : Option AuthSt
  deriving DecidableEq, Repr

/-- A whole message that has arrived: class, source position, flow and bytes. -/
structure RigIn where
  cls : Nat
  src : Nat
  flow : Nat
  data : Bytes
  deriving DecidableEq, Repr

/-- A message in receive buffers, whole or in part: the ports whose credits its flits hold, one entry for each flit (R339). -/
structure RigWait where
  msg : RigIn
  ports : List Nat
  deriving DecidableEq, Repr

/-- Rigging: the ports, FEC-corrected flits handed up but not taken, partial and whole messages arrived, the
troupe table, this device's position, positions declared lost, the serving map, troupe time, and forwarded
submissions outstanding (position, queue, index) with the completions already taken (position, queue or 2^20 + event, index); flits and AUTH messages sent by port; records that came for the host from a member (position, queue or 2^20 + event, index,
bytes), and values its register requests returned (position, offset, value).
Log entry 119, DESIGN CHOICE. -/
structure Rig where
  ports : Tbl RPort
  rx : List (Nat × Flit)
  partials : List RigWait
  inbox : List RigWait
  troupe : Bytes
  pos : Option Nat
  placed : Option Nat
  lost : List Nat
  noRoute : Tbl Nat
  serving : Tbl Nat
  master : Nat
  parent : Option Nat
  depth : Nat
  theta : Int
  unsync : Bool
  orphan : Option Nat
  steer : Int
  fwd : List (Nat × Nat × Nat)
  fwdDone : List (Nat × Nat × Nat)
  regReq : List (Nat × Nat)
  wire : List (Nat × Bytes)
  authOut : List (Nat × AuthMsg)
  fwdRecs : List (Nat × Nat × Nat × Bytes)
  fwdRegs : List (Nat × Nat × Nat)
  deriving DecidableEq, Repr

structure State where
  pending : List Instr
  ts : Nat
  free : Nat
  dev : Dev
  fns : Tbl FnSt
  parts : Tbl PartSt
  keys : Tbl KeySlot
  ctxs : Tbl Ctx
  queues : Tbl Queue
  objs : Tbl Obj
  objGens : Tbl Nat
  events : Tbl Event
  waits : List Wait
  accs : Tbl Access
  works : Tbl Work
  runs : Tbl Run
  tiles : Tbl Tile
  hbm : Mem
  hbmUsed : Tbl Nat
  wiping : Tbl Nat
  flash : Flash
  shroud : Shroud
  msix : List (Nat × Nat)
  hostOut : List (Nat × Bytes)
  pwr : Pwr
  adpt : Adpt
  usets : Tbl USet
  recipes : Tbl Recipe
  unitGens : Tbl (U64 × Nat)
  groups : Tbl Group
  rig : Rig
  heldSnaps : List HeldRegion
  onlyn : Onlyn
  sec : Sec
  boot : Boot
  pins : Pins
  deriving DecidableEq, Repr

def Session.none : Session :=
  ⟨.free, Option.none, 0, Option.none, 0, 0, 0, 0, 0, 0, 0, 0, 0, 0, 0, Option.none, [], false, 0⟩
def LedgerEntry.reset : LedgerEntry := ⟨0, 0, 0, 0, 0, 0, 0, 0, [], 0, 0, [], []⟩
def Ledger.reset : Ledger := ⟨LedgerEntry.reset, [], [], [], false, 0, 0⟩
def JView.empty : JView := ⟨[], [], [], [], [], [], [], [], [], [], none, List.replicate 16 0⟩
def Net.reset : Net where
  st := .unpaired
  heard := none
  txSeq := 0
  acked := 0
  rxSeq := 0
  out := []
  unacked := []
  stash := []
  held := []
  resync := []
  view := JView.empty
  fencedAt := none
  takeAt := none
  writers := []
  snaps := []
  running := none
  snapNo := 0
  restore := none
  gens := []
  waitGroups := false
/-- A partition that holds nothing: no layout, no session, whole consent words, unpaired.
Log entry 102, DEDUCED. -/
def PartSt.reset : PartSt := ⟨[], [], Session.none, 0, 0xFFFFFFFF, Ledger.reset, Net.reset, [], none⟩
/-- A function after its reset: no negotiation, no rings mapped, interface unlocked.
Log entry 7, DESIGN CHOICE. -/
def FnSt.reset : FnSt := ⟨[], none, [], [], [], .none, none, .configUnlocked, false⟩
/-- An EMPTY key slot (R457); its key numbers are the model's.
Log entry 7, DESIGN CHOICE. -/
def KeySlot.reset : KeySlot := ⟨.empty, 0, 0xFFFFFFFF, .memory, 0, 0, none, 0, none⟩
/-- A ticket unit with no table, no window and source port 0.
Log entry 7, DESIGN CHOICE. -/
def TktUnit.reset : TktUnit where
  source := 0
  recv := []
  low := []
  attach := []
  route := []
  cur := []
  window := []
  closed := false
  number := 0
  plan := []
  groups := []
  gathered := 0
  restore := false
  fmt := 0
  cols := 0
  stored := []
  emitted := 0
  voids := []
  waiting := none
  taking := false
  plans := 0
  judged := none
  packs := []
  tokens := []
/-- A tile outside any RUN: zero registers and memory, empty banks (R107, R150).
Log entry 7, DESIGN CHOICE. -/
def Tile.reset : Tile where
  bank0 := none
  bank1 := none
  cur1 := false
  patch0 := []
  patch1 := []
  loading := []
  run := none
  pos := 0
  loops := []
  ended := false
  v := []
  g := []
  x := []
  gens := []
  draws := []
  flags := 0
  mem := []
  sets := []
  mxu := none
  rowBuf := []
  carryBuf := []
  rowsDone := 0
  sent := []
  rest := []
  wait := none
  cursors := []
  tkt := TktUnit.reset
  regs := []
  failed := false
  upsets := []
  held := none
  lastT := none
  vxPort := none
/-- No line written, no line failing, the root and the high-water mark whole dual-rail words of zero (R272, R273).
Log entry 7, DESIGN CHOICE. -/
def Shroud.reset : Shroud := ⟨[], [], [], [], 0, [], [], [], 0, 0xFFFFFFFFFFFFFF, List.replicate 8 0, List.replicate 8 0xFFFFFFFFFFFFFF, [], 0, []⟩
/-- A flash tier with no segment written, erased or retired.
Log entry 7, DESIGN CHOICE. -/
def Flash.reset : Flash := ⟨[], [], [], [], [], [], [], [], [], 0⟩
/-- Domains off, no demand, no trip, TS accumulator zero (R542 to R552).
Log entry 7, DESIGN CHOICE. Log entry 63, DESIGN CHOICE. -/
def Pwr.reset : Pwr := ⟨[], [], 0, 0, 0, 0, false, false, none, 0, none, false, true, false, 0, [], 0, 0, [], []⟩
def Adpt.reset : Adpt := ⟨[], [], [], List.replicate 16 0, [], none⟩
def RPort.reset : RPort where
  st := .down
  since := 0
  falls := []
  byLoss := false
  retrain := none
  secret := 0
  txSeq := 0
  rxSeq := 0
  sent := []
  resend := 0
  ackTs := 0
  failed := none
  nak := false
  queue := []
  credits := []
  owed := []
  ctlGap := 0
  turn := 0
  hbDue := none
  hbNext := 0
  hbMiss := 0
  hbGot := 0
  stall := []
  echo := (0, 0)
  peer := 0
  auth := none
/-- Every port DOWN with its counters at zero, no troupe table, TROUPE_TIME unsynchronised (R348, R364).
Log entry 7, DESIGN CHOICE. -/
def Rig.reset : Rig where
  ports := []
  rx := []
  partials := []
  inbox := []
  troupe := []
  pos := none
  placed := none
  lost := []
  noRoute := []
  serving := []
  master := 0
  parent := none
  depth := 0
  theta := 0
  unsync := true
  orphan := none
  steer := 0
  fwd := []
  fwdDone := []
  regReq := []
  wire := []
  authOut := []
  fwdRecs := []
  fwdRegs := []
def Onlyn.reset : Onlyn := ⟨[], [], [], 0, none, .factory, .factory, false, none, []⟩
/-- SEC with no message, no SPDM connection and the life-cycle word FIELD as a whole dual-rail word (R488).
Log entry 63, DESIGN CHOICE. -/
def Sec.reset : Sec := ⟨0, none, [], [], .start, none, 0, 3, 0xFFFFFFFC, none, false, some 3⟩
def Boot.reset : Boot := ⟨none, false, true, false⟩
/-- Pins and sensors as they are before power good, and no answer of a read yet.
Log entry 7, DESIGN CHOICE. Log entry 63, DESIGN CHOICE. -/
def Pins.reset : Pins := ⟨true, false, 0, false, 50, [], [], none, 0, [], []⟩
/-- The machine before its power is good: no command waiting, every register at its reset value, every memory
empty. A start-up is then commanded (R553); registers for which the manual gives no value are zero or empty.
Log entry 3, DESIGN CHOICE. Log entry 7, DESIGN CHOICE. Log entry 63, DESIGN CHOICE. -/
def State.reset : State where
  pending := []
  ts := 0
  free := 0
  dev := ⟨[], none, [], [], [], [], false, false, [], [], []⟩
  fns := []
  parts := []
  keys := []
  ctxs := []
  queues := []
  objs := []
  objGens := []
  events := []
  waits := []
  accs := []
  works := []
  runs := []
  tiles := []
  hbm := []
  hbmUsed := []
  wiping := []
  flash := Flash.reset
  shroud := Shroud.reset
  msix := []
  hostOut := []
  pwr := Pwr.reset
  adpt := Adpt.reset
  usets := []
  recipes := []
  unitGens := []
  groups := []
  rig := Rig.reset
  heldSnaps := []
  onlyn := Onlyn.reset
  sec := Sec.reset
  boot := Boot.reset
  pins := Pins.reset

end Sys2Proof.Machine
end

