-- ==== Sys2Proof/Machine/Entries.lean ====
section
/-! DEFINITION. Submission entries (R402 to R404): their bytes read as commands, and which objects a
command names. -/

namespace Sys2Proof.Machine

/-- A submission entry as read from a ring: header fields, command, and ring entries taken. -/
structure RawEntry where
  opcode : Nat
  barrier : Bool
  tag : U32
  hostTs : U64
  cmd : HostCmd
  span : Nat
  deriving DecidableEq, Repr

/-- Whether every byte outside the named ranges is zero (R11, R404). -/
def onlyNamed (bs : Bytes) (ranges : List (Nat × Nat)) : Bool :=
  (List.range 128).all (fun i =>
    ranges.any (fun r => r.1 ≤ i && i < r.1 + r.2) || bs.getD i 0 == 0)

def u8At (bs : Bytes) (o : Nat) : U8 := BitVec.ofNat 8 (fieldLE bs o 1)
def u16At (bs : Bytes) (o : Nat) : U16 := BitVec.ofNat 16 (fieldLE bs o 2)
def u32At (bs : Bytes) (o : Nat) : U32 := BitVec.ofNat 32 (fieldLE bs o 4)
def u64At (bs : Bytes) (o : Nat) : U64 := BitVec.ofNat 64 (fieldLE bs o 8)
def u128At (bs : Bytes) (o : Nat) : U128 := BitVec.ofNat 128 (fieldLE bs o 16)

/-- The argument ranges of a command, and the command, by opcode (R404); none for an opcode that the
table does not list. RUN is read apart. -/
def entryArgs (bs : Bytes) : Nat → Option (List (Nat × Nat) × HostCmd)
  | 0x02 => some ([(0x10, 42)], .copy ⟨u32At bs 0x10, u32At bs 0x14, u64At bs 0x18, u64At bs 0x20, u64At bs 0x28, u64At bs 0x30, u16At bs 0x38⟩)
  | 0x03 => some ([(0x10, 24)], .fill ⟨u32At bs 0x10, u32At bs 0x14, u64At bs 0x18, u64At bs 0x20⟩)
  | 0x04 => some ([(0x10, 4), (0x18, 16)], .wait ⟨u32At bs 0x10, u64At bs 0x18, u64At bs 0x20⟩)
  | 0x05 => some ([(0x10, 4), (0x18, 8)], .signal ⟨u32At bs 0x10, u64At bs 0x18⟩)
  | 0x06 => some ([(0x10, 7), (0x18, 2)], .objectCreate ⟨u8At bs 0x10, u8At bs 0x11, u16At bs 0x12, BitVec.ofNat 24 (fieldLE bs 0x14 3), u16At bs 0x18⟩)
  | 0x07 => some ([(0x10, 4)], .objectFree (u32At bs 0x10))
  | 0x08 => some ([(0x10, 16)], .eventCreate ⟨u64At bs 0x10, u32At bs 0x18, u16At bs 0x1C, u16At bs 0x1E⟩)
  | 0x09 => some ([(0x10, 4)], .eventDestroy (u32At bs 0x10))
  | 0x0A => some ([(0x10, 8)], .seedSet (u64At bs 0x10))
  | 0x0B => some ([(0x10, 4)], .eventQuery (u32At bs 0x10))
  | 0x10 => some ([(0x10, 5), (0x18, 8)], .loadImage ⟨u32At bs 0x10, u8At bs 0x14, u64At bs 0x18⟩)
  | 0x11 => some ([(0x10, 1)], .unloadImage (u8At bs 0x10))
  | 0x12 => some ([(0x10, 4)], .seal (u32At bs 0x10))
  | 0x13 => some ([(0x10, 6)], .publish ⟨u32At bs 0x10, u16At bs 0x14⟩)
  | 0x14 => some ([(0x10, 1), (0x12, 6)], .pinAdapter ⟨u8At bs 0x10, u16At bs 0x12, u32At bs 0x14⟩)
  | 0x15 => some ([(0x12, 2)], .unpinAdapter (u16At bs 0x12))
  | 0x16 => some ([(0x12, 2)], .evictAdapter (u16At bs 0x12))
  | 0x17 => some ([(0x12, 14)], .probeReport ⟨u16At bs 0x12, u32At bs 0x14, u64At bs 0x18⟩)
  | 0x18 => some ([], .snapshot)
  | 0x19 => some ([(0x10, 2)], .rekey (u16At bs 0x10))
  | 0x1A => some ([(0x10, 1), (0x14, 12)], .recipeLoad ⟨u8At bs 0x10, u32At bs 0x14, u64At bs 0x18⟩)
  | 0x1B => some ([(0x10, 1), (0x14, 12)], .updateSetCreate ⟨u8At bs 0x10, u32At bs 0x14, u64At bs 0x18⟩)
  | 0x1C => some ([(0x10, 1)], .updateSetDestroy (u8At bs 0x10))
  | 0x1D => some ([(0x10, 2), (0x14, 36)], .groupJoin ⟨u8At bs 0x10, u8At bs 0x11, u32At bs 0x14, u128At bs 0x18, u128At bs 0x28⟩)
  | 0x40 => some ([(0x10, 2)], .contextCreate ⟨u8At bs 0x10, u8At bs 0x11⟩)
  | 0x41 => some ([(0x10, 2)], .contextDestroy (u16At bs 0x10))
  | 0x42 => some ([(0x10, 4)], .queueCreate ⟨u16At bs 0x10, u8At bs 0x12, u8At bs 0x13⟩)
  | 0x43 => some ([(0x10, 4)], .queueDestroy ⟨u16At bs 0x10, u16At bs 0x12⟩)
  | 0x44 => some ([(0x10, 4)], .queueAbort ⟨u16At bs 0x10, u16At bs 0x12⟩)
  | 0x45 => some ([(0x10, 1)], .partitionAbort (u8At bs 0x10))
  | 0x50 => some ([(0x10, 4), (0x18, 8)], .troupeSet ⟨u32At bs 0x10, u64At bs 0x18⟩)
  | 0x51 => some ([(0x10, 4), (0x18, 8)], .groupSet ⟨u32At bs 0x10, u64At bs 0x18⟩)
  | 0x52 => some ([(0x10, 4), (0x18, 8)], .groupClear ⟨u32At bs 0x10, u64At bs 0x18⟩)
  | 0x53 => some ([(0x10, 4)], .basePropose (u32At bs 0x10))
  | 0x54 => some ([], .baseCommit)
  | 0x55 => some ([], .baseAbandon)
  | _ => none

/-- Entries a RUN needs for its argument slots (R403). -/
def runEntries (slots : Nat) : Nat := 1 + ceilDiv (slots - 13) 14

/-- Whether a further entry of a RUN is well formed: opcode 0xFF, bytes 0x01 to 0x0F zero (R403). -/
def contOk (bs : Bytes) : Bool := fieldLE bs 0 1 == 0xFF && reservedZero bs 1 15

/-- The argument slots of a RUN over its entries. -/
def runSlots (first : Bytes) (rest : List Bytes) (n : Nat) : List U64 :=
  (((List.range 13).map (fun i => u64At first (0x18 + 8 * i))) ++
    rest.flatMap (fun b => (List.range 14).map (fun i => u64At b (0x10 + 8 * i)))).take n

/-- Read the entry at the head of a list of ring entries; the list holds the entry and those ready
behind it. None: a multi-entry RUN whose further entries are not ready yet (R399). -/
def readEntry (l : List Bytes) : Option RawEntry :=
  match l with
  | [] => none
  | bs :: more =>
    let op := fieldLE bs 0 1
    let fl := fieldLE bs 1 1
    let tag := u32At bs 4
    let hts := u64At bs 8
    let mk (c : HostCmd) (n : Nat) : RawEntry := ⟨op, fl % 2 == 1, tag, hts, c, n⟩
    if op = 0x01 then
      let n := fieldLE bs 0x12 1
      if n < 1 || 5 < n then some (mk .bad 1)
      else if more.length < n - 1 then none
      else
        let slots := fieldLE bs 0x13 1
        let rest := more.take (n - 1)
        let ok := onlyNamed bs [(0, 2), (4, 12), (0x10, 112)] && fl < 2 && slots ≤ 64 &&
          n == runEntries slots && fieldLE bs 0x11 1 < 2 && fieldLE bs 0x17 1 == 0 && rest.all contOk
        if ok then
          some (mk (.run ⟨u8At bs 0x10, fieldLE bs 0x11 1 == 1, BitVec.ofNat 24 (fieldLE bs 0x14 3), runSlots bs rest slots⟩) n)
        else some (mk .bad n)
    else
      match entryArgs bs op with
      | none => some (mk .bad 1)
      | some (rs, c) =>
        if onlyNamed bs ([(0, 2), (4, 12)] ++ rs) && fl < 2 then some (mk c 1) else some (mk .bad 1)

/-! ### Entries as bytes -/

/-- The opcode of a command (R402); an entry the decoder finds malformed has none. -/
def cmdOpcode : HostCmd → Nat
  | .run _ => 0x01
  | .copy _ => 0x02
  | .fill _ => 0x03
  | .wait _ => 0x04
  | .signal _ => 0x05
  | .objectCreate _ => 0x06
  | .objectFree _ => 0x07
  | .eventCreate _ => 0x08
  | .eventDestroy _ => 0x09
  | .seedSet _ => 0x0A
  | .eventQuery _ => 0x0B
  | .loadImage _ => 0x10
  | .unloadImage _ => 0x11
  | .seal _ => 0x12
  | .publish _ => 0x13
  | .pinAdapter _ => 0x14
  | .unpinAdapter _ => 0x15
  | .evictAdapter _ => 0x16
  | .probeReport _ => 0x17
  | .snapshot => 0x18
  | .rekey _ => 0x19
  | .recipeLoad _ => 0x1A
  | .updateSetCreate _ => 0x1B
  | .updateSetDestroy _ => 0x1C
  | .groupJoin _ => 0x1D
  | .contextCreate _ => 0x40
  | .contextDestroy _ => 0x41
  | .queueCreate _ => 0x42
  | .queueDestroy _ => 0x43
  | .queueAbort _ => 0x44
  | .partitionAbort _ => 0x45
  | .troupeSet _ => 0x50
  | .groupSet _ => 0x51
  | .groupClear _ => 0x52
  | .basePropose _ => 0x53
  | .baseCommit => 0x54
  | .baseAbandon => 0x55
  | .bad => 0

/-- The arguments of a command from byte 0x10 of its entry on, RUN apart (R404). -/
def argBytes : HostCmd → Bytes
  | .copy a => leBytes 4 a.src.toNat ++ leBytes 4 a.dst.toNat ++ leBytes 8 a.srcOff.toNat ++ leBytes 8 a.dstOff.toNat ++ leBytes 8 a.len.toNat ++ leBytes 8 a.host.toNat ++ leBytes 2 a.wrap.toNat
  | .fill a => leBytes 4 a.handle.toNat ++ leBytes 4 a.pattern.toNat ++ leBytes 8 a.off.toNat ++ leBytes 8 a.len.toNat
  | .wait a => leBytes 4 a.event.toNat ++ zeros 4 ++ leBytes 8 a.target.toNat ++ leBytes 8 a.deadline.toNat
  | .signal a => leBytes 4 a.event.toNat ++ zeros 4 ++ leBytes 8 a.value.toNat
  | .objectCreate a => leBytes 1 a.tier.toNat ++ leBytes 1 a.kind.toNat ++ leBytes 2 a.keySlot.toNat ++ leBytes 3 a.pages.toNat ++ zeros 1 ++ leBytes 2 a.flags.toNat
  | .objectFree h | .seal h | .basePropose h | .eventDestroy h | .eventQuery h => leBytes 4 h.toNat
  | .eventCreate a => leBytes 8 a.initial.toNat ++ leBytes 4 a.cookie.toNat ++ leBytes 2 a.vector.toNat ++ leBytes 2 a.flags.toNat
  | .seedSet x => leBytes 8 x.toNat
  | .loadImage a => leBytes 4 a.handle.toNat ++ leBytes 1 a.slot.toNat ++ zeros 3 ++ leBytes 8 a.off.toNat
  | .unloadImage x | .updateSetDestroy x | .partitionAbort x => leBytes 1 x.toNat
  | .publish a => leBytes 4 a.handle.toNat ++ leBytes 2 a.keySlot.toNat
  | .pinAdapter a => leBytes 1 a.form.toNat ++ zeros 1 ++ leBytes 2 a.slot.toNat ++ leBytes 4 a.handle.toNat
  | .unpinAdapter x | .evictAdapter x => zeros 2 ++ leBytes 2 x.toNat
  | .probeReport a => zeros 2 ++ leBytes 2 a.slot.toNat ++ leBytes 4 a.handle.toNat ++ leBytes 8 a.off.toNat
  | .rekey x | .contextDestroy x => leBytes 2 x.toNat
  | .recipeLoad a => leBytes 1 a.entry.toNat ++ zeros 3 ++ leBytes 4 a.handle.toNat ++ leBytes 8 a.off.toNat
  | .updateSetCreate a => leBytes 1 a.set.toNat ++ zeros 3 ++ leBytes 4 a.handle.toNat ++ leBytes 8 a.off.toNat
  | .groupJoin a => leBytes 1 a.group.toNat ++ leBytes 1 a.member.toNat ++ zeros 2 ++ leBytes 4 a.generation.toNat ++ leBytes 16 a.owner.toNat ++ leBytes 16 a.digest.toNat
  | .contextCreate a => leBytes 1 a.evLog2.toNat ++ leBytes 1 a.part.toNat
  | .queueCreate a => leBytes 2 a.ctx.toNat ++ leBytes 1 a.sqLog2.toNat ++ leBytes 1 a.cqLog2.toNat
  | .queueDestroy a | .queueAbort a => leBytes 2 a.ctx.toNat ++ leBytes 2 a.idx.toNat
  | .troupeSet a | .groupSet a | .groupClear a => leBytes 4 a.handle.toNat ++ zeros 4 ++ leBytes 8 a.off.toNat
  | .run _ | .snapshot | .baseCommit | .baseAbandon | .bad => []

/-- The first entry of a command with given arguments (R402). -/
def headBytes (op : Nat) (barrier : Bool) (tag : U32) (hostTs : U64) (args : Bytes) : Bytes :=
  leBytes 1 op ++ leBytes 1 (b2n barrier) ++ zeros 2 ++ leBytes 4 tag.toNat ++ leBytes 8 hostTs.toNat ++ padTo 112 args

/-- The further entries of a RUN: 14 argument slots each (R403). -/
def moreEntries : (fuel : Nat) → List U64 → List Bytes
  | 0, _ => []
  | k + 1, l => if l.isEmpty then [] else (leBytes 1 0xFF ++ zeros 15 ++ padTo 112 ((l.take 14).flatMap (fun x => leBytes 8 x.toNat))) :: moreEntries k (l.drop 14)

/-- The ring entries that spell a command, written from the tables of R402 to R404. -/
def encodeEntry (barrier : Bool) (tag : U32) (hostTs : U64) (c : HostCmd) : List Bytes :=
  match c with
  | .run a =>
    let more := moreEntries 4 (a.slots.drop 13)
    headBytes 0x01 barrier tag hostTs (leBytes 1 a.imageSlot.toNat ++ leBytes 1 (b2n a.strict) ++ leBytes 1 (1 + more.length) ++ leBytes 1 a.slots.length ++
      leBytes 3 a.stream.toNat ++ zeros 1 ++ (a.slots.take 13).flatMap (fun x => leBytes 8 x.toNat)) :: more
  | c => [headBytes (cmdOpcode c) barrier tag hostTs (argBytes c)]

/-- Whether a command is a control command, handed to RING (R450). -/
def isControl : HostCmd → Bool
  | .run _ | .copy _ | .fill _ | .wait _ | .signal _ | .eventQuery _ | .queueAbort _
  | .contextDestroy _ | .partitionAbort _ | .bad => false
  | _ => true

/-- Which queue a command belongs on: `admin`, physical function's admin only, or a context queue. -/
inductive QKind
  | admin | pf | ctx
  deriving DecidableEq, Repr

def queueKind : HostCmd → QKind
  | .contextCreate _ | .contextDestroy _ | .queueCreate _ | .queueDestroy _ | .queueAbort _
  | .partitionAbort _ => .admin
  | .troupeSet _ | .groupSet _ | .groupClear _ | .basePropose _ | .baseCommit | .baseAbandon => .pf
  | _ => .ctx

/-- The memory object handles a command names, RUN apart. -/
def cmdHandles : HostCmd → List U32
  | .copy a => [a.src, a.dst].filter (fun h => h != 0xFFFFFFFF)
  | .fill a => [a.handle]
  | .loadImage a => [a.handle]
  | .seal h => [h]
  | .publish a => [a.handle]
  | .pinAdapter a => if a.form = 1 then [a.handle] else []
  | .probeReport a => [a.handle]
  | .recipeLoad a => [a.handle]
  | .updateSetCreate a => [a.handle]
  | .troupeSet a => [a.handle]
  | .groupSet a => [a.handle]
  | .groupClear a => [a.handle]
  | .basePropose h => [h]
  | _ => []

end Sys2Proof.Machine
end

