-- ==== Sys2Proof/Config.lean ====
section
/-! DEFINITION. What the FKL-T7's manual leaves open: free values, and the public-key functions of standards that the manual
names (the symmetric ones are defined in Machine/Crypto.lean). Each is a constant with no body: nothing can be proved of
its values, so a claim holds whatever they are. -/

namespace Sys2Proof.Config

/-- Draws of the true random number generator (R61, R454): a free value of the draw counter.
Log entry 3, DESIGN CHOICE. -/
opaque trng : Nat → U256

/-- A free 64-bit value, indexed by the model's draw counter (log entry 3, DESIGN CHOICE). -/
opaque freeWord : Nat → U64

/-- Microword `i` of Fykor's recipe entries 1 to 3, which the manual counts but does not list (R308).
Log entry 35, DESIGN CHOICE. -/
opaque fykorMicroword : (entry i : Nat) → U32

/-- Moment format and working copy rounding of Fykor's recipe entries, which the manual does not state (R308).
Log entry 35, DESIGN CHOICE. -/
opaque fykorRounding : (entry : Nat) → U32

/-- What a recipe reads as moment 1 or 2 of a parameter when its state keeps no such moment (R305, R307; log
entry 67, DESIGN CHOICE).
Log entry 67, DESIGN CHOICE. -/
opaque absentMoment : (moment param : Nat) → U32

/-- The firmware version and digest of the running image (R434), which the manual does not state.
Log entry 140, DESIGN CHOICE. -/
opaque fwVersion : U32
/-- The SHA-384 digest of the running firmware image, which the manual does not state (R434).
Log entry 140, DESIGN CHOICE. -/
opaque fwDigest : U384

/-- The version of an image that an update has written (R434, R441). -/
opaque fwVersionOf : List U8 → U32

/-- Version and measured digest of a component of a firmware image, by the image's digest and the component (R477), and the
security version in the fuses (R441, R476).
Log entry 140, DESIGN CHOICE. -/
opaque componentVersion : List U8 → Nat → U32
/-- The digest of a component's text in an image (R431, R434), which the manual does not state.
Log entry 140, DESIGN CHOICE. -/
opaque componentDigest : List U8 → Nat → U384
/-- The security version in the fuses (R441), which the manual does not state.
Log entry 140, DESIGN CHOICE. -/
opaque rollbackFuse : U16

/-- Feature offer of a function: reset "—", computed by Onlyn (R435, R592). -/
opaque featOffer : Nat → U256

/-- Answers whose form belongs to a standard outside the manual: SPDM, PLDM, MCTP, PCI Express
configuration and RISC-V debug answers, indexed by the request's bytes and the draw counter.
Log entry 129, DESIGN CHOICE. -/
opaque stdAnswer : List U8 → Nat → List U8

/-- The voltage and frequency PWR chooses for a domain (R444 gives the aim, not the value). -/
opaque domainOperatingPoint : (domain iteration : Nat) → U32

/-- The voltage PWR chooses for the rail that a bus sets on a rail select (R444, R572).
Log entry 212, DESIGN CHOICE. -/
opaque railVoltage : (bus rail iteration : Nat) → U32

/-- Which line the metadata cache gives up when it is full, by the count of lines it has given up (R275).
Log entry 207, DESIGN CHOICE. -/
opaque metaVictim : Nat → U32

/-- A byte of parity part `q` (0 or 1) of a flash row, from the 14 data bytes at its place (R246).
Log entry 8, DESIGN CHOICE. -/
opaque rowParity : (q : Nat) → (data : List U8) → U8

/-- Parity byte `q` (0 to 7) of a codeword of a Rigging frame, from its 128 data bytes (R329).
Log entry 213, DESIGN CHOICE. -/
opaque fecParity : (data : List U8) → (q : Nat) → U8

/-- The unique secret in the fuses (R454). -/
opaque uniqueSecret : List U8

/-- The byte at place `i` of a row's beats that the row's data do not reach: a beat has 64 data bytes (R142), and no rule gives these a value.
Log entry 193, DESIGN CHOICE. -/
opaque beatFill : (data : List U8) → (i : Nat) → U8

/-- ML-KEM-1024 decapsulation under the key pair with this number (FIPS 203; R466, R468).
Log entry 9, PRESUMED. -/
opaque mlkemDecaps : (keyPair : U256) → (ct : List U8) → U256

/-- ML-KEM-1024 encapsulation to a key with some randomness: ciphertext and shared secret (FIPS 203; R336, R472). -/
opaque mlkemCipher : (key : List U8) → (rand : U256) → List U8
opaque mlkemShared : (key : List U8) → (rand : U256) → U256

/-- The encapsulation key of a key pair (FIPS 203; R463). -/
opaque mlkemPublic : (keyPair : U256) → List U8

/-- Identity of the device: the DER leaf certificates and chains (R455, R476). -/
opaque rsaLeaf : List U8
opaque slhLeaf : List U8
opaque rsaChain : List U8
opaque slhChain : List U8

/-- RSASSA-PSS and SLH-DSA signatures of the device (R479), and the verification of an RSA one under a peer's
certificate (R472).
Log entry 9, PRESUMED. -/
opaque rsaSign : List U8 → List U8
opaque slhSign : List U8 → List U8
/-- Whether an RSA-3072 PSS signature verifies under a certificate (R472), uninterpreted.
Log entry 9, PRESUMED. -/
opaque rsaVerify : (cert msg sig : List U8) → Bool
/-- Whether a leaf certificate chains to Fykor's root (R472). -/
opaque certOk : List U8 → Bool
/-- Whether Fykor's life-cycle token verifies (R489). -/
opaque fykorTokenOk : List U8 → Bool

end Sys2Proof.Config
end

