-- ==== Sys2Proof/Machine/Tree.lean ====
section
/-! DEFINITION. The Shroud's metadata (R240, R261 to R268, R270 to R276, R281, R282): where it lies, its 64-byte layouts and MACs, the counter tree, and the
metadata cache with its write-back. -/

namespace Sys2Proof.Machine

/-! ### Ordered lists of numbers -/

def insertNat (n : Nat) : List Nat → List Nat
  | [] => [n]
  | x :: r => if n < x then n :: x :: r else if n = x then x :: r else x :: insertNat n r

def removeNat (n : Nat) (l : List Nat) : List Nat := l.filter (fun x => x != n)

/-! ### Where data and metadata lie (R240, R261, R262) -/

/-- The pseudo-channel pair and the slot of an HBM frame, and the pseudo-channel of its counter block `i`. -/
def pairOf (frame : Nat) : Nat := frame % 256
def pairSlot (frame : Nat) : Nat := frame / 256
def pseudoChannel (frame i : Nat) : Nat := 2 * pairOf frame + i % 2

/-- Counter blocks of a pair. -/
def pairBlocks : Nat := 458752

/-- Local and global index of counter block `i` of a frame. -/
def localBlock (frame i : Nat) : Nat := 16 * pairSlot frame + i
def globalBlock (frame i : Nat) : Nat := pairBlocks * pairOf frame + localBlock frame i

/-- The global index of the block at a position f x 16 + i, the positions of R286; and the position of a global index. -/
def globalOf (pos : Nat) : Nat := globalBlock (pos / 16) (pos % 16)
def posOf (g : Nat) : Nat := 16 * (256 * (g % pairBlocks / 16) + g / pairBlocks) + g % 16

/-- Pair-local addresses: a frame's data, the tag of line `m` of block `b`, the block itself, and its node of height 1 to 5. -/
def frameAddr (frame : Nat) : Nat := 0x10000 * pairSlot frame
def tagAddr (b m : Nat) : Nat := 0x70000000 + 512 * b + 8 * m
def blockAddr (b : Nat) : Nat := 0x7E000000 + 64 * b
def nodeBase (k : Nat) : Nat := if k = 1 then 0x7FC00000 else if k = 2 then 0x7FF80000 else if k = 3 then 0x7FFF0000 else if k = 4 then 0x7FFFE000 else 0x7FFFFC00
def nodeAddr (k b : Nat) : Nat := nodeBase k + 64 * (b / 8 ^ k)

/-- The number of node `n` of height 6, 7 or 8, and the pair and address that hold it. -/
def topNumber (k n : Nat) : Nat := if k = 6 then n else if k = 7 then 448 + n else 504 + n
def topPlace (k n : Nat) : Nat × Nat := (topNumber k n % 256, 0x7FFFFF80 + 64 * (topNumber k n / 256))

/-- The pair and the pair-local address of a counter block (height 0) or node by its index over all pairs. -/
def metaPlace (k n : Nat) : Nat × Nat :=
  if k = 0 then (n / pairBlocks, blockAddr (n % pairBlocks))
  else if k ≤ 5 then (n / (pairBlocks / 8 ^ k), nodeBase k + 64 * (n % (pairBlocks / 8 ^ k)))
  else topPlace k n

/-- Line addresses of the input block: a line of a frame, and a node or counter block by pair and address (R265). -/
def dataAddr (frame line : Nat) : Nat := frame * 1024 + line
def metaAddr (pair addr : Nat) : Nat := pair * 2 ^ 25 + addr / 64
def metaLineAddr (k n : Nat) : Nat := metaAddr (metaPlace k n).1 (metaPlace k n).2

/-! ### Layouts and MACs (R263, R265 to R268) -/

/-- A counter block's 64 bytes. -/
def CtrBlock.bytes (b : CtrBlock) : Bytes :=
  leBytes 7 b.major ++ [0] ++ leBytes 56 (b.minors.foldl (fun (n : Nat) (e : Nat × Nat) => n + e.2 % 128 * 2 ^ (7 * e.1)) 0)

/-- A node's child fields as bytes 0 to 55, and the node's 64 bytes. -/
def fieldBytes (fields : List Nat) : Bytes := (List.range 8).flatMap (fun c => leBytes 7 (nth0 fields c))
def TreeNode.bytes (n : TreeNode) : Bytes := fieldBytes n.fields ++ leBytes 8 n.mac

/-- The 128-bit input block. -/
def inputBlock (addr major minor quarter domain : Nat) : U128 :=
  BitVec.ofNat 128 (addr % 2 ^ 48 * 2 ^ 80 + major % 2 ^ 56 * 2 ^ 24 + minor % 128 * 2 ^ 17 + quarter % 4 * 2 ^ 15 + domain % 8 * 2 ^ 12)

/-- The GMAC construction over an input block and data padded to whole blocks, with the length in bits that enters it. -/
def guardMac (key : U256) (d : U128) (data : Bytes) (bits : Nat) : Bytes :=
  let a := blockBytesBE d ++ data ++ (leBytes 8 bits).reverse ++ zeros 8
  blockBytesBE (ghash (aes256 key 0) (a.length / 16) a 0 ^^^ aes256 key d)

/-- The MAC of node `n` at height `k` over its child fields, under the parent's field for it; and a counter block's. -/
def nodeMac (treeKey : U256) (k n field : Nat) (fields : List Nat) : Nat :=
  leNat ((guardMac treeKey (inputBlock (metaLineAddr k n) field k 0 4) (fieldBytes fields ++ zeros 8) 576).take 8)
def blockMac (treeKey : U256) (g : Nat) (b : CtrBlock) : Nat :=
  leNat ((guardMac treeKey (inputBlock (metaLineAddr 0 g) 0 0 0 5) b.bytes 640).take 7)

/-! ### Places in the tree and the cache -/

/-- A line of metadata by height and index: counter blocks at height 0, nodes at 1 to 8, lines of tags at 9 by 8 x block + line / 8. -/
def metaKey (k n : Nat) : Nat := k * 2 ^ 30 + n
def keyHeight (m : Nat) : Nat := m / 2 ^ 30
def keyIndex (m : Nat) : Nat := m % 2 ^ 30

/-- The parent of a counter block or node below height 8; the parent of a height-8 node is the root. -/
def parentKey (m : Nat) : Option Nat := if keyHeight m < 8 then some (metaKey (keyHeight m + 1) (keyIndex m / 8)) else none

/-- What guards a line: its nodes from height 8 down, its counter block, and its line of tags. -/
def lineKeys (line : Nat) : List Nat :=
  let g := globalOf (line / 64)
  ((List.range 9).map (fun i => metaKey (8 - i) (g / 8 ^ (8 - i)))) ++ [metaKey 9 (8 * g + line % 64 / 8)]

/-- Whether node or block `n` at height `k` is a failed one or lies beneath one (R281). -/
def Shroud.under (h : Shroud) (k n : Nat) : Bool := h.failed.any (fun f => k ≤ f.1 && n / 8 ^ (f.1 - k) == f.2)
def Shroud.keyUnder (h : Shroud) (m : Nat) : Bool := keyHeight m ≤ 8 && h.under (keyHeight m) (keyIndex m)

/-- A counter block's newest contents: the cache's, else memory's. -/
def Shroud.block (h : Shroud) (pos : Nat) : CtrBlock :=
  match h.cache.get (metaKey 0 (globalOf pos)) with
  | some x => x.block
  | none => h.blocks.getD pos ⟨0, []⟩

/-- The minor of a line. -/
def Shroud.minor (h : Shroud) (line : Nat) : Nat := (h.block (line / 64)).minors.getD (line % 64) 0

/-- The field a parent holds for a node: that of its cached parent, of the parent in memory, or of the root. -/
def Shroud.fieldFor (h : Shroud) (m : Nat) : Nat :=
  match parentKey m with
  | none => nth0 h.root (keyIndex m % 8)
  | some p => (match h.cache.get p with
    | some x => nth0 x.fields (keyIndex m % 8)
    | none => nth0 (h.nodes.getD p ⟨[], 0⟩).fields (keyIndex m % 8))

/-- A node as memory holds it; one that has never been written back has zero fields and the MAC that goes with them.
Log entry 207, DESIGN CHOICE. -/
def Shroud.nodeAt (h : Shroud) (k n : Nat) : TreeNode :=
  match h.nodes.get (metaKey k n) with
  | some x => x
  | none => ⟨List.replicate 8 0, nodeMac h.treeKey k n (h.fieldFor (metaKey k n)) []⟩

/-- A line of metadata as it comes from memory. -/
def Shroud.fromMem (h : Shroud) (m : Nat) : MetaLine :=
  if keyHeight m = 0 then ⟨false, h.blocks.getD (posOf (keyIndex m)) ⟨0, []⟩, []⟩
  else if keyHeight m ≤ 8 then ⟨false, ⟨0, []⟩, (h.nodes.getD m ⟨List.replicate 8 0, 0⟩).fields⟩
  else ⟨false, ⟨0, []⟩, []⟩

/-! ### The metadata cache (R275)

Its 16 MiB hold 262,144 lines. Which lines it gives up when it is full is not stated: a free value names one of those without a cached child. -/

def metaLines : Nat := 262144

/-- Set a field of a node for a child, in the cache. -/
def Shroud.setField (h : Shroud) (p c v : Nat) : Shroud :=
  let x := (h.cache.get p).getD (h.fromMem p)
  { h with cache := h.cache.set p { x with dirty := true, fields := lset x.fields c v } }

/-- Raise a counter of the root on both rails. -/
def Shroud.raiseRoot (h : Shroud) (c : Nat) : Shroud :=
  let v := (nth0 h.root c + 1) % 2 ^ 56
  { h with root := lset h.root c v, rootN := lset h.rootN c (2 ^ 56 - 1 - v) }

/-- Write a dirty line back: its parent's field takes a counter block's MAC, or is incremented before a node's MAC is computed afresh. -/
def Shroud.writeBack (h : Shroud) (m : Nat) (x : MetaLine) : Shroud :=
  let k := keyHeight m
  let n := keyIndex m
  if k = 0 then
    let h := { h with blocks := h.blocks.set (posOf n) x.block }
    h.setField (metaKey 1 (n / 8)) (n % 8) (blockMac h.treeKey n x.block)
  else if k ≤ 8 then
    let h := (match parentKey m with
      | some p => h.setField p (n % 8) ((h.fieldFor m + 1) % 2 ^ 56)
      | none => h.raiseRoot (n % 8))
    { h with nodes := h.nodes.set m ⟨x.fields, nodeMac h.treeKey k n (h.fieldFor m) x.fields⟩ }
  else h

/-- Lines the cache may give up: none whose child is cached, none being used, no dirty one beneath a failed node (R282).
Log entry 207, DESIGN CHOICE. -/
def Shroud.victims (h : Shroud) (keep : List Nat) : List Nat :=
  let parents := h.cache.filterMap (fun (e : Nat × MetaLine) => parentKey e.1)
  (h.cache.filter (fun (e : Nat × MetaLine) => !parents.contains e.1 && !keep.contains e.1 && !(e.2.dirty && h.keyUnder e.1))).map (fun e => e.1)

/-- Give up one line when the cache is full.
Log entry 207, DESIGN CHOICE. -/
def Shroud.makePlace (h : Shroud) (keep : List Nat) : Shroud :=
  if h.cache.length < metaLines then h
  else
    let l := h.victims keep
    match l[(Config.metaVictim h.evicted).toNat % max 1 l.length]? with
    | none => h
    | some m =>
      let x := (h.cache.get m).getD (h.fromMem m)
      let h := { h with cache := h.cache.erase m, evicted := h.evicted + 1 }
      if x.dirty then h.writeBack m x else h

/-- Bring lines of metadata in, parents first. -/
def Shroud.load (h : Shroud) (keys : List Nat) : Shroud :=
  keys.foldl (fun h m => if h.cache.has m then h else
    let h := h.makePlace keys
    { h with cache := h.cache.set m (h.fromMem m) }) h

/-- Whether a line's counter block and line of tags are cached (R277). -/
def Shroud.hits (h : Shroud) (line : Nat) : Bool :=
  let g := globalOf (line / 64)
  h.cache.has (metaKey 0 g) && h.cache.has (metaKey 9 (8 * g + line % 64 / 8))

/-- Whether a counter block would have to come from memory beneath a failed node (R282). -/
def Shroud.blockLost (h : Shroud) (pos : Nat) : Bool := !h.cache.has (metaKey 0 (globalOf pos)) && h.under 0 (globalOf pos)

/-- Bring in what guards a line, unless that lies beneath a failed node. -/
def Shroud.loadLine (h : Shroud) (line : Nat) : Shroud := if h.hits line || h.blockLost (line / 64) then h else h.load (lineKeys line)

/-- Bring in what guards lines. -/
def Shroud.loadLines (h : Shroud) (ls : List Nat) : Shroud := ls.foldl Shroud.loadLine h

/-- Write a counter block: it stays in the cache, dirty. Beneath a failed node it is held aside until the rebuild. -/
def Shroud.putBlock (h : Shroud) (pos : Nat) (b : CtrBlock) : Shroud :=
  let m := metaKey 0 (globalOf pos)
  if h.blockLost pos then { h with blocks := h.blocks.set pos b }
  else
    let h := if h.cache.has m then h else h.load ((lineKeys (64 * pos)).take 9)
    { h with cache := h.cache.set m ⟨true, b, []⟩ }

/-- A line of tags has been written. -/
def Shroud.putTag (h : Shroud) (line : Nat) : Shroud :=
  let m := metaKey 9 (8 * globalOf (line / 64) + line % 64 / 8)
  if h.cache.has m then { h with cache := h.cache.set m ⟨true, ⟨0, []⟩, []⟩ } else h

/-! ### Parity errors in the cache (R276) -/

/-- A cache line whose parity fails is used: a clean one is dropped, to be read again; a dirty one is lost, and its counter block or node has failed. The
lines whose tags a lost line of tags held fail verification.
Log entry 207, DESIGN CHOICE. -/
def Shroud.upsetLine (h : Shroud) (m : Nat) : Shroud × List (Nat × Nat) :=
  match h.cache.get m with
  | none => (h, [])
  | some x =>
    let h := { h with cache := h.cache.erase m, upsets := h.upsets.filter (fun u => u != m) }
    if !x.dirty then (h, [])
    else if keyHeight m ≤ 8 then
      let f := (keyHeight m, keyIndex m)
      (if h.failed.contains f then (h, []) else ({ h with failed := h.failed ++ [f] }, [f]))
    else
      let first := 64 * posOf (keyIndex m / 8) + 8 * (keyIndex m % 8)
      let gone := ((List.range 8).map (fun i => first + i)).filter (fun l => h.minor l != 0)
      ({ h with bad := gone.foldl (fun b l => insertNat l b) h.bad }, [])

/-- The upset lines among those a list of lines uses, each dealt with: the counter blocks and nodes that have failed. -/
def Shroud.settleUpsets (h : Shroud) (ls : List Nat) : Shroud × List (Nat × Nat) :=
  if h.upsets.isEmpty then (h, [])
  else
    let used := (ls.flatMap lineKeys).eraseDups
    (h.upsets.filter used.contains).foldl (fun (a : Shroud × List (Nat × Nat)) m =>
      let (h, f) := a.1.upsetLine m
      (h, a.2 ++ f)) (h, [])

/-! ### Counters (R270 to R272, R284) -/

/-- Whether the root and the mark pass their dual-rail check (R284). -/
def Shroud.railsOk (h : Shroud) : Bool :=
  h.hwmN == 2 ^ 56 - 1 - h.hwm && h.rootN == h.root.map (fun x => 2 ^ 56 - 1 - x)

/-- Raise the high-water mark on both rails (R272). A mark whose rails disagree is left so. -/
def Shroud.setHwm (h : Shroud) (v : Nat) : Shroud :=
  if h.hwmN == 2 ^ 56 - 1 - h.hwm then { h with hwm := v % 2 ^ 56, hwmN := 2 ^ 56 - 1 - v % 2 ^ 56 } else h

/-- Initialise a counter block afresh: the mark plus one, every minor zero (R272). -/
def Shroud.initBlock (h : Shroud) (pos : Nat) : Shroud := (h.putBlock pos ⟨h.hwm + 1, []⟩).setHwm (h.hwm + 1)

/-- Initialise the 16 counter blocks of a frame. -/
def Shroud.initFrame (h : Shroud) (f : Nat) : Shroud :=
  (List.range 16).foldl (fun h i => h.initBlock (16 * f + i)) h

/-- Whether an HBM line fails verification: its counter block cannot be had, or it has been written and its tag is wrong (R270, R278, R282).
Log entry 8, DESIGN CHOICE. -/
def Shroud.lineBad (h : Shroud) (line : Nat) : Bool :=
  h.blockLost (line / 64) || (h.bad.contains line && h.minor line != 0)

end Sys2Proof.Machine
end

