-- ==== Sys2Proof/Machine/Ops.lean ====
section
/-! DEFINITION. Named operations over the state that every family of commands shares: registers and
counters, page tables and memory, frames, objects, records, starts and ends of commands, and the four
fault scopes. -/

namespace Sys2Proof.Machine

/-! ### Groups of state by index -/

def State.fn (s : State) (f : Nat) : FnSt := s.fns.getD f FnSt.reset
def State.setFn (s : State) (f : Nat) (x : FnSt) : State := { s with fns := s.fns.set f x }
def State.part (s : State) (p : Nat) : PartSt := s.parts.getD p PartSt.reset
def State.setPart (s : State) (p : Nat) (x : PartSt) : State := { s with parts := s.parts.set p x }
def State.tile (s : State) (t : Nat) : Tile := s.tiles.getD t Tile.reset
def State.setTile (s : State) (t : Nat) (x : Tile) : State := { s with tiles := s.tiles.set t x }
def State.key (s : State) (k : Nat) : KeySlot := s.keys.getD k KeySlot.reset
def State.setKey (s : State) (k : Nat) (x : KeySlot) : State := { s with keys := s.keys.set k x }
/-- A slot becomes EMPTY and its key is destroyed; when it was withdrawn stays known for the session (R516). -/
def State.emptyKey (s : State) (k : Nat) : State := s.setKey k { KeySlot.reset with gone := (s.key k).gone }
def State.setQueue (s : State) (q : Nat) (x : Queue) : State := { s with queues := s.queues.set q x }
def State.setCtx (s : State) (c : Nat) (x : Ctx) : State := { s with ctxs := s.ctxs.set c x }
def State.setObj (s : State) (k : Nat) (x : Obj) : State := { s with objs := s.objs.set k x }
def State.setRun (s : State) (r : Nat) (x : Run) : State := { s with runs := s.runs.set r x }
def State.setSess (s : State) (p : Nat) (x : Session) : State := s.setPart p { s.part p with sess := x }

/-- The queue's key: function and local index. -/
def qKey (q : QId) : Nat := q.fn.val * 65536 + q.idx
def qFn (k : Nat) : Nat := k / 65536
def qIdx (k : Nat) : Nat := k % 65536
/-- The admin queue of a function (R397). -/
def adminKey (f : Nat) : Nat := f * 65536

/-- A free value of the model's counter, and the state that has moved past it (log entry 3, DESIGN CHOICE). -/
def State.fresh (s : State) : Nat × State := (s.free, { s with free := s.free + 1 })

/-- Whether a function answers memory requests: a virtual function once VF Enable is set, no function in D3hot (R574), and none across a
closed PCIe crossing (R25).
Log entry 145, PRESUMED. -/
def State.fnOpen (s : State) (f : Nat) : Bool := (f = 0 || s.pins.vfEnable) && !(s.fn f).d3hot && !s.dev.closedPcie

/-- A power domain has just been used (R545). -/
def State.touchDom (s : State) (d : Nat) : State := { s with pwr := { s.pwr with doms := s.pwr.doms.modify d (fun (x : Dom) => { x with idleSince := s.ts }) } }

/-! ### Counters (64-bit, by offset) -/

def bump (t : Tbl Nat) (off n : Nat) : Tbl Nat := t.set off ((t.getD off 0 + n) % 2 ^ 64)
def State.bumpFn (s : State) (f off n : Nat) : State := s.setFn f { s.fn f with regs := bump (s.fn f).regs off n }
def State.bumpPart (s : State) (p off n : Nat) : State := s.setPart p { s.part p with regs := bump (s.part p).regs off n }
def State.bumpTile (s : State) (t off n : Nat) : State := s.setTile t { s.tile t with regs := bump (s.tile t).regs off n }
def State.bumpDev (s : State) (off n : Nat) : State := { s with dev := { s.dev with regs := bump s.dev.regs off n } }
def State.bumpPart? (s : State) (p : Option Nat) (off n : Nat) : State :=
  match p with
  | some p => s.bumpPart p off n
  | none => s

/-- HOSTQ block offsets (R424, R593). -/
def hqBackpressure : Nat := 0x1000
def hqBadHead : Nat := 0x1008
def hqStale : Nat := 0x1010
def hqEvtOverflow : Nat := 0x1018
def hqCtxLost : Nat := 0x1020
def hqFetchFault : Nat := 0x1028

/-- TIER block offsets within the partition window (R259, R596). -/
def cTierLate : Nat := 0x1000
def cTierRetry : Nat := 0x1008
def cTierReconstruct : Nat := 0x1010
def cTierChannelDown : Nat := 0x1018
def cTierStall : Nat := 0x1020
def cTierFail : Nat := 0x1028
def cHbmRetry : Nat := 0x1030
def cTierPartial : Nat := 0x1038

/-- SHROUD block offsets (R295). -/
def cTagFail : Nat := 0x2000
def cWriteRefused : Nat := 0x2008
def cOverflow : Nat := 0x2010
def cOverflowBytes : Nat := 0x2018
def cMetaMiss : Nat := 0x2020
def cCarouselWait : Nat := 0x2028
def cPoisoned : Nat := 0x2030

/-! ### Page table entries (R236 to R239) -/

/-- Page states (R238). -/
inductive PgSt
  | free | zero | valid | filling | written | sealedPg | incomplete | wiping
  deriving DecidableEq, Repr

def PgSt.code : PgSt → Nat
  | .free => 0 | .zero => 1 | .valid => 2 | .filling => 3
  | .written => 4 | .sealedPg => 5 | .incomplete => 6 | .wiping => 7

def PgSt.ofCode : Nat → PgSt
  | 1 => .zero | 2 => .valid | 3 => .filling | 4 => .written
  | 5 => .sealedPg | 6 => .incomplete | 7 => .wiping | _ => .free

def Pte.tier (p : Pte) : Nat := bitsOf p.ctl.toNat 30 2
def Pte.ownerPart (p : Pte) : Nat := bitsOf p.ctl.toNat 26 4
def Pte.keySlot (p : Pte) : Nat := bitsOf p.ctl.toNat 13 13
def Pte.wp (p : Pte) : Bool := bitOf p.ctl.toNat 12
def Pte.snap (p : Pte) : Bool := bitOf p.ctl.toNat 11
def Pte.mirror (p : Pte) : Bool := bitOf p.ctl.toNat 10
def Pte.trainable (p : Pte) : Bool := bitOf p.ctl.toNat 9
def Pte.st (p : Pte) : PgSt := PgSt.ofCode (bitsOf p.ctl.toNat 6 3)
def Pte.shared (p : Pte) : Bool := bitOf p.ctl.toNat 5
def Pte.frameNo (p : Pte) : Nat := p.frame.toNat % 2 ^ 28

/-- Write a control word and its complement together. -/
def Pte.setCtl (p : Pte) (c : U32) : Pte := { p with ctl := c, ctlN := ~~~c }

def Pte.withBit (p : Pte) (i : Nat) (b : Bool) : Pte :=
  p.setCtl (if b then p.ctl ||| (1#32 <<< i) else p.ctl &&& ~~~(1#32 <<< i))

def Pte.setSt (p : Pte) (st : PgSt) : Pte :=
  p.setCtl ((p.ctl &&& ~~~(7#32 <<< 6)) ||| BitVec.ofNat 32 (st.code * 64))

def Pte.setKeySlot (p : Pte) (k : Nat) : Pte :=
  p.setCtl ((p.ctl &&& ~~~(0x1FFF#32 <<< 13)) ||| BitVec.ofNat 32 (k % 8192 * 8192))

/-- The control word of a new page. -/
def mkCtl (tier owner key : Nat) (st : PgSt) (mirror trainable : Bool) : U32 :=
  BitVec.ofNat 32 (tier * 2 ^ 30 + owner % 16 * 2 ^ 26 + key % 8192 * 2 ^ 13 + b2n mirror * 1024 + b2n trainable * 512 + st.code * 64)

def mkPte (ctl : U32) (frame : Nat) (handle : U32) : Pte :=
  ⟨ctl, ~~~ctl, BitVec.ofNat 32 frame, handle, [], false⟩

/-- Whether an entry passes its dual-rail check (R237). -/
def Pte.railOk (p : Pte) : Bool := p.ctlN == ~~~p.ctl

/-- An inconsistent entry (R239). -/
def Pte.inconsistent (p : Pte) : Bool :=
  (p.tier == 2 && (p.trainable || p.mirror)) ||
  (p.tier == 1 && (p.st == .filling || p.st == .written || p.st == .sealedPg)) ||
  (p.tier == 2 && (p.st == .zero || p.st == .valid)) ||
  (p.shared && p.st != .sealedPg) ||
  ((p.tier == 0 || p.tier == 3) && p.st != .free)

/-- What a page answers an access with (R237 to R239). -/
inductive Verdict
  | ok | zeros | waits
  | bad (st : Status) (sc : Scope)
  deriving DecidableEq, Repr

/-- A read of a page. -/
def Pte.readVerdict (p : Pte) : Verdict :=
  if !p.railOk then .bad .parity .partition
  else if p.inconsistent then .bad .tierFail .context
  else
    match p.st with
    | .zero => .zeros
    | .valid | .sealedPg => .ok
    | .incomplete => if p.tier = 1 then .ok else .bad .bounds .context
    | .wiping => .bad .handle .context
    | _ => .bad .bounds .context

/-- A write of a page. -/
def Pte.writeVerdict (p : Pte) : Verdict :=
  if !p.railOk then .bad .parity .partition
  else if p.inconsistent then .bad .tierFail .context
  else
    match p.st with
    | .zero | .filling | .incomplete => .ok
    | .valid => if p.wp then (if p.snap then .waits else .bad .bounds .context) else .ok
    | .wiping => .bad .handle .context
    | _ => .bad .bounds .context

/-! ### Objects -/

def pageBytes : Nat := 65536

/-- The handle of an object at an index (R396). -/
def mkHandle (idx gen : Nat) : U32 := BitVec.ofNat 32 (gen % 4096 * 2 ^ 20 + idx % 2 ^ 20)

/-- The object a handle names: the current generation of its index, and a host-visible object. -/
def State.objOf (s : State) (h : U32) : Option (Nat × Obj) :=
  let i := h.toNat % 2 ^ 20
  match s.objs.get i with
  | some o => if h != 0xFFFFFFFF && o.gen == h.toNat / 2 ^ 20 && o.use == .object then some (i, o) else none
  | none => none

/-- A number that no object ever has. -/
def noObject : Nat := 2 ^ 32
/-- The object that a record names by a handle it holds: none once that object is freed, whatever takes its index.
Log entry 217, DESIGN CHOICE. -/
def State.named (s : State) (h : Nat) : Nat := match s.objOf (BitVec.ofNat 32 h) with
  | some (k, _) => k
  | none => noObject
/-- The handle of an object. -/
def State.handleOf (s : State) (k : Nat) : Nat := match s.objs.get k with
  | some o => (mkHandle k o.gen).toNat
  | none => noObject

/-- Logical pages of an object: half its pages when it is paired (R301). -/
def Obj.logPages (o : Obj) : Nat := if o.paired then o.pages.length / 2 else o.pages.length
def Obj.bytes (o : Obj) : Nat := o.logPages * pageBytes

/-- The page that holds logical page `j`: the committed half of a pair (R302). -/
def Obj.phys (o : Obj) (j : Nat) : Nat := if o.paired then 2 * j + o.half else j

def Obj.pte (o : Obj) (i : Nat) : Pte := o.pages.getD i (mkPte 0 0 0)

/-- The pages a write of logical page `j` reaches: both halves of a pair (R303). -/
def Obj.physW (o : Obj) (j : Nat) : List Nat := if o.paired then [2 * j, 2 * j + 1] else [j]

def Obj.setPte (o : Obj) (i : Nat) (p : Pte) : Obj := { o with pages := lset o.pages i p }

/-- Whether any page is INCOMPLETE (R255). -/
def Obj.incomplete (o : Obj) : Bool := o.pages.any (fun p => p.st == .incomplete)

/-- Split a range of an object into ranges within one page each. -/
def pageRanges (off len : Nat) : (fuel : Nat) → List (Nat × Nat)
  | 0 => []
  | n + 1 =>
    if len = 0 then []
    else
      let k := min len (pageBytes - off % pageBytes)
      (off, k) :: pageRanges (off + k) (len - k) n

/-- Cut a range at page boundaries. -/
def cutPages (off len : Nat) : List (Nat × Nat) := pageRanges off len (len / pageBytes + 2)

/-- The bytes of a range of an object, as the pages hold them; a ZERO page and everything past the
object read zero (R238, R270).
Log entry 8, DESIGN CHOICE. -/
def State.pageRead (s : State) (p : Pte) (off len : Nat) : Bytes :=
  if p.st == .zero then zeros len
  else if p.tier = 1 then s.hbm.reads (p.frameNo * pageBytes + off) len
  else s.flash.mem.reads (p.frameNo * pageBytes + off) len

def State.objRead (s : State) (key off len : Nat) : Bytes :=
  match s.objs.get key with
  | none => zeros len
  | some o => (cutPages off len).flatMap (fun r => s.pageRead (o.pte (o.phys (r.1 / pageBytes))) (r.1 % pageBytes) r.2)

/-- The first verdict against a read of a range, page by page (R238). -/
def Obj.readVerdict (o : Obj) (off len : Nat) : Verdict :=
  (cutPages off len).foldl (fun v r => match v with
    | .bad st sc => .bad st sc
    | _ => (match (o.pte (o.phys (r.1 / pageBytes))).readVerdict with
      | .bad st sc => .bad st sc
      | _ => .ok)) .ok

/-! ### Budgets (R446 to R448) -/

/-- Limits where SEC has written none: R425 and R446; a partition's own, which LAYOUT_SET always writes, and SEC's are unlimited.
Log entry 123, DEDUCED.
Log entry 222, DESIGN CHOICE. -/
def budgetDefault : Nat → Nat
  | 64 => 2048
  | 66 => 11264
  | 67 => 1024
  | 68 => 4096
  | 69 => 8192
  | 70 => 8192
  | 71 => 4096
  | 72 => 10240
  | 80 => 125
  | 81 => 160
  | _ => 0xFFFFF

/-- The budget word of an activity: 4p + 0 HBM, 1 flash, 2 Rigging and 3 DMA of a partition, 64 + c a component's cycles, 80 the Carousel, 81 the
snapshot engine. -/
def State.budgetWord (s : State) (k : Nat) : Nat := s.dev.regs.getD (0x100000 + 8 * k) (budgetDefault k)
def State.budgetRailOk (s : State) (k : Nat) : Bool :=
  s.dev.regs.getD (0x100004 + 8 * k) (2 ^ 32 - 1 - budgetDefault k) + s.budgetWord k == 2 ^ 32 - 1
/-- The dual-rail words of a partition that its RUNs and commands read: its partition table entry and its budget words (R13, R449).
Log entry 202, DEDUCED. -/
def State.partRails (s : State) (p : Nat) : Bool :=
  (s.part p).tableN == ~~~(s.part p).table && (List.range 4).all (fun i => s.budgetRailOk (4 * p + i))

/-- Log entry 202, DEDUCED. -/
def State.budgetLeft (s : State) (k : Nat) : Bool :=
  let l := s.budgetWord k % 2 ^ 20
  s.budgetRailOk k && (l == 0xFFFFF || s.dev.used.getD k 0 < l)
/-- Charge an activity, and note since when its budget is exhausted.
Log entry 123, DEDUCED. -/
def State.spend (s : State) (k n : Nat) : State :=
  if s.budgetWord k % 2 ^ 20 = 0xFFFFF then s
  else
    let s := { s with dev := { s.dev with used := s.dev.used.set k (s.dev.used.getD k 0 + n) } }
    if s.budgetLeft k || s.dev.dry.has k then s else { s with dev := { s.dev with dry := s.dev.dry.set k s.ts } }
/-- Write a budget word and its complement. -/
def State.setBudget (s : State) (k v : Nat) : State :=
  { s with dev := { s.dev with regs := (s.dev.regs.set (0x100000 + 8 * k) v).set (0x100004 + 8 * k) (2 ^ 32 - 1 - v) } }

/-! ### Lines: counters and integrity (R265 to R283) -/

/-- What one line write does to the counters (R270, R271): the shroud, whether the minor overflowed, the bytes moved by the overflow, and the lines carried
over poisoned. A full write replaces a failing line. -/
def Shroud.touchLine (h : Shroud) (line : Nat) : Shroud × Bool × Nat × Nat :=
  let h := h.loadLine line
  let pos := line / 64
  let m := line % 64
  let b := h.block pos
  let v := b.minors.getD m 0
  let clear (h : Shroud) : Shroud := { h.putTag line with bad := removeNat line h.bad, poison := removeNat line h.poison }
  if v < 127 then (clear (h.putBlock pos { b with minors := b.minors.set m (v + 1) }), false, 0, 0)
  else
    let others := b.minors.filter (fun e => e.1 != m && e.2 != 0)
    let failing := (others.map (fun e => 64 * pos + e.1)).filter h.bad.contains
    let h := h.putBlock pos ⟨b.major + 1, Tbl.set (others.map (fun e => (e.1, 1))) m 1⟩
    let h := others.foldl (fun h e => h.putTag (64 * pos + e.1)) h
    let h := clear { h with poison := failing.foldl (fun p l => insertNat l p) h.poison }
    ((if h.hwm < b.major + 1 then h.setHwm (b.major + 1) else h), true, 128 * others.length, failing.length)

/-- Touch every line of `[first, first + n)`, counting and charging overflows in the partition (R271, R295). -/
def State.touchLines (s : State) (part : Option Nat) (first n : Nat) : State :=
  (List.range n).foldl (fun s i =>
    let (h, ov, bytes, pois) := s.shroud.touchLine (first + i)
    let s := { s with shroud := h }
    if ov then
      let s := ((s.bumpPart? part cOverflow 1).bumpPart? part cOverflowBytes bytes).bumpPart? part cPoisoned pois
      (match part with
       | some p => s.spend (4 * p) (ceilDiv bytes 4096)
       | none => s)
    else s) s

/-- Poison lines (R274). -/
def Shroud.poisonLines (h : Shroud) (ls : List Nat) : Shroud :=
  { h with bad := ls.foldl (fun b l => insertNat l b) h.bad, poison := ls.foldl (fun b l => insertNat l b) h.poison }

/-- Whether a write of `[off, off + len)` of a frame covers line `l` in part only. -/
def partialLine (off len l : Nat) : Bool := !(off ≤ 64 * l && 64 * l + 64 ≤ off + len)

/-- Lines of a page that a range touches. -/
def linesOf (off len : Nat) : List Nat :=
  if len = 0 then [] else (List.range ((off + len - 1) / 64 - off / 64 + 1)).map (fun i => off / 64 + i)

/-- A partial write that meets a failing line (R280). -/
def Shroud.refusesWrite (h : Shroud) (frame off len : Nat) : Bool :=
  (linesOf off len).any (fun l => partialLine off len l && h.lineBad (frame * 1024 + l))

/-- Lines of a range of a frame that fail verification. -/
def Shroud.badLines (h : Shroud) (frame off len : Nat) : List Nat :=
  (linesOf off len).filter (fun l => h.lineBad (frame * 1024 + l))

/-! ### Mirror messages at their source (R498, R499) -/

def State.net (s : State) (p : Nat) : Net := (s.part p).net
def State.setNet (s : State) (p : Nat) (n : Net) : State := s.setPart p { s.part p with net := n }
/-- NET block offsets (R523, R596). -/
def cMirrorWait : Nat := 0x6008
def cMirrorBytes : Nat := 0x6010
def mkLine : Nat := 0
def mkState : Nat := 1
def mkCommitMsg : Nat := 2
def mkFlash : Nat := 3
def mkSnap : Nat := 4
def mkResync : Nat := 5
def mkAck : Nat := 8
def mkPage : Nat := 9
def mkPair : Nat := 10

/-- Queue a mirror message at its source. -/
def State.mirror (s : State) (p kind : Nat) (body : Bytes) : State :=
  let n := s.net p
  (s.setNet p { n with txSeq := n.txSeq + 1, out := n.out ++ [(n.txSeq + 1, kind, body)] }).bumpPart p cMirrorBytes body.length

/-- Whether a partition's writes go to a catcher. -/
def State.mirrors (s : State) (p : Nat) : Bool := (s.net p).st == .paired || (s.net p).st == .resync

/-- The body of a LINE or RESYNC. A write that no command made names writer 0xFFFF (log entry 40, DESIGN CHOICE). -/
def lineBody (handle : U32) (page first : Nat) (writer : Option (Nat × Nat)) (lines : Bytes) : Bytes :=
  let w := writer.getD (0xFFFF, 0xFFFFFFFF)
  leBytes 4 handle.toNat ++ leBytes 4 page ++ leBytes 2 first ++ leBytes 2 (lines.length / 64) ++ leBytes 2 w.1 ++ leBytes 4 w.2 ++ zeros 14 ++ lines

/-- Send lines of an HBM page, at most 128 a message. -/
def State.mirrorLines (s : State) (p kind : Nat) (handle : U32) (page frame first n : Nat) (writer : Option (Nat × Nat)) : State :=
  (List.range (ceilDiv n 128)).foldl (fun s i =>
    let f := first + 128 * i
    s.mirror p kind (lineBody handle page f writer (s.hbm.reads (frame * pageBytes + 64 * f) (64 * min 128 (n - 128 * i))))) s

/-- Send a range of a flash page, at most 8,176 bytes a message. -/
def State.mirrorFlash (s : State) (p : Nat) (handle : U32) (page off : Nat) (data : Bytes) : State :=
  (List.range (ceilDiv data.length 8176)).foldl (fun s i =>
    s.mirror p mkFlash (leBytes 4 handle.toNat ++ leBytes 4 page ++ leBytes 4 (off + 8176 * i) ++ zeros 4 ++ (data.drop (8176 * i)).take 8176)) s

/-- Join a span to disjoint rising spans. -/
def addSpan (a b : Nat) : List (Nat × Nat) → List (Nat × Nat)
  | [] => if a < b then [(a, b)] else []
  | (c, d) :: r => if b < c then (if a < b then (a, b) :: (c, d) :: r else (c, d) :: r) else if d < a then (c, d) :: addSpan a b r else addSpan (min a c) (max b d) r

/-- Perform a write within one page: the state the page enters, the counters of its lines, its bytes.
The verdict of R238 has been taken. One write command of a flash page may
come in several blocks: the first zeroes the page, and a later one adds to it. Lines of a mirrored page, and bytes of a FILLING flash page, go to the catcher (R498). -/
def State.pageWrite (s : State) (key i off : Nat) (data : Bytes) (writer : Option (Nat × Nat)) : State :=
  match s.objs.get key with
  | none => s
  | some o =>
    let p := o.pte i
    let f := p.frameNo
    if p.tier = 1 then
      let s := if p.st == .zero then { s with shroud := s.shroud.initFrame f } else s
      let ls := linesOf off data.length
      let s := s.touchLines o.part (f * 1024 + off / 64) ls.length
      let s := { s with hbm := s.hbm.writes (f * pageBytes + off) data }
      let p :=
        if p.st == .incomplete then
          let cov := addSpan off (off + data.length) p.covered
          if cov == [(0, pageBytes)] then { p.setSt .valid with covered := [] } else { p with covered := cov }
        else if p.st == .zero then p.setSt .valid else p
      let s := s.setObj key (o.setPte i { p with sinceSnap := true })
      match o.part with
      | some q => if p.mirror && s.mirrors q then s.mirrorLines q mkLine p.handle (if o.paired then i / 2 else i) f (off / 64) ls.length writer else s
      | none => s
    else
      let old := if p.st == .written then s.flash.mem else s.flash.mem.clear (f * pageBytes) pageBytes
      let m := old.writes (f * pageBytes + off) data
      let bad := s.shroud.badFlash.filter (fun l => l / 1024 != f)
      let s := { s with flash := { s.flash with mem := m }, shroud := { s.shroud with badFlash := bad } }
      let s := s.setObj key (o.setPte i (p.setSt .written))
      match o.part with
      | some q => if s.mirrors q && o.use == .object then s.mirrorFlash q p.handle i off data else s
      | none => s

/-- Write a range of an object, page by page, on behalf of a command of a queue, if any. -/
def State.objWriteBy (s : State) (writer : Option (Nat × Nat)) (key off : Nat) (data : Bytes) : State :=
  match s.objs.get key with
  | none => s
  | some o =>
    (cutPages off data.length).foldl (fun s r =>
      (o.physW (r.1 / pageBytes)).foldl (fun s i =>
        s.pageWrite key i (r.1 % pageBytes) ((data.drop (r.1 - off)).take r.2) writer) s) s

def State.objWrite (s : State) (key off : Nat) (data : Bytes) : State := s.objWriteBy none key off data

/-- Put a page into INCOMPLETE (R255). -/
def State.markIncomplete (s : State) (key i : Nat) : State :=
  match s.objs.get key with
  | none => s
  | some o =>
    let p := o.pte i
    let s := if p.st == .zero then { s with shroud := s.shroud.initFrame p.frameNo } else s
    s.setObj key (o.setPte i { p.setSt .incomplete with covered := [] })

/-! ### Frames (R240, R247, R248, R602, R603) -/

def hbmFrames : Nat := 7340032

/-- The lowest free frame of a pair at or past a slot, none taken among them. -/
def State.pairFrame (s : State) (taken : List Nat) (pair : Nat) : (fuel slot : Nat) → Option Nat
  | 0, _ => none
  | k + 1, slot =>
    let f := 256 * slot + pair
    if hbmFrames ≤ f then none
    else if s.hbmUsed.has f || taken.contains f then State.pairFrame s taken pair k (slot + 1) else some f

/-- The next frame of an allocation: in the first pair at or past a pair, in turn, that is open and has a frame free. -/
def State.nextFrame (s : State) (taken : List Nat) (pair : Nat) : Option Nat :=
  (List.range 256).findSome? (fun i =>
    let p := (pair + i) % 256
    if s.dev.closedPairs.contains p then none else s.pairFrame taken p (s.hbmUsed.length + taken.length + 1) 0)

/-- Frames for `n` pages in consecutive pairs: the frames named where they are free and so placed, else the lowest free one of each pair in turn (R240).
Log entry 5, DESIGN CHOICE. -/
def State.framesFrom (s : State) : (n : Nat) → (named taken : List Nat) → (pair : Nat) → Option (List Nat)
  | 0, _, taken, _ => some taken
  | n + 1, named, taken, pair =>
    match s.nextFrame taken pair with
    | none => none
    | some f =>
      let g := (match named with
        | x :: _ => if x % 256 = f % 256 && x < hbmFrames && !s.hbmUsed.has x && !taken.contains x then x else f
        | [] => f)
      State.framesFrom s n (named.drop 1) (taken ++ [g]) ((g + 1) % 256)

/-- HBM frames for `n` pages: consecutive pages lie in consecutive pairs, from the pair of the first frame named on; a pair that is closed contributes no
frames (R240). Which frame of a pair is taken is not stated (log entry 5, DESIGN CHOICE). -/
def State.pickHbm (s : State) (n : Nat) (pick : List Nat) : Option (List Nat) :=
  s.framesFrom n pick [] ((pick.head?.getD 0) % 256)

/-- The segment of a flash frame: segments of a group in rising order, groups interleaved (R247, R248).
Log entry 175, DEDUCED. -/
def segOf (f : Nat) : Nat := let st := f / 7; 8 * (st / 8 / 32) + st % 8

/-- The flash frames of a segment.
Log entry 175, DEDUCED. -/
def segFrames (g : Nat) : List Nat :=
  (List.range 32).flatMap (fun k => (List.range 7).map (fun p => 7 * (g % 8 + 8 * (32 * (g / 8) + k)) + p))

def flashSegments : Nat := 131072

/-- The region tag of a segment: kind and partition. -/
def regionTag (kind : Nat) (part : Option Nat) : Nat := kind * 32 + part.getD 16

/-- Free frames of the segments a region holds. -/
def State.regionFree (s : State) (tag : Nat) : List Nat :=
  ((s.flash.owner.filter (fun e => e.2 == tag)).flatMap (fun e => segFrames e.1)).filter
    (fun f => !s.flash.used.has f && !s.flash.dead.contains f)

/-- Times a segment has been erased (R257). -/
def Flash.eraseCount (f : Flash) (g : Nat) : Nat := f.erases.getD g 0 + f.wipes

/-- Erase every segment: the map keeps the erase counts, the segments retired and the channels down, and its ownership records are cleared (R489, R558). -/
def Flash.eraseAll (f : Flash) : Flash :=
  let n := f.wipes + 1
  let worn := if 10000 ≤ n then List.range flashSegments else (f.erases.filter (fun (e : Nat × Nat) => 10000 ≤ e.2 + n)).map (fun e => e.1)
  { Flash.reset with erases := f.erases, wipes := n, retired := worn.foldl (fun l g => insertNat g l) f.retired, down := f.down }

/-- The lowest free segment of a group, by its place in the group. -/
def State.groupSegment (s : State) (grp : Nat) : (fuel i : Nat) → Option Nat
  | 0, _ => none
  | k + 1, i =>
    let g := 8 * i + grp
    if flashSegments ≤ g then none
    else if s.flash.owner.has g || s.flash.retired.contains g then State.groupSegment s grp k (i + 1) else some g

/-- A new segment: the lowest free one of the groups with no channel down, else of any group that is open (R248).
Log entry 5, DESIGN CHOICE. -/
def State.freeSegment (s : State) : Option Nat :=
  let fuel := s.flash.owner.length + s.flash.retired.length + 1
  let lowest (gs : List Nat) : Option Nat := (gs.filterMap (fun g => s.groupSegment g fuel 0)).foldl (fun (a : Option Nat) g => some (min g (a.getD g))) none
  let opened := (List.range 8).filter (fun g => !s.dev.closedFlash.contains g)
  match lowest (opened.filter (fun g => !s.flash.down.any (fun c => c / 16 == g))) with
  | some g => some g
  | none => lowest opened

/-- Grow a region by whole segments until it can hold `n` more frames (R248). -/
def State.growRegion (s : State) (tag : Nat) : (fuel n : Nat) → State
  | 0, _ => s
  | k + 1, n =>
    if n ≤ (s.regionFree tag).length then s
    else
      match s.freeSegment with
      | some g => State.growRegion { s with flash := { s.flash with owner := s.flash.owner.set g tag } } tag k n
      | none => s

/-- Flash frames for `n` pages of a region.
Log entry 5, DESIGN CHOICE. -/
def State.pickFlash (s : State) (tag n : Nat) (pick : List Nat) : Option (List Nat × State) :=
  let s := s.growRegion tag (n / 224 + 2) n
  let l := s.regionFree tag
  let pick := pick.take n
  if pick.length == n && pick.Nodup && pick.all (fun f => l.contains f) then some (pick, s)
  else if n ≤ l.length then some (l.take n, s) else none

def useHbm (u : Tbl Nat) (l : List Nat) (key : Nat) : Tbl Nat := l.foldl (fun u f => u.set f key) u

/-- HBM pages charged to a partition, WIPING included (R602). Adapter cache pages are counted apart. -/
def State.hbmCharge (s : State) (p : Nat) : Nat :=
  s.objs.foldl (fun n e => if e.2.part == some p && e.2.tier == 1 && (match e.2.use with
    | .cache _ | .table => false
    | _ => true) then n + e.2.pages.length else n) 0 +
  (s.wiping.filter (fun e => e.2 == p)).length

/-- Flash frames charged to a partition's DATA and ADAPTER allocation (R602). -/
def State.flashCharge (s : State) (p : Nat) : Nat :=
  s.objs.foldl (fun n e => if e.2.part == some p && e.2.tier == 2 && (e.2.kind == 2 || e.2.kind == 3) then n + e.2.pages.length else n) 0

def State.layout (s : State) (p : Nat) : Option Layout := (s.part p).sess.layout

/-- HBM pages a partition may still take outside its adapter cache. -/
def State.hbmRoom (s : State) (p : Nat) : Nat :=
  match s.layout p with
  | some l => l.hbmPages.toNat - l.adapterPages.toNat - s.hbmCharge p
  | none => 0

def State.flashRoom (s : State) (p : Nat) : Nat :=
  match s.layout p with
  | some l => l.flashSegments.toNat * 224 - s.flashCharge p
  | none => 0

/-- HBM frames no layout grants and nothing holds, for operator objects (R603). -/
def State.operatorHbmRoom (s : State) : Nat :=
  let granted := (List.range 16).foldl (fun n p => n + (match s.layout p with
    | some l => l.hbmPages.toNat
    | none => 0)) 0
  let held := s.objs.foldl (fun n e => if e.2.part == none && e.2.tier == 1 && e.2.use == .object then n + e.2.pages.length else n) 0
  hbmFrames - 28672 * s.dev.closedPairs.length - 16384 - granted - held

/-- Flash frames no layout grants and no reservation holds, for operator objects (R603). -/
def State.operatorFlashRoom (s : State) : Nat :=
  let granted := (List.range 16).foldl (fun n p => n + (match s.layout p with
    | some l => l.flashSegments.toNat + l.snapSegments.toNat
    | none => 0)) 0
  let held := s.objs.foldl (fun n e => if e.2.part == none && e.2.tier == 2 then n + e.2.pages.length else n) 0
  (flashSegments - 64 - 16384 * s.dev.closedFlash.length - granted - s.flash.retired.length) * 224 - held

/-- Create a set of pages in HBM under a key: the state, when frames suffice. -/
def State.newHbm (s : State) (key : Nat) (o : Obj) (n : Nat) (pick : List Nat) : Option State :=
  match s.pickHbm n pick with
  | none => none
  | some fs =>
    let ctl := mkCtl 1 (o.part.getD 0) o.keySlot .zero o.mirrored o.trainable
    let pages := fs.map (fun f => mkPte ctl f (mkHandle key o.gen))
    some { s with hbmUsed := useHbm s.hbmUsed fs key, objs := s.objs.set key { o with pages := pages } }

/-- Create a set of pages in flash; its flash major is drawn from the mark (R272, R290). -/
def State.newFlash (s : State) (key : Nat) (o : Obj) (n : Nat) (pick : List Nat) : Option State :=
  match s.pickFlash (regionTag o.kind o.part) n pick with
  | none => none
  | some (fs, s) =>
    let ctl := mkCtl 2 (o.part.getD 0) o.keySlot .filling false false
    let pages := fs.map (fun f => mkPte ctl f (mkHandle key o.gen))
    let s := { s with shroud := s.shroud.setHwm (s.shroud.hwm + 1) }
    some { s with flash := { s.flash with used := useHbm s.flash.used fs key },
                  objs := s.objs.set key { o with pages := pages, major := s.shroud.hwm } }

/-- An INCOMPLETE flash page is written once more, in a frame of its own: the frame it had has been written (R238, R243).
Log entry 209, DEDUCED. -/
def State.freshFrame (s : State) (key i : Nat) : Option State :=
  match s.objs.get key with
  | none => none
  | some o =>
    match s.pickFlash (regionTag o.kind o.part) 1 [] with
    | some (f :: _, s) =>
      let old := (o.pte i).frameNo
      let fl := { s.flash with used := (s.flash.used.erase old).set f key, dead := insertNat old s.flash.dead }
      some ({ s with flash := fl }.setObj key (o.setPte i { o.pte i with frame := BitVec.ofNat 32 f }))
    | _ => none

/-- Fresh frames for the INCOMPLETE flash pages of a range.
Log entry 209, DEDUCED. -/
def State.freshFrames (s : State) (key off len : Nat) : Option State :=
  (cutPages off len).foldl (fun (a : Option State) r => match a with
    | none => none
    | some s => (match s.objs.get key with
      | none => none
      | some o =>
        let p := o.pte (r.1 / pageBytes)
        let flying := s.accs.any (fun (e : Nat × Access) => e.2.kind == .flashWrite && e.2.obj == key && e.2.off / pageBytes == r.1 / pageBytes)
        if p.tier = 2 && p.st == .incomplete && !flying then s.freshFrame key (r.1 / pageBytes) else some s)) (some s)

/-- Keys of page sets that no handle names start here.
Log entry 180, DESIGN CHOICE. -/
def hiddenBase : Nat := 2 ^ 20

/-- The lowest unused key for a hidden page set. -/
def State.hiddenKey (s : State) : Nat := s.objs.lowestFree (s.objs.length + 1) hiddenBase

/-- A hidden page set of a partition. -/
def hiddenObj (use : Use) (part : Option Nat) (key : Nat) : Obj :=
  ⟨0, use, none, part, 1, 0, key, false, false, false, false, none, [], false, [], 0, none, 0, none⟩

/-- Onlyn's own pages under key slot 0 (R214, R235): the registry's 64, and the page table of each partition, 4,096 entries a page. They are kept under keys
of their own, and their contents are the entries that State holds. Log entry 208, DESIGN CHOICE. -/
def tableKey (p : Nat) : Nat := 2 ^ 20 + 2 ^ 19 + p
/-- Log entry 208, DESIGN CHOICE. -/
def registryKey : Nat := tableKey 16

/-- Give Onlyn pages of its own. They are VALID from the start, with fresh counter blocks.
Log entry 208, DESIGN CHOICE. -/
def State.newTable (s : State) (key : Nat) (part : Option Nat) (n : Nat) : State :=
  match s.pickHbm n [] with
  | none => s
  | some fs =>
    let pages := fs.map (fun f => mkPte (mkCtl 1 (part.getD 0) 0 .valid false false) f 0)
    { s with hbmUsed := useHbm s.hbmUsed fs key, objs := s.objs.set key { hiddenObj .table part 0 with pages := pages },
             shroud := fs.foldl Shroud.initFrame s.shroud }

/-- The pages of a partition's page table: one entry of 16 bytes for each page its layout grants it in either tier.
Log entry 208, DESIGN CHOICE. -/
def tablePages (l : Layout) : Nat := ceilDiv (l.hbmPages.toNat + 224 * (l.flashSegments.toNat + l.snapSegments.toNat)) 4096

/-- Release a page set: HBM pages go to WIPING, flash frames wait for their segment's erase (R413). -/
def State.dropPages (s : State) (key : Nat) : State :=
  match s.objs.get key with
  | none => s
  | some o =>
    let fs := o.pages.map Pte.frameNo
    let s := { s with objs := s.objs.erase key }
    if o.tier = 1 then { s with wiping := useHbm s.wiping fs (o.part.getD 16) }
    else { s with flash := { s.flash with
             used := fs.foldl (fun u f => u.erase f) s.flash.used,
             dead := fs.foldl (fun d f => insertNat f d) s.flash.dead } }

/-! ### Rings (R397, R398) -/

def Queue.sqSize (q : Queue) : Nat := 2 ^ q.sqLog
def Queue.cqSize (q : Queue) : Nat := 2 ^ q.cqLog
def w32 : Nat := 2 ^ 32
/-- Difference of ring indices modulo 2^32. -/
def diff32 (a b : Nat) : Nat := (a + w32 - b % w32) % w32

/-- Ready entries not fetched. -/
def Queue.ready (q : Queue) : Nat := diff32 q.tail q.head

/-- The 128 bytes of submission entry `i`. -/
def State.sqEntry (s : State) (q : Queue) (i : Nat) : Bytes :=
  s.objRead q.ring (i % q.sqSize * 128) 128

/-- The ready entries of a queue, in ring order. -/
def State.readyBytes (s : State) (q : Queue) (limit : Nat) : List Bytes :=
  (List.range (min q.ready limit)).map (fun i => s.sqEntry q (q.head + i))

/-- The doorbell TS of entry `i`: that of the first doorbell whose tail lies past it (R399).
Log entry 165, DEDUCED. -/
def Queue.stamp (q : Queue) (i : Nat) : Nat :=
  match q.stamps.find? (fun e => 0 < diff32 e.1 i && diff32 e.1 i ≤ 65536) with
  | some e => e.2
  | none => 0

/-- The function whose rings a context's queues use. -/
def State.ctxPart (s : State) (c : Option Nat) : Option Nat :=
  match c with
  | some c => (match s.ctxs.get c with
    | some x => x.part
    | none => none)
  | none => none

/-- Raise an MSI-X vector of a function: sent, or pending where the vector is masked. The stored mask
bit is complemented, for PCI Express resets it to 1 (log entry 6, PRESUMED). -/
def State.raise (s : State) (f v : Nat) : State :=
  if v < 2048 then
    let masked := !bitOf ((s.fn f).msix.read (16 * v + 12)).toNat 0
    if masked then s.setFn f { s.fn f with pba := insertNat v (s.fn f).pba }
    else { s with msix := s.msix ++ [(f, v)] }
  else s

/-- The scope code of a record (R405). -/
def scopeCode : Scope → Nat
  | .request => 0
  | .context => 1
  | .partition => 2
  | .device => 3

def statusCode : Status → Nat
  | .ok => 0 | .aborted => 1 | .contextLost => 2 | .bounds => 3 | .handle => 4 | .integrity => 5
  | .tierFail => 6 | .timeout => 7 | .partialDone => 8 | .normReject => 9 | .digestMismatch => 10
  | .parity => 11 | .key => 12 | .feature => 13 | .malformed => 14 | .stale => 15

/-- The 32 bytes of a record at a ring index (R405): the phase is 1 on the first pass. -/
def recBytes (r : Rec) (index size : Nat) : Bytes :=
  let phase := if index / size % 2 = 0 then 128 else 0
  leBytes 4 r.sub ++ [BitVec.ofNat 8 (statusCode r.st), BitVec.ofNat 8 (phase + r.flags), BitVec.ofNat 8 (scopeCode r.sc), BitVec.ofNat 8 r.stage] ++
    leBytes 4 r.tag.toNat ++ leBytes 4 r.result ++ leBytes 8 r.ts ++ leBytes 8 r.detail

/-- Write a record into a queue's completion ring. -/
def State.putRec (s : State) (qk : Nat) (r : Rec) : State :=
  match s.queues.get qk with
  | none => s
  | some q =>
    let s := s.objWrite q.ring (q.sqSize * 128 + q.written % q.cqSize * 32) (recBytes r q.written q.cqSize)
    s.setQueue qk { q with written := (q.written + 1) % w32 }

end Sys2Proof.Machine
end

