-- ==== Sys2Proof/Machine/Rig.lean ====
section
/-! DEFINITION. Rigging as other units see it (R331 to R357, R493): the troupe table, positions and routes,
messages cut into flits and queued at ports, and whole messages delivered on the device itself. -/

namespace Sys2Proof.Machine

/-! ### The troupe table (R343, R354) -/

def tbMembers (b : Bytes) : Nat := fieldLE b 8 1
def tbEntry (b : Bytes) (i : Nat) : Bytes := (b.drop (64 + 32 * i)).take 32
/-- The entries in use: as many as the header counts, those with position 0xFF apart (log entry 50, DEDUCED). -/
def tbUsed (b : Bytes) : List Bytes :=
  ((List.range (min 64 (tbMembers b))).map (tbEntry b)).filter (fun e => fieldLE e 0 1 != 0xFF && e.length == 32)
/-- The member entry at a position. -/
def tbAt (b : Bytes) (pos : Nat) : Option Bytes := (tbUsed b).find? (fun e => fieldLE e 0 1 == pos)
def tbPair (b : Bytes) (pos : Nat) : Nat := match tbAt b pos with
  | some e => fieldLE e 1 1
  | none => 0xFF
def tbHead (b : Bytes) (pos : Nat) : Nat := match tbAt b pos with
  | some e => fieldLE e 2 1
  | none => 0xFF
/-- The position wired to a port of a member. -/
def tbWire (b : Bytes) (pos port : Nat) : Nat := match tbAt b pos with
  | some e => fieldLE e (4 + port) 1
  | none => 0xFF
/-- The route entry of a member for a destination. -/
def tbRoute (b : Bytes) (pos dst : Nat) : Nat := fieldLE b (64 + 2048 + 128 * pos + 2 * dst) 2
def rtValid (r : Nat) : Bool := bitOf r 15
def rtPrimary (r : Nat) : Nat := bitsOf r 11 4
def rtAlternate (r : Nat) : Nat := bitsOf r 7 4
/-- Positions of the members. -/
def tbPositions (b : Bytes) : List Nat := (List.range 64).filter (fun p => (tbAt b p).isSome)

/-! ### Positions and ports -/

def State.setRig (s : State) (r : Rig) : State := { s with rig := r }
def State.port (s : State) (p : Nat) : RPort := s.rig.ports.getD p RPort.reset
def State.setPort (s : State) (p : Nat) (x : RPort) : State := s.setRig { s.rig with ports := s.rig.ports.set p x }
/-- A whole message of this device's own for one of its units. -/
def State.toInbox (s : State) (m : RigIn) : State := s.setRig { s.rig with inbox := s.rig.inbox ++ [⟨m, []⟩] }
/-- Credits of a class to return at ports, one for each entry: the class's consumer has taken the flits, or they are dropped (R339).
Log entry 112, DEDUCED. -/
def State.giveBack (s : State) (cls : Nat) (ports : List Nat) : State :=
  ports.foldl (fun s p => let x := s.port p
    s.setPort p { x with owed := x.owed.set cls (x.owed.getD cls 0 + 1) }) s
/-- Remove whole messages that satisfy a test, and return their credits. -/
def State.dropInbox (s : State) (f : RigIn → Bool) : State :=
  let gone := s.rig.inbox.filter (fun w => f w.msg)
  gone.foldl (fun s w => s.giveBack w.msg.cls w.ports) (s.setRig { s.rig with inbox := s.rig.inbox.filter (fun w => !f w.msg) })
/-- Remove partial messages that satisfy a test, and return their credits. -/
def State.dropPartials (s : State) (f : RigIn → Bool) : State :=
  let gone := s.rig.partials.filter (fun w => f w.msg)
  gone.foldl (fun s w => s.giveBack w.msg.cls w.ports) (s.setRig { s.rig with partials := s.rig.partials.filter (fun w => !f w.msg) })
/-- A port that enters UP grants its whole buffers anew: what waits holds none of its credits.
Log entry 112, DEDUCED. -/
def State.forgetPort (s : State) (p : Nat) : State :=
  let cut (w : RigWait) : RigWait := { w with ports := removeNat p w.ports }
  s.setRig { s.rig with partials := s.rig.partials.map cut, inbox := s.rig.inbox.map cut }

/-- The placed position of the device that serves a position (R493). -/
def Rig.server (r : Rig) (q : Nat) : Nat := r.serving.getD q q
/-- Whether this device serves a position. -/
def Rig.serves (r : Rig) (q : Nat) : Bool := r.placed == some (r.server q)

/-- Positions of this device's pair (R353, R493): flyer and catcher. -/
def State.pairOf (s : State) : Option (Nat × Nat) :=
  match s.rig.placed with
  | none => none
  | some here =>
    let q := tbPair s.rig.troupe here
    if q = 0xFF then none else some (min here q, max here q)

/-- Whether this device serves its pair's catcher position and not the flyer's (R494). -/
def State.isCatcher (s : State) : Bool := match s.pairOf with
  | some (f, c) => s.rig.serves c && !s.rig.serves f
  | none => false

/-- RIG_HEALTH offsets (R364), in BAR0. -/
def rigBase (p : Nat) : Nat := 0x104000 + 0x40 * p
def cFecCorr : Nat := 0x08
def cFecUncorr : Nat := 0x10
def cReplay : Nat := 0x18
def cRigTagFail : Nat := 0x20
def cHbMiss : Nat := 0x28
def cRigDrop : Nat := 0x30
def cCreditWait : Nat := 0x38
def State.bumpPort (s : State) (p off n : Nat) : State := s.bumpDev (rigBase p + off) n
/-- RIG block offsets of a partition (R365, R596). -/
def cPartFlits : Nat := 0x4000
def cBudgetStall : Nat := 0x4008

/-- The port a flit for a destination leaves by (R344, R493): the primary when it is UP, else the alternate. -/
def State.outPort (s : State) (dst : Nat) : Option Nat :=
  match s.rig.placed with
  | none => none
  | some here =>
    let r := tbRoute s.rig.troupe here (s.rig.server dst)
    let up (p : Nat) : Bool := p < 12 && (s.port p).st == .up
    if !rtValid r then none
    else if up (rtPrimary r) then some (rtPrimary r)
    else if up (rtAlternate r) then some (rtAlternate r)
    else none

/-- The port that counts a dropped flit: the primary of its destination. -/
def State.dropPort (s : State) (dst : Nat) : Nat :=
  match s.rig.placed with
  | none => 0
  | some here => min 11 (rtPrimary (tbRoute s.rig.troupe here (s.rig.server dst)))

/-! ### Flits (R333) -/

def mkRoute (cls dst src : Nat) (first last : Bool) (flow units : Nat) : U32 :=
  BitVec.ofNat 32 (cls * 2 ^ 30 + dst * 2 ^ 24 + src * 2 ^ 18 + b2n first * 2 ^ 17 + b2n last * 2 ^ 16 + flow % 4096 * 16 + units)
def roCls (r : U32) : Nat := bitsOf r.toNat 30 2
def roDst (r : U32) : Nat := bitsOf r.toNat 24 6
def roSrc (r : U32) : Nat := bitsOf r.toNat 18 6
def roFirst (r : U32) : Bool := bitOf r.toNat 17
def roLast (r : U32) : Bool := bitOf r.toNat 16
def roFlow (r : U32) : Nat := bitsOf r.toNat 4 12
def roUnits (r : U32) : Nat := bitsOf r.toNat 0 4

/-- Queue a flit at a port. -/
def RPort.enqueue (p : RPort) (f : TxFlit) : RPort :=
  let c := roCls f.route
  { p with queue := p.queue.set c (p.queue.getD c [] ++ [f]) }

/-- The flits of a message. -/
def cutFlits (cls dst src flow : Nat) (part : Option Nat) (ts : Nat) (data : Bytes) : List TxFlit :=
  let n := max 1 (ceilDiv data.length 240)
  (List.range n).map (fun i =>
    let d := (data.drop (240 * i)).take 240
    ⟨0, mkRoute cls dst src (i == 0) (i + 1 == n) flow (max 1 (ceilDiv d.length 16)), padTo 240 d, part, ts, (0, 0), none⟩)

/-- Send a message from a position this device serves: delivered here when the device serves the destination
too, else cut into flits at the port of its route; without one it is dropped (R344, R346, R378). -/
def State.sendMsg (s : State) (cls dst src flow : Nat) (part : Option Nat) (data : Bytes) : State :=
  if s.rig.serves dst then s.toInbox ⟨cls, src, flow, data⟩
  else
    let fs := cutFlits cls dst src flow part s.ts data
    match s.outPort dst with
    | some p => s.setPort p (fs.foldl RPort.enqueue (s.port p))
    | none => s.bumpPort (s.dropPort dst) cRigDrop fs.length

/-- Take one whole message out of the inbox, where it stands there; a message that came in flits ends with the zeros of its last
unit. Its flits leave the receive buffers, and their credits are owed.
Log entry 81, DESIGN CHOICE. -/
def State.takeInbox (s : State) (m : RigIn) : State :=
  let same (x : RigIn) : Bool := x.cls == m.cls && x.src == m.src && x.flow == m.flow && x.data.take m.data.length == m.data &&
    x.data.length < m.data.length + 16 && (x.data.drop m.data.length).all (fun b => b == 0)
  match s.rig.inbox.find? (fun w => same w.msg) with
  | some x => (s.setRig { s.rig with inbox := s.rig.inbox.erase x }).giveBack m.cls x.ports
  | none => s

/-- The position in whose name this device works: the flyer's where it serves it. -/
def State.myPos (s : State) : Nat :=
  match s.rig.placed, s.pairOf with
  | some _, some (f, c) => if s.rig.serves f then f else c
  | some here, none => here
  | none, _ => 0xFF

/-- The head that serves this device, where that is another device (R353, R356). -/
def State.farHead (s : State) : Option Nat :=
  if s.rig.placed.isNone then none
  else
    let h := tbHead s.rig.troupe s.myPos
    if h = s.myPos || 64 ≤ h then none else some h

/-- Send a control message of a flow to a position (R356). -/
def State.sendControl (s : State) (dst flow : Nat) (data : Bytes) : State := s.sendMsg 3 dst s.myPos flow none data

end Sys2Proof.Machine
end

