-- ==== Sys2Proof/Machine/Sha384.lean ====
section
/-! DEFINITION. SHA-384 (FIPS 180-4), which the manual uses for digests of pages, images, objects and
reports. -/

namespace Sys2Proof.Machine

def k384_0 : List U64 := [
  0x428A2F98D728AE22, 0x7137449123EF65CD, 0xB5C0FBCFEC4D3B2F, 0xE9B5DBA58189DBBC,
  0x3956C25BF348B538, 0x59F111F1B605D019, 0x923F82A4AF194F9B, 0xAB1C5ED5DA6D8118,
  0xD807AA98A3030242, 0x12835B0145706FBE, 0x243185BE4EE4B28C, 0x550C7DC3D5FFB4E2,
  0x72BE5D74F27B896F, 0x80DEB1FE3B1696B1, 0x9BDC06A725C71235, 0xC19BF174CF692694,
  0xE49B69C19EF14AD2, 0xEFBE4786384F25E3, 0x0FC19DC68B8CD5B5, 0x240CA1CC77AC9C65]

def k384_1 : List U64 := [
  0x2DE92C6F592B0275, 0x4A7484AA6EA6E483, 0x5CB0A9DCBD41FBD4, 0x76F988DA831153B5,
  0x983E5152EE66DFAB, 0xA831C66D2DB43210, 0xB00327C898FB213F, 0xBF597FC7BEEF0EE4,
  0xC6E00BF33DA88FC2, 0xD5A79147930AA725, 0x06CA6351E003826F, 0x142929670A0E6E70,
  0x27B70A8546D22FFC, 0x2E1B21385C26C926, 0x4D2C6DFC5AC42AED, 0x53380D139D95B3DF,
  0x650A73548BAF63DE, 0x766A0ABB3C77B2A8, 0x81C2C92E47EDAEE6, 0x92722C851482353B]

def k384_2 : List U64 := [
  0xA2BFE8A14CF10364, 0xA81A664BBC423001, 0xC24B8B70D0F89791, 0xC76C51A30654BE30,
  0xD192E819D6EF5218, 0xD69906245565A910, 0xF40E35855771202A, 0x106AA07032BBD1B8,
  0x19A4C116B8D2D0C8, 0x1E376C085141AB53, 0x2748774CDF8EEB99, 0x34B0BCB5E19B48A8,
  0x391C0CB3C5C95A63, 0x4ED8AA4AE3418ACB, 0x5B9CCA4F7763E373, 0x682E6FF3D6B2B8A3,
  0x748F82EE5DEFB2FC, 0x78A5636F43172F60, 0x84C87814A1F0AB72, 0x8CC702081A6439EC]

def k384_3 : List U64 := [
  0x90BEFFFA23631E28, 0xA4506CEBDE82BDE9, 0xBEF9A3F7B2C67915, 0xC67178F2E372532B,
  0xCA273ECEEA26619C, 0xD186B8C721C0C207, 0xEADA7DD6CDE0EB1E, 0xF57D4F7FEE6ED178,
  0x06F067AA72176FBA, 0x0A637DC5A2C898A6, 0x113F9804BEF90DAE, 0x1B710B35131C471B,
  0x28DB77F523047D84, 0x32CAAB7B40C72493, 0x3C9EBE0A15C9BEBC, 0x431D67C49C100D4C,
  0x4CC5D4BECB3E42B6, 0x597F299CFC657E2A, 0x5FCB6FAB3AD6FAEC, 0x6C44198C4A475817]

/-- Round constants. -/
def k384 : List U64 := k384_0 ++ k384_1 ++ k384_2 ++ k384_3

/-- The eight working words. -/
structure Sha where
  a : U64
  b : U64
  c : U64
  d : U64
  e : U64
  f : U64
  g : U64
  h : U64
  deriving DecidableEq, Repr

def sha384Init : Sha :=
  ⟨0xCBBB9D5DC1059ED8, 0x629A292A367CD507, 0x9159015A3070DD17, 0x152FECD8F70E5939,
   0x67332667FFC00B31, 0x8EB44A8768581511, 0xDB0C2E0D64F98FA7, 0x47B5481DBEFA4FA4⟩

def rotr (x : U64) (n : Nat) : U64 := (x >>> n) ||| (x <<< (64 - n))

/-- One round on the working words with a constant and a schedule word. -/
def shaRound (s : Sha) (k w : U64) : Sha :=
  let s1 := rotr s.e 14 ^^^ rotr s.e 18 ^^^ rotr s.e 41
  let ch := (s.e &&& s.f) ^^^ (~~~s.e &&& s.g)
  let t1 := s.h + s1 + ch + k + w
  let s0 := rotr s.a 28 ^^^ rotr s.a 34 ^^^ rotr s.a 39
  let mj := (s.a &&& s.b) ^^^ (s.a &&& s.c) ^^^ (s.b &&& s.c)
  ⟨t1 + s0 + mj, s.a, s.b, s.c, s.d + t1, s.e, s.f, s.g⟩

/-- The next word of the message schedule, from a window of sixteen. -/
def shaNext (w : List U64) : U64 :=
  let w1 := w.getD 1 0
  let w14 := w.getD 14 0
  let s0 := rotr w1 1 ^^^ rotr w1 8 ^^^ (w1 >>> 7)
  let s1 := rotr w14 19 ^^^ rotr w14 61 ^^^ (w14 >>> 6)
  w.getD 0 0 + s0 + w.getD 9 0 + s1

def shaRounds : (ks w : List U64) → Sha → Sha
  | [], _, s => s
  | k :: ks, w, s => shaRounds ks (w.drop 1 ++ [shaNext w]) (shaRound s k (w.getD 0 0))

def Sha.add (x y : Sha) : Sha :=
  ⟨x.a + y.a, x.b + y.b, x.c + y.c, x.d + y.d, x.e + y.e, x.f + y.f, x.g + y.g, x.h + y.h⟩

/-- A byte string as a number, byte 0 most significant. -/
def beNat (bs : Bytes) : Nat := bs.foldl (fun a b => 256 * a + b.toNat) 0

/-- The low `n` bytes of a number, most significant first. -/
def beBytes (n v : Nat) : Bytes := (leBytes n v).reverse

/-- Compress 128-byte blocks. -/
def shaBlocks : (n : Nat) → Bytes → Sha → Sha
  | 0, _, s => s
  | n + 1, bs, s =>
    let w := (List.range 16).map (fun i => BitVec.ofNat 64 (beNat ((bs.drop (8 * i)).take 8)))
    shaBlocks n (bs.drop 128) (s.add (shaRounds k384 w s))

/-- SHA-384 of a byte string, as 48 bytes.
Log entry 9, PRESUMED. -/
def sha384 (bs : Bytes) : Bytes :=
  let n := bs.length
  let blocks := (n + 17 + 127) / 128
  let msg := bs ++ [0x80] ++ zeros (128 * blocks - n - 17) ++ beBytes 16 (8 * n)
  let s := shaBlocks blocks msg sha384Init
  ([s.a, s.b, s.c, s.d, s.e, s.f].flatMap (fun x => beBytes 8 x.toNat))

/-- A digest truncated to its first 16 bytes, read as a little-endian number. -/
def digest128 (bs : Bytes) : Nat := leNat ((sha384 bs).take 16)

/-- A digest as a little-endian number of 48 bytes. -/
def digest384 (bs : Bytes) : Nat := leNat (sha384 bs)

end Sys2Proof.Machine
end

