-- ==== Sys2Proof/Machine/Groups.lean ====
section
/-! DEFINITION. Communication groups as their operations see them (R366 to R389): the entry's fields, messages,
shards, and the abort's own steps. -/

namespace Sys2Proof.Machine

/-! ### The group entry (R367, R368) -/

def geCount (b : Bytes) : Nat := fieldLE b 1 1
def geIsCommons (b : Bytes) : Bool := bitOf (fieldLE b 2 1) 0
def geCommons (b : Bytes) : Nat := fieldLE b 3 1
def geMin (b : Bytes) : Nat := fieldLE b 4 1
def geWire (b : Bytes) : Nat := fieldLE b 5 1
def geGen (b : Bytes) : Nat := fieldLE b 8 4
def geWait (b : Bytes) : Nat := fieldLE b 12 4
def gePos (b : Bytes) (m : Nat) : Nat := fieldLE b (0x40 + 32 * m) 1
def gePart (b : Bytes) (m : Nat) : Nat := fieldLE b (0x41 + 32 * m) 1
def geParent (b : Bytes) (t m : Nat) : Nat := fieldLE b (0x840 + 64 * t + m) 1
/-- The root of a tree. -/
def geRoot (b : Bytes) (t : Nat) : Nat := if geIsCommons b then geCommons b else t
/-- Children of a member in a tree, in increasing member index. -/
def geChildren (b : Bytes) (t m : Nat) : List Nat :=
  (List.range (geCount b)).filter (fun c => c != geRoot b t && geParent b t c == m)

def Group.n (g : Group) : Nat := geCount g.entry
def Group.reset : Group := ⟨.empty, [], 0, 0, [], [], [], [], [], [], [], none, []⟩
def State.group (s : State) (g : Nat) : Group := s.groups.getD g Group.reset
def State.setGroup (s : State) (g : Nat) (x : Group) : State := { s with groups := s.groups.set g x }

/-- Whether every member has joined. -/
def Group.full (g : Group) : Bool := (List.range g.n).all (fun m => g.owners.has m)

/-- Members that stand on this device. -/
def State.locals (s : State) (g : Group) : List Nat :=
  (List.range g.n).filter (fun m => s.rig.serves (gePos g.entry m))
/-- The local member of a partition. -/
def State.memberOf (s : State) (g : Group) (p : Nat) : Option Nat :=
  (s.locals g).find? (fun m => gePart g.entry m == p)

/-! ### Joins (R371, R372) -/

/-- An entry with its owner_id values filled in. -/
def Group.filled (g : Group) : Bytes :=
  g.owners.foldl (fun b (e : Nat × Nat) => b.take (0x50 + 32 * e.1) ++ leBytes 16 e.2 ++ b.drop (0x60 + 32 * e.1)) g.entry

/-- Distinct owner_id values among the contributors of a commons group. -/
def Group.distinctOwners (g : Group) : Nat :=
  (((g.owners.filter (fun (e : Nat × Nat) => e.1 != geCommons g.entry)).map (fun (e : Nat × Nat) => e.2)).eraseDups).length

/-- A member is joined; with the last one the group becomes ACTIVE at epoch 0.
Log entry 51, DESIGN CHOICE. -/
def Group.join (g : Group) (m o : Nat) : Group :=
  let g := { g with owners := g.owners.set m o }
  if g.full then { g with st := .active, epoch := 0, seqs := [], windows := [], digest := sha384 g.filled } else g

/-- Whether a join that would complete a commons group leaves too few distinct contributors. -/
def Group.joinShort (g : Group) (m o : Nat) : Bool :=
  let g' := { g with owners := g.owners.set m o }
  g'.full && geIsCommons g.entry && g'.distinctOwners < geMin g.entry

/-- Members on other devices whose joins have reached this device: free values, for their messages are not given (log
entry 51, DESIGN CHOICE).
Log entry 51, DESIGN CHOICE. -/
def State.remoteJoins (s : State) (gi : Nat) : State :=
  let g := s.group gi
  if g.st != .joining then s
  else (List.range g.n).foldl (fun s m =>
    let g := s.group gi
    if g.st != .joining || s.rig.serves (gePos g.entry m) || g.owners.has m then s
    else
      let (i, s) := s.fresh
      let v := (Config.freeWord i).toNat
      let o := v / 2 + 1
      if v % 2 = 0 || g.joinShort m o then s else s.setGroup gi (g.join m o)) s

/-! ### Messages (R373, R374) -/

def kUp : Nat := 0
def kDown : Nat := 1
def kClose : Nat := 2
def kVerdict : Nat := 3
def kAbort : Nat := 4
def kDispatch : Nat := 8
def kCombine : Nat := 9

def msgBytes (m : GroupMsg) : Bytes :=
  leBytes 4 m.epoch.toNat ++ leBytes 8 m.key.toNat ++ leBytes 1 m.op.toNat ++ leBytes 1 m.tree.toNat ++ leBytes 1 m.sender.toNat ++
    leBytes 1 m.wire.toNat ++ leBytes 4 m.count.toNat ++ leBytes 4 m.elems.toNat ++ leBytes 4 m.off.toNat ++ leBytes 4 m.scale.toNat ++ m.data

def mkMsg (g epoch key op tree sender wire count elems off scale : Nat) (data : Bytes) : GroupMsg :=
  ⟨BitVec.ofNat 8 g, BitVec.ofNat 32 epoch, BitVec.ofNat 64 key, BitVec.ofNat 8 op, BitVec.ofNat 8 tree, BitVec.ofNat 8 sender,
   BitVec.ofNat 8 wire, BitVec.ofNat 32 count, BitVec.ofNat 32 elems, BitVec.ofNat 32 off, BitVec.ofNat 32 scale, data⟩

/-- GRP block offsets (R394, R596). -/
def cGrpOps : Nat := 0x5000
def cGrpBytes : Nat := 0x5008
def cGrpWait : Nat := 0x5010
def cGrpAborts : Nat := 0x5018
def cGrpDiscard : Nat := 0x5020

/-- Send a group message from a local member to another member. -/
def State.sendGroup (s : State) (kind sender dest : Nat) (m : GroupMsg) : State :=
  let e := (s.group m.group.toNat).entry
  let s := s.bumpPart (gePart e sender) cGrpBytes m.data.length
  s.sendMsg (if 8 ≤ kind then 1 else 0) (gePos e dest) (gePos e sender) (m.group.toNat * 16 + kind) (some (gePart e sender)) (msgBytes m)

/-- The arrival of a message takes it out of the inbox where it stands there.
Log entry 81, DESIGN CHOICE. -/
def State.arrived (s : State) (kind : Nat) (m : GroupMsg) : State :=
  let e := (s.group m.group.toNat).entry
  s.takeInbox ⟨if 8 ≤ kind then 1 else 0, gePos e m.sender.toNat, m.group.toNat * 16 + kind, msgBytes m⟩

/-- Count a discarded message for the local members' partitions.
Log entry 98, DEDUCED. -/
def State.discardMsg (s : State) (g : Group) : State :=
  (s.locals g).foldl (fun s m => s.bumpPart (gePart g.entry m) cGrpDiscard 1) s

/-! ### Shards and wire values (R376, R377) -/

def shardLen (count n : Nat) : Nat := ceilDiv count (16 * n) * 16
/-- First element and length of shard `t`.
Log entry 79, DEDUCED. -/
def shardOf (count n t : Nat) : Nat × Nat :=
  let c := shardLen count n
  (min count (t * c), min count ((t + 1) * c) - min count (t * c))

def wireFmt (w : Nat) : Fmt := if w = 1 then .f16 else if w = 2 then .w16 else .f32
def wireBytes (w : Nat) : Nat := if w = 0 then 4 else 2
/-- Widen a code exactly to binary32. -/
def widen32 (f : Fmt) (c : Nat) : Nat := if f == .f32 then c else (r32 (decode f c, 0)).1
/-- Round a binary32 code to the wire. -/
def toWire (w c : Nat) : Nat := if w = 0 then c else (convert (wireFmt w) .rne 0 (d32 c)).1
def packWire (w : Nat) (l : List Nat) : Bytes := l.flatMap (leBytes (wireBytes w))
def unpackWire (w n : Nat) (b : Bytes) : List Nat := (List.range n).map (fun i => fieldLE b (i * wireBytes w) (wireBytes w))

/-! ### Group abort (R385 to R388) -/

/-- Mark a group for abort, where it is ACTIVE; an abort already under way keeps its cause. -/
def State.markAbort (s : State) (g : Nat) (c : GCause) : State :=
  let x := s.group g
  if x.st == .active then s.setGroup g { x with st := .aborting, cause := some c } else s

/-- Groups in which a RUN holds an operation. -/
def State.heldGroups (s : State) (rid : Nat) : List Nat :=
  ((s.groups.filter (fun (e : Nat × Group) => e.2.colls.any (fun c => c.rid == rid) || e.2.disps.any (fun c => c.rid == rid))).map (fun (e : Nat × Group) => e.1)) ++
  ((s.usets.filter (fun (e : Nat × USet) => e.2.run == some rid)).filterMap (fun (e : Nat × USet) => e.2.group))

/-- Steps 1 to 3 and 5 of an abort: the ABORT messages, the staging, and the new epoch. -/
def State.abortSteps (s : State) (g : Nat) : State :=
  let x := s.group g
  match s.locals x with
  | [] => s.setGroup g { x with st := if x.full then .active else .joining, epoch := x.epoch + 1, colls := [], disps := [], staged := [], closes := [], seqs := [], windows := [], cause := none }
  | me :: _ =>
    let far := ((List.range x.n).filter (fun m => !s.rig.serves (gePos x.entry m))).map (fun m => s.rig.server (gePos x.entry m))
    let dests := (List.range x.n).filter (fun m =>
      !s.rig.serves (gePos x.entry m) && ((List.range m).all (fun k => s.rig.server (gePos x.entry k) != s.rig.server (gePos x.entry m))) &&
      !s.rig.lost.contains (s.rig.server (gePos x.entry m)) && !far.isEmpty)
    let s := dests.foldl (fun s d => s.sendGroup kAbort me d (mkMsg g x.epoch 0 0 0 me (geWire x.entry) 0 0 0 0 [])) s
    s.setGroup g { x with st := if x.full then .active else .joining, epoch := x.epoch + 1, colls := [], disps := [], staged := [], closes := [], seqs := [], windows := [], cause := none }

/-! ### The UPD_COMMIT word (R327) -/

def cmHalf (c : U32) : Nat := bitsOf c.toNat 31 1
def cmState (c : U32) : Nat := bitsOf c.toNat 28 3
def cmNonfinite (c : U32) : Bool := bitOf c.toNat 27
def cmOver (c : U32) : Bool := bitOf c.toNat 26
def cmDropped (c : U32) : Bool := bitOf c.toNat 25
def cmTorn (c : U32) : Bool := bitOf c.toNat 23
def cmBuckets (c : U32) : Nat := bitsOf c.toNat 0 20
def mkCommit (half st : Nat) (nonfinite big dropped : Bool) (mode : Nat) (torn : Bool) (buckets : Nat) : U32 :=
  BitVec.ofNat 32 (half % 2 * 2 ^ 31 + st * 2 ^ 28 + b2n nonfinite * 2 ^ 27 + b2n big * 2 ^ 26 + b2n dropped * 2 ^ 25 +
    mode * 2 ^ 24 + b2n torn * 2 ^ 23 + min buckets (2 ^ 20 - 1))
/-- Write the word and its complement together. -/
def USet.setCommit (u : USet) (c : U32) : USet := { u with commit := c, commitN := ~~~c }
def USet.railOk (u : USet) : Bool := u.commitN == ~~~u.commit
def USet.half (u : USet) : Nat := cmHalf u.commit
def USet.isOpen (u : USet) : Bool := cmState u.commit != 0
def USet.withState (u : USet) (st : Nat) : USet :=
  u.setCommit (mkCommit u.half st (cmNonfinite u.commit) (cmOver u.commit) (cmDropped u.commit) u.mode (cmTorn u.commit) (cmBuckets u.commit))

def setKey (p n : Nat) : Nat := 16 * p + n
def State.setUset (s : State) (k : Nat) (u : USet) : State := { s with usets := s.usets.set k u }

/-- Close an attempt whose RUN ended early (R322): a paired set's pending half is abandoned, a bucket-mode set
is torn, and staging is zeroed. -/
def USet.abandon (u : USet) : USet :=
  let u := u.setCommit (mkCommit u.half 0 (cmNonfinite u.commit) (cmOver u.commit) (cmDropped u.commit) u.mode
    (cmTorn u.commit || u.mode == 1) (cmBuckets u.commit))
  { u with run := none, lastRun := u.run, staging := [], fed := [], begun := [], written := [], wcOnly := [], ended := [], closeSent := false, verdict := none, acc := 0, ackAt := none, fetch := none, carried := false, writes := [] }

/-- A set whose VERDICT stands, or whose COMMIT is on its way to the catcher, completes its close even when an abort follows (R390,
R501; log entry 55, DEDUCED). -/
def State.closeAttempts (s : State) (rid : Nat) : State :=
  (s.usets.filter (fun (e : Nat × USet) => e.2.run == some rid && (e.2.verdict.isNone || e.2.group.isNone) && e.2.ackAt.isNone)).foldl (fun s e => s.setUset e.1 e.2.abandon) s

/-- Shards of a RUN's bucket-mode grouped attempts: whether some were applied here, and which were not
(R388, R389). -/
def State.tornShards (s : State) (rid : Nat) : Option Nat :=
  let us := s.usets.filter (fun (e : Nat × USet) => e.2.run == some rid && e.2.mode == 1 && e.2.group.isSome)
  match us with
  | [] => none
  | e :: _ =>
    let g := s.group (e.2.group.getD 0)
    let cs := g.colls.filter (fun c => c.rid == rid && c.op == 0xA8)
    if cmBuckets e.2.commit = 0 && cs.all (fun c => c.applied.isEmpty) then none
    else some (((List.range g.n).filter (fun t => cs.any (fun c => !c.applied.contains t))).map (fun t => 2 ^ t)).sum

end Sys2Proof.Machine
end

