-- ==== Sys2Proof/Machine/Cache.lean ====
section
/-! DEFINITION. ADPT's registry and cache as other operations meet them (R214 to R224): the ctl word, pins
and their release, wiping of entries, and the hold of a VOID entry. -/

namespace Sys2Proof.Machine

/-! ### Registry entries -/

/-- The ctl word (R214). -/
def regCtl (key part st carry next : Nat) : U32 :=
  BitVec.ofNat 32 (key % 8192 * 2 ^ 16 + part % 16 * 2 ^ 12 + st * 256 + carry * 16 + next)

def RegEntry.keySlot (e : RegEntry) : Nat := bitsOf e.ctl.toNat 16 13
def RegEntry.owner (e : RegEntry) : Nat := bitsOf e.ctl.toNat 12 4
def RegEntry.regState (e : RegEntry) : Nat := bitsOf e.ctl.toNat 8 4
def RegEntry.carry (e : RegEntry) : Nat := bitsOf e.ctl.toNat 4 4
def RegEntry.nextCarry (e : RegEntry) : Nat := bitsOf e.ctl.toNat 0 4
def RegEntry.setCtl (e : RegEntry) (c : U32) : RegEntry := { e with ctl := c, ctlN := ~~~c }

/-- Whether a ctl word reads without a dual-rail mismatch: rails agree and no code is reserved (R214,
R215). -/
def RegEntry.railOk (e : RegEntry) : Bool :=
  e.ctlN == ~~~e.ctl && e.regState ≤ 3 && e.carry ≤ 4 && e.nextCarry ≤ 4

def RegEntry.withState (e : RegEntry) (st : Nat) : RegEntry := e.setCtl (regCtl e.keySlot e.owner st e.carry e.nextCarry)
def RegEntry.withCarry (e : RegEntry) (c n : Nat) : RegEntry := e.setCtl (regCtl e.keySlot e.owner e.regState c n)

/-- Whether the ctl words of all registry entries read without a mismatch (R13, R214): what reads the whole registry checks them all. -/
def State.regRails (s : State) : Bool := s.adpt.reg.all (fun (e : Nat × RegEntry) => e.2.railOk)

/-- Codes of R215. -/
def regPublished : Nat := 1
def regTraining : Nat := 2
def regRevoked : Nat := 3
def caNative : Nat := 0
def caPending : Nat := 1
def caCarried : Nat := 2
def caDrifted : Nat := 3
def caIncompatible : Nat := 4

def State.setReg (s : State) (slot : Nat) (e : RegEntry) : State := { s with adpt := { s.adpt with reg := s.adpt.reg.set slot e } }
def State.dropReg (s : State) (slot : Nat) : State := { s with adpt := { s.adpt with reg := s.adpt.reg.erase slot } }
def State.setCache (s : State) (i : Nat) (e : CacheEntry) : State := { s with adpt := { s.adpt with cache := s.adpt.cache.set i e } }
def State.dropCache (s : State) (i : Nat) : State := { s with adpt := { s.adpt with cache := s.adpt.cache.erase i } }

/-- The cache entry of a registry slot. -/
def State.entryOf (s : State) (slot : Nat) : Option (Nat × CacheEntry) :=
  s.adpt.cache.find? (fun (e : Nat × CacheEntry) => e.2.slot == slot)

/-- ADPT block offsets (R234). -/
def cAdHits : Nat := 0x0
def cAdLoads : Nat := 0x8
def cAdLoadFail : Nat := 0x10
def cAdEvict : Nat := 0x18
def cAdDefer : Nat := 0x20
def cAdRefused : Nat := 0x28

/-! ### Pins -/

def CacheEntry.total (e : CacheEntry) : Nat := (e.pins.map (fun (p : Nat × Nat) => p.2)).sum

/-- Add a pin of a context. -/
def CacheEntry.pin (e : CacheEntry) (c : Nat) : CacheEntry := { e with pins := e.pins.set c (e.pins.getD c 0 + 1) }

/-- Take one pin of a context away. -/
def CacheEntry.unpin (e : CacheEntry) (c : Nat) : CacheEntry :=
  let n := e.pins.getD c 0
  { e with pins := if n ≤ 1 then e.pins.erase c else e.pins.set c (n - 1) }

/-- Stop the load of a cache entry. -/
def State.dropLoad (s : State) (i : Nat) : State :=
  let ids := (s.works.filter (fun (e : Nat × Work) => match e.2.kind with
    | .adapterLoad _ j => j == i
    | _ => false)).map (fun (e : Nat × Work) => e.1)
  { s with works := s.works.filter (fun (e : Nat × Work) => !ids.contains e.1),
           accs := s.accs.filter (fun (e : Nat × Access) => match e.2.owner with
             | .work w => !ids.contains w
             | _ => true) }

/-- A REVOKED entry becomes FREE once its cache entry's pages, if it has any, are zero: the key is destroyed and a flash object's pages are released
(R224). A TRAINING adapter's object stays its context's (R226). -/
def State.freeRevoked (s : State) (slot : Nat) : State :=
  match s.adpt.reg.get slot with
  | none => s
  | some r =>
    let k := r.object.toNat % 2 ^ 20
    let s := s.dropReg slot
    let s := if s.adpt.reg.any (fun (e : Nat × RegEntry) => e.2.keySlot == r.keySlot) then s else s.emptyKey r.keySlot
    if r.object != 0xFFFFFFFF && (s.objs.get k).any (fun o => o.tier == 2) then s.dropPages k else s

/-- An entry becomes ABSENT: its load stops, its pages are wiped, and return to the grant when the wipe has finished (R220); then a REVOKED registry slot
becomes FREE. -/
def State.wipeEntry (s : State) (i : Nat) (revoked : Option Nat := none) : State :=
  match s.adpt.cache.get i with
  | none => s
  | some e =>
    let s := (s.dropCache i).dropLoad i
    let s := (match s.adpt.reg.get e.slot with
      | some r => s.setReg e.slot { r with cacheIdx := none }
      | none => s)
    match e.pages with
    | some k => { s with adpt := { s.adpt with wipes := s.adpt.wipes.set i (e.part, k, revoked) } }
    | none => (match revoked with
      | some slot => s.freeRevoked slot
      | none => s)

/-- What a pin count that has come down does: at 0 a TRAINING slot becomes FREE, an entry with evict_pending
is wiped, and any other joins the eviction candidates (R220, R226). -/
def State.afterUnpin (s : State) (i : Nat) : State :=
  match s.adpt.cache.get i with
  | none => s
  | some e =>
    if e.total != 0 || e.st != .resident then s
    else if (match s.adpt.reg.get e.slot with
      | some r => r.regState == regTraining
      | none => false) then (s.dropCache i).dropReg e.slot
    else if e.evict then (s.wipeEntry i).bumpPart e.part cAdEvict (b2n e.byCommand)
    else s.setCache i { e with unpinTs := s.ts }

/-- Release every pin a context holds (R218). -/
def State.releaseCtxPins (s : State) (c : Nat) : State :=
  (s.adpt.cache.filter (fun (e : Nat × CacheEntry) => e.2.pins.has c)).foldl (fun s e =>
    (s.setCache e.1 { e.2 with pins := e.2.pins.erase c }).afterUnpin e.1) s

/-! ### The hold of a VOID entry (R224) -/

/-- End a hold: the entry is wiped; after a revocation the key is then destroyed, the flash object's pages are
released and the registry entry becomes FREE. -/
def State.endVoid (s : State) (i : Nat) (e : CacheEntry) : State := s.wipeEntry i (if e.revoked then some e.slot else none)

/-- A RUN has ended: it holds no VOID entry any longer. -/
def State.endHold (s : State) (rid : Nat) : State :=
  (s.adpt.cache.filter (fun (e : Nat × CacheEntry) => e.2.st == .void && e.2.hold.contains rid)).foldl (fun s e =>
    let h := e.2.hold.filter (fun r => r != rid)
    if h.isEmpty then s.endVoid e.1 e.2 else s.setCache e.1 { e.2 with hold := h }) s

/-- RUNs of a partition that are running. -/
def State.runningOf (s : State) (p : Nat) : List Nat :=
  (s.runs.filter (fun (e : Nat × Run) => e.2.part == p && e.2.st == .running)).map (fun (e : Nat × Run) => e.1)

/-- An entry becomes VOID: its pins go, and the RUNs now running hold it. -/
def State.voidEntry (s : State) (i : Nat) (revoked : Bool) : State :=
  match s.adpt.cache.get i with
  | none => s
  | some e =>
    let s := s.dropLoad i
    let e := { e with st := .void, pins := [], hold := s.runningOf e.part, revoked := revoked, waiters := [] }
    if e.hold.isEmpty then (s.setCache i e).endVoid i e else s.setCache i e

end Sys2Proof.Machine
end

