-- ==== Sys2Proof/Machine/Mirror.lean ====
section
/-! DEFINITION. What a partition makes visible, and what it holds until its catcher has acknowledged (R498,
R501): journal records, ring writes, completion, event and fault records, MSI-X messages and fence values. -/

namespace Sys2Proof.Machine

/-- The bytes of a journal record, whose encoding the manual does not give, and their reading (log entry 41, DESIGN CHOICE). -/
opaque Config.journalBytes : JRec → Bytes
/-- How a journal message's bytes read as a record: the manual lists the records and gives them no layout (R498).
Log entry 41, DESIGN CHOICE. -/
opaque Config.readJournal : Bytes → Option JRec

/-! ### The journal (R498) -/

/-- The partition of a queue's context. -/
def State.queuePart (s : State) (qk : Nat) : Option Nat :=
  match s.queues.get qk with
  | some q => s.ctxPart q.ctx
  | none => none

/-- An object as the journal keeps it: everything but its pages' frames. -/
def Obj.forJournal (o : Obj) : Obj :=
  let ctl (p : Pte) : U32 := if p.snap && p.tier == 1 then p.ctl &&& 0xFFFFE7FF else p.ctl &&& 0xFFFFF7FF
  { o with pages := o.pages.map (fun p => ⟨ctl p, ~~~(ctl p), 0, p.handle, [], false⟩), nextMajor := none }

/-- A set as the journal keeps it: the attempt's own progress is left out. -/
def USet.forJournal (u : USet) : USet :=
  { u with run := none, lastRun := none, openTs := 0, hyp := [], acc := 0, staging := [], fed := [], begun := [], written := [], wcOnly := [],
           ended := [], closeSent := false, closeTs := 0, verdict := none, ackAt := none, fetch := none, carried := false, writes := [] }

/-- The RUN of an open attempt as the journal names it: its queue times 2^32, and its index. -/
def State.runCode (s : State) (u : USet) : Option Nat := (u.run.bind (fun r => s.runs.get r)).map (fun r => r.q * w32 + r.sub)

/-- A partition's control state. -/
def State.jview (s : State) (p : Nat) : JView where
  ctxs := s.ctxs.filter (fun (e : Nat × Ctx) => e.2.part == some p)
  queues := s.queues.filter (fun (e : Nat × Queue) => s.ctxPart e.2.ctx == some p)
  events := s.events.filter (fun (e : Nat × Event) => s.ctxPart (some e.2.owner) == some p)
  objs := (s.objs.filter (fun (e : Nat × Obj) => e.2.part == some p && e.2.use == .object)).map (fun (e : Nat × Obj) => (e.1, e.2.forJournal))
  slots := (s.part p).slots
  regs := s.adpt.reg.filter (fun (e : Nat × RegEntry) => e.2.owner == p)
  sets := (s.usets.filter (fun (e : Nat × USet) => e.1 / 16 == p)).map (fun (e : Nat × USet) => (e.1, { e.2.forJournal with run := s.runCode e.2 }))
  recipes := s.recipes.filter (fun (e : Nat × Recipe) => e.1 / 16 == p)
  groups := s.groups.filterMap (fun (e : Nat × Group) => match s.memberOf e.2 p with
    | some m => (e.2.owners.get m).map (fun o => ⟨e.1, m, o, (sha384 e.2.entry).take 16, e.2.epoch, (List.range 64).map (fun l => e.2.seqs.getD (64 * m + l) 0), e.2.owners⟩)
    | none => none)
  keys := (s.keys.filter (fun (e : Nat × KeySlot) => match (s.part p).sess.layout with
    | some l => l.keyBase.toNat ≤ e.1 && e.1 < l.keyBase.toNat + l.keyCount.toNat
    | none => false)).map (fun (e : Nat × KeySlot) => (e.1, e.2.outCount))
  core := (s.part p).sess.core
  cursors := (List.range 16).map (fun i => (s.part p).regs.getD (0x6100 + 8 * i) 0)

/-- Entries of a table that changed: their new value, or none when they are gone. -/
def diffTbl {α : Type} [DecidableEq α] (old new : Tbl α) : List (Nat × Option α) :=
  (new.filter (fun e => old.get e.1 != some e.2)).map (fun e => (e.1, some e.2)) ++
    (old.filter (fun e => !new.has e.1)).map (fun e => (e.1, none))

/-- The journal records that lead from one view to another. -/
def jdiff (a b : JView) : List JRec :=
  (diffTbl a.ctxs b.ctxs).map (fun e => .ctx e.1 e.2) ++ (diffTbl a.queues b.queues).map (fun e => .queue e.1 e.2) ++
  (diffTbl a.objs b.objs).map (fun e => .obj e.1 e.2) ++ (diffTbl a.events b.events).map (fun e => .event e.1 e.2) ++
  (diffTbl a.slots b.slots).map (fun e => .slot e.1 e.2) ++ (diffTbl a.regs b.regs).map (fun e => .reg e.1 e.2) ++
  (diffTbl a.recipes b.recipes).map (fun e => .recipe e.1 e.2) ++ (diffTbl a.sets b.sets).map (fun e => .set e.1 e.2) ++
  (diffTbl a.keys b.keys).map (fun e => .key e.1 e.2) ++
  (if a.groups = b.groups then [] else [.groups b.groups]) ++ (if a.core = b.core then [] else [.core b.core]) ++
  (if a.cursors = b.cursors then [] else [.cursors b.cursors])

/-- Send the journal records written since the last time. -/
def State.flushJournal (s : State) (p : Nat) : State :=
  let v := s.jview p
  let rs := jdiff (s.net p).view v
  let s := rs.foldl (fun s r => s.mirror p mkState (Config.journalBytes r)) s
  s.setNet p { s.net p with view := v }

/-! ### Ring writes -/

/-- Replace bytes of a range that starts at `base`. -/
def overlay (base : Nat) (bs : Bytes) (w : Nat × Bytes) : Bytes :=
  bs.mapIdx (fun i b => if w.1 ≤ base + i && base + i < w.1 + w.2.length then w.2.getD (base + i - w.1) b else b)

/-- Records held for a queue. -/
def State.heldRecs (s : State) (p qk : Nat) : List Rec :=
  (s.net p).held.filterMap (fun h => match h.item with
    | .rcd q r => if q == qk then some r else none
    | _ => none)

/-- Event records held for a context's ring. -/
def State.heldEvents (s : State) (p c : Nat) : Nat :=
  ((s.net p).held.filter (fun h => match h.item with
    | .event x _ _ _ _ _ => x == c
    | _ => false)).length

/-- Where the completion record of a ring index lies in its page set. -/
def Queue.recOff (q : Queue) (i : Nat) : Nat := q.sqSize * 128 + i % q.cqSize * 32

/-- Send the lines of a ring that a range touches; the LINE names the host-memory handle, with the ring's queue
or context as its writer (log entry 42, DESIGN CHOICE). -/
def State.mirrorRing (s : State) (p ring off len : Nat) (writer : Nat × Nat) (big : List (Nat × Bytes)) : State :=
  (linesOf off len).foldl (fun s l =>
    let b := big.foldl (overlay (64 * l)) (s.objRead ring (64 * l) 64)
    s.mirror p mkLine (lineBody 0xFFFFFFFF (l / 1024) (l % 1024) (some writer) b)) s

/-- The name of a queue's ring in a LINE (R498).
Log entry 42, DESIGN CHOICE. -/
def queueWriter (qk : Nat) : Nat × Nat := (qk % 65536, qk / 65536)
/-- The name of a context's event ring in a LINE (R498).
Log entry 42, DESIGN CHOICE. -/
def eventWriter (c : Nat) : Nat × Nat := (c, 2 ^ 31)

/-- A host write into a ring of a partition's queue goes to the catcher. -/
def State.mirrorHostWrite (s : State) (ring off len : Nat) : State :=
  match s.queues.find? (fun (e : Nat × Queue) => e.2.ring == ring) with
  | some (qk, _) => (match s.queuePart qk with
    | some p => if s.mirrors p then s.mirrorRing p ring off len (queueWriter qk) [] else s
    | none => s)
  | none => s

/-- An event record (R407). -/
def evBytes (ev : Nat) (cookie : U32) (value : U64) (ts : Nat) (st : Status) (big : Bool) (index size : Nat) : Bytes :=
  let phase := if index / size % 2 = 0 then 128 else 0
  leBytes 4 ev ++ leBytes 4 cookie.toNat ++ leBytes 8 value.toNat ++ leBytes 8 ts ++
    [BitVec.ofNat 8 (statusCode st), BitVec.ofNat 8 (phase + b2n big)] ++ zeros 6

/-- Whether an event ring has a free slot: on the first pass it has; later that is a free value, for the manual names
no consumer index of the ring (log entry 52, DESIGN CHOICE). -/
def State.eventRoom (s : State) (x : Ctx) : Bool × State :=
  if x.evWritten < 2 ^ x.evLog then (true, s)
  else let (i, s) := s.fresh; ((Config.freeWord i).toNat % 2 == 0, s)

/-- A member that is no head sends an event record to its head (R356). -/
def State.forwardEvent (s : State) (c ev : Nat) (cookie : U32) (value : U64) (st : Status) (ts : Nat) : State :=
  match s.farHead, s.ctxs.get c with
  | some h, some x => s.sendControl h 2 (leBytes 4 ev ++ zeros 12 ++ evBytes ev cookie value ts st x.evOverflow x.evWritten (2 ^ x.evLog))
  | _, _ => s

/-- Write an event record into a context's event ring; a ring with no free slot counts an overflow (R407). -/
def State.putEvent (s : State) (c ev : Nat) (cookie : U32) (value : U64) (st : Status) (ts : Nat) : State :=
  match s.ctxs.get c with
  | none => s
  | some x =>
    let size := 2 ^ x.evLog
    let (room, s) := s.eventRoom x
    if !room then (s.setCtx c { x with evOverflow := true }).bumpFn x.fn hqEvtOverflow 1
    else
      let s := s.forwardEvent c ev cookie value st ts
      let s := s.objWrite x.ring (x.evWritten % size * 32) (evBytes ev cookie value ts st x.evOverflow x.evWritten size)
      s.setCtx c { x with evWritten := x.evWritten + 1, evOverflow := false }

/-! ### Making things visible (R501) -/

/-- A member that is no head sends what it writes into its rings to its head (R356). -/
def State.forwardRec (s : State) (q : Nat) (r : Rec) : State :=
  match s.farHead, s.queues.get q with
  | some h, some qu => s.sendControl h 1 (leBytes 2 (qIdx q) ++ zeros 2 ++ leBytes 4 qu.written ++ zeros 8 ++ recBytes r qu.written qu.cqSize)
  | _, _ => s

/-- Make an item visible. -/
def State.show (s : State) : HoldItem → State
  | .rcd q r => (s.forwardRec q r).putRec q r
  | .event c ev cookie v st ts => s.putEvent c ev cookie v st ts
  | .irq f v => s.raise f v
  | .fence ev v => (match s.events.get ev with
    | some e => { s with events := s.events.set ev { e with shown := v } }
    | none => s)

/-- Send the ring write that carries an item. -/
def State.mirrorItem (s : State) (p : Nat) : HoldItem → State
  | .rcd qk r => (match s.queues.get qk with
    | some q =>
      let hs := s.heldRecs p qk
      let i := (q.written + hs.length) % w32
      let big := (hs ++ [r]).mapIdx (fun j r => let k := (q.written + j) % w32; (q.recOff k, recBytes r k q.cqSize))
      s.mirrorRing p q.ring (q.recOff i) 32 (queueWriter qk) big
    | none => s)
  | .event c ev cookie v st ts => (match s.ctxs.get c with
    | some x =>
      let size := 2 ^ x.evLog
      let i := x.evWritten + s.heldEvents p c
      s.mirrorRing p x.ring (i % size * 32) 32 (eventWriter c) [(i % size * 32, evBytes ev cookie v ts st x.evOverflow i size)]
    | none => s)
  | _ => s

/-- Make an item of a partition visible, or hold it: a PAIRED partition waits for the ACK of everything sent
before it, and a FENCED one completes nothing (R501, R503). -/
def State.emit (s : State) (p : Option Nat) (x : HoldItem) : State :=
  match p with
  | none => s.show x
  | some p =>
    match (s.net p).st with
    | .paired =>
      let s := (s.flushJournal p).mirrorItem p x
      let n := s.net p
      s.setNet p { n with held := n.held ++ [⟨n.txSeq, s.ts, x⟩] }
    | .fenced => let n := s.net p; s.setNet p { n with held := n.held ++ [⟨n.txSeq, s.ts, x⟩] }
    | .resync => ((s.flushJournal p).mirrorItem p x).show x
    | _ => s.show x

/-- Release the held items that an acknowledged mseq covers, in order. -/
def State.releaseHeld (s : State) (p upTo : Nat) : State :=
  let n := s.net p
  let go := n.held.takeWhile (fun h => h.mseq ≤ upTo)
  let s := s.setNet p { n with held := n.held.drop go.length }
  go.foldl (fun s h => (s.show h.item).bumpPart p cMirrorWait (s.ts - h.since)) s

/-- Flag bit 2 of a completion record: the event ring of the queue's context has overflowed, and no event record has said so yet (R405, R407).
Log entry 52, DESIGN CHOICE. -/
def State.overflowFlag (s : State) (qk : Nat) : Nat :=
  match ((s.queues.get qk).bind (fun (q : Queue) => q.ctx)).bind s.ctxs.get with
  | some x => 4 * b2n x.evOverflow
  | none => 0

/-- Write a completion record of a queue. -/
def State.record (s : State) (qk : Nat) (r : Rec) : State := s.emit (s.queuePart qk) (.rcd qk { r with flags := r.flags ||| s.overflowFlag qk })

/-- Completion slots in use: records written and not consumed, records held, and slots reserved by fetched
entries (R400). -/
def State.slotsUsed (s : State) (qk : Nat) (q : Queue) : Nat :=
  diff32 q.written q.cqHead + q.fetched.length + (match s.queuePart qk with
    | some p => (s.heldRecs p qk).length
    | none => 0)

end Sys2Proof.Machine
end

