-- ==== Sys2Proof/Machine/Pairs.lean ====
section
/-! DEFINITION. Pairing of a partition with its copy on the pair peer (R495, R496): PAIR messages and the start of a RESYNC. -/

namespace Sys2Proof.Machine

/-! ### Objects in handle order -/

/-- Insert by a rank. -/
def insertBy {α : Type} (f : α → Nat) (a : α) : List α → List α
  | [] => [a]
  | x :: r => if f a ≤ f x then a :: x :: r else x :: insertBy f a r
def sortBy {α : Type} (f : α → Nat) (l : List α) : List α := l.foldr (insertBy f) []

/-- A partition's objects behind handles, in increasing handle. -/
def State.handled (s : State) (p : Nat) (f : Obj → Bool) : List (Nat × Obj) :=
  sortBy (fun (e : Nat × Obj) => (mkHandle e.1 e.2.gen).toNat)
    (s.objs.filter (fun (e : Nat × Obj) => e.2.part == some p && e.2.use == .object && f e.2))

/-! ### Pairing (R495, R496) -/

/-- A layout entry as it is sent (R460), with the fields SEC fills in. -/
def layoutBytes (l : Layout) (state consent bindTs sid : Nat) : Bytes :=
  leBytes 1 state ++ leBytes 1 consent ++ leBytes 1 l.bridgeAB.toNat ++ leBytes 1 l.bridgeBA.toNat ++ leBytes 4 l.columns.toNat ++
  leBytes 4 l.cores.toNat ++ leBytes 2 l.llcWays.toNat ++ leBytes 2 l.adapterQuota.toNat ++ leBytes 4 l.hbmPages.toNat ++
  leBytes 4 l.adapterPages.toNat ++ leBytes 4 l.flashSegments.toNat ++ leBytes 4 l.snapSegments.toNat ++ leBytes 2 l.keyBase.toNat ++
  leBytes 2 l.keyCount.toNat ++ padTo 16 (l.budgets.flatMap (fun b => leBytes 4 b.toNat)) ++ zeros 4 ++ leBytes 8 bindTs ++ leBytes 16 sid ++ zeros 48

/-- The body of a PAIR message: check value, layout as LAYOUT_SET supplied it, base digest. -/
def State.pairBody (s : State) (p : Nat) : Bytes :=
  kmacBytes (leBytes 32 (s.part p).sess.sealValue.toNat) [] 256 "FKL PAIR" ++
    (match s.layout p with
     | some l => layoutBytes l 0 0 0 0
     | none => zeros 128) ++ padTo 16 s.adpt.base

def State.bound (s : State) (p : Nat) : Bool := (s.part p).sess.st == .bound
/-- Whether the peer's last PAIR agrees with this device. -/
def State.caught (s : State) (p : Nat) : Bool := s.bound p && (s.net p).heard == some (s.pairBody p)
def State.isFlyer (s : State) : Bool := match s.pairOf with
  | some (f, _) => s.rig.serves f
  | none => false

/-- A device that has a pair sends PAIR when the partition becomes BOUND. -/
def State.sendPair (s : State) (p : Nat) : State := if s.pairOf.isSome then s.mirror p mkPair (s.pairBody p) else s

/-- Release everything held, in order.
Log entry 103, DEDUCED. -/
def State.releaseAll (s : State) (p : Nat) : State :=
  let n := s.net p
  n.held.foldl (fun s h => (s.show h.item).bumpPart p cMirrorWait (s.ts - h.since)) (s.setNet p { n with held := [] })

/-- Rings of a partition as they stand, for a catcher that has none of their bytes. -/
def State.mirrorRings (s : State) (p : Nat) : State :=
  let s := s.queues.foldl (fun s (e : Nat × Queue) =>
    if s.ctxPart e.2.ctx == some p then s.mirrorRing p e.2.ring 0 (e.2.sqSize * 128 + e.2.cqSize * 32) (queueWriter e.1) [] else s) s
  s.ctxs.foldl (fun s (e : Nat × Ctx) => if e.2.part == some p then s.mirrorRing p e.2.ring 0 (32 * 2 ^ e.2.evLog) (eventWriter e.1) [] else s) s

/-- Mirrored pages of a partition, a ZERO page apart, as object and logical page. -/
def State.mirroredPages (s : State) (p : Nat) : List (Nat × Nat) :=
  (s.handled p (fun o => o.mirrored && o.tier == 1)).flatMap (fun e => ((List.range e.2.logPages).filter (fun j => (e.2.pte (e.2.phys j)).st != .zero)).map (fun j => (e.1, j)))

/-- Enter RESYNC: control state and rings go out at once, mirrored pages one by one. -/
def State.startResync (s : State) (p : Nat) : State :=
  let s := s.releaseAll p
  let n := s.net p
  let s := s.setNet p { n with st := .resync, view := JView.empty, out := [], unacked := [], acked := n.txSeq, resync := s.mirroredPages p }
  (s.flushJournal p).mirrorRings p

/-- What a PAIR that has come makes of a partition; `again` says that the peer has bound afresh.
Log entry 104, DEDUCED. -/
def State.tryPair (s : State) (p : Nat) (again : Bool) : State :=
  let n := s.net p
  if !s.bound p then s
  else if !s.isFlyer then (if n.st == .catching && !s.caught p then s.setNet p { n with st := .unpaired } else s)
  else if s.caught p then (if again || n.st == .unpaired || n.st == .solo then s.startResync p else s)
  else if n.st == .paired || n.st == .resync then let s := s.releaseAll p; s.setNet p { s.net p with st := .unpaired, out := [], unacked := [], resync := [] }
  else s

/-- The current base digest has changed: PAIR goes out again for every BOUND partition, and one that is no longer caught has no catcher.
Log entry 104, DEDUCED. -/
def State.repair (s : State) : State :=
  (List.range 16).foldl (fun s p => if s.bound p then (s.sendPair p).tryPair p false else s) s

end Sys2Proof.Machine
end

