-- ==== Sys2Proof/Machine/Ends.lean ====
section
/-! DEFINITION. How commands end: completion records, what a retired command releases, aborts and the
fault scopes (R5 to R8, R405 to R422), and fences (R415, R416). -/

namespace Sys2Proof.Machine

/-! ### Which commands stand before a free or an unload (R181, R411) -/

/-- Read the ready, unfetched entries of a queue from an index: index, doorbell TS and entry. -/
def State.readyFrom (s : State) (q : Queue) : (fuel i : Nat) → List (Nat × Nat × RawEntry)
  | 0, _ => []
  | k + 1, i =>
    let n := diff32 q.tail i
    if n = 0 then []
    else
      match readEntry ((List.range (min n 5)).map (fun j => s.sqEntry q (i + j))) with
      | none => []
      | some e => (i, q.stamp i, e) :: State.readyFrom s q k ((i + e.span) % w32)

def State.readyCmds (s : State) (q : Queue) : List (Nat × Nat × RawEntry) := s.readyFrom q q.ready q.head

/-- Commands of a context not complete, with their doorbell TS: fetched ones and ready ones. -/
def State.ctxCmds (s : State) (c : Nat) : List (Nat × HostCmd) :=
  (s.queues.filter (fun e => e.2.ctx == some c)).flatMap (fun e =>
    (e.2.fetched.map (fun x => (x.ts, x.cmd))) ++ (s.readyCmds e.2).map (fun x => (x.2.1, x.2.2.cmd)))

def State.imgSlot (s : State) (p slot : Nat) : Option ImgSlot := (s.part p).slots.get slot

/-- The handles a RUN names: its supplied object arguments, by the loaded image's slots (R176, R403). -/
def State.runHandles (s : State) (p : Nat) (a : RunArgs) : List U32 :=
  match s.imgSlot p a.imageSlot.toNat with
  | some x =>
    (match x.image with
     | some im => ((im.args.zip a.slots).filter (fun e => e.1.type != 3)).map (fun e => e.2.setWidth 32)
     | none => [])
  | none => []

def State.cmdNames (s : State) (c : Nat) (cmd : HostCmd) : List U32 :=
  match cmd with
  | .run a => (match s.ctxPart (some c) with
    | some p => s.runHandles p a
    | none => [])
  | cmd => cmdHandles cmd

/-- Whether a command of a context, queued at or before a TS, names the object at a key. -/
def State.namedBefore (s : State) (c t key : Nat) : Bool :=
  match s.objs.get key with
  | none => false
  | some o => (s.ctxCmds c).any (fun x => x.1 ≤ t && (s.cmdNames c x.2).contains (mkHandle key o.gen))

/-- Whether a RUN of an image slot, queued at or before a TS, is not complete. -/
def State.slotRunBefore (s : State) (c t slot : Nat) : Bool :=
  (s.ctxCmds c).any (fun x => x.1 ≤ t && (match x.2 with
    | .run a => a.imageSlot.toNat == slot
    | _ => false))

/-! ### Image slots and banks (R180, R182) -/

/-- Whether a bank holds an image. -/
def bankIs (b : Option BankImg) (p slot : Nat) : Bool :=
  match b with
  | some x => x.part == p && x.slot == slot
  | none => false

/-- Drop an image from a tile's banks (R182). -/
def Tile.wipeImage (t : Tile) (p slot : Nat) : Tile :=
  { t with bank0 := if bankIs t.bank0 p slot then none else t.bank0,
           bank1 := if bankIs t.bank1 p slot then none else t.bank1,
           patch0 := if bankIs t.bank0 p slot then [] else t.patch0,
           loading := t.loading.filter (fun l => l != (p, slot)),
           patch1 := if bankIs t.bank1 p slot then [] else t.patch1 }

/-- Empty an image slot: banks and resident copy wiped. -/
def State.emptySlot (s : State) (p slot : Nat) : State :=
  match s.imgSlot p slot with
  | none => s
  | some x =>
    let s := if hiddenBase ≤ x.body then s.dropPages x.body else s
    let s := { s with tiles := List.map (fun (e : Nat × Tile) => (e.1, e.2.wipeImage p slot)) s.tiles }
    s.setPart p { s.part p with slots := (s.part p).slots.erase slot }

/-! ### Retirement -/

/-- Objects in DRAINING whose last command has retired become FREE (R410). -/
def State.settleObjs (s : State) : State :=
  (s.objs.filter (fun e => e.2.draining.isSome)).foldl (fun s e =>
    match e.2.draining, e.2.owner with
    | some t, some c => if s.namedBefore c t e.1 then s else s.dropPages e.1
    | _, _ => s.dropPages e.1) s

/-- Image slots in DRAINING whose last RUN has retired become EMPTY (R180). -/
def State.settleSlots (s : State) : State :=
  (List.range 16).foldl (fun s p =>
    ((s.part p).slots.filter (fun e => e.2.st == .draining)).foldl (fun s e =>
      if s.slotRunBefore e.2.owner e.2.unloadTs e.1 then s else s.emptySlot p e.1) s) s

def State.settle (s : State) : State := s.settleObjs.settleSlots

/-- Remove a fetched entry. -/
def State.dropEntry (s : State) (qk sub : Nat) : State :=
  match s.queues.get qk with
  | none => s
  | some q => s.setQueue qk { q with fetched := q.fetched.filter (fun e => e.sub != sub) }

/-- What a completion carries beside its status: defaults are zero. -/
structure Done where
  st : Status
  sc : Scope
  result : Nat
  detail : Nat
  flags : Nat
  stage : Nat
  ts : Option Nat
  deriving DecidableEq, Repr

def Done.of (st : Status) (sc : Scope) : Done := ⟨st, sc, 0, 0, 0, 0, none⟩
def Done.okay (result detail : Nat) : Done := ⟨.ok, .request, result, detail, 0, 0, none⟩
/-- A refusal at request scope. -/
def Done.req (st : Status) : Done := Done.of st .request

/-- Control commands RING holds: accepted and not completed (R451). -/
def State.ringDepth (s : State) : Nat :=
  (s.queues.map (fun e => (e.2.fetched.filter (fun x => isControl x.cmd)).length)).sum

/-- RING_CTL.full_ns: microseconds, saturating, during which RING held 256 (R452). -/
def State.tallyFull (s : State) : State :=
  if 256 ≤ s.ringDepth then { s with onlyn := { s.onlyn with fullSince := some (s.onlyn.fullSince.getD s.ts) } }
  else
    match s.onlyn.fullSince with
    | none => s
    | some t =>
      let n := min (2 ^ 32 - 1) (s.dev.regs.getD 0x500 0 % 2 ^ 32 + (s.ts - t) / 1000)
      { s with dev := { s.dev with regs := s.dev.regs.set 0x500 n }, onlyn := { s.onlyn with fullSince := none } }

/-- Complete a fetched entry: its record, and what its retirement releases. A PIN_ADAPTER with a status other than OK is counted (R234). -/
def State.complete (s : State) (qk sub : Nat) (d : Done) : State :=
  match s.queues.get qk with
  | none => s
  | some q =>
    match q.fetched.find? (fun e => e.sub == sub) with
    | none => s
    | some e =>
      let r : Rec := ⟨sub, d.st, d.sc, d.flags, d.stage, e.tag, d.result, d.ts.getD s.ts, d.detail⟩
      let s := (match e.cmd with
        | .pinAdapter _ => s.bumpPart? (s.queuePart qk) cAdRefused (b2n (d.st != Status.ok))
        | _ => s)
      ((s.record qk r).dropEntry qk sub).settle.tallyFull

/-! ### Ends of RUNs and works -/

/-- A tile's state when its part of a RUN is over: no program runs, both accumulator sets and the
operation in progress are gone (R104, R149). -/
def Tile.stop (t : Tile) : Tile :=
  { t with run := none, loops := [], ended := false, wait := none, sets := [], mxu := none, rowBuf := [],
           carryBuf := [], rowsDone := 0, sent := [], rest := [], vxPort := none, upsets := t.upsets.filter (fun u => u != .acc) }

/-- RUN_CYCLES (R155). -/
def cRunCycles : Nat := 0x160

/-- Array cycles of a RUN from the first issue on its tiles until now.
Log entry 190, DESIGN CHOICE. -/
def State.runCycles (s : State) (r : Run) : Nat := (s.ts - r.startTs) * 7 / 10 - r.lead

/-- Stop a tile's RUN_CYCLES, once. -/
def State.fixCycles (s : State) (r : Run) (t : Nat) : State :=
  if (s.tile t).regs.has cRunCycles then s
  else s.setTile t { s.tile t with regs := (s.tile t).regs.set cRunCycles (s.runCycles r) }

/-- STAGE_FLAGS of a RUN: the OR over its tiles (R68). -/
def State.runFlags (s : State) (r : Run) : Nat := (r.tiles.foldl (fun (a : Flags) t => a ||| (s.tile t).flags) r.flags).toNat

/-- Frames that a sweep has left and no read in flight uses wait for their segment's erase (R290). -/
def State.settleLeaving (s : State) : State :=
  let used (f : Nat) : Bool := s.accs.any (fun (e : Nat × Access) => e.2.rows.any (fun r => r.frame == f))
  let gone := s.flash.leaving.filter (fun f => !used f)
  if gone.isEmpty then s
  else { s with flash := { s.flash with
      leaving := s.flash.leaving.filter used,
      used := gone.foldl (fun u f => u.erase f) s.flash.used,
      dead := gone.foldl (fun d f => insertNat f d) s.flash.dead } }

/-- Drop every access of an owner that satisfies a test. -/
def State.dropAccs (s : State) (f : Access → Bool) : State :=
  { s with accs := s.accs.filter (fun e => !f e.2) }.settleLeaving

def ownerIsTile (ts : List Nat) : Owner → Bool
  | .tile t => ts.contains t
  | _ => false

def ownerIsWork (id : Nat) : Owner → Bool
  | .work w => w == id
  | _ => false

/-- How long a tile has stalled on flash reads it still waits for (R252). -/
def State.flashStall (s : State) (t : Nat) : Nat :=
  match (s.tile t).wait with
  | some w => if w.accs.any (fun i => (s.accs.get i).any (fun (a : Access) => a.kind == .flashRead)) then s.ts - w.since else 0
  | none => 0

/-- Count stall time. -/
def State.countStall (s : State) (p : Option Nat) (n : Nat) : State := if n = 0 then s else s.bumpPart? p cTierStall n

/-- Release a RUN's tiles, streams and accesses; a stall on a flash read ends with it (R252). -/
def State.releaseRun (s : State) (rid : Nat) : State :=
  match s.runs.get rid with
  | none => s
  | some r =>
    let s := r.tiles.foldl (fun s t => if (s.tile t).run == some rid then s.countStall (some r.part) (s.flashStall t) else s) s
    let s := s.dropAccs (fun a => ownerIsTile r.tiles a.owner)
    let s := ((r.tiles.map (fun t => t / 8)).eraseDups).foldl State.touchDom s
    let s := r.tiles.foldl (fun s t => if (s.tile t).run == some rid then (s.fixCycles r t).setTile t ((s.fixCycles r t).tile t).stop else s) s
    let s := s.usets.foldl (fun s e =>
      let u := if e.2.lastRun == some rid then { e.2 with lastRun := none } else e.2
      s.setUset e.1 (if u.run.isNone then { u with ended := u.ended.filter (fun t => !r.tiles.contains t) } else u)) s
    { s with runs := s.runs.erase rid }.endHold rid

/-- End a RUN by abort or fault (R104, R149, R421): its attempts close under R322 and the groups in which it
holds an operation start their abort (R385). -/
def State.abortRun (s : State) (rid : Nat) : State :=
  let s := (s.heldGroups rid).foldl (fun s g => s.markAbort g .self) s
  (s.closeAttempts rid).releaseRun rid

/-- Pages that a work's writes in flight would have written enter INCOMPLETE (R255, R421).
Log entry 191, DEDUCED. -/
def State.spoilWrites (s : State) (id : Nat) : State :=
  (s.accs.filter (fun e => ownerIsWork id e.2.owner && (e.2.kind == .hbmWrite || e.2.kind == .flashWrite))).foldl
    (fun s e => match s.objs.get e.2.obj with
      | some o => s.markIncomplete e.2.obj (o.phys (e.2.off / pageBytes))
      | none => s) s

/-- End a work without completing it. -/
def State.abortWork (s : State) (id : Nat) : State :=
  match s.works.get id with
  | none => s
  | some w =>
    let s := s.spoilWrites id
    let s := s.dropAccs (fun a => ownerIsWork id a.owner)
    let s := { s with works := s.works.erase id }
    match w.kind with
    | .loadImage _ slot => (match w.part with
      | some p => s.emptySlot p slot
      | none => s)
    | .publish _ _ (some k) => s.dropPages k
    | _ => s

/-- A PIN that ends while it waits for its load holds no pin (R220). -/
def State.dropWaiter (s : State) (qk sub : Nat) : State :=
  (s.adpt.cache.filter (fun (e : Nat × CacheEntry) => e.2.waiters.any (fun w => w.1 == qk && w.2.1 == sub))).foldl (fun s (e : Nat × CacheEntry) =>
    s.setCache e.1 (e.2.waiters.foldl (fun (x : CacheEntry) w =>
      if w.1 == qk && w.2.1 == sub then { x.unpin w.2.2 with waiters := x.waiters.filter (fun y => y != w) } else x) e.2)) s

/-- Whether a RUN or a work belongs to an entry. -/
def Run.isOf (r : Run) (qk sub : Nat) : Bool := r.q == qk && r.sub == sub

/-- End a fetched entry early: whatever it had started stops, and its record is written, a RUN's with the flags its tiles have raised (R68). -/
def State.endEntryWith (s : State) (qk sub : Nat) (d : Done) : State :=
  let d := { d with stage := (s.runs.filter (fun e => e.2.isOf qk sub && e.2.st == .running)).foldl (fun (n : Nat) e => n ||| s.runFlags e.2 % 128) d.stage }
  let s := (s.runs.filter (fun e => e.2.q == qk && e.2.sub == sub)).foldl (fun s e => s.abortRun e.1) s
  let s := (s.works.filter (fun e => e.2.q == some qk && e.2.sub == sub)).foldl (fun s e => s.abortWork e.1) s
  let s := { s with waits := s.waits.filter (fun w => !(w.q == qk && w.sub == sub)) }
  (s.dropWaiter qk sub).complete qk sub d

def State.endEntry1 (s : State) (qk sub : Nat) (st : Status) (sc : Scope) : State := s.endEntryWith qk sub (Done.of st sc)

/-- End every fetched entry of a queue that a test selects; the victim takes its own status. -/
def State.endQueue1 (s : State) (qk : Nat) (sel : Entry → Bool) (st : Status) (sc : Scope)
    (victim : Option (Nat × Nat × Status)) : State :=
  match s.queues.get qk with
  | none => s
  | some q =>
    (q.fetched.filter sel).foldl (fun s e =>
      let st := match victim with
        | some (vq, vs, v) => if vq == qk && vs == e.sub then v else st
        | none => st
      s.endEntry1 qk e.sub st sc) s

def State.ctxQueues (s : State) (c : Nat) : List Nat :=
  (s.queues.filter (fun e => e.2.ctx == some c)).map (fun e => e.1)

/-! ### Fault scopes (R5, R406) -/

/-- A fault record on the admin queue of a context's function (R406).
Log entry 167, DEDUCED. -/
def State.faultRecord (s : State) (f c : Nat) (st : Status) (sc : Scope) : State :=
  s.emit (s.ctxPart (some c)) (.rcd (adminKey f) ⟨0xFFFFFFFF, st, sc, 0, 0, 0, c, s.ts, 0⟩)

/-- An ACTIVE context enters LOST: its requests end, the victim with the cause and the others with
CONTEXT_LOST, and a fault record is written. A context that is LOST or DRAINING writes no further
record (R8, R422). -/
def State.loseCtx1 (s : State) (c : Nat) (st : Status) (sc : Scope) (victim : Option (Nat × Nat)) : State :=
  match s.ctxs.get c with
  | none => s
  | some x =>
    if x.st != .active then s
    else
      let s := s.setCtx c { x with st := .lost }
      let v := victim.map (fun p => (p.1, p.2, st))
      let s := (s.ctxQueues c).foldl (fun s q => s.endQueue1 q (fun _ => true) .contextLost sc v) s
      ((s.bumpFn x.fn hqCtxLost 1).faultRecord x.fn c st sc).releaseCtxPins c

/-- End a RUN for a group abort with the status of R388; an end at context scope ends its context. -/
def State.groupEnd (s : State) (e : Nat × Run) (c : GCause) : State :=
  let r := e.2
  let s := s.bumpPart r.part cGrpAborts 1
  match s.tornShards e.1, c with
  | some b, _ =>
    (s.endEntryWith r.q r.sub ⟨.partialDone, .context, 0, b, 1, 0, none⟩).loseCtx1 r.ctx .partialDone .context none
  | none, .timeout => s.loseCtx1 r.ctx .timeout .context (some (r.q, r.sub))
  | none, .mismatch => s.loseCtx1 r.ctx .malformed .context (some (r.q, r.sub))
  | none, .stale => s.loseCtx1 r.ctx .stale .context (some (r.q, r.sub))
  | none, .self | none, .other => s.endEntry1 r.q r.sub .aborted .request

/-- Carry out the aborts of groups that are ABORTING (R386): each ends the running RUNs of local members that
name it, which may start the aborts of further groups. -/
def State.drainGroups : (fuel : Nat) → State → State
  | 0, s => s
  | k + 1, s =>
    match s.groups.find? (fun (e : Nat × Group) => e.2.st == .aborting) with
    | none => s
    | some (g, x) =>
      let c := x.cause.getD .other
      let mine := s.runs.filter (fun (e : Nat × Run) => e.2.st == .running && e.2.groups.contains g && (s.memberOf x e.2.part).isSome)
      State.drainGroups k ((mine.foldl (fun s e => if s.runs.has e.1 then s.groupEnd e c else s) s).abortSteps g)

/-- Aborts settle before a command ends: one round for each group. -/
def State.settleGroups (s : State) : State := State.drainGroups (s.groups.length + 1) s

/-- Start a group abort (R385). -/
def State.abortGroup (s : State) (g : Nat) (c : GCause) : State := (s.markAbort g c).settleGroups

def State.endEntry (s : State) (qk sub : Nat) (st : Status) (sc : Scope) : State := (s.endEntry1 qk sub st sc).settleGroups
def State.endQueue (s : State) (qk : Nat) (sel : Entry → Bool) (st : Status) (sc : Scope) (victim : Option (Nat × Nat × Status)) : State :=
  (s.endQueue1 qk sel st sc victim).settleGroups
def State.loseCtx (s : State) (c : Nat) (st : Status) (sc : Scope) (victim : Option (Nat × Nat)) : State :=
  (s.loseCtx1 c st sc victim).settleGroups

/-- A context fault met by a request. -/
def State.ctxFault (s : State) (c : Nat) (st : Status) (victim : Option (Nat × Nat)) : State :=
  s.loseCtx c st .context victim

/-- A partition fault (R5): every context of the partition. -/
def State.partFault (s : State) (p : Nat) (st : Status) (victim : Option (Nat × Nat)) : State :=
  (s.ctxs.filter (fun e => e.2.part == some p)).foldl (fun s e => s.loseCtx e.1 st .partition victim) s

/-- A device fault (R5, R559): every context ends, admin commands not started end with CONTEXT_LOST, and the fault is held. -/
def State.devFault (s : State) (st : Status) (victim : Option (Nat × Nat)) : State :=
  let s := s.ctxs.foldl (fun s e => s.loseCtx e.1 st .device victim) s
  let s := (s.queues.filter (fun (e : Nat × Queue) => e.2.ctx.isNone)).foldl (fun s (e : Nat × Queue) =>
    (e.2.fetched.filter (fun (x : Entry) => x.st == .waiting)).foldl (fun s x => s.complete e.1 x.sub (Done.of .contextLost .device)) s) s
  { s with dev := { s.dev with fault := some (s.dev.fault.getD (st, s.ts)) } }

/-- A command that reads the root or the high-water mark: a dual-rail mismatch is a device fault (R284). -/
def State.whenRails (s : State) (f : State → Host.Outcome State Fault Refusal) : Host.Outcome State Fault Refusal :=
  if s.shroud.railsOk then f s else .next (s.devFault .parity none)

/-- Raise a fault met by a request of a queue at a scope; an admin queue has no context, so its faults
end the request alone (R418). -/
def State.faultAt (s : State) (qk sub : Nat) (st : Status) (sc : Scope) : State :=
  match s.queues.get qk with
  | none => s
  | some q =>
    match sc, q.ctx with
    | .request, _ => s.complete qk sub (Done.req st)
    | .context, some c => s.ctxFault c st (some (qk, sub))
    | .context, none => s.complete qk sub (Done.req st)
    | .partition, _ => (match s.queuePart qk with
      | some p => s.partFault p st (some (qk, sub))
      | none => s.devFault st (some (qk, sub)))
    | .device, _ => s.devFault st (some (qk, sub))

/-! ### Fences (R415, R416) -/

/-- Whether a fence has reached a target. -/
def satisfied (value target : U64) : Bool := (value - target).toNat < 2 ^ 63

/-- The status of applying a signal (R415). -/
def signalStatus (value v : U64) : Status :=
  let d := (v - value).toNat
  if d = 0 || 2 ^ 63 ≤ d then .stale
  else if 2 ^ 62 < d then .malformed
  else .ok

/-- Complete the WAITs of an event that its value satisfies (R416): ties go to the completion. -/
def State.resolveWaits (s : State) (ev : Nat) (value : U64) : State :=
  (s.waits.filter (fun w => w.event == ev && satisfied value w.target)).foldl (fun s w =>
    let s := { s with waits := s.waits.filter (fun x => x != w) }
    let ok := w.deadline == 0 || decide (s.ts ≤ w.deadline)
    s.complete w.q w.sub (Done.req (if ok then .ok else .timeout))) s

/-- Apply a signal to an event: its status and the state (R415). -/
def State.applySignal (s : State) (ev : Nat) (v : U64) : Status × State :=
  match s.events.get ev with
  | none => (.handle, s)
  | some e =>
    match signalStatus e.value v with
    | .ok =>
      let s := { s with events := s.events.set ev { e with value := v, signalTs := s.ts } }
      let p := s.ctxPart (some e.owner)
      let s := (s.emit p (.fence ev v)).emit p (.event e.owner ev e.cookie v .ok s.ts)
      let s := (match s.ctxs.get e.owner with
        | some x => s.emit p (.irq x.fn e.vector.toNat)
        | none => s)
      (.ok, s.resolveWaits ev v)
    | st => (st, s)

/-- SIGNALs of an event fetched and not yet applied. -/
def State.signalsOf (s : State) (ev : Nat) : List (Nat × Nat) :=
  s.queues.flatMap (fun e => (e.2.fetched.filter (fun x => match x.cmd with
    | .signal a => x.st == .waiting && a.event.toNat == ev
    | _ => false)).map (fun x => (e.1, x.sub)))

/-- Destroy an event: outstanding WAITs and signals not yet applied end ABORTED (R414). -/
def State.destroyEvent (s : State) (ev : Nat) : State :=
  let ws := s.waits.filter (fun w => w.event == ev)
  let sigs := s.signalsOf ev
  let s := { s with waits := s.waits.filter (fun w => w.event != ev), events := s.events.erase ev }
  let s := ws.foldl (fun s w => s.complete w.q w.sub (Done.req .aborted)) s
  sigs.foldl (fun s w => s.complete w.1 w.2 (Done.req .aborted)) s

/-! ### Starting commands (R401) -/

/-- The entry of a queue that may start next: every earlier one has started, no earlier WAIT is
outstanding, and a barrier stands at the front. -/
def Queue.startable (q : Queue) : Option Entry :=
  match q.fetched.span (fun e => e.st == .started) with
  | (before, e :: _) =>
    if before.any (fun x => match x.cmd with
      | .wait _ => true
      | _ => false) then none
    else if e.barrier && !before.isEmpty then none
    else some e
  | (_, []) => none

/-- A queue may run commands: ACTIVE, its context ACTIVE or none, no device fault held, no restore. -/
def State.queueRuns (s : State) (q : Queue) : Bool :=
  q.st == .active && s.dev.fault.isNone &&
    (match q.ctx with
     | none => true
     | some c => (match s.ctxs.get c with
       | some x => x.st == .active && !x.restoring && !(x.part.isSome && s.isCatcher)
       | none => false))

/-! ### Components of Onlyn (R427 to R431) -/

/-- Whether a component runs; the numbers are those of R425's order. -/
def State.compUp (s : State) (c : Nat) : Bool := match s.onlyn.comps.get c with
  | some x => x.down.isNone
  | none => true
def cpBoot : Nat := 0
def cpSec : Nat := 1
def cpRing : Nat := 2
def cpLog : Nat := 3
def cpPwr : Nat := 4
def cpNet : Nat := 5
def cpLink : Nat := 6
def cpDigest : Nat := 7
def cpAdpt : Nat := 8

/-- A record for LOG; while LOG restarts, 64 are held and further ones are lost. -/
def State.logRec (s : State) (x : LogItem) : State :=
  let o := s.onlyn
  if s.compUp cpLog then { s with onlyn := { o with log := o.log ++ [(s.ts, x)] } }
  else if o.logHeld.length < 64 then { s with onlyn := { o with logHeld := o.logHeld ++ [(s.ts, x)] } }
  else { s with onlyn := { o with logLost := o.logLost + 1 } }

/-- The components a command waits for. -/
def compsOf (c : HostCmd) : List Nat :=
  if !isControl c then []
  else cpRing :: (match c with
    | .publish _ | .pinAdapter _ | .unpinAdapter _ | .evictAdapter _ | .probeReport _ | .basePropose _ | .baseCommit | .baseAbandon => [cpAdpt]
    | .troupeSet _ | .groupSet _ => [cpLink]
    | _ => [])

/-- Start the next command of a queue when it is the one given: the queue's key, its entry, and the
state in which it has started. None when it is not this command's turn: the command waits. -/
def State.start (s : State) (q : QId) (cmd : HostCmd) : Option (Nat × Entry × State) :=
  match s.queues.get (qKey q) with
  | none => none
  | some qu =>
    if !s.queueRuns qu then none
    else
      match qu.startable with
      | none => none
      | some e =>
        if e.cmd == cmd && (compsOf cmd).all s.compUp then
          some (qKey q, e, s.setQueue (qKey q) { qu with fetched := qu.fetched.map (fun x =>
            if x.sub == e.sub then { x with st := .started, startTs := s.ts } else x) })
        else none

/-- Run a host command's effect when it may start. -/
def State.whenStarted (s : State) (q : QId) (cmd : HostCmd) (f : Nat → Entry → State → State) :
    Host.Outcome State Fault Refusal :=
  match s.start q cmd with
  | none => .next s
  | some (qk, e, s) => .next (f qk e s)

/-- As `whenStarted`, with the context and partition of a context queue. -/
def State.whenCtx (s : State) (q : QId) (cmd : HostCmd) (f : Nat → Entry → Nat → Ctx → State → State) :
    Host.Outcome State Fault Refusal :=
  s.whenStarted q cmd (fun qk e s =>
    match s.queues.get qk with
    | none => s
    | some qu =>
      match qu.ctx with
      | none => s
      | some c => (match s.ctxs.get c with
        | some x => f qk e c x s
        | none => s))

end Sys2Proof.Machine
end

