-- ==== Sys2Proof/Machine/Works.lean ====
section
/-! DEFINITION. Split requests: COPY, FILL and the management DMA's reads and writes as chunks, the
accesses they issue, and what an access's answer does to the request (R238, R241, R254 to R256, R278 to
R280, R482, R483). -/

namespace Sys2Proof.Machine

/-! ### Dividing a range (R254) -/

/-- Pages a range touches. -/
def pagesOf (off len : Nat) : Nat :=
  if len = 0 then 0 else (off + len - 1) / pageBytes - off / pageBytes + 1

/-- The part of the page `i` of an `n`-page range. -/
def partOf (n i : Nat) : Nat := i / ceilDiv n 64

def nParts (n : Nat) : Nat := ceilDiv n (ceilDiv n 64)

/-- Chunks of a range: one for each page of the object range it covers. -/
def pageChunks (off len : Nat) : List Chunk :=
  let n := pagesOf off len
  (cutPages off len).map (fun r => ⟨r.1 - off, r.2, partOf n (r.1 / pageBytes - off / pageBytes)⟩)

/-- Chunks of a range that crosses the host link: one for each block (R482). -/
def blockChunks (off len : Nat) : List Chunk :=
  let n := pagesOf off len
  (List.range (ceilDiv len 4096)).map (fun k =>
    ⟨4096 * k, min 4096 (len - 4096 * k), partOf n ((off + 4096 * k) / pageBytes - off / pageBytes)⟩)

/-- A 32-bit pattern repeated over `len` bytes from the range's start (R404).
Log entry 220, DESIGN CHOICE. -/
def patternBytes (p : U32) (start len : Nat) : Bytes :=
  (List.range len).map (fun i => BitVec.ofNat 8 (p.toNat / 256 ^ ((start + i) % 4)))

/-! ### Flash rows (R246, R247) -/

/-- Group position of data part `j` of row `r`. -/
def dataPos (r j : Nat) : Nat := (2 * r + 2 + j) % 16

/-- The rows a page of a flash frame spans, with the group positions of its parts. -/
def pageRows (page frame : Nat) : List RowRead :=
  let p := frame % 7
  let bs := (List.range 16).map (fun i => 16 * p + i)
  ((List.range 8).map (fun r => (r, (bs.filter (fun b => b / 14 == r)).map (fun b => dataPos r (b % 14))))).filterMap
    (fun (r, want) => if want.isEmpty then none else some ⟨page, frame, r, want, want, [], [], [], false, [], [], []⟩)

/-- The group of a flash frame, and the channel at a position of it. -/
def frameGroup (frame : Nat) : Nat := frame / 7 % 8
def channelOf (frame pos : Nat) : Nat := 16 * frameGroup frame + pos

/-- Positions of a row that are neither read, outstanding nor late: those a rebuild may read. -/
def RowRead.unread (r : RowRead) : List Nat :=
  (List.range 16).filter (fun p => !(r.out.contains p || r.arrived.contains p || r.late.contains p))

/-- A part is late: the parts needed to rebuild its row are read at once, every part not yet read or found late; those on down channels are late in turn.
Answers the parts addressed to down channels (R249).
Log entry 86, DEDUCED. -/
def State.markLate (s : State) (r : RowRead) (pos : Nat) : RowRead × Nat :=
  let r := { r with out := removeNat pos r.out, late := insertNat pos r.late }
  let down := r.unread.filter (fun p => s.flash.down.contains (channelOf r.frame p))
  let up := r.unread.filter (fun p => !down.contains p)
  ({ r with out := r.out ++ up, late := down.foldl (fun l p => insertNat p l) r.late, sent := up.foldl (fun t p => t.set p s.ts) r.sent }, down.length)

/-- Wanted parts on down channels are late at issue. -/
def State.dropDown (s : State) (r : RowRead) : RowRead × Nat :=
  (r.want.filter (fun p => s.flash.down.contains (channelOf r.frame p))).foldl (fun (a : RowRead × Nat) p =>
    let (r, n) := s.markLate a.1 p
    (r, a.2 + 1 + n)) (r, 0)

/-- Issue a row's reads for a reader's partition (R249).
Log entry 86, DEDUCED. -/
def State.issueRow (s : State) (part : Option Nat) (r : RowRead) : RowRead × State :=
  let (r, n) := s.dropDown r
  (r, if n = 0 then s else s.bumpPart? part cTierChannelDown n)

/-! ### Issuing accesses -/

/-- The lowest access number not in use. -/
def State.accId (s : State) : Nat := s.accs.lowestFree (s.accs.length + 1) 0

/-! ### Power domains (R545, R546) -/

def State.dom (s : State) (d : Nat) : Dom := s.pwr.doms.getD d ⟨d == 95, none, 0⟩
def State.setDom (s : State) (d : Nat) (x : Dom) : State := { s with pwr := { s.pwr with doms := s.pwr.doms.set d x } }

/-- Request wake of a domain that is not on (R546). -/
def State.wake (s : State) (d : Nat) : State :=
  let x := s.dom d
  if x.on then s.setDom d { x with idleSince := s.ts }
  else s.setDom d { x with waking := some (x.waking.getD s.ts) }

def State.wakeAll (s : State) (l : List Nat) : State := l.foldl State.wake s

def State.allAwake (s : State) (l : List Nat) : Bool := l.all (fun d => (s.dom d).on)

/-- Domains an object's pages need: the stack and Shroud groups of their pairs, or the flash PHYs of
their groups (R240, R246, R545). -/
def objDomains (o : Obj) : List Nat :=
  (o.pages.flatMap (fun p =>
    if p.tier = 1 then [40 + p.frameNo % 256 / 32, 73 + p.frameNo % 256 / 16] else [48 + p.frameNo / 7 % 8 / 2])).eraseDups

/-- Domains that an access to a range of an object uses. -/
def Obj.rangeDomains (o : Obj) (off len : Nat) : List Nat :=
  objDomains { o with pages := (cutPages off len).map (fun r => o.pte (o.phys (r.1 / pageBytes))) }

/-! ### What an access is charged to -/

/-- The partition of the unit an access serves. -/
def State.ownerPart (s : State) (o : Owner) : Option Nat :=
  match o with
  | .tile t => ((s.tile t).run.bind (fun r => s.runs.get r)).map (fun r => r.part)
  | .work id => (s.works.get id).bind (fun w => w.part)
  | .update p _ => some p
  | .none => none

/-- The partition an access is charged to. -/
def State.accPart (s : State) (a : Access) : Option Nat := s.ownerPart a.owner

/-- Activities an access is charged under: HBM bytes, flash reads, and DMA for what a COPY reads and a FILL writes.
Log entry 123, DEDUCED. -/
def State.accActs (s : State) (a : Access) : List Nat :=
  (match a.kind with
   | .hbmRead | .hbmWrite => [0]
   | .flashRead => [1]
   | _ => []) ++
  (match a.owner with
   | .work id => (match (s.works.get id).map (fun (w : Work) => w.kind), a.kind with
     | some (WorkKind.copy _), .hbmRead | some (WorkKind.copy _), .flashRead | some (WorkKind.copy _), .hostRead => [3]
     | some (WorkKind.fill _), .hbmWrite | some (WorkKind.fill _), .flashWrite => [3]
     | some (WorkKind.loadImage _ _), _ | some (WorkKind.sealing _), _ | some (WorkKind.publish _ _ _), _ | some (WorkKind.headers _ _), _ |
         some (WorkKind.report _ _ _), _ | some (WorkKind.pinTrain _ _), _ => [3]
     | _, _ => [])
   | _ => [])

/-- Admit an access while each of its activities has budget left, and charge its full size in units of 4 KiB.
Log entry 123, DEDUCED. -/
def State.admitAcc (s : State) (a : Access) : Access × State :=
  match s.accPart a with
  | none => ({ a with adm := true, since := s.ts }, s)
  | some p =>
    let ks := (s.accActs a).map (fun x => 4 * p + x)
    if ks.all s.budgetLeft then ({ a with adm := true, since := s.ts }, ks.foldl (fun s k => s.spend k (ceilDiv a.len 4096)) s)
    else ({ a with adm := false }, s)

/-! ### Stalls on flash reads (R252) -/

/-- How long a flash read has kept its consumer waiting, the time apart in which the partition's flash read budget was exhausted. -/
def State.stallTime (s : State) (a : Access) : Nat :=
  let dry := (match s.accPart a with
    | some p => (match s.dev.dry.get (4 * p + 1) with
      | some t => s.ts - max t a.born
      | none => 0)
    | none => 0)
  s.ts - a.born - a.excused - dry

/-- An activity's budget is no longer exhausted: the flash reads of its partition that waited are excused that time.
Log entry 123, DEDUCED. -/
def State.endDry (s : State) (k : Nat) : State :=
  match s.dev.dry.get k with
  | none => s
  | some t =>
    let accs : Tbl Access := s.accs.map (fun (e : Nat × Access) =>
      (e.1, if e.2.kind == .flashRead && k % 4 == 1 && s.accPart e.2 == some (k / 4) then { e.2 with excused := e.2.excused + (s.ts - max t e.2.born) } else e.2))
    { s with accs := accs, dev := { s.dev with dry := s.dev.dry.erase k } }

/-- Issue an access: what its budget does not let in waits for the next period. Hardware wakes the domains it uses. -/
def State.addAcc (s : State) (a : Access) : State :=
  let s := match a.kind, s.objs.get a.obj with
    | .hostRead, _ | _, none => s
    | _, some o => s.wakeAll (o.rangeDomains a.off a.len)
  let (a, s) := s.admitAcc a
  { s with accs := s.accs.set s.accId a }

/-- Admit the accesses that wait, in the order of their numbers. -/
def State.admitWaiting (s : State) : State :=
  (s.accs.filter (fun (e : Nat × Access) => !e.2.adm)).foldl (fun s (e : Nat × Access) =>
    let (a, s) := s.admitAcc e.2
    { s with accs := s.accs.set e.1 a }) s

/-- An access in flight that its budget has admitted.
Log entry 186, DEDUCED. -/
def State.acc? (s : State) (id : Nat) : Option Access :=
  match s.accs.get id with
  | some a => if a.adm then some a else none
  | none => none

/-- Issue a read of a range of an object. A range of ZERO pages needs no access (R238). -/
def State.issueRead (s : State) (owner : Owner) (priv : Bool) (key off len chunk : Nat) : State :=
  match s.objs.get key with
  | none => s
  | some o =>
    if o.tier = 1 then s.addAcc ⟨.hbmRead, owner, priv, key, off, len, [], 0, s.ts, [], chunk, false, s.ts, 0⟩
    else
      let pages := (cutPages off len).map (fun r => r.1 / pageBytes)
      let (rows, s) := pages.foldl (fun (acc : List RowRead × State) pg =>
        let f := (o.pte (o.phys pg)).frameNo
        (pageRows pg f).foldl (fun (acc : List RowRead × State) r =>
          let (r, s) := acc.2.issueRow (s.ownerPart owner) r
          (acc.1 ++ [r], s)) acc) ([], s)
      s.addAcc ⟨.flashRead, owner, priv, key, off, len, [], 0, s.ts, rows, chunk, false, s.ts, 0⟩

/-- Issue a write of data to a range of an object. -/
def State.issueWrite (s : State) (owner : Owner) (priv : Bool) (key off : Nat) (data : Bytes) (chunk : Nat) : State :=
  match s.objs.get key with
  | none => s
  | some o => s.addAcc ⟨if o.tier = 1 then .hbmWrite else .flashWrite, owner, priv, key, off, data.length, data, 0, s.ts, [], chunk, false, s.ts, 0⟩

/-- The verdict against a write of a range by any unit but an update unit: the first bad page, else
whether any page waits. A paired object in a set takes no such write (R303). -/
def Obj.writeVerdict (o : Obj) (off len : Nat) : Verdict :=
  if o.paired && o.inSet.isSome then .bad .bounds .context
  else
    ((cutPages off len).flatMap (fun r => o.physW (r.1 / pageBytes))).foldl (fun v i => match v with
      | .bad st sc => .bad st sc
      | v => (match (o.pte i).writeVerdict with
        | .bad st sc => .bad st sc
        | .waits => .waits
        | _ => v)) .ok

def Obj.allZero (o : Obj) (off len : Nat) : Bool :=
  (cutPages off len).all (fun r => (o.pte (o.phys (r.1 / pageBytes))).readVerdict == .zeros)

/-- Lines of a range of an HBM or flash object that fail verification. -/
def State.rangeBad (s : State) (key off len : Nat) : Nat :=
  match s.objs.get key with
  | none => 0
  | some o => ((cutPages off len).map (fun r =>
      let p := o.pte (o.phys (r.1 / pageBytes))
      if p.st == .zero then 0
      else if p.tier = 1 then (s.shroud.badLines p.frameNo (r.1 % pageBytes) r.2).length
      else ((linesOf (r.1 % pageBytes) r.2).filter (fun l => s.shroud.badFlash.contains (p.frameNo * 1024 + l))).length)).sum

/-- Whether a write of a range meets a failing line in part (R280). -/
def State.writeRefused (s : State) (key off len : Nat) : Bool :=
  match s.objs.get key with
  | none => false
  | some o => (cutPages off len).any (fun r =>
      let p := o.pte (o.phys (r.1 / pageBytes))
      p.tier == 1 && p.st != .zero && s.shroud.refusesWrite p.frameNo (r.1 % pageBytes) r.2)

/-- Key slots that an object's pages name and that hold no key to serve it (R459). A page shared by
every partition is read through its operator slot (R458). -/
def State.keyServes (s : State) (key : Nat) : Bool :=
  match s.objs.get key with
  | none => false
  | some o => o.keySlot == 0 || (s.key o.keySlot).st == .active

/-! ### Works -/

def State.workId (s : State) : Nat := s.works.lowestFree (s.works.length + 1) 0

/-- One side of a transfer: a range base of an object, host memory, or nothing. -/
inductive Side
  | obj (key base : Nat)
  | host
  | nothing
  deriving DecidableEq, Repr

def State.sideOf (s : State) (h : U32) (base : Nat) : Side :=
  if h = 0xFFFFFFFF then .host
  else
    match s.objOf h with
    | some (k, _) => .obj k base
    | none => .nothing

/-- Where chunk `ci` of a work reads from. -/
def State.workSrc (s : State) (w : Work) (ci : Nat) : Side :=
  match w.kind with
  | .copy a => s.sideOf a.src a.srcOff.toNat
  | .sealing k => .obj k 0
  | .publish k _ _ => .obj k 0
  | .loadImage a _ => s.sideOf a.handle a.off.toNat
  | .adapterLoad src _ => .obj src 0
  | .headers _ ads => (match ads[ci]? with
    | some (_, k) => .obj k 0
    | none => .nothing)
  | .report _ k off => .obj k off
  | .pinTrain k _ => .obj k 0
  | _ => .nothing

/-- Where a work writes to. -/
def State.workDst (s : State) (w : Work) : Side :=
  match w.kind with
  | .copy a => s.sideOf a.dst a.dstOff.toNat
  | .fill a => s.sideOf a.handle a.off.toNat
  | .publish _ _ (some k) => .obj k 0
  | _ => .nothing

/-- The management DMA and the adapter loader are privileged; COPY and FILL are not (R253). -/
def Work.privileged (w : Work) : Bool :=
  match w.kind with
  | .copy _ | .fill _ => false
  | _ => true

/-- A page as the management DMA reads it for SEAL, WRITTEN and not yet readable by others: its entry is checked as on every read (R237 to R239, R244). -/
def Pte.sealVerdict (p : Pte) : Verdict :=
  if p.railOk && !p.inconsistent && (p.st == .written || p.st == .sealedPg) then .ok else p.readVerdict

/-- The verdict against a work's read of a range. -/
def Work.readVerdict (w : Work) (o : Obj) (off len : Nat) : Verdict :=
  match w.kind with
  | .sealing _ => (cutPages off len).foldl (fun v r => match v with
    | .bad st sc => .bad st sc
    | _ => (o.pte (r.1 / pageBytes)).sealVerdict) .ok
  | _ => o.readVerdict off len

/-- The pages of an object that a chunk's write covers enter INCOMPLETE (R255). -/
def State.spoilChunk (s : State) (w : Work) (c : Chunk) : State :=
  match s.workDst w with
  | .obj key base =>
    (cutPages (base + c.off) c.len).foldl (fun s r => match s.objs.get key with
      | some o => (o.physW (r.1 / pageBytes)).foldl (fun s i => s.markIncomplete key i) s
      | none => s) s
  | _ => s

/-- A chunk fails: its part fails and stops, and every page the part has written enters INCOMPLETE; so
does the page of the failing chunk when its write had begun (R254, R255, R483).
Log entry 191, DEDUCED. -/
def State.failChunk (s : State) (id ci : Nat) (st : Status) (begun : Bool) : State :=
  match s.works.get id with
  | none => s
  | some w =>
    match w.chunks[ci]? with
    | none => s
    | some c =>
      let inPart (i : Nat) : Bool := match w.chunks[i]? with
        | some d => d.part == c.part
        | none => false
      let hit := (w.done.filter inPart) ++ (if begun then [ci] else [])
      let s := hit.foldl (fun s i => match w.chunks[i]? with
        | some d => s.spoilChunk w d
        | none => s) s
      let s := s.dropAccs (fun a => ownerIsWork id a.owner && inPart a.chunk)
      let s := if st == .tierFail then s.bumpPart? w.part cTierFail 1 else s
      { s with works := s.works.set id { w with failed := insertNat c.part w.failed, firstBad := some (w.firstBad.getD st) } }

def State.chunkDone (s : State) (id ci : Nat) : State :=
  match s.works.get id with
  | none => s
  | some w => { s with works := s.works.set id { w with done := ci :: w.done } }

/-- A page refuses a chunk: a partition or device fault, or for COPY and FILL a context fault, with the status the page gives; a privileged request's part
fails (R237 to R239, R253). -/
def State.chunkBad (s : State) (id ci : Nat) (st : Status) (sc : Scope) : State :=
  match s.works.get id with
  | none => s
  | some w =>
    let victim := w.q.map (fun q => (q, w.sub))
    match sc, w.part, w.ctx with
    | .partition, some p, _ => s.partFault p st victim
    | .partition, none, _ => s.devFault st victim
    | _, _, some c => if w.privileged then s.failChunk id ci st false else s.ctxFault c st victim
    | _, _, none => s.failChunk id ci st false

/-- The 16-byte header of a host-side block (R482). -/
def blockHeader (dir ctr off len : Nat) : Bytes :=
  leBytes 1 dir ++ leBytes 3 ctr ++ leBytes 8 off ++ leBytes 4 len

/-- A block as it crosses the link: header, ciphertext, tag (R482). -/
def sealBlock (key : U256) (dir ctr off : Nat) (data : Bytes) : Bytes :=
  let h := blockHeader dir ctr off data.length
  let nonce := h.take 12
  let ct := gcmCrypt key nonce data
  h ++ ct ++ leBytes 16 (gcmTag key nonce h data).toNat

/-- Whether a work has written a page of its destination already: further blocks of one write command (R238). -/
def Work.hasWritten (w : Work) (base page : Nat) : Bool :=
  w.done.any (fun i => match w.chunks[i]? with
    | some c => (cutPages (base + c.off) c.len).any (fun r => r.1 / pageBytes == page)
    | none => false)

/-- The verdict against a chunk's write. -/
def Work.writeVerdict (w : Work) (o : Obj) (base off len : Nat) : Verdict :=
  if o.tier == 2 && (cutPages off len).all (fun r => (o.pte (r.1 / pageBytes)).st == .written && w.hasWritten base (r.1 / pageBytes)) then .ok
  else o.writeVerdict off len

/-- What a work has read, in the order of its chunks. -/
def Work.bytes (w : Work) : Bytes :=
  (List.range w.chunks.length).flatMap (fun i => match w.got.get i, w.chunks[i]? with
    | some b, _ => b
    | none, some c => zeros c.len
    | none, none => [])

/-- Whether a work keeps what it reads: SEC and ADPT check it as it was read. -/
def Work.keeps (w : Work) : Bool :=
  match w.kind with
  | .loadImage .. | .publish .. | .sealing _ | .headers .. | .report .. | .pinTrain .. => true
  | _ => false

/-- A chunk without a destination has been read. -/
def State.chunkGot (s : State) (id ci : Nat) (data : Bytes) : State :=
  match s.works.get id with
  | none => s
  | some w => { s with works := s.works.set id { w with done := ci :: w.done, got := if w.keeps then w.got.set ci data else w.got } }

/-- Data of a chunk is at hand: it goes to the host link, or to a write of the destination (R238, R482,
R483). -/
def State.chunkData (s : State) (id ci : Nat) (data : Bytes) : State :=
  match s.works.get id with
  | none => s
  | some w =>
    match w.chunks[ci]? with
    | none => s
    | some c =>
      match s.workDst w, w.kind with
      | .host, .copy a =>
        let b := sealBlock (s.key a.wrap.toNat).key 1 w.hostCtr (a.dstOff.toNat + c.off) data
        { s with hostOut := s.hostOut ++ [(a.host.toNat + c.off / 4096 * 4128, b)] }.chunkDone id ci
      | .obj key base, _ =>
        if !s.keyServes key then s.failChunk id ci .key false
        else
          match s.objs.get key with
          | none => s.failChunk id ci .handle false
          | some o =>
            match w.writeVerdict o base (base + c.off) c.len with
            | .bad st sc => s.chunkBad id ci st sc
            | _ =>
              match s.freshFrames key (base + c.off) c.len with
              | none => s.failChunk id ci .tierFail false
              | some s => s.issueWrite (.work id) w.privileged key (base + c.off) data ci
      | _, _ => s.chunkGot id ci data

/-- Begin a chunk: read its source, or write its pattern. A part that has failed goes no further (R254, R255). -/
def State.startChunk (s : State) (id ci : Nat) : State :=
  match s.works.get id with
  | none => s
  | some w =>
    match w.chunks[ci]? with
    | none => s
    | some c =>
      if w.failed.contains c.part then s
      else
      match s.workSrc w ci, w.kind with
      | .host, _ => s.addAcc ⟨.hostRead, .work id, w.privileged, 0, c.off, c.len, [], 0, s.ts, [], ci, false, s.ts, 0⟩
      | .obj key base, _ =>
        if !s.keyServes key then s.failChunk id ci .key false
        else
          match s.objs.get key with
          | none => s.failChunk id ci .handle false
          | some o =>
            match w.readVerdict o (base + c.off) c.len with
            | .bad st sc => s.chunkBad id ci st sc
            | _ =>
              if o.allZero (base + c.off) c.len then s.chunkData id ci (zeros c.len)
              else s.issueRead (.work id) w.privileged key (base + c.off) c.len ci
      | .nothing, .fill a => s.chunkData id ci (patternBytes a.pattern c.off c.len)
      | .nothing, _ => s.failChunk id ci .handle false

/-- Start a work: every chunk begins. -/
def State.startWork (s : State) (w : Work) : Nat × State :=
  let id := s.workId
  let s := { s with works := s.works.set id w }
  (id, (List.range w.chunks.length).foldl (fun s i => s.startChunk id i) s)

/-- The part bitmap (R254). -/
def bitmapOf (l : List Nat) : Nat := (l.map (fun i => 2 ^ i)).sum

/-- The status of a finished split request: OK, PARTIAL, or the first failure's (R254).
Log entry 177, DEDUCED. -/
def Work.status (w : Work) : Status :=
  if w.failed.isEmpty then .ok
  else if w.chunks.any (fun c => !w.failed.contains c.part) then .partialDone
  else w.firstBad.getD .ok

/-- Whether accesses of a work are in flight. -/
def State.workBusy (s : State) (id : Nat) : Bool := s.accs.any (fun e => ownerIsWork id e.2.owner)

/-- Complete a COPY or FILL whose chunks are all done: OK, or a failure that its context does not
survive (R256). -/
def State.finishTransfer (s : State) (id : Nat) (w : Work) (dst : Option Nat) : State :=
  let s := { s with works := s.works.erase id }
  match w.q with
  | none => s
  | some qk =>
    let inc := match dst with
      | some k => (match s.objs.get k with
        | some o => o.incomplete
        | none => false)
      | none => false
    let st := w.status
    let part := st == .partialDone
    let s := if part then s.bumpPart? w.part cTierPartial 1 else s
    let d : Done := ⟨st, if st == .ok then .request else .context, 0, if part then bitmapOf w.failed else 0,
      (if part then 1 else 0) + (if inc then 2 else 0), 0, none⟩
    let s := s.complete qk w.sub d
    if st == .ok then s
    else (match w.ctx with
      | some c => s.ctxFault c (if part then .partialDone else st) none
      | none => s)

end Sys2Proof.Machine
end

