-- ==== Sys2Proof/Machine/Checks.lean ====
section
/-! DEFINITION. The re-checks a command meets at fetch and again before it runs (R417 to R419, R437), and
which failure governs (R6). -/

namespace Sys2Proof.Machine

/-- The status that governs when several failures meet one request at one scope and TS: the lowest
code (R6).
Log entry 169, DEDUCED. -/
def govern : List Status → Option Status
  | [] => none
  | s :: r =>
    match govern r with
    | some t => some (if statusCode t < statusCode s then t else s)
    | none => some s

/-- A failure under a condition. -/
def failIf (b : Bool) (st : Status) : List Status := if b then [st] else []

/-! ### Features (R435 to R438) -/

/-- NEG_CTRL.state of a function. -/
def State.negState (s : State) (f : Nat) : Nat := bitsOf ((s.fn f).regs.getD 0x44 0) 1 3

/-- Whether a feature bit is agreed; only the core bits 0 to 31 are ever agreed (R437). -/
def State.agreed (s : State) (f bit : Nat) : Bool := bitOf ((s.fn f).regs.getD 0xA0 0) bit

/-- Whether an agreement is in force: agreed or T5 subset, or refused while one of them stood, which it leaves in force (R436). Bit 0 is set in every
agreed mask. -/
def State.agreement (s : State) (f : Nat) : Bool := s.negState f == 2 || s.negState f == 3 || (s.negState f == 5 && s.agreed f 0)

/-- Feature bits a command needs, by opcode and by field (R437). -/
def featuresOf : HostCmd → List Nat
  | .run a => if a.strict then [0, 9] else [0]
  | .objectCreate a => [0] ++ (if bitOf a.flags.toNat 0 then [11] else []) ++ (if bitOf a.flags.toNat 1 then [7] else [])
  | .loadImage _ | .unloadImage _ => [1]
  | .publish _ | .pinAdapter _ | .unpinAdapter _ | .evictAdapter _ | .probeReport _ => [2]
  | .basePropose _ | .baseCommit | .baseAbandon => [3]
  | .recipeLoad _ | .updateSetCreate _ | .updateSetDestroy _ => [4]
  | .groupJoin _ | .groupSet _ | .groupClear _ => [5]
  | .troupeSet _ => [6]
  | .snapshot => [7]
  | .rekey _ => [8]
  | .seedSet _ => [10]
  | _ => [0]

/-- Whether the function may run a command at all (R438): an agreement is in force, and every feature is
agreed. -/
def State.featureOk (s : State) (f : Nat) (c : HostCmd) : Bool :=
  s.agreement f && (featuresOf c).all (fun b => s.agreed f b)

/-! ### Ownership -/

/-- A handle that names an object of the context, usable by a command with this doorbell TS: not freed,
and not DRAINING unless the command was queued before the free (R411, R418). -/
def State.ownObj (s : State) (c t : Nat) (h : U32) : Option (Nat × Obj) :=
  match s.objOf h with
  | some (k, o) =>
    if o.owner == some c && (match o.draining with
      | some d => t ≤ d
      | none => true) then some (k, o) else none
  | none => none

/-- Whether a context may use an event: its owner, or another context of the partition when shared
(R414). -/
def State.eventUsable (s : State) (c ev : Nat) (ownerOnly : Bool) : Bool :=
  match s.events.get ev with
  | none => false
  | some e => e.owner == c || (!ownerOnly && e.shared && s.ctxPart (some e.owner) == s.ctxPart (some c) && (s.ctxPart (some c)).isSome)

/-- Whether a slot is granted to a partition: within its layout's key range (R457). -/
def State.granted (s : State) (p k : Nat) : Bool :=
  match s.layout p with
  | some l => l.keyBase.toNat ≤ k && k < l.keyBase.toNat + l.keyCount.toNat
  | none => false

/-- Whether a slot of the partition is ACTIVE with one of the kinds. -/
def State.keyOk (s : State) (p : Option Nat) (k : Nat) (kinds : List KeyKind) : Bool :=
  (match p with
   | some p => s.granted p k
   | none => 1 ≤ k && k ≤ 63) &&
  (s.key k).st == .active && kinds.contains (s.key k).kind

/-! ### Arguments of a RUN (R185, R403) -/

/-- Argument slots an image's stages may name: the union of their masks. -/
def Image.namedSlots (im : Image) : List Nat :=
  (List.range 64).filter (fun n => im.stages.any (fun st => bitOf st.slotMask n))

/-- Whether an array of a descriptor reaches past its object (R185). -/
def arrayFits (o : Obj) (off n : Nat) : Bool := off + n ≤ o.bytes

/-- Element, scale and metadata bytes of a tensor (R46, R86). -/
def TensorD.blocksPerRow (t : TensorD) : Nat := ceilDiv t.kLen 16

def sparseKept : Nat → Nat
  | 1 => 8
  | 2 | 3 => 4
  | _ => 16

def TensorD.elemBytes (t : TensorD) : Nat :=
  match Fmt.ofCode t.fmt with
  | some f => if f.blockScaled then t.rows * t.blocksPerRow * blockBytes f (sparseKept t.sparsity)
              else t.rows * t.kLen * f.width / 8
  | none => 0

def TensorD.scaleBytes (t : TensorD) : Nat := t.rows * t.blocksPerRow
def TensorD.metaBytes (t : TensorD) : Nat := 2 * (t.rows * t.blocksPerRow)

/-- A supplied argument as an object argument. -/
def argObj (s : State) (args : List U64) (slot : Nat) : Option (Nat × Obj) :=
  match args[slot]? with
  | some v => s.objOf (v.setWidth 32)
  | none => none

/-- An object a RUN may be handed: one of its context, or a sealed MODEL object of the operator, which
every partition's stages read, or a published adapter of its partition, for the owner's probe images (R185,
R242, R244; log entry 22, DEDUCED). -/
def State.runObj (s : State) (c t : Nat) (h : U32) : Option (Nat × Obj) :=
  match s.objOf h with
  | some (k, o) => if (o.part == none && o.kind == 1 && o.isSealed) || (o.kind == 2 && o.part == s.ctxPart (some c)) then some (k, o)
    else s.ownObj c t h
  | none => none

/-- Failures of one supplied argument against its slot (R185). -/
def State.argFails (s : State) (c t : Nat) (d : ArgD) (v : U64) : List Status :=
  if d.type = 3 then []
  else
    failIf (v.toNat / 2 ^ 32 != 0) .malformed ++
    (match s.runObj c t (v.setWidth 32) with
     | none => [.handle]
     | some (_, o) =>
       failIf (!bitOf d.tiers (o.tier - 1)) .bounds ++
       failIf (o.bytes < d.minBytes) .bounds ++
       failIf (d.type == 2 && o.isSealed) .bounds)

/-- Failures of a descriptor's arrays against the objects in their slots (R185). -/
def State.tensorFails (s : State) (args : List U64) (t : TensorD) : List Status :=
  let chk (slot off n : Nat) : List Status :=
    if slot = 255 then []
    else (match argObj s args slot with
      | some (_, o) => failIf (!arrayFits o off n) .bounds
      | none => [])
  chk t.elemSlot t.elemOff t.elemBytes ++ chk t.scaleSlot t.scaleOff t.scaleBytes ++
    chk t.metaSlot t.metaOff t.metaBytes ++
    (if t.tsSrc = 1 then chk t.scaleSlot t.tsOff 4 else [])

/-- Failures of a RUN's arguments against a loaded image (R185, R403).
Log entry 173, DEDUCED. -/
def State.runArgFails (s : State) (c t : Nat) (im : Image) (args : List U64) : List Status :=
  failIf ((im.namedSlots).any (fun n => args.length ≤ n)) .bounds ++
  (im.args.zip args).flatMap (fun e => s.argFails c t e.1 e.2) ++
  im.tensors.flatMap (fun d => s.tensorFails args d)

/-- Failures of a RUN: its slot's state and owner, and its arguments (R178, R181, R185). -/
def State.runFails (s : State) (c t : Nat) (p : Nat) (a : RunArgs) : List Status :=
  match s.imgSlot p a.imageSlot.toNat with
  | none => [.handle]
  | some x =>
    if x.owner != c then [.handle]
    else
      match x.st with
      | .empty => [.handle]
      | .draining => if t ≤ x.unloadTs then (match x.image with
          | some im => s.runArgFails c t im a.slots
          | none => []) else [.handle]
      | _ => (match x.image with
        | some im => s.runArgFails c t im a.slots
        | none => [])

/-! ### The checks of each command -/

/-- Failures of a COPY (R404, R417, R482).
Log entry 220, DESIGN CHOICE. -/
def State.copyFails (s : State) (c t : Nat) (part : Option Nat) (a : CopyArgs) : List Status :=
  let hostSide := a.src == 0xFFFFFFFF || a.dst == 0xFFFFFFFF
  let both := a.src == 0xFFFFFFFF && a.dst == 0xFFFFFFFF
  let base := if a.src == 0xFFFFFFFF then a.srcOff.toNat else a.dstOff.toNat
  let side (h : U32) (off : Nat) : List Status :=
    if h == 0xFFFFFFFF then []
    else (match s.ownObj c t h with
      | none => [.handle]
      | some (_, o) => failIf (o.bytes < off + a.len.toNat) .bounds)
  failIf both .malformed ++ failIf (a.len.toNat % 64 != 0) .malformed ++
    failIf (hostSide && a.wrap == 0) .malformed ++ failIf (hostSide && base % 4096 != 0) .malformed ++
    failIf (hostSide && a.wrap != 0 && !s.keyOk part a.wrap.toNat [.transport]) .key ++
    side a.src a.srcOff.toNat ++ side a.dst a.dstOff.toNat

/-- Log entry 220, DESIGN CHOICE. -/
def State.fillFails (s : State) (c t : Nat) (a : FillArgs) : List Status :=
  failIf (a.len.toNat % 64 != 0) .malformed ++
    (match s.ownObj c t a.handle with
     | none => [.handle]
     | some (_, o) => failIf (o.bytes < a.off.toNat + a.len.toNat) .bounds)

/-- Failures of an OBJECT_CREATE at context scope (R242, R243, R301, R395, R404, R458). -/
def State.objectFails (s : State) (part : Option Nat) (a : ObjectArgs) : List Status :=
  let fl := a.flags.toNat
  failIf (a.tier != 1 && a.tier != 2) .malformed ++ failIf (16 ≤ fl) .malformed ++
    failIf (a.pages == 0 || a.pages == 0xFFFFFF) .malformed ++
    failIf (a.tier == 1 && a.kind != 0) .malformed ++ failIf (a.tier == 2 && a.kind != 1 && a.kind != 3) .malformed ++
    failIf (a.tier == 2 && (bitOf fl 0 || bitOf fl 2)) .malformed ++
    failIf (bitOf fl 3 && !bitOf fl 2) .malformed ++
    failIf (part == none && !(a.tier == 2 && a.kind == 1)) .bounds ++
    failIf (!s.keyOk part a.keySlot.toNat (if part == none then [.tier] else [.memory, .tier])) .key

/-- A handle argument that must be an object of the context, with a range inside it. -/
def State.rangeFails (s : State) (c t : Nat) (h : U32) (off len : Nat) : List Status :=
  match s.ownObj c t h with
  | none => [.handle]
  | some (_, o) => failIf (o.bytes < off + len) .bounds

/-- Failures at context scope of a command on a context queue, with its doorbell TS.
Log entry 220, DESIGN CHOICE. -/
def State.ctxFails (s : State) (c t : Nat) (part : Option Nat) (cmd : HostCmd) : List Status :=
  failIf (queueKind cmd != .ctx) .malformed ++
  (match cmd with
   | .run a => (match part with
     | some p => s.runFails c t p a
     | none => [.handle])
   | .copy a => s.copyFails c t part a
   | .fill a => s.fillFails c t a
   | .wait a => failIf (!s.eventUsable c a.event.toNat false) .handle
   | .signal a => failIf (!s.eventUsable c a.event.toNat false) .handle
   | .eventQuery e => failIf (!s.eventUsable c e.toNat false) .handle
   | .eventDestroy e => failIf (!s.eventUsable c e.toNat true) .handle
   | .objectCreate a => s.objectFails part a
   | .objectFree h => s.rangeFails c t h 0 0
   | .eventCreate a => failIf (2 ≤ a.flags.toNat) .malformed ++ failIf (2048 ≤ a.vector.toNat && a.vector != 0xFFFF) .malformed
   | .loadImage a => failIf (64 ≤ a.slot.toNat) .handle ++ s.rangeFails c t a.handle a.off.toNat 0
   | .unloadImage n => failIf (!(part.bind (fun p => s.imgSlot p n.toNat)).any (fun x => x.owner == c)) .handle
   | .updateSetDestroy n => failIf (!(n.toNat < 16 && (s.usets.get (16 * part.getD 16 + n.toNat)).any (fun (u : USet) => u.ctx == c))) .handle
   | .seal h => (match s.ownObj c t h with
     | none => [.handle]
     | some (_, o) => failIf (o.tier == 1) .bounds)
   | .publish a => s.rangeFails c t a.handle 0 0
   | .pinAdapter a => failIf (1 < a.form.toNat) .malformed ++ (if a.form = 1 then s.rangeFails c t a.handle 0 0 else [])
   | .probeReport a => s.rangeFails c t a.handle a.off.toNat 512
   | .recipeLoad a => s.rangeFails c t a.handle a.off.toNat 0
   | .updateSetCreate a => s.rangeFails c t a.handle a.off.toNat 0
   | .bad => [.malformed]
   | _ => [])

/-- Failures at request scope of a command on an admin queue of function `f`.
Log entry 220, DESIGN CHOICE. -/
def adminFails (f : Nat) (cmd : HostCmd) : List Status :=
  match queueKind cmd, cmd with
  | _, .bad => [.malformed]
  | .ctx, _ => [.malformed]
  | .pf, _ => failIf (f != 0) .malformed
  | .admin, _ => []

end Sys2Proof.Machine
end

