-- ==== Sys2Proof/Machine/Words.lean ====
section
/-! DEFINITION. Stage-program words (R110 to R112, R171 to R173, R191, R309, R380): the word of each
command, and the word-level checks the image loader makes. -/

namespace Sys2Proof.Machine

/-! ### The word of a command -/

/-- The word of a VXU instruction (R110). -/
def vxWord (op : Nat) (w : Vx) : Nat :=
  op * 2 ^ 56 + w.fmt.toNat * 2 ^ 52 + w.sfmt.toNat * 2 ^ 48 + w.rnd.toNat * 2 ^ 45 + w.srw.toNat * 2 ^ 43 +
    b2n w.gen * 2 ^ 42 + w.grd.toNat * 2 ^ 39 + w.form.toNat * 2 ^ 30 + w.vd.toNat * 2 ^ 24 + w.va.toNat * 2 ^ 18 +
    w.vb.toNat * 2 ^ 12 + w.vc.toNat * 2 ^ 6 + w.lo.toNat

/-- The fields of a VXU word. -/
def vxFields (w : Nat) : Vx :=
  ⟨BitVec.ofNat 4 (bitsOf w 52 4), BitVec.ofNat 4 (bitsOf w 48 4), BitVec.ofNat 3 (bitsOf w 45 3), BitVec.ofNat 2 (bitsOf w 43 2),
   bitOf w 42, BitVec.ofNat 3 (bitsOf w 39 3), BitVec.ofNat 2 (bitsOf w 30 2), BitVec.ofNat 6 (bitsOf w 24 6),
   BitVec.ofNat 6 (bitsOf w 18 6), BitVec.ofNat 6 (bitsOf w 12 6), BitVec.ofNat 6 (bitsOf w 6 6), BitVec.ofNat 6 (bitsOf w 0 6)⟩

def wLoop (useReg : Bool) (reg count : Nat) : Nat := 0x80 * 2 ^ 56 + b2n useReg * 2 ^ 37 + reg * 2 ^ 32 + count
def wEndloop : Nat := 0x81 * 2 ^ 56
def wSets (reg imm : Nat) : Nat := 0x82 * 2 ^ 56 + reg * 2 ^ 32 + imm
def wAdds (reg imm : Nat) : Nat := 0x83 * 2 ^ 56 + reg * 2 ^ 32 + imm
def wArgs (reg slot : Nat) : Nat := 0x84 * 2 ^ 56 + slot * 2 ^ 40 + reg * 2 ^ 32
def wMem (op tensor port rows : Nat) : Nat := op * 2 ^ 56 + tensor * 2 ^ 48 + port * 2 ^ 44 + rows
def wEnd : Nat := 0x8F * 2 ^ 56
def wMxu0 (a : MxuArgs) : Nat :=
  0xC0 * 2 ^ 56 + a.stat.toNat * 2 ^ 48 + a.sport.toNat * 2 ^ 44 + a.oport.toNat * 2 ^ 40 + b2n a.fromMem * 2 ^ 39 +
    b2n a.toMem * 2 ^ 38 + a.reg.toNat * 2 ^ 32 + a.rows.toNat * 2 ^ 16 + a.carry.toNat * 2 ^ 8
def wMxu1 (a : MxuArgs) : Nat := a.outT.toNat * 2 ^ 40 + a.streamT.toNat * 2 ^ 32 + a.mode.toNat
def wTatt (slot port reg rows : Nat) : Nat := 0x90 * 2 ^ 56 + slot * 2 ^ 48 + port * 2 ^ 44 + reg * 2 ^ 32 + rows
def wTsrc (port : Nat) : Nat := 0x91 * 2 ^ 56 + port * 2 ^ 44
def wTroute (port reg : Nat) : Nat := 0x92 * 2 ^ 56 + port * 2 ^ 44 + reg * 2 ^ 32
def wTsort (inp outp plan : Nat) : Nat := 0x93 * 2 ^ 56 + inp * 2 ^ 44 + outp * 2 ^ 40 + plan * 2 ^ 36
def wTgath (plan : Nat) (restore pack : Bool) : Nat := 0x94 * 2 ^ 56 + plan * 2 ^ 44 + b2n restore * 2 ^ 39 + b2n pack * 2 ^ 38
def wTemit (outp : Nat) : Nat := 0x95 * 2 ^ 56 + outp * 2 ^ 40
def wX (op wire inp outp group count : Nat) : Nat :=
  op * 2 ^ 56 + wire * 2 ^ 52 + inp * 2 ^ 44 + outp * 2 ^ 40 + group * 2 ^ 32 + count
def wUfeed (fmt port set reg count : Nat) : Nat :=
  0xA8 * 2 ^ 56 + fmt * 2 ^ 52 + port * 2 ^ 44 + set * 2 ^ 40 + reg * 2 ^ 32 + count
def wUend (set : Nat) : Nat := 0xA9 * 2 ^ 56 + set * 2 ^ 40

/-! ### VXU instructions (R112) -/

/-- Formats an opcode admits. -/
inductive FmtClass
  | float | short | anyFmt | half | wide | single | block | cvt | radd
  deriving DecidableEq, Repr

inductive RndClass
  | any | none | rne | sr
  deriving DecidableEq, Repr

/-- A row of R112: formats, rounding, which operands are vector registers of the format, and whether a
second operand under form exists. -/
structure VxRow where
  fmts : FmtClass
  rnd : RndClass
  vecs : List Nat
  form : Bool
  mem : Bool

/-- The opcode table (R112); operand numbers 0 vd, 1 va, 2 vb, 3 vc. GAND, GOR, GNOT and VSYNC, whose formats the table leaves out, take any code of R29
in both format fields, and a scalar CVT, which has no second source, takes any form.
Log entry 198, DESIGN CHOICE. -/
def vxRow : Nat → Option VxRow
  | 0x01 | 0x02 | 0x03 | 0x07 => some ⟨.float, .any, [0, 1, 2], true, false⟩
  | 0x04 | 0x05 | 0x06 => some ⟨.float, .any, [0, 1, 2, 3], true, false⟩
  | 0x08 => some ⟨.float, .any, [0, 1], false, false⟩
  | 0x09 | 0x0A | 0x0D => some ⟨.float, .none, [0, 1, 2], true, false⟩
  | 0x0B | 0x0C => some ⟨.float, .none, [0, 1], false, false⟩
  | 0x10 | 0x11 | 0x12 | 0x13 => some ⟨.float, .none, [1, 2], true, false⟩
  | 0x14 | 0x15 | 0x16 => some ⟨.anyFmt, .none, [], false, false⟩
  | 0x17 => some ⟨.float, .none, [0, 1, 2], true, false⟩
  | 0x20 | 0x21 | 0x22 | 0x23 | 0x24 | 0x25 | 0x26 | 0x27 | 0x28 | 0x2C | 0x2D | 0x2E => some ⟨.short, .rne, [0, 1], false, false⟩
  | 0x30 => some ⟨.cvt, .any, [], true, false⟩
  | 0x36 | 0x37 => some ⟨.half, .none, [0, 1], false, false⟩
  | 0x40 | 0x41 | 0x42 => some ⟨.wide, .rne, [0, 1], false, false⟩
  | 0x43 | 0x44 => some ⟨.single, .rne, [0, 1], false, false⟩
  | 0x48 | 0x4A => some ⟨.single, .none, [], false, true⟩
  | 0x49 => some ⟨.radd, .rne, [], false, true⟩
  | 0x50 | 0x51 => some ⟨.anyFmt, .none, [], false, true⟩
  | 0x52 | 0x53 => some ⟨.float, .none, [0], false, false⟩
  | 0x54 | 0x55 => some ⟨.block, .none, [], false, false⟩
  | 0x5C => some ⟨.single, .sr, [0], false, false⟩
  | 0x60 | 0x61 | 0x62 | 0x63 => some ⟨.anyFmt, .none, [], true, false⟩
  | 0x68 => some ⟨.single, .none, [0, 1, 2], true, false⟩
  | 0x7F => some ⟨.anyFmt, .none, [], false, false⟩
  | _ => none

/-- The kind of a CVT pair (R62). -/
inductive CvtKind
  | scalar | quant | dequant
  deriving DecidableEq, Repr

def cvtKind (dst src : Nat) : Option CvtKind :=
  match Fmt.ofCode dst, Fmt.ofCode src with
  | some d, some s =>
    if d = s then none
    else if d.isFloat && s.isFloat then some .scalar
    else if d.blockScaled && s.isFloat then some .quant
    else if d.isFloat && s.blockScaled then some .dequant
    else none
  | _, _ => none

def fmtIs (c : Nat) (f : Fmt → Bool) : Bool :=
  match Fmt.ofCode c with
  | some x => f x
  | none => false

def fmtClassOk (c : FmtClass) (fmt sfmt : Nat) : Bool :=
  match c with
  | .float => fmt == sfmt && fmtIs fmt Fmt.isFloat
  | .short => fmt == sfmt && fmtIs fmt Fmt.isShort
  | .anyFmt => fmt == sfmt && fmtIs fmt (fun _ => true)
  | .half => fmt == sfmt && fmtIs fmt Fmt.is16
  | .wide => fmt == sfmt && (fmt == 9 || fmt == 0)
  | .single => fmt == sfmt && fmt == 0
  | .block => fmt == sfmt && fmtIs fmt Fmt.blockScaled
  | .cvt => (cvtKind fmt sfmt).isSome
  | .radd => fmt == 0 && fmtIs sfmt Fmt.isShort

def rndClassOk (c : RndClass) (rnd srw : Nat) : Bool :=
  match c with
  | .any => (Rnd.ofFields rnd srw).isSome
  | .none | .rne => rnd == 0 && srw == 0
  | .sr => rnd == 5 && srw != 3

def vxReg (w : Vx) : Nat → Nat
  | 0 => w.vd.toNat
  | 1 => w.va.toNat
  | 2 => w.vb.toNat
  | _ => w.vc.toNat

/-- Even registers where the format is binary64 (R108). -/
def evenOk (op : Nat) (w : Vx) (row : VxRow) : Bool :=
  let even (r : Nat) : Bool := r % 2 == 0
  if op = 0x30 then
    (w.fmt.toNat != 9 || even w.vd.toNat) && (w.sfmt.toNat != 9 || even w.va.toNat)
  else w.fmt.toNat != 9 || row.vecs.all (fun i => (i == 2 && w.form != 0) || even (vxReg w i))

/-- The fields of an opcode that name guards, of which there are eight (R107, R110, R112; log entry 64, DEDUCED). -/
def guardRegs (op : Nat) : List Nat :=
  if 0x10 ≤ op && op ≤ 0x13 then [0]
  else if op = 0x14 || op = 0x15 then [0, 1, 2]
  else if op = 0x16 then [0, 1]
  else if op = 0x17 then [3]
  else []

/-- Whether a VXU word is well formed in an image with `nconst` constants (R110 to R112, R175).
Log entry 64, DEDUCED. -/
def vxWordOk (word nconst : Nat) : Bool :=
  let op := bitsOf word 56 8
  let w := vxFields word
  match vxRow op with
  | none => false
  | some row =>
    bitsOf word 32 7 == 0 && fmtClassOk row.fmts w.fmt.toNat w.sfmt.toNat &&
    rndClassOk row.rnd w.rnd.toNat w.srw.toNat && w.form != 3 &&
    (row.form || w.form == 0) && (row.mem || w.lo == 0) &&
    (w.form != 1 || w.vb.toNat < 32) &&
    (w.form != 2 || w.vb.toNat * 64 + w.vc.toNat < nconst) &&
    (!row.mem || w.va.toNat < 32) &&
    (!(0x52 ≤ op && op ≤ 0x55) || w.vb.toNat < 16) &&
    (guardRegs op).all (fun i => vxReg w i < 8) &&
    (op != 0x63 || w.va == 0) &&
    evenOk op w row

/-! ### MXU operations (R79 to R81, R173) -/

/-- Width classes (R79): 0 4-bit, 1 6-bit and 8-bit, 2 16-bit, 3 32-bit. -/
def widthClass : Fmt → Option Nat
  | .f4 | .i4 => some 0
  | .e4 | .e5 | .f6 | .i8 => some 1
  | .f16 | .w16 => some 2
  | .f32 => some 3
  | _ => none

def mwMode (m : Nat) : Nat := bitsOf m 0 3
def mwSparsity (m : Nat) : Nat := bitsOf m 4 2
def mwX (m : Nat) : Nat := bitsOf m 8 4
def mwW (m : Nat) : Nat := bitsOf m 12 4
def mwOut (m : Nat) : Nat := bitsOf m 16 4
def mwRnd (m : Nat) : Nat := bitsOf m 20 3
def mwSrw (m : Nat) : Nat := bitsOf m 23 2
def mwZskip (m : Nat) : Bool := bitOf m 25
def mwCarry (m : Nat) : Nat := bitsOf m 26 2

/-- Whether a mode word is well formed, the last stage of a split reduction apart (R79 to R81). `last`
says whether the operation's output leaves a split reduction. -/
def modeWordOk (m : Nat) (last : Bool) : Bool :=
  bitsOf m 28 4 == 0 && bitsOf m 6 2 == 0 && !bitOf m 3 &&
  1 ≤ mwMode m && mwMode m ≤ 4 && mwCarry m != 3 && (Rnd.ofFields (mwRnd m) (mwSrw m)).isSome &&
  (match Fmt.ofCode (mwX m), Fmt.ofCode (mwW m), Fmt.ofCode (mwOut m) with
   | some x, some w, some o =>
     (match widthClass x, widthClass w with
      | some a, some b => a == b
      | _, _ => false) &&
     x.isIntFmt == w.isIntFmt && o != .f64 && o != .x48 &&
     (mwSparsity m == 0 || w.blockScaled) &&
     (mwCarry m == 0 || last || o == .f32 || o == .w16)
   | _, _, _ => false)

def mxu0Of (w0 w1 : Nat) : MxuArgs :=
  ⟨BitVec.ofNat 8 (bitsOf w0 48 8), BitVec.ofNat 4 (bitsOf w0 44 4), BitVec.ofNat 4 (bitsOf w0 40 4), bitOf w0 39, bitOf w0 38,
   BitVec.ofNat 5 (bitsOf w0 32 5), BitVec.ofNat 16 (bitsOf w0 16 16), BitVec.ofNat 8 (bitsOf w0 8 8),
   BitVec.ofNat 8 (bitsOf w1 40 8), BitVec.ofNat 8 (bitsOf w1 32 8), BitVec.ofNat 32 (bitsOf w1 0 32)⟩

/-- Whether an MXU operation's two words are well formed against the tensors of its image (R173,
R174).
Log entry 218, DESIGN CHOICE. -/
def mxuOk (w0 w1 : Nat) (tensors : List TensorD) (last : Bool) : Bool :=
  let a := mxu0Of w0 w1
  let m := a.mode.toNat
  let t (i : U8) (fmt sp : Nat) : Bool := match tensors[i.toNat]? with
    | some d => d.fmt == fmt && d.sparsity == sp
    | none => false
  !bitOf w0 37 && bitsOf w0 0 8 == 0 && bitsOf w1 48 16 == 0 && a.rows != 0 &&
  (a.carry.toNat < 16 || a.carry == 0xFF) && ((a.carry == 0xFF) == (mwCarry m == 0)) &&
  modeWordOk m last && t a.stat (mwW m) (mwSparsity m) && t a.streamT (mwX m) 0 &&
  (if a.outT = 0xFF then !fmtIs (mwOut m) Fmt.blockScaled else t a.outT (mwOut m) 0)

/-! ### Programs (R171, R172) -/

/-- Which unit or path a word uses (R133): 0 none, 1 MXU, 2 memory read, 3 memory write, 4 exchange,
5 update feed. -/
def wordUnit (w : Nat) : Nat :=
  let op := bitsOf w 56 8
  if op = 0xC0 then 1 else if op = 0x88 || op = 0x90 then 2 else if op = 0x89 then 3
  else if 0xA0 ≤ op && op ≤ 0xA4 then 4 else if op = 0xA8 || op = 0xA9 then 5 else 0

/-- Whether a ticket, exchange or update-feed word is well formed and legal in a stage of the kind
(R191, R309, R380). -/
def unitWordOk (w kind nargs : Nat) : Bool :=
  let op := bitsOf w 56 8
  let z (lo n : Nat) : Bool := bitsOf w lo n == 0
  match op with
  | 0x90 => kind == 3 && z 37 7 && bitsOf w 48 8 < nargs
  | 0x91 => z 48 8 && z 0 44
  | 0x92 => kind == 2 && z 48 8 && z 37 7 && z 0 32
  | 0x93 => kind == 6 && z 48 8 && z 0 36
  | 0x94 => (kind == 4 || kind == 5) && z 48 8 && z 40 4 && z 0 38
  | 0x95 => (kind == 4 || kind == 5) && z 44 12 && z 0 40
  | 0xA0 | 0xA1 | 0xA2 => kind == 7 && z 48 4 && fmtIs (bitsOf w 52 4) (fun _ => true)
  | 0xA3 | 0xA4 => kind == 7 && z 48 8 && z 0 32
  | 0xA8 => kind == 8 && bitsOf w 52 4 ≤ 2 && z 48 4 && z 37 3
  | 0xA9 => kind == 8 && z 44 12 && z 0 40
  | _ => false

/-- Whether a control unit word is well formed (R172). -/
def cuWordOk (w ntensors nargs : Nat) : Bool :=
  let op := bitsOf w 56 8
  let z (lo n : Nat) : Bool := bitsOf w lo n == 0
  match op with
  | 0x80 => z 38 18
  | 0x81 | 0x8F => z 0 56
  | 0x82 | 0x83 => z 37 19
  | 0x84 => z 46 10 && z 37 3 && z 0 32 && bitsOf w 40 6 < nargs
  | 0x88 | 0x89 => z 32 12 && bitsOf w 48 8 < ntensors
  | _ => false

/-- Check a program word by word: loops nest to at most eight and close, one END, last (R162, R171,
R172). `depth` is the open loops. -/
def programOk (im : Image) (kind : Nat) (last : Bool) : (fuel depth : Nat) → List Nat → Bool
  | 0, _, _ => false
  | _, _, [] => false
  | n + 1, depth, w :: r =>
    let op := bitsOf w 56 8
    if op = 0x8F then w == wEnd && r.isEmpty && depth == 0
    else if op = 0xC0 then
      (match r with
       | w1 :: r => mxuOk w w1 im.tensors last && programOk im kind last n depth r
       | [] => false)
    else if op = 0x80 then cuWordOk w im.tensors.length im.args.length && depth < 8 && programOk im kind last n (depth + 1) r
    else if op = 0x81 then cuWordOk w im.tensors.length im.args.length && 0 < depth && programOk im kind last n (depth - 1) r
    else if 0x80 ≤ op && op < 0x90 then cuWordOk w im.tensors.length im.args.length && programOk im kind last n depth r
    else if 0x90 ≤ op && op < 0xB0 then unitWordOk w kind im.args.length && programOk im kind last n depth r
    else vxWordOk w im.consts.length && programOk im kind last n depth r

/-- The words a program's loop skips over: from after a LOOP to after its matching ENDLOOP. -/
def skipLoop : (fuel depth pos : Nat) → List Nat → Nat
  | 0, _, pos, _ => pos
  | _, _, pos, [] => pos
  | n + 1, depth, pos, w :: r =>
    let op := bitsOf w 56 8
    if op = 0xC0 then skipLoop n depth (pos + 2) (r.drop 1)
    else if op = 0x80 then skipLoop n (depth + 1) (pos + 1) r
    else if op = 0x81 then (if depth = 0 then pos + 1 else skipLoop n (depth - 1) (pos + 1) r)
    else skipLoop n depth (pos + 1) r

/-- Words that stand as instructions, the second word of an MXU operation apart; fuel is the length. -/
def instrWords : (fuel : Nat) → List Nat → List Nat
  | 0, _ => []
  | _, [] => []
  | n + 1, w :: r => w :: instrWords n (if bitsOf w 56 8 = 0xC0 then r.drop 1 else r)

/-- MXU operations of a program. -/
def mxuWords : (fuel : Nat) → List Nat → List MxuArgs
  | 0, _ => []
  | n + 1, w :: r =>
    if bitsOf w 56 8 = 0xC0 then mxu0Of w (r.getD 0 0) :: mxuWords n (r.drop 1) else mxuWords n r
  | _, [] => []

end Sys2Proof.Machine
end

