-- ==== Sys2Proof/Machine/Loader.lean ====
section
/-! DEFINITION. Cagen images (R131 to R140, R157 to R177, R192 to R197): the container and its body read
from bytes, and the loader's checks in their order. -/

namespace Sys2Proof.Machine

/-! ### Reading a body -/

/-- A directory entry (R160). -/
structure DirEnt where
  type : Nat
  off : Nat
  len : Nat
  count : Nat
  deriving DecidableEq, Repr

def readDir (body : Bytes) : List DirEnt :=
  (List.range (fieldLE body 0 2)).map (fun i =>
    let o := 8 + 16 * i
    ⟨fieldLE body o 1, fieldLE body (o + 4) 4, fieldLE body (o + 8) 4, fieldLE body (o + 12) 4⟩)

def secOf (d : List DirEnt) (t : Nat) : Option DirEnt := d.find? (fun e => e.type == t)

def secBytes (body : Bytes) (d : List DirEnt) (t : Nat) : Bytes :=
  match secOf d t with
  | some e => (body.drop e.off).take e.len
  | none => []

def secCount (d : List DirEnt) (t : Nat) : Nat :=
  match secOf d t with
  | some e => e.count
  | none => 0

def readStage (b : Bytes) : Stage :=
  ⟨fieldLE b 0 1, fieldLE b 1 1, fieldLE b 2 1, fieldLE b 3 1, fieldLE b 4 4, fieldLE b 8 4, fieldLE b 12 4, fieldLE b 16 4, fieldLE b 24 8⟩

def readStream (b : Bytes) : StreamD :=
  let fl := fieldLE b 4 1
  ⟨fieldLE b 0 1, fieldLE b 1 1, fieldLE b 2 1, fieldLE b 3 1, bitOf fl 0, bitOf fl 1, bitOf fl 2, fieldLE b 5 1, fieldLE b 6 1,
   fieldLE b 8 2, fieldLE b 10 2, fieldLE b 12 2, fieldLE b 16 4, fieldLE b 20 4⟩

def readRoute (b : Bytes) : RouteD :=
  let h := fieldLE b 7 9
  ⟨fieldLE b 0 1, fieldLE b 1 1, fieldLE b 2 1, (List.range (fieldLE b 3 1)).map (fun i => bitsOf h (3 * i) 3), fieldLE b 4 1⟩

def readTensor (b : Bytes) : TensorD :=
  ⟨fieldLE b 0 1, fieldLE b 1 1, fieldLE b 2 1, fieldLE b 3 1, fieldLE b 4 1, fieldLE b 5 1, fieldLE b 8 8, fieldLE b 16 8,
   fieldLE b 24 8, fieldLE b 0x20 4, fieldLE b 0x24 4, fieldLE b 0x28 4, fieldLE b 0x2C 4, fieldLE b 0x30 8⟩

def readArg (b : Bytes) : ArgD := ⟨fieldLE b 0 1, fieldLE b 1 1, fieldLE b 8 8⟩

def entriesOf {α : Type} (b : Bytes) (n size : Nat) (f : Bytes → α) : List α :=
  (List.range n).map (fun i => f ((b.drop (size * i)).take size))

def readWords (b : Bytes) : List Nat := (List.range (b.length / 8)).map (fun i => fieldLE b (8 * i) 8)

/-- The ticket tables with their offsets: the section begins with an index of 8-byte entries (R192). -/
def readTables (b : Bytes) (n : Nat) : List (Nat × Bytes) :=
  (List.range n).map (fun i =>
    let o := fieldLE b (8 * i) 4
    (o, (b.drop o).take (fieldLE b (8 * i + 4) 4)))

/-- Read a body (R160 to R176). -/
def readImage (body : Bytes) : Image :=
  let d := readDir body
  let sec := secBytes body d
  let n := secCount d
  let stages := entriesOf (sec 2) (n 2) 32 readStage
  ⟨((sec 1).take (n 1)).map BitVec.toNat, stages, entriesOf (sec 3) (n 3) 32 readStream, entriesOf (sec 4) (n 4) 16 readRoute,
   stages.map (fun st => readWords (((sec 5).drop st.progOff).take st.progLen)), readTables (sec 6) (n 6),
   entriesOf (sec 7) (n 7) 8 (fun b => fieldLE b 0 8), entriesOf (sec 8) (n 8) 64 readTensor, entriesOf (sec 9) (n 9) 16 readArg⟩

/-! ### Check 3: the header (R157, R158) -/

def hdrBodyLen (h : Bytes) : Nat := fieldLE h 8 4
def hdrEncrypted (h : Bytes) : Bool := bitOf (fieldLE h 12 2) 0
def hdrKeySlot (h : Bytes) : Nat := bitsOf (fieldLE h 14 2) 0 13
def hdrDigest (h : Bytes) : Bytes := (h.drop 0x30).take 48

def headerOk (h : Bytes) : Bool :=
  fieldLE h 0 4 == 0x314E4743 && fieldLE h 4 2 == 0x0100 && fieldLE h 6 2 == 128 &&
  64 ≤ hdrBodyLen h && hdrBodyLen h ≤ 33554432 && hdrBodyLen h % 64 == 0 &&
  fieldLE h 12 2 < 2 && fieldLE h 14 2 < 8192 && reservedZero h 0x1C 4 && reservedZero h 0x64 28 &&
  (hdrEncrypted h || (fieldLE h 14 2 == 0 && reservedZero h 0x10 12 && reservedZero h 0x20 16))

/-! ### Check 7: directory, sections, limits (R160 to R162) -/

/-- The fixed entry size of a section type; 0 where it has none. -/
def entrySize : Nat → Nat
  | 1 => 1 | 2 => 32 | 3 => 32 | 4 => 16 | 7 => 8 | 8 => 64 | 9 => 16 | _ => 0

/-- Legal counts of a section type (R162). -/
def countRange : Nat → Nat × Nat
  | 1 => (1, 160) | 2 => (1, 64) | 3 => (1, 1024) | 4 => (1, 4096) | 5 => (1, 64) | 6 => (0, 16)
  | 7 => (0, 4096) | 8 => (0, 256) | 9 => (0, 64) | _ => (1, 0)

def roundUp (n k : Nat) : Nat := ceilDiv n k * k

def dirLen (n : Nat) : Nat := roundUp (8 + 16 * n) 64

def disjoint (a b : Nat × Nat) : Bool := a.1 + a.2 ≤ b.1 || b.1 + b.2 ≤ a.1 || a.2 == 0 || b.2 == 0

def allDisjoint : List (Nat × Nat) → Bool
  | [] => true
  | a :: r => r.all (disjoint a) && allDisjoint r

/-- Whether every byte outside the used ranges is zero (R161). -/
def gapsZero (body : Bytes) (used : List (Nat × Nat)) : Bool :=
  (body.zipIdx).all (fun e => e.1 == 0 || used.any (fun r => r.1 ≤ e.2 && e.2 < r.1 + r.2))

/-- Log entry 218, DESIGN CHOICE. -/
def directoryOk (body : Bytes) : Bool :=
  let n := fieldLE body 0 2
  let d := readDir body
  1 ≤ n && n ≤ 9 && reservedZero body 2 6 && dirLen n ≤ body.length &&
  (List.range n).all (fun i => reservedZero body (9 + 16 * i) 3) &&
  d.all (fun e => 1 ≤ e.type && e.type ≤ 9) && (d.map (fun e => e.type)).Nodup &&
  [1, 2, 3, 4, 5, 9].all (fun t => (secOf d t).isSome) &&
  d.all (fun e => e.off % 64 == 0 && (e.len == 0 || dirLen n ≤ e.off) && e.off + e.len ≤ body.length) &&
  allDisjoint (d.map (fun e => (e.off, e.len))) &&
  d.all (fun e => entrySize e.type == 0 || e.len == roundUp (e.count * entrySize e.type) 64) &&
  d.all (fun e => (countRange e.type).1 ≤ e.count && e.count ≤ (countRange e.type).2) &&
  secCount d 5 == secCount d 2 &&
  gapsZero body ((0, 8 + 16 * n) :: d.map (fun e => (e.off, if entrySize e.type = 0 then e.len else e.count * entrySize e.type)))

/-- Stage programs and ticket tables lie within their sections, the tables apart from their index and from
each other, and what they leave of the sections is zero (R161, R164, R192). -/
def partsOk (body : Bytes) : Bool :=
  let d := readDir body
  let im := readImage body
  let ps := secBytes body d 5
  let ts := secBytes body d 6
  let n := secCount d 6
  let tabs := (List.range n).map (fun i => (fieldLE ts (8 * i) 4, fieldLE ts (8 * i + 4) 4))
  im.stages.all (fun st => st.progOff + st.progLen ≤ ps.length) &&
  gapsZero ps (im.stages.map (fun st => (st.progOff, st.progLen))) &&
  8 * n ≤ ts.length && tabs.all (fun t => t.1 + t.2 ≤ ts.length) && allDisjoint ((0, 8 * n) :: tabs) &&
  gapsZero ts ((0, 8 * n) :: tabs)

/-- The limits of R162 on entry fields. -/
def limitsOk (body : Bytes) : Bool :=
  let im := readImage body
  im.stages.all (fun st => 1 ≤ st.tileCount && st.tileCount ≤ 16 && 8 ≤ st.progLen && st.progLen ≤ 131072 && st.resLen ≤ 1048576) &&
  im.streams.all (fun t => 64 ≤ t.bufferBeats && t.bufferBeats ≤ 16384) &&
  im.routes.all (fun r => 1 ≤ r.hops.length && r.hops.length ≤ 24) &&
  im.tables.all (fun t => 64 ≤ t.2.length && t.2.length ≤ 32768) && partsOk body

/-! ### Check 8: entry contents -/

/-- First tiles count up (R165). -/
def firstTilesOk : (at_ : Nat) → List Stage → Bool
  | _, [] => true
  | n, st :: r => st.firstTile == n && firstTilesOk (n + st.tileCount) r

def tblRole (t : Bytes) : Nat := fieldLE t 0 1
def tblKey (t : Bytes) : Nat := fieldLE t 1 1
def tblWindow (t : Bytes) : Nat := fieldLE t 2 2
def tblExperts (t : Bytes) : Nat := fieldLE t 4 1
def tblMatrix (t : Bytes) : Nat := fieldLE t 5 1
def tblLayer (t : Bytes) : Nat := fieldLE t 6 2
def tblWindowOff (t : Bytes) : Nat := fieldLE t 8 4
def tblStore (t : Bytes) : Nat := fieldLE t 12 4
def tblSkip (t : Bytes) (c : Nat) : Bool := bitOf (fieldLE t 16 32) c

/-- Whether a ticket table is well formed (R192, R193).
Log entry 170, DEDUCED. -/
def tableOk (t : Bytes) (ntensors : Nat) : Bool :=
  let role := tblRole t
  let hasExperts := role == 2 || role == 4
  1 ≤ role && role ≤ 4 && (role == 1 || tblKey t == 0) && tblKey t ≤ 1 &&
  1 ≤ tblWindow t && tblWindow t ≤ 1024 &&
  (hasExperts || (role == 1 && tblKey t == 1) || tblExperts t == 0) &&
  (role == 3 || (tblMatrix t == 0 && tblLayer t == 0)) && tblMatrix t ≤ 1 && tblLayer t ≤ 1023 &&
  tblWindowOff t % 64 == 0 && tblStore t % 64 == 0 && reservedZero t 0x30 16 &&
  (!hasExperts || (64 + 8 * tblExperts t ≤ t.length &&
    (List.range (tblExperts t)).all (fun e => reservedZero t (64 + 8 * e + 4) 4 && fieldLE t (64 + 8 * e + 2) 1 < ntensors)))

/-- Roles a stage kind reads (R192). -/
def kindRole : Nat → List Nat
  | 6 => [1] | 4 => [2] | 5 => [3] | 7 => [4] | _ => []

/-- Die, column and position of a tile (R16, R137). -/
def tileCol (t : Nat) : Nat := t / 8
def tileRow (t : Nat) : Nat := t % 8
def tileDie (t : Nat) : Nat := t / 80

/-- Whether a closed die bridge cuts a tile off from the Ringmaster and the host: they stand on die A (R21, R25).
Log entry 152, PRESUMED. -/
def State.tileCut (s : State) (t : Nat) : Bool := s.dev.closedBridge && tileDie t != 0

/-- Follow a route's hops from a tile: the tiles passed, in order; none on a hop that leaves the grid,
a reserved hop, an eject before the last hop, or a bridge hop that does not change die (R140, R170). -/
def walkRoute (bridge : Option Nat) : (hops : List Nat) → (at_ : Nat) → Option (List Nat)
  | [], _ => none
  | [5], t => some [t]
  | h :: r, t =>
    let next : Option Nat :=
      match h with
      | 0 => if tileRow t = 0 then none else some (t - 1)
      | 1 => if tileRow t = 7 then none else some (t + 1)
      | 2 => if tileCol t % 10 = 9 then none else some (t + 8)
      | 3 => if tileCol t % 10 = 0 then none else some (t - 8)
      | 4 => (match bridge with
        | some b => if tileDie b = tileDie t then none else some b
        | none => none)
      | _ => none
    match next with
    | some t' => (walkRoute bridge r t').map (fun l => t :: l)
    | none => none

/-- A router's place: die, column on it and position (R16, R137). A route is followed past the edge of the grid: whether its tiles exist and are owned is a
later check than its form. -/
structure Place where
  die : Nat
  col : Int
  row : Int
  deriving DecidableEq, Repr

def placeOf (t : Nat) : Place := ⟨tileDie t, (tileCol t % 10 : Nat), (tileRow t : Nat)⟩

/-- Where a route ends, wherever its hops lead; none on a reserved hop, an eject before the last hop, a last hop that is no eject, or a bridge hop without a
target on the other die (R140, R170).
Log entry 171, DEDUCED.
Log entry 218, DESIGN CHOICE. -/
def routeEnd (bridge : Option Nat) : (hops : List Nat) → Place → Option Place
  | [], _ => none
  | [5], p => some p
  | h :: r, p =>
    match h with
    | 0 => routeEnd bridge r { p with row := p.row - 1 }
    | 1 => routeEnd bridge r { p with row := p.row + 1 }
    | 2 => routeEnd bridge r { p with col := p.col + 1 }
    | 3 => routeEnd bridge r { p with col := p.col - 1 }
    | 4 => (match bridge with
      | some b => if tileDie b = p.die then none else routeEnd bridge r (placeOf b)
      | none => none)
    | _ => none

def Image.tileAt (im : Image) (i : Nat) : Nat := im.tiles.getD i 0
def Image.stageAt (im : Image) (i : Nat) : Stage := im.stages.getD i ⟨0, 0, 0, 255, 0, 0, 0, 0, 0⟩

/-- Routes of a stream (R169). -/
def Image.streamRoutes (im : Image) (t : StreamD) : List RouteD := (im.routes.drop t.routeFirst).take t.routeCount

/-- The producer and consumer stage indices that route `i` of a stream joins (R169). -/
def routeEnds (mode np i : Nat) : Nat × Nat :=
  match mode with
  | 2 | 3 => (0, i)
  | 4 | 5 => (i, 0)
  | 1 => (if np = 1 then 0 else i, i)
  | _ => (i, i)

/-- Distribution conditions of a mode (R135). -/
def modeCond (mode np nc : Nat) : Bool :=
  match mode with
  | 1 => np == 1 || np == nc
  | 2 | 3 => np == 1
  | 4 | 5 => nc == 1
  | 6 => np == nc
  | _ => false

/-- The number of bits set in a four-bit value. -/
def pop4 (n : Nat) : Nat := b2n (bitOf n 0) + b2n (bitOf n 1) + b2n (bitOf n 2) + b2n (bitOf n 3)

def RouteD.hasBridge (r : RouteD) : Bool := r.hops.contains 4

/-- Whether one ROUTES entry is well formed (R140, R170), leaving the tiles it passes to check 9.
Log entry 171, DEDUCED. -/
def Image.routeOk (im : Image) (r : RouteD) : Bool :=
  r.src < im.tiles.length && r.dst < im.tiles.length &&
  (r.hops.filter (fun h => h == 4)).length ≤ 1 && r.hops.all (fun h => h ≤ 5) &&
  (r.bridge == 255) == !r.hasBridge && (r.bridge == 255 || r.bridge < im.tiles.length) &&
  r.links < 16 && 1 ≤ pop4 r.links &&
  routeEnd (if r.bridge = 255 then none else some (im.tileAt r.bridge)) r.hops (placeOf (im.tileAt r.src)) == some (placeOf (im.tileAt r.dst))

/-- Whether one stream is well formed (R135, R136, R138, R139, R168, R169). -/
def Image.streamOk (im : Image) (t : StreamD) : Bool :=
  let np := (im.stageAt t.producer).tileCount
  let nc := (im.stageAt t.consumer).tileCount
  let rs := im.streamRoutes t
  t.producer < im.stages.length && t.consumer < im.stages.length && t.producer != t.consumer &&
  modeCond t.mode np nc && 1 ≤ t.width && t.width ≤ 4 && t.outPort < 16 && t.inPort < 16 &&
  t.routeCount == max np nc && t.routeFirst + t.routeCount ≤ im.routes.length &&
  t.bufferOff % 64 == 0 && t.rowBytes % 64 == 0 &&
  (t.mode != 3 || t.rowBytes % (64 * nc) == 0) && (t.mode != 4 || t.rowBytes % (64 * np) == 0) &&
  (!t.residual || !t.blockScaled) &&
  rs.all (fun r => pop4 r.links == t.width && (!r.hasBridge || t.width == 1)) &&
  (rs.zipIdx).all (fun e =>
    let ends := routeEnds t.mode np e.2
    e.1.src == (im.stageAt t.producer).firstTile + ends.1 && e.1.dst == (im.stageAt t.consumer).firstTile + ends.2)

/-- Link uses of a route: each link index on each directed hop, and where the route enters and leaves the
mesh; a router's bridge port has one link each way (R138, R139). 200 and 201 stand for a tile's own port and
the bridge. -/
def Image.hopUses (im : Image) (r : RouteD) : List (Nat × Nat × Nat) :=
  match walkRoute (if r.bridge = 255 then none else some (im.tileAt r.bridge)) r.hops (im.tileAt r.src) with
  | some l =>
    let on (a b : Nat) : List (Nat × Nat × Nat) := ((List.range 4).filter (fun i => bitOf r.links i)).map (fun i => (a, b, i))
    on 200 (l.headD 0) ++ on (l.getLastD 0) 200 ++
      (l.zip (l.drop 1)).flatMap (fun e => if tileDie e.1 = tileDie e.2 then on e.1 e.2 else [(e.1, 201, 0), (201, e.2, 0)])
  | none => []

/-- Link uses of a stream: a BCAST stream's shared hops count once.
Log entry 218, DESIGN CHOICE. -/
def Image.streamUses (im : Image) (t : StreamD) : List (Nat × Nat × Nat) :=
  let all := (im.streamRoutes t).flatMap im.hopUses
  if t.mode = 2 then all.eraseDups else all

/-- Ports and links of every tile (R138, R168). -/
def Image.tilesOk (im : Image) : Bool :=
  (List.range im.tiles.length).all (fun i =>
    let ins := im.streams.filter (fun t => (im.streamRoutes t).any (fun r => r.dst == i))
    let outs := im.streams.filter (fun t => (im.streamRoutes t).any (fun r => r.src == i))
    (ins.map (fun t => t.inPort)).Nodup && (outs.map (fun t => t.outPort)).Nodup &&
    linksUsed ins (fun r => r.dst == i) ≤ 4 && linksUsed outs (fun r => r.src == i) ≤ 4)
where
  linksUsed (l : List StreamD) (f : RouteD → Bool) : Nat :=
    ((l.flatMap (fun t => ((im.streamRoutes t).filter f).flatMap (fun r => (List.range 4).filter (fun k => bitOf r.links k)))).eraseDups).length

/-- A link carries at most four streams each way (R138). -/
def Image.linksOk (im : Image) : Bool :=
  let uses := im.streams.flatMap im.streamUses
  uses.all (fun u => (uses.filter (fun v => v == u)).length ≤ 4)

/-- Stages reachable from a set in the stream graph after `n` rounds. -/
def Image.reach (im : Image) : (n : Nat) → List Nat → List Nat
  | 0, l => l
  | k + 1, l => Image.reach im k ((l ++ (im.streams.filter (fun t => l.contains t.producer)).map (fun t => t.consumer)).eraseDups)

/-- The stream graph has no cycle (R147). -/
def Image.acyclic (im : Image) : Bool :=
  (List.range im.stages.length).all (fun st =>
    let next := (im.streams.filter (fun t => t.producer == st)).map (fun t => t.consumer)
    !(im.reach im.stages.length next).contains st)

/-- The ticket table of a stage. -/
def Image.tableOf (im : Image) (st : Stage) : Option Bytes :=
  if st.ticketTable = 255 then none else (im.tables[st.ticketTable]?).map (fun t => t.2)

/-- Regions of a stage's tiles that must lie in tile memory and apart (R167). -/
def Image.regions (im : Image) (i : Nat) : List (Nat × Nat) :=
  let st := im.stageAt i
  (if st.resLen = 0 then [] else [(st.resOff, st.resLen)]) ++
    ((im.streams.filter (fun t => t.consumer == i)).map (fun t => (t.bufferOff, 64 * t.bufferBeats)) ++
     (match im.tableOf st with
      | some t => [(tblWindowOff t, 32 * tblWindow t)]
      | none => []))

def tileMemBytes : Nat := 2097152
def bankBytes : Nat := 131072

/-- Whether an MXU stage's output leaves a split reduction: none of its out streams is a carry of its
consumer (R81, R100).
Log entry 182, DEDUCED. -/
def Image.lastOfSplit (im : Image) (i : Nat) : Bool :=
  (im.streams.filter (fun t => t.producer == i)).all (fun t =>
    (mxuWords 65536 (im.progs.getD t.consumer [])).all (fun a => a.carry.toNat != t.inPort))

/-- Carries name the format their producer writes (R100).
Log entry 182, DEDUCED. -/
def Image.carriesOk (im : Image) : Bool :=
  im.streams.all (fun t =>
    (mxuWords 65536 (im.progs.getD t.consumer [])).all (fun a =>
      a.carry.toNat != t.inPort ||
      (mxuWords 65536 (im.progs.getD t.producer [])).all (fun b =>
        b.toMem || b.oport.toNat != t.outPort ||
        mwOut b.mode.toNat == (if mwCarry a.mode.toNat = 1 then 0 else 2))))

/-- Slots a word names directly, or through a tensor's arrays (R176). -/
def tensorSlots (t : TensorD) : List Nat := [t.elemSlot, t.scaleSlot, t.metaSlot].filter (fun n => n != 255)

/-- The argument slots that a stage program's instruction names (R176).
Log entry 172, DEDUCED. -/
def wordTensors (w w1 : Nat) : List Nat :=
  let op := bitsOf w 56 8
  if op = 0x88 || op = 0x89 then [bitsOf w 48 8]
  else if op = 0xC0 then [bitsOf w 48 8, bitsOf w1 32 8] ++ (if bitsOf w1 40 8 = 255 then [] else [bitsOf w1 40 8])
  else []

/-- The argument slots that a stage program names, word by word (R176).
Log entry 172, DEDUCED. -/
def namedSlotsGo (ts : List TensorD) : (fuel : Nat) → List Nat → List Nat
  | 0, _ => []
  | _, [] => []
  | n + 1, w :: r =>
    let op := bitsOf w 56 8
    let own := if op = 0x84 then [bitsOf w 40 6] else if op = 0x90 then [bitsOf w 48 8] else []
    let viaT := (wordTensors w (r.getD 0 0)).flatMap (fun i => match ts[i]? with
      | some t => tensorSlots t
      | none => [])
    own ++ viaT ++ namedSlotsGo ts n (if op = 0xC0 then r.drop 1 else r)

/-- Tensors the entries of a stage's EXPERT table name (R193).
Log entry 66, DEDUCED. -/
def Image.expertTensors (im : Image) (i : Nat) : List Nat :=
  match im.tableOf (im.stageAt i) with
  | some t => if tblRole t = 2 then (List.range (tblExperts t)).map (fun e => fieldLE t (64 + 8 * e + 2) 1) else []
  | none => []

/-- Argument slots a stage names: by its program, and by the tensors of its experts (R176; log entry 66, DEDUCED). -/
def Image.stageSlots (im : Image) (i : Nat) : List Nat :=
  let p := im.progs.getD i []
  namedSlotsGo im.tensors (p.length + 1) p ++ (im.expertTensors i).flatMap (fun n => match im.tensors[n]? with
    | some t => tensorSlots t
    | none => [])

/-- Whether a tensor descriptor is well formed (R174).
Log entry 218, DESIGN CHOICE. -/
def tensorOk (t : TensorD) (args : List ArgD) : Bool :=
  match Fmt.ofCode t.fmt with
  | none => false
  | some f =>
    let b := f.blockScaled
    t.sparsity ≤ 3 && (b || t.sparsity == 0) && (b || t.scaleSlot == 255) && (t.sparsity == 0 || t.metaSlot != 255) &&
    t.tsSrc ≤ 1 && (b || t.tsSrc == 0) && (t.tsSrc == 0 || t.scaleSlot != 255) &&
    t.elemOff % 64 == 0 && t.scaleOff % 64 == 0 && t.metaOff % 64 == 0 && t.outOff % 64 == 0 &&
    1 ≤ t.kLen && ((b && t.tsSrc == 0) || t.ts32 == 0) && t.tsOff % 4 == 0 && (b || t.tsOff == 0) &&
    (tensorSlots t).all (fun n => match args[n]? with
      | some a => a.type != 3
      | none => false)

def argOk (a : ArgD) : Bool :=
  1 ≤ a.type && a.type ≤ 3 && a.tiers < 4 && (a.type != 3 || (a.tiers == 0 && a.minBytes == 0)) &&
  (a.type != 2 || !bitOf a.tiers 1)

/-- Reserved bytes of every fixed-size entry are zero. -/
def reservedOk (body : Bytes) : Bool :=
  let d := readDir body
  let all (t size : Nat) (rs : List (Nat × Nat)) : Bool :=
    (List.range (secCount d t)).all (fun i =>
      let b := ((secBytes body d t).drop (size * i)).take size
      rs.all (fun r => reservedZero b r.1 r.2))
  all 2 32 [(0x14, 4)] && all 3 32 [(7, 1), (0x0E, 2), (0x18, 8)] && all 4 16 [(5, 2)] &&
  all 8 64 [(6, 2), (0x38, 8)] && all 9 16 [(2, 6)] &&
  (List.range (secCount d 3)).all (fun i => fieldLE (secBytes body d 3) (32 * i + 4) 1 < 8) &&
  (List.range (secCount d 4)).all (fun i =>
    let b := ((secBytes body d 4).drop (16 * i)).take 16
    fieldLE b 7 9 / 2 ^ (3 * fieldLE b 3 1) == 0)

/-- A stage with a ticketed out port has a ticketed in port, unless its program attaches tickets itself (R191). -/
def Image.ticketsOk (im : Image) : Bool :=
  im.streams.all (fun t => !t.ticketed || im.streams.any (fun u => u.ticketed && u.consumer == t.producer) ||
    (instrWords 16385 (im.progs.getD t.producer [])).any (fun w => bitsOf w 56 8 == 0x90))

/-- The window store a table needs (R197): a sort's against its ticketed input, a restoring gather's
against its output stream. A stage that dispatches rows names a table (R192). -/
def Image.storeOk (im : Image) (i : Nat) : Bool :=
  let st := im.stageAt i
  match im.tableOf st with
  | none => (instrWords ((im.progs.getD i []).length + 1) (im.progs.getD i [])).all (fun w => bitsOf w 56 8 != 0xA3)
  | some t =>
    let p := im.progs.getD i []
    let ws := instrWords (p.length + 1) p
    let restores := ws.any (fun w => bitsOf w 56 8 == 0x94 && bitOf w 39)
    let emits := (ws.filter (fun w => bitsOf w 56 8 == 0x95)).map (fun w => bitsOf w 40 4)
    (tblRole t != 1 || (im.streams.filter (fun u => u.consumer == i && u.ticketed)).all (fun u => tblWindow t * u.rowBytes ≤ tblStore t)) &&
    (!restores || (im.streams.filter (fun u => u.producer == i && emits.contains u.outPort)).all (fun u => tblWindow t * u.rowBytes ≤ tblStore t))

/-- The table of a stage that holds no rows has no window-store bytes: sorts hold rows, and gathers that restore (R192, R197). -/
def Image.storesNamed (im : Image) : Bool :=
  (List.range im.stages.length).all (fun i =>
    let p := im.progs.getD i []
    (im.tableOf (im.stageAt i)).all (fun t => tblStore t == 0 || tblRole t == 1 || (instrWords (p.length + 1) p).any (fun w => bitsOf w 56 8 == 0x94 && bitOf w 39)))

/-- Each TGATH stands before an MXU operation, which in a restoring EXPERT_GATHER writes binary32 (R191, R204). -/
def gathersOk (kind : Nat) : (fuel : Nat) → List Nat → Bool
  | 0, _ => true
  | _, [] => true
  | n + 1, w :: r =>
    let op := bitsOf w 56 8
    (op != 0x94 || (bitsOf (r.headD 0) 56 8 == 0xC0 && (kind != 4 || !bitOf w 39 || mwOut (r.getD 1 0 % 2 ^ 32) == 0))) &&
      gathersOk kind n (if op = 0xC0 then r.drop 1 else r)

/-- Plan streams carry rows of 4,160 bytes (R196). -/
def Image.plansOk (im : Image) (i : Nat) : Bool :=
  let p := im.progs.getD i []
  (instrWords (p.length + 1) p).all (fun w =>
    let op := bitsOf w 56 8
    if op = 0x93 then (im.streams.filter (fun u => u.producer == i && u.outPort == bitsOf w 36 4)).all (fun u => u.rowBytes == 4160)
    else if op = 0x94 then (im.streams.filter (fun u => u.consumer == i && u.inPort == bitsOf w 44 4)).all (fun u => u.rowBytes == 4160)
    else true)

/-- Ports an instruction reads (false) or writes (true) data on, and whether the data is binary32. -/
def wordPorts (ts : List TensorD) (w w1 : Nat) : List (Bool × Nat × Bool) :=
  let f32 := bitsOf w 52 4 == 0
  let tensor := match ts[bitsOf w 48 8]? with
    | some d => d.fmt == 0
    | none => true
  match bitsOf w 56 8 with
  | 0x52 => [(false, bitsOf w 12 6, f32)]
  | 0x53 => [(true, bitsOf w 12 6, f32)]
  | 0x54 => [(false, bitsOf w 12 6, false)]
  | 0x55 => [(true, bitsOf w 12 6, false)]
  | 0x88 => [(true, bitsOf w 44 4, tensor)]
  | 0x89 => [(false, bitsOf w 44 4, tensor)]
  | 0xA0 | 0xA1 | 0xA2 => [(false, bitsOf w 44 4, f32), (true, bitsOf w 40 4, f32)]
  | 0xA8 => [(false, bitsOf w 44 4, f32)]
  | 0xC0 =>
    let a := mxu0Of w w1
    let m := a.mode.toNat
    (if a.fromMem then [] else [(false, a.sport.toNat, mwX m == 0)]) ++ (if a.toMem then [] else [(true, a.oport.toNat, mwOut m == 0)]) ++
      (if a.carry = 0xFF then [] else [(false, a.carry.toNat, mwCarry m == 1)])
  | _ => []

/-- Instruction words with the word after each. -/
def instrPairs : (fuel : Nat) → List Nat → List (Nat × Nat)
  | 0, _ => []
  | _, [] => []
  | n + 1, w :: r => (w, r.getD 0 0) :: instrPairs n (if bitsOf w 56 8 = 0xC0 then r.drop 1 else r)

/-- A residual stream carries binary32 only, at both its ends (R125). -/
def Image.residualOk (im : Image) : Bool :=
  let ports (i : Nat) : List (Bool × Nat × Bool) :=
    (instrPairs 16385 (im.progs.getD i [])).flatMap (fun e => wordPorts im.tensors e.1 e.2)
  im.streams.all (fun t => !t.residual ||
    ((ports t.producer).all (fun p => !p.1 || p.2.1 != t.outPort || p.2.2) && (ports t.consumer).all (fun p => p.1 || p.2.1 != t.inPort || p.2.2)))

/-- Check 8 of R177: entry contents.
Log entry 218, DESIGN CHOICE. -/
def contentsOk (body : Bytes) : Bool :=
  let im := readImage body
  im.tiles.Nodup && im.tiles.all (fun t => t < 160) &&
  firstTilesOk 0 im.stages && (im.stages.map (fun st => st.tileCount)).sum == im.tiles.length &&
  reservedOk body &&
  im.stages.all (fun st => 1 ≤ st.kind && st.kind ≤ 9 && st.progOff % 64 == 0 && st.progLen % 8 == 0 && st.resOff % 64 == 0 && st.resLen % 64 == 0) &&
  im.stages.all (fun st => match st.ticketTable with
    | 255 => !(kindRole st.kind != [] && st.kind != 7)
    | n => (match im.tables[n]? with
      | some t => (kindRole st.kind).contains (tblRole t.2)
      | none => false)) &&
  im.tables.all (fun t => t.1 % 64 == 0 && tableOk t.2 im.tensors.length) &&
  im.args.all argOk && im.tensors.all (fun t => tensorOk t im.args) &&
  im.routes.all im.routeOk && im.streams.all im.streamOk && im.tilesOk && im.linksOk && im.acyclic &&
  (List.range im.stages.length).all (fun i =>
    let st := im.stageAt i
    let p := im.progs.getD i []
    programOk im st.kind (im.lastOfSplit i) (p.length + 1) 0 p &&
    st.progLen + 8 * im.consts.length + (match im.tableOf st with
      | some t => t.length
      | none => 0) ≤ bankBytes &&
    (im.regions i).all (fun r => r.1 + r.2 ≤ tileMemBytes) && allDisjoint (im.regions i) &&
    (im.stageSlots i).all (fun n => bitOf st.slotMask n && n < im.args.length) &&
    im.storeOk i && im.plansOk i && gathersOk st.kind (p.length + 1) p) && im.storesNamed &&
  im.carriesOk && im.ticketsOk && im.residualOk

/-! ### Check 9: columns, crossings, units (R132, R133, R139, R140) -/

/-- Units a stage kind may use (R133): 1 MXU, 2 memory read, 3 memory write, 4 exchange, 5 update feed. An ADAPTER_GATHER stage reads the adapter cache
through its gathers alone.
Log entry 218, DESIGN CHOICE. -/
def kindUnits : Nat → List Nat
  | 1 => [1] | 3 => [2] | 4 => [1, 2] | 5 => [1] | 7 => [2, 4] | 8 => [5] | 9 => [3] | _ => []

/-- Bridge crossings of an image from a die (R139): one for each route, the routes of a BCAST stream
that share their hops up to the bridge counting once. -/
def Image.crossings (im : Image) (fromDie : Nat) : Nat :=
  (im.streams.map (fun t =>
    let rs := (im.streamRoutes t).filter (fun r => r.hasBridge && tileDie (im.tileAt r.src) == fromDie)
    if t.mode = 2 then ((rs.map (fun r => (r.hops.takeWhile (fun h => h != 4), r.bridge))).eraseDups).length else rs.length)).sum

/-- Whether an MXU operation of a program reads an argument slot's object through the memory port: an array of its stationary operand, unless a gather gives it
that operand, or a TS32 held in memory (R173, R174).
Log entry 203, DEDUCED. -/
def mxuReads (ts : List TensorD) : (fuel : Nat) → (gathers : Bool) → List Nat → Bool
  | 0, _, _ => false
  | _, _, [] => false
  | n + 1, g, w :: r =>
    if bitsOf w 56 8 = 0xC0 then
      let a := mxu0Of w (r.headD 0)
      let has (f : TensorD → Bool) (i : Nat) : Bool := match ts[i]? with
        | some t => f t
        | none => false
      (!g && has (fun t => !(tensorSlots t).isEmpty) a.stat.toNat) || has (fun t => t.tsSrc == 1) a.streamT.toNat || has (fun t => t.tsSrc == 1) a.outT.toNat ||
        mxuReads ts n false (r.drop 1)
    else mxuReads ts n (bitsOf w 56 8 == 0x94) r

def ownsTile (l : Layout) (t : Nat) : Bool := bitOf l.columns.toNat (tileCol t)

/-- Check 9 of R177; a tile that failed self-test is outside the grant (R461).
Log entry 171, DEDUCED. Log entry 203, DEDUCED.
Log entry 218, DESIGN CHOICE. -/
def ownedOk (im : Image) (l : Layout) (failed : List Nat) : Bool :=
  im.tiles.all (fun t => ownsTile l t && !failed.contains t) &&
  im.routes.all (fun r => match walkRoute (if r.bridge = 255 then none else some (im.tileAt r.bridge)) r.hops (im.tileAt r.src) with
    | some ts => ts.all (ownsTile l)
    | none => false) &&
  im.crossings 0 ≤ l.bridgeAB.toNat && im.crossings 1 ≤ l.bridgeBA.toNat &&
  (List.range im.stages.length).all (fun i =>
    let p := im.progs.getD i []
    (instrWords (p.length + 1) p).all (fun w => wordUnit w == 0 || (kindUnits (im.stageAt i).kind).contains (wordUnit w)) &&
    (!([1, 5].contains (im.stageAt i).kind) || !mxuReads im.tensors (p.length + 1) false p) &&
    (!([5, 7, 9].contains (im.stageAt i).kind) || (im.stageSlots i).all (fun n => match im.args[n]? with
      | some a => !bitOf a.tiers 1
      | none => true)))

/-- Check 10 of R177: the objects an UPDATE_FEED stage names lie in HBM only. A scalar slot has no tier.
Log entry 211, DEDUCED. -/
def feedSlotsOk (im : Image) : Bool :=
  (List.range im.stages.length).all (fun i =>
    (im.stageAt i).kind != 8 || (im.stageSlots i).all (fun n => match im.args[n]? with
      | some a => a.type == 3 || a.tiers == 1
      | none => true))

/-! ### The loader (R177) -/

/-- The plaintext body: GCM keystream under the slot's key when the image is encrypted (R158). -/
def plainBody (key : U256) (hdr body : Bytes) : Bytes :=
  if hdrEncrypted hdr then gcmCrypt key ((hdr.drop 16).take 12) body else body

/-- The additional data of an encrypted body: the header with its tag zero (R158). -/
def hdrAad (hdr : Bytes) : Bytes := hdr.take 0x20 ++ zeros 16 ++ hdr.drop 0x30

/-- The failure of an image body that has been read, by checks 3 to 10 of R177 in their order. -/
def loadFails (s : State) (p : Nat) (hdr body : Bytes) (failedTiles : List Nat) : Option Status :=
  let k := hdrKeySlot hdr
  let granted := match s.layout p with
    | some l => l.keyBase.toNat ≤ k && k < l.keyBase.toNat + l.keyCount.toNat
    | none => false
  let key := s.key k
  let pt := plainBody key.key hdr body
  if !headerOk hdr then some .malformed
  else if hdrEncrypted hdr && !(k != 0 && granted && key.st == .active && key.kind == .transport) then some .key
  else if hdrEncrypted hdr &&
      gcmTag key.key ((hdr.drop 16).take 12) (hdrAad hdr) pt != BitVec.ofNat 128 (fieldLE hdr 0x20 16) then some .integrity
  else if sha384 pt != hdrDigest hdr then some .digestMismatch
  else if !(directoryOk pt && limitsOk pt) then some .malformed
  else if !contentsOk pt then some .malformed
  else
    let im := readImage pt
    if !(match s.layout p with
      | some l => ownedOk im l failedTiles
      | none => false) then some .bounds
    else if !feedSlotsOk im then some .bounds
    else none

end Sys2Proof.Machine
end

