-- ==== Sys2Proof/Machine/Power.lean ====
section
/-! DEFINITION. Power domains as commands see them (R545, R546): which domains a RUN needs, requests to
wake them, and which are awake. -/

namespace Sys2Proof.Machine

/-- The power-domain latencies of R545, in nanoseconds. -/
def wakeLatency (d : Nat) : Nat :=
  if d < 20 then 8000 else if d < 40 then 60000 else if d < 48 then 3000 else if d < 52 then 20000
  else if d < 64 then 10000000 else if d = 64 then 1000000 else if d < 73 then 15000
  else if d < 93 then 2000 else 1000

/-- Domains a RUN of an image needs (R546). -/
def State.runDomains (s : State) (im : Image) (args : List U64) : List Nat :=
  (im.tiles.map (fun t => t / 8) ++
    ((im.args.zip args).filter (fun (e : ArgD × U64) => e.1.type != 3)).flatMap (fun (e : ArgD × U64) => match s.objOf (e.2.setWidth 32) with
      | some (_, o) => objDomains o
      | none => []) ++
    (if im.stages.any (fun st => st.kind == 8) then [89, 90, 91, 92] else [])).eraseDups

/-- Domains a RUN command of a context needs. -/
def State.cmdDomains (s : State) (c : Nat) (cmd : HostCmd) : List Nat :=
  match cmd, s.ctxPart (some c) with
  | .run a, some p => (match s.imgSlot p a.imageSlot.toNat with
    | some x => (match x.image with
      | some im => s.runDomains im a.slots
      | none => [])
    | none => [])
  | _, _ => []

/-- The look-ahead of a doorbell: the RUNs among the next 16 entries request wake (R546). -/
def State.lookAhead (s : State) (qu : Queue) : State :=
  match qu.ctx with
  | none => s
  | some c => ((s.readyFrom qu 16 qu.head).map (fun e => s.cmdDomains c e.2.2.cmd)).foldl State.wakeAll s

/-- Whether VXU and MXU issue is stopped by a thermal trip (R551). -/
def State.issueStopped (s : State) : Bool := s.pwr.trip

/-- The applied reef level: the highest demand (R444). -/
def Pwr.reef (p : Pwr) : Nat := max p.thermDemand (max p.capDemand p.brakeDemand)

/-! ### AVSBus (R548, R570, R572) -/

/-- What a rail is asked for: VDD_COL its voltage at REEF0 less 15 mV for each reef level, within 600 to 800 mV; VDD_CPU its own.
Log entry 212, DESIGN CHOICE. -/
def Pwr.railMv (p : Pwr) (k : Nat) : Nat := if k % 2 = 0 then max 600 (p.rails.getD k 750 - 15 * p.reef) else p.rails.getD k 950

/-- Request what each rail's voltage has become, once start-up has come to requests.
Log entry 212, DESIGN CHOICE. -/
def State.avsSet (s : State) : State :=
  if s.pwr.rails.isEmpty then s
  else
    let new := ((List.range 4).map (fun k => (⟨k / 2, k % 2, s.pwr.railMv k⟩ : AvsReq))).filter (fun r =>
      (s.pwr.avs.reverse.find? (fun x => x.bus == r.bus && x.rail == r.rail)).map (fun x => x.mv) != some r.mv)
    { s with pwr := { s.pwr with avs := s.pwr.avs ++ new } }

end Sys2Proof.Machine
end

