-- ==== Sys2Proof/Machine/Host.lean ====
section
/-! DEFINITION. The rings and the queue engine (R397 to R401, R418, R451), the data-path commands COPY
and FILL, fences, and the creation commands that need no other unit (R404, R410, R414 to R416). -/

namespace Sys2Proof.Machine

/-! ### Rings -/

/-- The writable end of a mapped ring at a BAR2 offset: the page set's key and the offset in it. -/
def State.ringAt (s : State) (f off len : Nat) : Option (Nat × Nat) :=
  match (s.fn f).maps.find? (fun m => m.1 ≤ off && off + len ≤ m.1 + m.2.1) with
  | some (b, _, key) => some (key, off - b)
  | none => none

/-- RING_WINDOW_WRITE: the host's bytes go into the ring mapped at the offset; a write where no ring is
mapped, or during a device fault's warm reset, is dropped (R397). -/
def execRingWindowWrite (fn : Fn) (off : U64) (data : Bytes) (s : State) : Host.Outcome State Fault Refusal :=
  match (if s.fnOpen fn.val then s.ringAt fn.val off.toNat data.length else none) with
  | some (key, o) => .next ((s.objWrite key o data).mirrorHostWrite key o data.length)
  | none => .next s

/-- DOORBELL: a write of QDB_SQ_TAIL (R399), and the look-ahead of R546.
Log entry 220, DESIGN CHOICE. -/
def execDoorbell (q : QId) (value : U32) (s : State) : Host.Outcome State Fault Refusal :=
  match (if s.fnOpen q.fn.val then s.queues.get (qKey q) else none) with
  | none => .next s
  | some qu =>
    let v := value.toNat
    if v = qu.tail then .next s
    else if qu.sqSize < diff32 v qu.head then
      (match qu.ctx with
       | some c => .next (s.ctxFault c .malformed none)
       | none => .next (s.bumpFn q.fn.val hqBadHead 1))
    else if diff32 v qu.head < diff32 qu.tail qu.head then .next (s.bumpFn q.fn.val hqBadHead 1)
    else
      let qu := { qu with tail := v, stamps := qu.stamps ++ [(v, s.ts)] }
      .next ((s.setQueue (qKey q) qu).lookAhead qu)

/-- CQ_HEAD_WRITE: a value ahead of the last record written is ignored and counted (R400); a queue that
waited for a slot has its wait counted. -/
def execCqHeadWrite (q : QId) (value : U32) (s : State) : Host.Outcome State Fault Refusal :=
  match (if s.fnOpen q.fn.val then s.queues.get (qKey q) else none) with
  | none => .next s
  | some qu =>
    if diff32 qu.written qu.cqHead < diff32 value.toNat qu.cqHead then .next (s.bumpFn q.fn.val hqBadHead 1)
    else
      let t := { qu with cqHead := value.toNat }
      if t.cqSize ≤ s.slotsUsed (qKey q) t then .next (s.setQueue (qKey q) t)
      else
        let s := s.setQueue (qKey q) { t with blockedSince := none }
        .next (match qu.blockedSince with
          | some b => s.bumpFn q.fn.val hqBackpressure (s.ts - b)
          | none => s)

/-- Take an entry off the ring into the fetched list. -/
def Queue.take (q : Queue) (e : RawEntry) : Queue :=
  let head := (q.head + e.span) % w32
  { q with head := head,
           stamps := q.stamps.filter (fun x => 0 < diff32 x.1 head && diff32 x.1 head ≤ 65536),
           fetched := q.fetched ++ [⟨q.head, q.stamp q.head, e.tag, e.barrier, e.hostTs, e.cmd, .waiting, 0⟩] }

/-- Whether an entry names what a command before it in its queue, fetched and not started, will make: an image slot that a LOAD_IMAGE will fill, for a
RUN or an UNLOAD_IMAGE, or a set that an UPDATE_SET_CREATE will create, for its UPDATE_SET_DESTROY. It starts only after that command has (R401), so what
stands at its fetch is not what it names: it is checked when it starts (R181, R185). Log entry 196, DEDUCED. -/
def Queue.loadsFirst (q : Queue) (cmd : HostCmd) : Bool :=
  let before (f : HostCmd → Bool) : Bool := q.fetched.any (fun e => e.st == .waiting && f e.cmd)
  let fills (n : Nat) (c : HostCmd) : Bool := match c with
    | .loadImage l => l.slot.toNat == n
    | _ => false
  let creates (n : Nat) (c : HostCmd) : Bool := match c with
    | .updateSetCreate a => a.set.toNat == n
    | _ => false
  match cmd with
  | .run a => before (fills a.imageSlot.toNat)
  | .unloadImage n => before (fills n.toNat)
  | .updateSetDestroy n => before (creates n.toNat)
  | _ => false

/-- The checks of an entry at its fetch from queue `qu` (R418).
Log entry 196, DEDUCED. -/
def State.fetchFails (s : State) (qu : Queue) (c t : Nat) (part : Option Nat) (cmd : HostCmd) : List Status :=
  if qu.loadsFirst cmd then [] else s.ctxFails c t part cmd

/-- What the queue engine does with an entry it has just taken from queue `qk` at index `sub`. Commands on the admin queue of a virtual function whose partition is
FREE end with KEY (R576). -/
def State.takeEntry (s : State) (qk sub t : Nat) (qu : Queue) (e : RawEntry) : State :=
  let f := qFn qk
  match qu.ctx with
  | none =>
    if s.dev.fault.isSome then s.complete qk sub (Done.of .contextLost .device)
    else if !s.agreement f then s.complete qk sub (Done.req .feature)
    else if f != 0 && (s.part (f - 1)).sess.st == .free then s.complete qk sub (Done.req .key)
    else if !s.featureOk f e.cmd && e.cmd != .bad then s.complete qk sub (Done.req .feature)
    else
      (match govern (adminFails f e.cmd) with
       | some st => (s.bumpFn f hqFetchFault 1).complete qk sub (Done.req st)
       | none => s)
  | some c =>
    match s.ctxs.get c with
    | none => s
    | some x =>
      if s.dev.fault.isSome then s.complete qk sub (Done.of .contextLost .device)
      else if x.st != .lost && !x.part.all s.partRails then s.faultAt qk sub .parity .partition
      else if x.st == .lost then s.complete qk sub (Done.of .contextLost .context)
      else if !s.agreement f then s.complete qk sub (Done.req .feature)
      else if e.cmd != .bad && queueKind e.cmd == .ctx && !s.featureOk f e.cmd then s.complete qk sub (Done.req .feature)
      else
        match govern (s.fetchFails qu c t x.part e.cmd) with
        | some st => (s.bumpFn f hqFetchFault 1).ctxFault c st (some (qk, sub))
        | none => s

/-- Whether a context's partition is FENCED, or its context is the catcher's copy, so that nothing is fetched from it
(R494, R496). -/
def State.fencedCtx (s : State) (x : Ctx) : Bool := match x.part with
  | some p => (s.net p).st == .fenced || s.isCatcher
  | none => false

/-- Whether the page table entries of a queue's rings pass their dual-rail check: its pages are Onlyn's own (R237, R397).
Log entry 44, DEDUCED. -/
def State.ringRails (s : State) (q : Queue) : Bool := (s.objs.get q.ring).all (fun (o : Obj) => o.pages.all Pte.railOk)

/-- Whether the lines of `n` submission entries at the head of a queue verify (R278). -/
def State.entryLines (s : State) (q : Queue) (n : Nat) : Bool :=
  (List.range n).all (fun i => s.rangeBad q.ring ((q.head + i) % q.sqSize * 128) 128 = 0)

/-- ENTRY_FETCH: fetch the next ready entry of a queue once a completion slot is free, and re-check it
(R400, R402, R403, R409, R418, R419, R451).
Log entry 165, DEDUCED. Log entry 168, DEDUCED. -/
def execEntryFetch (q : QId) (s : State) : Host.Outcome State Fault Refusal :=
  let qk := qKey q
  match s.queues.get qk with
  | none => .next s
  | some qu =>
    let open_ := qu.st == .active && (match qu.ctx with
      | none => true
      | some c => (match s.ctxs.get c with
        | some x => x.st != .draining && !x.restoring && !s.fencedCtx x
        | none => false))
    if !open_ || qu.ready = 0 then .next s
    else if qu.cqSize ≤ s.slotsUsed qk qu then
      .next (s.setQueue qk { qu with blockedSince := some (qu.blockedSince.getD s.ts) })
    else if !s.ringRails qu then .next (s.devFault .parity none)
    else
      match readEntry (s.readyBytes qu 5) with
      | none => .next s
      | some e =>
        if !s.entryLines qu e.span then .next (match qu.ctx with
          | some c => s.ctxFault c .integrity none
          | none => s.devFault .integrity none)
        else if isControl e.cmd && 256 ≤ s.ringDepth then .next s
        else .next ((s.setQueue qk (qu.take e)).takeEntry qk qu.head (qu.stamp qu.head) qu e).tallyFull

/-! ### COPY and FILL (R254, R404) -/

/-- The page count by which a COPY is divided: the object side's, the destination's when both are. -/
def copyChunks (a : CopyArgs) : List Chunk :=
  if a.dst = 0xFFFFFFFF then blockChunks a.srcOff.toNat a.len.toNat
  else if a.src = 0xFFFFFFFF then blockChunks a.dstOff.toNat a.len.toNat
  else pageChunks a.dstOff.toNat a.len.toNat

/-- A work for a command. -/
def mkWork (qk : Nat) (e : Entry) (c : Option Nat) (part : Option Nat) (k : WorkKind) (chunks : List Chunk)
    (now ctr : Nat) : Work :=
  ⟨some qk, e.sub, c, part, k, chunks, [], [], none, now, ctr, []⟩

/-- The destination object's key, for the incomplete flag of a record (R405). -/
def State.workDstKey (s : State) (w : Work) : Option Nat :=
  match s.workDst w with
  | .obj k _ => some k
  | _ => none

/-- Complete a transfer that has nothing in flight. -/
def State.settleTransfer (s : State) (id : Nat) : State :=
  match s.works.get id with
  | none => s
  | some w => if s.workBusy id then s else s.finishTransfer id w (s.workDstKey w)

/-- COPY: an outbound COPY counts under its wrap slot, and is refused with KEY at a count of 2^24
(R483). -/
def execCopy (q : QId) (a : CopyArgs) (s : State) : Host.Outcome State Fault Refusal :=
  s.whenCtx q (.copy a) (fun qk e c x s =>
    let out := a.dst == 0xFFFFFFFF
    let k := s.key a.wrap.toNat
    if out && 2 ^ 24 ≤ k.outCount then s.complete qk e.sub (Done.req .key)
    else
      let s := if out then s.setKey a.wrap.toNat { k with outCount := k.outCount + 1 } else s
      let (id, s) := s.startWork (mkWork qk e (some c) x.part (.copy a) (copyChunks a) s.ts k.outCount)
      s.settleTransfer id)

/-- FILL. -/
def execFill (q : QId) (a : FillArgs) (s : State) : Host.Outcome State Fault Refusal :=
  s.whenCtx q (.fill a) (fun qk e c x s =>
    let (id, s) := s.startWork (mkWork qk e (some c) x.part (.fill a) (pageChunks a.off.toNat a.len.toNat) s.ts 0)
    s.settleTransfer id)

/-! ### Fences -/

/-- WAIT (R416). -/
def execWait (q : QId) (a : WaitArgs) (s : State) : Host.Outcome State Fault Refusal :=
  s.whenCtx q (.wait a) (fun qk e c _ s =>
    match s.events.get a.event.toNat with
    | none => s.ctxFault c .handle (some (qk, e.sub))
    | some ev =>
      let d := (a.target - ev.value).toNat
      if 2 ^ 62 < d && d < 2 ^ 63 then s.complete qk e.sub (Done.req .malformed)
      else if satisfied ev.value a.target then s.complete qk e.sub (Done.req .ok)
      else if a.deadline != 0 && a.deadline.toNat < s.ts then s.complete qk e.sub (Done.req .timeout)
      else { s with waits := s.waits ++ [⟨qk, e.sub, a.event.toNat, a.target, a.deadline.toNat⟩] })

/-- SIGNAL (R415): the status of the fence's answer; a stale signal is counted. -/
def execSignal (q : QId) (a : SignalArgs) (s : State) : Host.Outcome State Fault Refusal :=
  s.whenCtx q (.signal a) (fun qk e _ x s =>
    match s.events.get a.event.toNat with
    | none => s.complete qk e.sub (Done.req .aborted)
    | some _ =>
      let (st, s) := s.applySignal a.event.toNat a.value
      let s := if st == .stale then s.bumpFn x.fn hqStale 1 else s
      s.complete qk e.sub (Done.req st))

/-- WAIT_DEADLINE: the event clock has passed the deadline of an outstanding WAIT, which completes
TIMEOUT with the deadline as its TS (R416).
Log entry 220, DESIGN CHOICE. -/
def execWaitDeadline (index : Nat) (s : State) : Host.Outcome State Fault Refusal :=
  match s.waits[index]? with
  | none => .next s
  | some w =>
    if w.deadline != 0 && w.deadline < s.ts then
      .next ({ s with waits := s.waits.eraseIdx index }.complete w.q w.sub
        ⟨.timeout, .request, 0, 0, 0, 0, some w.deadline⟩)
    else .next s

/-- EVENT_CREATE: a free event number (R395, R414). -/
def execEventCreate (q : QId) (a : EventArgs) (pick : Nat) (s : State) : Host.Outcome State Fault Refusal :=
  s.whenCtx q (.eventCreate a) (fun qk e c _ s =>
    match s.events.pickFree 65536 pick with
    | none => s.complete qk e.sub (Done.req .bounds)
    | some n =>
      { s with events := s.events.set n ⟨c, bitOf a.flags.toNat 0, a.initial, a.initial, a.cookie, a.vector, s.ts⟩ }.complete
        qk e.sub (Done.okay n 0))

/-- EVENT_DESTROY (R414). -/
def execEventDestroy (q : QId) (event : U32) (s : State) : Host.Outcome State Fault Refusal :=
  s.whenCtx q (.eventDestroy event) (fun qk e c _ s =>
    if s.eventUsable c event.toNat true then (s.destroyEvent event.toNat).complete qk e.sub (Done.okay 0 0)
    else s.ctxFault c .handle (some (qk, e.sub)))

/-- EVENT_QUERY (R404): the detail is the fence's value. -/
def execEventQuery (q : QId) (event : U32) (s : State) : Host.Outcome State Fault Refusal :=
  s.whenCtx q (.eventQuery event) (fun qk e c _ s =>
    match s.events.get event.toNat with
    | none => s.ctxFault c .handle (some (qk, e.sub))
    | some ev => s.complete qk e.sub (Done.okay 0 ev.shown.toNat))

/-- SEED_SET (R61): running RUNs keep the generators they were seeded with. -/
def execSeedSet (q : QId) (seed : U64) (s : State) : Host.Outcome State Fault Refusal :=
  s.whenCtx q (.seedSet seed) (fun qk e c x s =>
    (s.setCtx c { x with seed := seed }).complete qk e.sub (Done.okay 0 0))

/-! ### OBJECT_CREATE (R395, R396, R410, R602, R603) -/

/-- The generation of an index's next object: 0 at first, then one more modulo 4,096, past the value
that would spell the host-memory handle (R396). -/
def State.nextGen (s : State) (i : Nat) : Nat :=
  let g := match s.objGens.get i with
    | some g => (g + 1) % 4096
    | none => 0
  if i = 2 ^ 20 - 1 && g = 4095 then 0 else g

/-- What the catcher of a partition answers to the creation of a mirrored object: nothing, KEY or BOUNDS; a free
value, for its slots and room are the other device's (R497; log entry 23, DESIGN CHOICE). -/
def State.catcherAnswer (s : State) (part : Option Nat) (mirrored : Bool) : Option Status × State :=
  match part with
  | some p =>
    if mirrored && s.mirrors p then
      let (i, s) := s.fresh
      ((if (Config.freeWord i).toNat % 4 = 0 then some .key else if (Config.freeWord i).toNat % 4 = 1 then some .bounds else none), s)
    else (none, s)
  | none => (none, s)

/-- OBJECT_CREATE: HBM pages start ZERO, flash pages FILLING. On a caught partition a mirrored object
needs the catcher's agreement. -/
def execObjectCreate (q : QId) (a : ObjectArgs) (pick : List Nat) (s : State) : Host.Outcome State Fault Refusal :=
  s.whenCtx q (.objectCreate a) (fun qk e c x s =>
    match govern (s.objectFails x.part a) with
    | some st => s.ctxFault c st (some (qk, e.sub))
    | none =>
      let fl := a.flags.toNat
      let (ans, s) := s.catcherAnswer x.part (bitOf fl 0)
      let n := a.pages.toNat * (if bitOf fl 3 then 2 else 1)
      let room := match x.part, a.tier.toNat with
        | some p, 1 => s.hbmRoom p
        | some p, _ => if a.kind = 1 then s.operatorFlashRoom else s.flashRoom p
        | none, _ => s.operatorFlashRoom
      let i := s.objs.lowestFree (s.objs.length + 1) 0
      if a.tier != 1 && !s.shroud.railsOk then s.devFault .parity (some (qk, e.sub))
      else if ans.isSome then s.complete qk e.sub (Done.req (ans.getD .ok))
      else if room < n || 2 ^ 20 ≤ i then s.complete qk e.sub (Done.req .bounds)
      else
        let g := s.nextGen i
        let o : Obj := ⟨g, .object, some c, x.part, a.tier.toNat, a.kind.toNat, a.keySlot.toNat,
          bitOf fl 0, bitOf fl 1, bitOf fl 2, bitOf fl 3, none, [], false, [], 0, none, 0, none⟩
        match (if a.tier = 1 then s.newHbm i o n pick else s.newFlash i o n pick) with
        | none => s.complete qk e.sub (Done.req .bounds)
        | some s => { s with objGens := s.objGens.set i g }.complete qk e.sub (Done.okay (mkHandle i g).toNat 0))

end Sys2Proof.Machine
end

