-- ==== Sys2Proof/Machine/Images.lean ====
section
/-! DEFINITION. Image slots and SEAL (R177 to R186, R244, R245): LOAD_IMAGE, LOAD_IMAGE_DONE,
UNLOAD_IMAGE, SEAL, and the end of every privileged read. -/

namespace Sys2Proof.Machine

/-! ### Loading an image -/

/-- Check 2 of R177: bytes of a container, its header or all of it, lie within its object. -/
def State.containerFits (s : State) (key off len : Nat) : Bool :=
  match s.objs.get key with
  | none => false
  | some o => off + len ≤ o.bytes

/-- End a load that failed: the slot is EMPTY, and the status has the scope of R177. -/
def State.failLoad (s : State) (id : Nat) (w : Work) (p slot : Nat) (st : Status) (sc : Scope) : State :=
  let s := { s with works := s.works.erase id }.emptySlot p slot
  match w.q with
  | some qk => s.faultAt qk w.sub st sc
  | none => s

/-- A load begins to write its image's share into a tile's shadow bank, which holds no complete image meanwhile (R154, R183). -/
def Tile.beginLoad (t : Tile) (p slot : Nat) : Tile :=
  let t := { t with loading := t.loading ++ [(p, slot)] }
  if t.cur1 then { t with bank0 := none, patch0 := [] } else { t with bank1 := none, patch1 := [] }

/-- Tiles that failed self-test (R554). -/
def State.failedTiles (s : State) : List Nat :=
  (s.tiles.filter (fun (e : Nat × Tile) => e.2.failed)).map (fun (e : Nat × Tile) => e.1)

/-- A container whose body has been read and passes the checks: the writing of the banks begins (R177, R186). -/
def State.beginBanks (s : State) (w : Work) (p slot : Nat) : State :=
  let hdr := w.bytes.take 128
  let raw := w.bytes.drop 128
  if (loadFails s p hdr raw s.failedTiles).isSome || s.hbmRoom p < ceilDiv raw.length pageBytes then s
  else (readImage (plainBody (s.key (hdrKeySlot hdr)).key hdr raw)).tiles.foldl (fun s t => s.setTile t ((s.tile t).beginLoad p slot)) s

/-- Once a load has its header, the management DMA reads the body that the header gives the length of: check 2 for the whole container (R177,
R186). Once it has the body, the banks are written, which LOAD_IMAGE_DONE ends. -/
def State.readBody (s : State) (id : Nat) : State :=
  match s.works.get id with
  | none => s
  | some w =>
    match w.kind, w.part with
    | .loadImage a slot, some p =>
      if w.firstBad.isSome || s.workBusy id then s
      else if w.hostCtr = 1 then { s.beginBanks w p slot with works := s.works.set id { w with hostCtr := 2 } }
      else if w.hostCtr != 0 then s
      else
        let n := hdrBodyLen w.bytes
        if !s.containerFits (a.handle.toNat % 2 ^ 20) a.off.toNat (128 + n) then s.failLoad id w p slot .bounds .context
        else
          let h := w.chunks.length
          let body := (pageChunks (a.off.toNat + 128) n).map (fun c => { c with off := c.off + 128 })
          (List.range body.length).foldl (fun s i => s.startChunk id (h + i)) { s with works := s.works.set id { w with chunks := w.chunks ++ body, hostCtr := 1 } }
    | _, _ => s

/-- LOAD_IMAGE: check 1, the slot enters LOADING, and the management DMA reads the container's header
(R177, R180, R186). -/
def execLoadImage (q : QId) (a : LoadArgs) (s : State) : Host.Outcome State Fault Refusal :=
  s.whenCtx q (.loadImage a) (fun qk e c x s =>
    match x.part, s.ownObj c e.ts a.handle with
    | some p, some (key, _) =>
      if 64 ≤ a.slot.toNat || (s.imgSlot p a.slot.toNat).isSome then s.ctxFault c .handle (some (qk, e.sub))
      else if !s.containerFits key a.off.toNat 128 then s.ctxFault c .bounds (some (qk, e.sub))
      else
        let slot : ImgSlot := ⟨.loading, c, s.free, none, [], 0, 0, [], 0⟩
        let s := (s.fresh).2
        let s := s.setPart p { s.part p with slots := (s.part p).slots.set a.slot.toNat slot }
        let (id, s) := s.startWork (mkWork qk e (some c) x.part (.loadImage a a.slot.toNat) (pageChunks a.off.toNat 128) s.ts 0)
        s.readBody id
    | _, _ => s.ctxFault c .handle (some (qk, e.sub)))

/-- The work that loads an image into a slot. -/
def State.loadWork (s : State) (p slot : Nat) : Option (Nat × Work) :=
  s.works.find? (fun (e : Nat × Work) => e.2.part == some p && (match e.2.kind with
    | .loadImage _ n => n == slot
    | _ => false))

/-- Put an image into a tile's shadow bank (R183). -/
def Tile.loadShadow (t : Tile) (b : BankImg) : Tile :=
  if t.cur1 then { t with bank0 := some b, patch0 := [] } else { t with bank1 := some b, patch1 := [] }

/-- A load has written a tile's bank. -/
def Tile.endLoad (t : Tile) (p slot : Nat) : Tile := { t with loading := t.loading.filter (fun l => l != (p, slot)) }

/-- Keep the resident copy of a body (R179): a hidden page set of the partition under its key slot. -/
def State.keepBody (s : State) (p slot : Nat) (body : Bytes) : Option (Nat × State) :=
  let n := ceilDiv body.length pageBytes
  let key := s.hiddenKey
  let kb := match s.layout p with
    | some l => l.keyBase.toNat
    | none => 0
  if s.hbmRoom p < n then none
  else (s.newHbm key (hiddenObj (.image p slot) (some p) kb) n []).map (fun s => (key, s.objWrite key 0 body))

/-- LOAD_IMAGE_DONE: once the container has been read, checks 3 to 11, the resident copy, the shadow
banks, and LOADED (R177, R179, R183, R186). A container read that failed ends the request alone (R253). -/
def execLoadImageDone (p : Part) (slot : BitVec 6) (s : State) : Host.Outcome State Fault Refusal :=
  match s.loadWork p.val slot.toNat with
  | none => .next s
  | some (id, w) =>
    if s.workBusy id then .next s
    else
      match w.kind, w.firstBad with
      | .loadImage .., some st => .next (s.failLoad id w p.val slot.toNat st .request)
      | .loadImage .., none =>
        let hdr := w.bytes.take 128
        let raw := w.bytes.drop 128
        match loadFails s p.val hdr raw s.failedTiles with
        | some st => .next (s.failLoad id w p.val slot.toNat st .context)
        | none =>
          let body := plainBody (s.key (hdrKeySlot hdr)).key hdr raw
          match s.keepBody p.val slot.toNat body with
          | none => .next (s.failLoad id w p.val slot.toNat .bounds .request)
          | some (bk, s) =>
            let im := readImage body
            if im.tiles.any s.tileCut then .next s else
            (match s.imgSlot p.val slot.toNat with
             | none => .next s
             | some x =>
               let x := { x with st := .loaded, image := some im, digest := hdrDigest hdr, body := bk, loadTs := s.ts }
               let s := s.setPart p.val { s.part p.val with slots := (s.part p.val).slots.set slot.toNat x }
               let s := im.tiles.foldl (fun s t => s.setTile t (((s.tile t).loadShadow ⟨p.val, slot.toNat, x.load⟩).endLoad p.val slot.toNat)) s
               let s := { s with works := s.works.erase id }
               .next (match w.q with
                 | some qk => s.complete qk w.sub (Done.okay 0 0)
                 | none => s))
      | _, _ => .next s

/-- UNLOAD_IMAGE (R178, R180, R181): it waits for a load to end; a slot with RUNs queued before it enters
DRAINING and the unload completes at once.
Log entry 220, DESIGN CHOICE. -/
def execUnloadImage (q : QId) (slot : U8) (s : State) : Host.Outcome State Fault Refusal :=
  let loading := match s.queuePart (qKey q) with
    | some p => (match s.imgSlot p slot.toNat with
      | some x => x.st == SlotSt.loading
      | none => false)
    | none => false
  if loading then .next s
  else
    s.whenCtx q (.unloadImage slot) (fun qk e c x s =>
      match x.part with
      | none => s.ctxFault c .handle (some (qk, e.sub))
      | some p =>
        match s.imgSlot p slot.toNat with
        | some y =>
          if y.owner != c || y.st != SlotSt.loaded then s.ctxFault c .handle (some (qk, e.sub))
          else if s.slotRunBefore c s.ts slot.toNat then
            let y := { y with st := .draining, unloadTs := s.ts }
            (s.setPart p { s.part p with slots := (s.part p).slots.set slot.toNat y }).complete qk e.sub (Done.okay 0 0)
          else (s.emptySlot p slot.toNat).complete qk e.sub (Done.okay 0 0)
        | none => s.ctxFault c .handle (some (qk, e.sub)))

/-! ### SEAL (R244, R245) -/

/-- Whether a MODEL object's header is well formed (R245). -/
def modelHeaderOk (b : Bytes) : Bool :=
  fieldLE b 0 4 == 0x314C444D && fieldLE b 4 2 == 0x0100 && 1 ≤ fieldLE b 6 2 && fieldLE b 6 2 ≤ 1024 && reservedZero b 8 56

/-- Whether the layer table's entries hold format codes of R29 and sparsity codes of R80, and zero reserved fields (R11, R29, R245). -/
def modelTableOk (b : Bytes) : Bool :=
  (List.range (fieldLE b 6 2)).all (fun i =>
    let o := 0x40 + 16 * i
    (Fmt.ofCode (fieldLE b o 1)).isSome && fieldLE b (o + 1) 1 ≤ 3 && reservedZero b (o + 2) 2 && reservedZero b (o + 12) 4)

/-- The page entry of a sealed page: SEALED, wp set, and shared for a MODEL object (R244). -/
def Pte.sealPage (p : Pte) (shared : Bool) : Pte := ((p.setSt .sealedPg).withBit 12 true).withBit 5 shared

/-- Seal an object whose pages have all verified, with the digest of the bytes read. -/
def State.sealObj (s : State) (key : Nat) (b : Bytes) : State :=
  match s.objs.get key with
  | none => s
  | some o => s.setObj key { o with pages := o.pages.map (fun p => p.sealPage (o.kind == 1)), isSealed := true, digest := sha384 b }

/-- What a privileged request's failed parts answer (R253, R254): PARTIAL with the part bitmap, or the
first failure. -/
def Work.privDone (w : Work) : Done :=
  let st := w.status
  ⟨st, .request, 0, if st == .partialDone then bitmapOf w.failed else 0, if st == .partialDone then 1 else 0, 0, none⟩

/-- A request that ends PARTIAL is counted (R254, R259). -/
def State.countPartial (s : State) (w : Work) : State := s.bumpPart? w.part cTierPartial (b2n (w.status == .partialDone))

/-- End a SEAL whose reads have all come back. Whether a catcher's digest agrees is a free value (R498; log entry 23, DESIGN CHOICE).
Log entry 177, DEDUCED. -/
def State.finishSeal (s : State) (id : Nat) (w : Work) (key : Nat) : State :=
  let s := { s with works := s.works.erase id }
  match w.q, s.objs.get key with
  | some qk, some o =>
    let (i, s) := s.fresh
    let differ := (match w.part with
      | some p => s.mirrors p && (Config.freeWord i).toNat % 2 == 0
      | none => false)
    if !w.failed.isEmpty then (s.countPartial w).complete qk w.sub w.privDone
    else if differ then s.complete qk w.sub (Done.req .digestMismatch)
    else if o.kind == 1 && !(modelHeaderOk w.bytes && modelTableOk w.bytes) then s.faultAt qk w.sub .malformed .context
    else (s.sealObj key w.bytes).complete qk w.sub (Done.okay 0 0)
  | _, _ => s

/-- SEAL. -/
def execSeal (q : QId) (handle : U32) (s : State) : Host.Outcome State Fault Refusal :=
  s.whenCtx q (.seal handle) (fun qk e c x s =>
    match s.ownObj c e.ts handle with
    | none => s.ctxFault c .handle (some (qk, e.sub))
    | some (key, o) =>
      if o.tier = 1 then s.ctxFault c .bounds (some (qk, e.sub))
      else if o.isSealed then s.complete qk e.sub (Done.okay 0 0)
      else if o.pages.any (fun p => p.st != .written) then s.complete qk e.sub (Done.req .bounds)
      else
        let (id, s) := s.startWork (mkWork qk e (some c) x.part (.sealing key) (pageChunks 0 o.bytes) s.ts 0)
        (match s.workBusy id, s.works.get id with
         | false, some w => s.finishSeal id w key
         | _, _ => s))

/-! ### RUN (R184, R185, R403) -/

/-- RUN: the queue engine checks its arguments and hands it over; RUN_START starts it on its tiles. `pick`
is its number among RUNs. -/
def execRun (q : QId) (a : RunArgs) (pick : Nat) (s : State) : Host.Outcome State Fault Refusal :=
  s.whenCtx q (.run a) (fun qk e c x s =>
    match x.part with
    | none => s.ctxFault c .handle (some (qk, e.sub))
    | some p =>
      match govern (s.runFails c e.ts p a) with
      | some st => s.ctxFault c st (some (qk, e.sub))
      | none =>
        let r := s.runs.pickAny pick
        let load := match s.imgSlot p a.imageSlot.toNat with
          | some y => y.load
          | none => 0
        let run : Run := ⟨qk, e.sub, c, p, a.imageSlot.toNat, load, a.strict, a.stream.toNat, a.slots, .queued, none, [],
          x.seed, 0, s.ts, s.ts, [], [], [], [], [], 0, [], [], none, none, 0, 0, [], []⟩
        { s with runs := s.runs.set r run }.wakeAll (s.cmdDomains c (.run a)))

end Sys2Proof.Machine
end

