-- ==== Sys2Proof/Machine/Lanes.lean ====
section
/-! DEFINITION. Streams during a RUN (R135, R136, R142 to R146): where a tile stands in an image, how beats
pass from a producer's port to a consumer's receive buffer, and the tickets they carry. -/

namespace Sys2Proof.Machine

/-! ### A tile's place in its RUN -/

/-- Where a tile stands: its RUN, image, index in the tile list, stage number and stage index. -/
structure Site where
  rid : Nat
  run : Run
  im : Image
  ti : Nat
  st : Nat
  k : Nat

/-- The stage that holds tile-list index `i`, from stage `n` on. -/
def stageOf : (n : Nat) → List Stage → Nat → Option (Nat × Nat)
  | _, [], _ => none
  | n, st :: r, i => if st.firstTile ≤ i && i < st.firstTile + st.tileCount then some (n, i - st.firstTile) else stageOf (n + 1) r i

def State.runImage (s : State) (r : Run) : Option Image :=
  match s.imgSlot r.part r.slot with
  | some x => x.image
  | none => none

/-- A program with the words a debug access wrote over it. -/
def patchProg (prog : List Nat) (patch : Tbl Nat) : List Nat := patch.foldl (fun (p : List Nat) (e : Nat × Nat) => lset p e.1 e.2) prog

/-- A program bank of a stage's tiles: the stage's program, the constant pool, and the stage's ticket table if it names one (R166), in that order.
Log entry 204, DESIGN CHOICE. -/
def Image.bank (im : Image) (st : Nat) : List Nat :=
  im.progs.getD st [] ++ im.consts ++ (match im.tableOf (im.stageAt st) with
    | some b => readWords b
    | none => [])

/-- An image as a tile sees it whose bank a debug access has written over.
Log entry 204, DESIGN CHOICE. -/
def Image.patch (im : Image) (st : Nat) (patch : Tbl Nat) : Image :=
  if patch.isEmpty then im
  else
    let b := patchProg (im.bank st) patch
    let n := (im.progs.getD st []).length
    let c := im.consts.length
    let k := (im.stageAt st).ticketTable
    { im with progs := lset im.progs st (b.take n), consts := (b.drop n).take c,
              tables := match im.tables[k]? with
                | some t => lset im.tables k (t.1, (b.drop (n + c)).flatMap (leBytes 8))
                | none => im.tables }

def State.site (s : State) (t : Nat) : Option Site :=
  match (s.tile t).run with
  | none => none
  | some rid =>
    match s.runs.get rid with
    | none => none
    | some r =>
      match s.runImage r with
      | none => none
      | some im =>
        match im.tiles.findIdx? (fun x => x == t) with
        | none => none
        | some ti => (stageOf 0 im.stages ti).map (fun p => ⟨rid, r, im.patch p.1 (if (s.tile t).cur1 then (s.tile t).patch1 else (s.tile t).patch0), ti, p.1, p.2⟩)

/-- The program word at a tile's position. -/
def Site.word (x : Site) (pos : Nat) : Option Nat := (x.im.progs.getD x.st [])[pos]?

/-- An instruction of the RUN has issued (R148). -/
def State.moved (s : State) (rid : Nat) : State :=
  match s.runs.get rid with
  | some r => s.setRun rid { r with lastMove := s.ts }
  | none => s

/-- Move a tile past `n` words. -/
def State.advance (s : State) (t n : Nat) : State :=
  let tl := s.tile t
  let s := s.setTile t { tl with pos := tl.pos + n }
  match tl.run with
  | some rid => s.moved rid
  | none => s

/-- End the RUN's context with a fault; the RUN is its victim (R5). -/
def State.runFault (s : State) (x : Site) (st : Status) : State := s.ctxFault x.run.ctx st (some (x.run.q, x.run.sub))
def State.runParity (s : State) (x : Site) : State := s.runFault x .parity
/-- The same at the scope that a page gives: a page table entry whose rails disagree ends the partition's contexts (R237). -/
def State.runStop (s : State) (x : Site) (e : Status × Scope) : State :=
  if e.2 == .partition then s.partFault x.run.part e.1 (some (x.run.q, x.run.sub)) else s.runFault x e.1

/-! ### Streams of a site -/

def Site.stageTiles (x : Site) (n : Nat) : Nat := (x.im.stageAt n).tileCount

/-- The stream that leaves the tile by a port, with its number. -/
def Site.outStream (x : Site) (port : Nat) : Option (Nat × StreamD) :=
  match x.im.streams.findIdx? (fun t => t.producer == x.st && t.outPort == port) with
  | some i => (x.im.streams[i]?).map (fun t => (i, t))
  | none => none

/-- The stream that enters the tile by a port, with its number. -/
def Site.inStream (x : Site) (port : Nat) : Option (Nat × StreamD) :=
  match x.im.streams.findIdx? (fun t => t.consumer == x.st && t.inPort == port) with
  | some i => (x.im.streams[i]?).map (fun t => (i, t))
  | none => none

def laneKey (si route : Nat) : Nat := 64 * si + route
def Run.lane (r : Run) (key : Nat) : Lane := r.lanes.getD key Lane.empty
def Run.setLane (r : Run) (key : Nat) (l : Lane) : Run := { r with lanes := r.lanes.set key l }

/-- The lanes that a producer's sends on one of its streams may take (R135). -/
def Site.outLanes (x : Site) (si : Nat) (d : StreamD) : List Nat :=
  let np := x.stageTiles d.producer
  let nc := x.stageTiles d.consumer
  (if d.mode = 2 || d.mode = 3 || (d.mode = 1 && np = 1) then List.range (max np nc) else [x.k]).map (laneKey si)

/-- Beats that a port has been given and that have not left, its newest beat aside (R144; log entry 26, DESIGN CHOICE). -/
def Site.portHeld (x : Site) (r : Run) (port : Nat) : Bool :=
  match x.outStream port with
  | some (si, d) => (x.outLanes si d).any (fun l => 1 < (r.lane l).out.length)
  | none => false

/-- The issue slot is free once the beats of every earlier instruction have left: an instruction that sends holds it, and waits there for credits
(R114, R144). Rows that a drain sends do not hold it (R128). -/
def Site.slotFree (x : Site) (tl : Tile) : Bool := tl.sent.all (fun p => !x.portHeld x.run p)

/-- Whether `[a, a + n)` overlaps a region. -/
def overlaps (a n b m : Nat) : Bool := n != 0 && m != 0 && a < b + m && b < a + n

def Site.residual (x : Site) : Nat × Nat := let st := x.im.stageAt x.st; (st.resOff, st.resLen)

/-- Whether LD, ST or the matrix unit may reach a range: all of it in tile memory, none of it in the stage's residual region (R123, R129). -/
def Site.memOk (x : Site) (a n : Nat) : Bool := a + n ≤ tileMemBytes && !overlaps a n x.residual.1 x.residual.2

/-- Run an instruction when its word stands at the tile's position and the tile is free to issue (R114). -/
def State.whenWord (s : State) (t w : Nat) (f : Site → Tile → State → State) : Host.Outcome State Fault Refusal :=
  match s.site t with
  | none => .next s
  | some x =>
    let tl := s.tile t
    if x.run.st == .running && !tl.ended && tl.wait.isNone && x.slotFree tl && x.word tl.pos == some w then .next (f x tl s)
    else .next s

/-- The bytes of a row that one producer sends, and that one route carries (R135). -/
def producerRow (t : StreamD) (np : Nat) : Nat := if t.mode = 4 then t.rowBytes / np else t.rowBytes
def laneRow (t : StreamD) (np nc : Nat) : Nat :=
  if t.mode = 4 then t.rowBytes / np else if t.mode = 3 then t.rowBytes / nc else t.rowBytes

/-- The routes that a producer's row `r`, byte `off`, takes (R135). -/
def routesOf (t : StreamD) (np nc k r off : Nat) : List Nat :=
  match t.mode with
  | 1 => if np = 1 then [r % nc] else [k]
  | 2 => List.range nc
  | 3 => [off / (t.rowBytes / nc)]
  | _ => [k]

/-- A row of unstated length is one send.
Log entry 219, DESIGN CHOICE. -/
def rowOr (n whole : Nat) : Nat := if n = 0 then whole else n

/-- Dress one beat with its row marks and ticket fields; a stream that is not block-scaled carries no scale (R142). -/
def dressBeat (b : Beat) (t : StreamD) (lrow loff tkt gate : Nat) : List Beat :=
  let pad := t.ticketed && lrow == 64
  let hi := tkt / 2 ^ 48 + gate * 2 ^ 16
  let b1 := { b with
    scale := if t.blockScaled then b.scale else 0, resid := t.residual, rstart := loff == 0, rend := loff + 64 == lrow && !pad,
    tkt := if !t.ticketed then 0 else if loff = 0 then BitVec.ofNat 48 tkt else if loff = 64 then BitVec.ofNat 48 hi else 0 }
  if pad then [b1, ⟨zeros 64, 0, 0, false, t.residual, true, false, BitVec.ofNat 48 hi, b.grp⟩] else [b1]

/-- Put a producer's beats on its stream's lanes, from its position in the stream. `tk` gives the ticket
and gate word of its row `r`.
Log entry 26, DESIGN CHOICE. -/
def Run.send (r : Run) (si : Nat) (t : StreamD) (np nc k : Nat) (tk : Nat → Nat × Nat) (bs : List Beat) : Run :=
  let pk := laneKey si k
  let whole := 64 * bs.length
  let R := rowOr (producerRow t np) whole
  bs.foldl (fun r b =>
    let pos := r.outPos.getD pk 0
    let row := pos / R
    let off := pos % R
    let L := rowOr (laneRow t np nc) whole
    let tkt := tk row
    let dressed := dressBeat b t L (off % L) tkt.1 tkt.2
    let r := (routesOf t np nc k row off).foldl (fun r j =>
      let key := laneKey si j
      let l := r.lane key
      r.setLane key { l with out := l.out ++ dressed }) r
    { r with outPos := r.outPos.set pk (pos + 64) }) r

/-- The route that holds byte `pos` of what a consumer reads (R135, R136). -/
def inRoute (t : StreamD) (np k pos : Nat) : Nat :=
  match t.mode with
  | 4 => pos % rowOr t.rowBytes 64 / rowOr (t.rowBytes / np) 64
  | 5 => pos / rowOr t.rowBytes 64 % np
  | _ => k

/-- A beat as read: the beat, whether it begins a ticket, and whether it completes one. -/
structure ReadBeat where
  b : Beat
  pad : Bool
  starts : Bool
  ends : Bool

/-- Read data beats from a consumer's receive buffers: none when one is missing (R144). -/
def Run.receive (r : Run) (si : Nat) (t : StreamD) (np nc k : Nat) : (n : Nat) → Option (List ReadBeat × Run)
  | 0 => some ([], r)
  | n + 1 =>
    let pk := laneKey si k
    let pos := r.inPos.getD pk 0
    let key := laneKey si (inRoute t np k pos)
    let l := r.lane key
    let L := rowOr (laneRow t np nc) 64
    let whole := if t.mode = 3 then t.rowBytes / nc else t.rowBytes
    let lead := pos % rowOr whole 64
    let pad := t.ticketed && L == 64
    match l.buf with
    | [] => none
    | b :: rest =>
      match pad, rest with
      | true, [] => none
      | true, p :: rest =>
        let r := { r.setLane key { l with buf := rest, owed := l.owed + 2 } with inPos := r.inPos.set pk (pos + 64) }
        (Run.receive r si t np nc k n).map (fun (bs, r) => (⟨b, false, lead == 0, false⟩ :: ⟨p, true, false, lead == 0⟩ :: bs, r))
      | false, rest =>
        let r := { r.setLane key { l with buf := rest, owed := l.owed + 1 } with inPos := r.inPos.set pk (pos + 64) }
        (Run.receive r si t np nc k n).map (fun (bs, r) => (⟨b, false, lead == 0, lead == 64⟩ :: bs, r))

/-- Keep the tickets of the beats read on a port (R187, R191). -/
def TktUnit.take (u : TktUnit) (port : Nat) (ticketed : Bool) (bs : List ReadBeat) : TktUnit :=
  if !ticketed then u
  else bs.foldl (fun u b =>
    let u := if b.starts then { u with low := u.low.set port b.b.tkt.toNat } else u
    if b.ends then
      let f := b.b.tkt.toNat
      { u with recv := u.recv.set port (u.recv.getD port [] ++ [(u.low.getD port 0 + f % 2 ^ 16 * 2 ^ 48, f / 2 ^ 16)]) }
    else u) u

/-- Drop the padding beats of one-beat rows, keeping the mark of a stream's last beat. -/
def dropPads : List (Beat × Bool) → List Beat
  | [] => []
  | (b, _) :: (p, true) :: r => { b with last := b.last || p.last } :: dropPads r
  | (b, _) :: r => b :: dropPads r

/-- What an UPDATE_FEED stage reads of ticketed rows: a row whose ticket has train 0 or probe 1 contributes zeros (R205). `low` is bits [47:0] of the
ticket of the row at hand. -/
def feedBeats : (low : Nat) → List ReadBeat → List ReadBeat
  | _, [] => []
  | low, b :: r =>
    let k := if b.starts then b.b.tkt.toNat else low
    (if bitOf k 41 && !bitOf k 42 then b else { b with b := { b.b with data := zeros 64 } }) :: feedBeats k r

/-- Read `n` data beats on an in port of a tile: none when the port has no stream or too few beats.
Log entry 219, DESIGN CHOICE. -/
def State.readPort (s : State) (t port n : Nat) (x : Site) : Option (List Beat × State) :=
  match x.inStream port, s.runs.get x.rid with
  | some (si, d), some r =>
    (match r.receive si d (x.stageTiles d.producer) (x.stageTiles d.consumer) x.k n with
     | some (bs, r) =>
       let tl := s.tile t
       let bs := if d.ticketed && (x.im.stageAt x.st).kind == 8 then feedBeats (tl.tkt.low.getD port 0) bs else bs
       let s := s.setTile t { tl with tkt := tl.tkt.take port d.ticketed bs }
       some (dropPads (bs.map (fun b => (b.b, b.pad))), s.setRun x.rid { r with lastMove := s.ts })
     | none => none)
  | _, _ => none

/-- The ticket of row `row` sent on a port: one TATT attached, else that of the same row received on the
source port; the `next` row sent has the fields TROUTE set (R191). None while it has not arrived. -/
def TktUnit.ticketFor (u : TktUnit) (port row : Nat) (next : Bool) : Option (Nat × Nat) :=
  match (u.attach.getD port [])[row]? with
  | some k => some k
  | none => ((u.recv.getD u.source [])[row]?).map (fun x => match next, u.route.get port with
    | true, some v => (x.1 / 2 ^ 24 * 2 ^ 24 + v % 2 ^ 24, v / 2 ^ 32 % 2 ^ 32)
    | _, _ => x)

/-- Send beats on an out port. None while the port still holds beats of an earlier send, or a ticket it
needs has not arrived, or no stream leaves by it. The ticket of a row is fixed when the row starts. -/
def State.sendPort (s : State) (t port : Nat) (x : Site) (bs : List Beat) : Option State :=
  match x.outStream port, s.runs.get x.rid with
  | some (si, d), some r =>
    let np := x.stageTiles d.producer
    let nc := x.stageTiles d.consumer
    if x.portHeld r port then none
    else
      let pos := r.outPos.getD (laneKey si x.k) 0
      let R := rowOr (producerRow d np) (64 * bs.length)
      let tl := s.tile t
      let u := tl.tkt
      let first := pos / R
      let count := (pos % R + 64 * bs.length + R - 1) / R
      let cur (row : Nat) : Option (Nat × Nat) :=
        if row = first && pos % R != 0 then u.cur.get port else u.ticketFor port row (row * R < pos + R)
      if d.ticketed && (List.range count).any (fun i => (cur (first + i)).isNone) then none
      else
        let r := r.send si d np nc x.k (fun row => (cur row).getD (0, 0)) bs
        let lastRow := (cur (first + count - 1)).getD (0, 0)
        let fresh := pos % R == 0 || 1 < count
        let u := { u with cur := u.cur.set port lastRow, route := if fresh then u.route.erase port else u.route }
        some ((s.setTile t { tl with tkt := u, sent := insertNat port tl.sent, vxPort := none }).setRun x.rid { r with lastMove := s.ts })
  | _, _ => none

/-- The 64 data bytes of beat `i` of some data.
Log entry 193, DESIGN CHOICE. -/
def beatBytes (data : Bytes) (i : Nat) : Bytes :=
  let c := (data.drop (64 * i)).take 64
  c ++ (List.range (64 - c.length)).map (fun j => Config.beatFill data (64 * i + c.length + j))

/-- Cut bytes into beats with scales and mask bits on the first beats of a transfer (R142). -/
def mkBeats (data : Bytes) (scales : List U8) (mask : Nat) (maskBeats : Nat) : List Beat :=
  (List.range (ceilDiv data.length 64)).map (fun i =>
    ⟨beatBytes data i, BitVec.ofNat 64 (if i < 2 then leNat (padTo 8 ((scales.drop (8 * i)).take 8)) else 0),
     BitVec.ofNat 8 (if i < maskBeats then bitsOf mask (8 * i) 8 else 0), false, false, false, false, 0, none⟩)

/-- Links of a port's stream, for transfer time (R114). -/
def Site.inLinks (x : Site) (port : Nat) : Nat := match x.inStream port with
  | some (_, d) => d.width
  | none => 1
def Site.outLinks (x : Site) (port : Nat) : Nat := match x.outStream port with
  | some (_, d) => d.width
  | none => 1

/-! ### Beats and credits -/

/-- Tile control block offsets (R106, R130, R155, R208). -/
def cMxuBusy : Nat := 0x100
def cMxuDrainStall : Nat := 0x108
def cMxuFeedStall : Nat := 0x110
def cMxuAbsent : Nat := 0x118
def cVxuBusy : Nat := 0x120
def cVxuStall : Nat := 0x128
def cVxuZ : Nat := 0x130
def cInBeats : Nat := 0x140
def cOutBeats : Nat := 0x148
def cCreditStall : Nat := 0x150
def cMemStall : Nat := 0x158
def cTktWindows : Nat := 0x180
def cTktGroups : Nat := 0x188
def cTktSkipped : Nat := 0x190
def cTktAdptWait : Nat := 0x198
def cTktStore : Nat := 0x1A0
def cTktVoid : Nat := 0x1A8

/-- A route of a stream. -/
def Image.laneRoute (im : Image) (si route : Nat) : Option RouteD := (im.streams[si]?).bind (fun d => (im.streamRoutes d)[route]?)

/-- The physical tiles at the ends of a route of a stream. -/
def Image.laneTiles (im : Image) (si route : Nat) : Option (Nat × Nat) :=
  (im.laneRoute si route).map (fun r => (im.tileAt r.src, im.tileAt r.dst))

/-! ### The links that streams share (R138, R146) -/

/-- The link by which the beat after `n` others leaves on a route: its links take the beats in turn (R146). -/
def RouteD.linkAt (r : RouteD) (n : Nat) : Nat :=
  let ls := (List.range 4).filter (fun i => bitOf r.links i)
  nth0 ls (n % max 1 ls.length)

/-- A lane has a beat that may leave: its newest one waits until another follows or its program has ended (R142). -/
def Lane.hasBeat (l : Lane) (ended : Bool) : Bool := !l.out.isEmpty && (ended || 1 < l.out.length)

/-- Whether a route carries copies of a BCAST stream's rows, which are sent once (R135, R140). -/
def isCopy (d : StreamD) (route : Nat) : Bool := d.mode == 2 && route != 0

/-- A stream has a beat and a credit for a link that leaves a tile (R146). -/
def State.streamReady (s : State) (run : Run) (im : Image) (tile link si : Nat) : Bool :=
  match im.streams[si]? with
  | none => false
  | some d => ((im.streamRoutes d).zipIdx).any (fun e =>
      let l := run.lane (laneKey si e.2)
      im.tileAt e.1.src == tile && !isCopy d e.2 && e.1.linkAt l.count == link && l.hasBeat (s.tile tile).ended && l.credits != 0)

/-- The key of a link's turn. -/
def turnKey (tile link : Nat) : Nat := 4 * tile + link

/-- The stream whose turn it is on a link that leaves a tile: the next one that is ready after the stream served last, in stream order (R146).
Log entry 190, DESIGN CHOICE. -/
def State.linkTurn (s : State) (run : Run) (im : Image) (tile link : Nat) : Option Nat :=
  let ready := (List.range im.streams.length).filter (s.streamReady run im tile link)
  match run.turns.get (turnKey tile link) with
  | none => ready.head?
  | some n => match ready.find? (fun i => n < i) with
    | some i => some i
    | none => ready.head?

/-- Whether a route joins the dies while the bridge's crossing is closed (R25).
Log entry 152, DEDUCED. -/
def State.bridgeShut (s : State) (src dst : Nat) : Bool := s.dev.closedBridge && tileDie src != tileDie dst

/-- A beat of a tile's bridge port crosses on the lane of its tile's place on the die. A key serves 2^40 frames of four beats, and is then replaced (R293).
Log entry 184, DESIGN CHOICE. -/
def State.crossBridge (s : State) (src dst : Nat) : State :=
  if tileDie src = tileDie dst then s
  else
    let n := 2 * (src % 80) + tileDie src
    match s.dev.bridge.get n with
    | none => s
    | some l =>
      let (l, s) := if l.beats + 1 = 2 ^ 42 then (let (i, s) := s.fresh; ((⟨Config.trng i, l.epoch + 1, 0⟩ : BridgeLane), s)) else ({ l with beats := l.beats + 1 }, s)
      { s with dev := { s.dev with bridge := s.dev.bridge.set n l } }

/-- Whether the last beat of a lane whose producer has ended is the last beat of the RUN's stream (R142): on a stream that cuts or deals out one
producer's rows, the lane that holds the producer's last bytes; on a GATHER, the last producer's; on a COLLECT, the lane of the greatest row, once the
other producers have ended; on streams of pairs of tiles, each pair's.
Log entry 26, DESIGN CHOICE. -/
def State.lastLane (s : State) (run : Run) (im : Image) (si route : Nat) : Bool :=
  match im.streams[si]? with
  | none => true
  | some d =>
    let np := (im.stageAt d.producer).tileCount
    let nc := (im.stageAt d.consumer).tileCount
    let pos (k : Nat) : Nat := run.outPos.getD (laneKey si k) 0
    let row (k : Nat) : Nat := (pos k - 64) / rowOr (producerRow d np) 64
    match d.mode with
    | 1 | 3 => np != 1 || (routesOf d np nc 0 (row 0) ((pos 0 - 64) % rowOr (producerRow d np) 64)).contains route
    | 4 => route + 1 == np
    | 5 => (List.range np).all (fun k => k == route || ((s.tile (im.tileAt ((im.stageAt d.producer).firstTile + k))).ended &&
        (pos k == 0 || row k * np + k < row route * np + route)))
    | _ => true

/-- BEAT_SEND: a BCAST stream's copies count as one beat. A beat leaves for the mesh when its stream holds a credit; without one the cycle is a
credit stall (R144). The newest beat of a port waits until another follows or its program has ended, so
that the last beat of the stream carries its mark (R142; log entry 26, DESIGN CHOICE). Where other streams share the link, it waits for its turn (R146).
Log entry 190, DESIGN CHOICE. -/
def execBeatSend (r strm route : Nat) (s : State) : Host.Outcome State Fault Refusal :=
  match s.runs.get r with
  | none => .next s
  | some run =>
    match s.runImage run with
    | none => .next s
    | some im =>
      match im.streams[strm]?, im.laneRoute strm route with
      | some d, some rt =>
        let src := im.tileAt rt.src
        let key := laneKey strm route
        let l := run.lane key
        let done := (s.tile src).ended
        let link := rt.linkAt l.count
        (match l.out with
         | [] => .next s
         | b :: rest =>
           if rest.isEmpty && !done || s.bridgeShut src (im.tileAt rt.dst) then .next s
           else if l.credits = 0 then
             let vx := !rest.isEmpty && (s.tile src).vxPort == some d.outPort
             .next ((s.bumpTile src cCreditStall 1).bumpTile src cVxuStall (b2n vx))
           else if !isCopy d route && s.linkTurn run im src link != some strm then .next s
           else
             let b := { b with last := rest.isEmpty && done && s.lastLane run im strm route }
             let run := { run.setLane key { l with credits := l.credits - 1, out := rest, flight := l.flight ++ [b], count := l.count + 1 } with
               lastMove := s.ts, turns := if isCopy d route then run.turns else run.turns.set (turnKey src link) strm }
             .next ((if isCopy d route then s.setRun r run else (s.setRun r run).crossBridge src (im.tileAt rt.dst)).bumpTile src cOutBeats (b2n (!isCopy d route))))
      | _, _ => .next s

/-! ### The end of a tile's part (R153) -/

/-- Whether a tile's part of a RUN is over: its program has ended, every beat it sent stands in its consumer's buffer, and every write it issued has
completed. -/
def State.partOver (s : State) (r : Run) (im : Image) (t : Nat) : Bool :=
  (s.tile t).ended &&
    (im.streams.zipIdx).all (fun e => ((im.streamRoutes e.1).zipIdx).all (fun rt =>
      im.tileAt rt.1.src != t || ((r.lane (laneKey e.2 rt.2)).out.isEmpty && (r.lane (laneKey e.2 rt.2)).flight.isEmpty))) &&
    !s.accs.any (fun (e : Nat × Access) => ownerIsTile [t] e.2.owner)

/-- Stop a tile's RUN_CYCLES once its part is over (R153, R155). -/
def State.tileDone (s : State) (rid t : Nat) : State :=
  match s.runs.get rid with
  | none => s
  | some r =>
    match s.runImage r with
    | none => s
    | some im => if s.partOver r im t then s.fixCycles r t else s

/-- BEAT_ARRIVE: the oldest beat in flight reaches its receive buffer. A parity error is retried once, and
a second one ends the context (R105, R149). So is a bridge frame whose tag fails, and a second failure is a device fault (R293, R294). A consumer
that has ended takes the beat and discards it (R153).
Log entry 184, DESIGN CHOICE. -/
def execBeatArrive (r strm route : Nat) (first again : Crossing) (s : State) : Host.Outcome State Fault Refusal :=
  match s.runs.get r with
  | none => .next s
  | some run =>
    match (s.runImage run).bind (fun im => im.laneTiles strm route) with
    | none => .next s
    | some (src, dst) =>
      let key := laneKey strm route
      let l := run.lane key
      (match l.flight with
       | [] => .next s
       | b :: rest =>
         if s.bridgeShut src dst then .next s
         else if tileDie src != tileDie dst && first.tag && again.tag then .next (s.devFault .integrity (some (run.q, run.sub)))
         else if first.parity && again.parity then .next (s.ctxFault run.ctx .parity (some (run.q, run.sub)))
         else
           let l := if (s.tile dst).ended then { l with flight := rest, credits := l.credits + 1 }
             else { l with flight := rest, buf := l.buf ++ [b] }
           .next (((s.setRun r { run.setLane key l with lastMove := s.ts }).bumpTile dst cInBeats 1).tileDone r src))

/-- CREDIT_RETURN: the consumer returns the credit of a beat its program has read (R144). -/
def execCreditReturn (r strm route : Nat) (s : State) : Host.Outcome State Fault Refusal :=
  match s.runs.get r with
  | none => .next s
  | some run =>
    let key := laneKey strm route
    let l := run.lane key
    if l.owed = 0 then .next s
    else .next (s.setRun r (run.setLane key { l with owed := l.owed - 1, credits := l.credits + 1 }))

/-- A consumer that has ended returns a credit for every beat at once and drops what it holds (R153). -/
def Run.closeInputs (r : Run) (im : Image) (st k : Nat) : Run :=
  (im.streams.zipIdx).foldl (fun r e =>
    if e.1.consumer = st then
      (List.range e.1.routeCount).foldl (fun r j =>
        if (routeEnds e.1.mode (im.stageAt e.1.producer).tileCount j).2 = k then
          let key := laneKey e.2 j
          let l := r.lane key
          r.setLane key { l with buf := [], owed := 0, credits := l.credits + l.owed + l.buf.length }
        else r) r
    else r) r

end Sys2Proof.Machine
end

