-- ==== Sys2Proof/Machine/Operands.lean ====
section
/-! DEFINITION. Operand forms of the vector unit (R107 to R111, R115): registers as elements, the second
operand, active elements, and stochastic draws by lane (R60). -/

namespace Sys2Proof.Machine

/-! ### Vector registers as elements (R108) -/

def zeroLanes : List U32 := List.replicate 256 0
def Tile.vreg (t : Tile) (n : Nat) : List U32 := t.v.getD n zeroLanes
def Tile.setVreg (t : Tile) (n : Nat) (l : List U32) : Tile := { t with v := t.v.set n l }
def Tile.guard (t : Tile) (n : Nat) : BitVec 512 := t.g.getD n 0
def Tile.setGuard (t : Tile) (n : Nat) (b : BitVec 512) : Tile := { t with g := t.g.set n b }
def Tile.sreg (t : Tile) (n : Nat) : U64 := t.x.getD n 0
def Tile.setSreg (t : Tile) (n : Nat) (v : U64) : Tile := { t with x := t.x.set n v }

/-- Elements of a register in a format: 512 in a 16-bit format, 256 otherwise. -/
def elemCount (width : Nat) : Nat := if width = 16 then 512 else 256

/-- A register, or register pair, as element codes. -/
def Tile.elems (t : Tile) (width n : Nat) : List Nat :=
  let a := t.vreg n
  if width = 16 then a.map (fun x => x.toNat % 65536) ++ a.map (fun x => x.toNat / 65536)
  else if width = 64 then (a.zip (t.vreg (n + 1))).map (fun x => x.1.toNat + x.2.toNat * 2 ^ 32)
  else a.map BitVec.toNat

/-- Write element codes. -/
def Tile.setElems (t : Tile) (width n : Nat) (l : List Nat) : Tile :=
  if width = 16 then
    t.setVreg n (((l.take 256).zip (l.drop 256)).map (fun x => BitVec.ofNat 32 (x.1 % 65536 + x.2 % 65536 * 65536)))
  else if width = 64 then
    (t.setVreg n (l.map (fun x => BitVec.ofNat 32 x))).setVreg (n + 1) (l.map (fun x => BitVec.ofNat 32 (x / 2 ^ 32)))
  else t.setVreg n (l.map (fun x => BitVec.ofNat 32 x))

/-- A register as its 1,024 bytes, byte 4l + i in byte i of lane l (R121). -/
def Tile.regBytes (t : Tile) (n : Nat) : Bytes := (t.vreg n).flatMap (fun x => leBytes 4 x.toNat)
def lanesOf (b : Bytes) : List U32 := (List.range 256).map (fun l => BitVec.ofNat 32 (fieldLE b (4 * l) 4))
def Tile.setRegBytes (t : Tile) (n : Nat) (b : Bytes) : Tile := t.setVreg n (lanesOf (padTo 1024 b))

/-- Whether element `e` is active (R115). -/
def Tile.active (t : Tile) (w : Vx) (e : Nat) : Bool := !w.gen || (t.guard w.grd.toNat).getLsbD e

/-- Write the active elements of a list of results over what the register holds. -/
def Tile.putActive (t : Tile) (w : Vx) (width n : Nat) (l : List Nat) : Tile :=
  if w.gen then t.setElems width n (((t.elems width n).zip l).mapIdx (fun e x => if t.active w e then x.2 else x.1))
  else t.setElems width n l

/-- A value broadcast to every element. -/
def broadcast (width v : Nat) : List Nat := List.replicate (elemCount width) (v % 2 ^ width)

/-- The second operand under its form (R111). -/
def Tile.second (t : Tile) (w : Vx) (width : Nat) (consts : List Nat) : List Nat :=
  match w.form.toNat with
  | 1 => broadcast width (t.sreg w.vb.toNat).toNat
  | 2 => broadcast width (nth0 consts (w.vb.toNat * 64 + w.vc.toNat))
  | _ => t.elems width w.vb.toNat

/-- The TS32 operand of a CVT (R121). -/
def Tile.tsOperand (t : Tile) (w : Vx) (consts : List Nat) : Nat :=
  match w.form.toNat with
  | 1 => (t.sreg w.vb.toNat).toNat % 2 ^ 32
  | 2 => nth0 consts (w.vb.toNat * 64 + w.vc.toNat) % 2 ^ 32
  | _ => ((t.vreg w.vb.toNat).headD 0).toNat

/-- The 18-bit offset of a memory instruction, in bytes (R111). -/
def memOff (w : Vx) : Nat := 64 * (w.vb.toNat * 4096 + w.vc.toNat * 64 + w.lo.toNat)

/-- The address of a memory instruction. -/
def Tile.memAddr (t : Tile) (w : Vx) : Nat := (t.sreg w.va.toNat).toNat + memOff w

/-! ### Parity on use (R105, R129, R207) -/

/-- What an instruction uses: vector, guard and scalar registers, and a range of tile memory. -/
structure Uses where
  vs : List Nat
  gs : List Nat
  xs : List Nat
  mem : Nat × Nat

def Uses.none : Uses := ⟨[], [], [], (0, 0)⟩
/-- One scalar register. -/
def Uses.reg (n : Nat) : Uses := ⟨[], [], [n], (0, 0)⟩

/-- Whether a place that fails its parity check is among those used.
Log entry 197, DESIGN CHOICE. -/
def Uses.hit (u : Uses) : Upset → Bool
  | .vec n => u.vs.contains n
  | .guard n => u.gs.contains n
  | .scalar n => u.xs.contains n
  | .mem a => u.mem.1 ≤ a && a < u.mem.1 + u.mem.2
  | _ => false

/-- Whether an instruction that uses these places meets a parity error. -/
def Tile.parityOf (t : Tile) (u : Uses) : Bool := t.upsets.any u.hit
/-- Places written whole hold good parity again. -/
def Tile.cleaned (t : Tile) (u : Uses) : Tile := { t with upsets := t.upsets.filter (fun p => !u.hit p) }

/-- A register in a format, with its pair's other register in binary64 (R108). -/
def regsOf (f : Fmt) (n : Nat) : List Nat := if f.width = 64 then [n, n + 1] else [n]

/-- Registers that a second operand under form uses (R111): a vector register, a scalar register, or a constant of the pool, which is no register. -/
def secondUses (w : Vx) (f : Fmt) : Uses :=
  match w.form.toNat with
  | 1 => Uses.reg w.vb.toNat
  | 2 => Uses.none
  | _ => ⟨regsOf f w.vb.toNat, [], [], (0, 0)⟩

/-- What a vector instruction uses (R112). -/
def vxUses (op : Nat) (w : Vx) (t : Tile) : Uses :=
  let f := (Fmt.ofCode w.fmt.toNat).getD .f32
  let sf := (Fmt.ofCode w.sfmt.toNat).getD .f32
  let va := regsOf f w.va.toNat
  let vd := w.vd.toNat
  let snd := secondUses w f
  let a := t.memAddr w
  let u : Uses := match op with
    | 0x01 | 0x02 | 0x03 | 0x07 | 0x09 | 0x0A | 0x0D | 0x10 | 0x11 | 0x12 | 0x13 | 0x60 | 0x61 | 0x62 | 0x68 => { snd with vs := va ++ snd.vs }
    | 0x17 => { snd with vs := va ++ snd.vs, gs := [w.vc.toNat % 8] }
    | 0x04 | 0x05 | 0x06 => { snd with vs := va ++ snd.vs ++ regsOf f w.vc.toNat }
    | 0x14 | 0x15 => { Uses.none with gs := [w.va.toNat % 8, w.vb.toNat % 8] }
    | 0x16 => { Uses.none with gs := [w.va.toNat % 8] }
    | 0x30 =>
      if f.blockScaled then let ts := secondUses w .f32; { ts with vs := regsOf sf w.va.toNat ++ ts.vs }
      else if sf.blockScaled then let ts := secondUses w .f32; { ts with vs := [w.va.toNat, w.vc.toNat] ++ ts.vs }
      else { Uses.none with vs := regsOf sf w.va.toNat }
    | 0x48 | 0x50 => ⟨[], [], [w.va.toNat], (a, 1024)⟩
    | 0x49 => ⟨regsOf sf vd, [], [w.va.toNat], (a, if sf.width = 16 then 2048 else 1024)⟩
    | 0x4A | 0x51 => ⟨[vd], [], [w.va.toNat], (0, 0)⟩
    | 0x53 => { Uses.none with vs := regsOf f vd }
    | 0x55 => { Uses.none with vs := [vd, w.vc.toNat] }
    | 0x63 => snd
    | 0x08 | 0x0B | 0x0C | 0x20 | 0x21 | 0x22 | 0x23 | 0x24 | 0x25 | 0x26 | 0x27 | 0x28 | 0x2C | 0x2D | 0x2E | 0x36 | 0x37 | 0x40 | 0x41 | 0x42 | 0x43 | 0x44 =>
      { Uses.none with vs := va }
    | _ => Uses.none
  if w.gen then { u with gs := w.grd.toNat :: u.gs } else u

/-- What a vector instruction that no guard limits writes whole. -/
def vxWrites (op : Nat) (w : Vx) (t : Tile) : Uses :=
  let f := (Fmt.ofCode w.fmt.toNat).getD .f32
  let vd := w.vd.toNat
  if w.gen then Uses.none
  else match op with
    | 0x10 | 0x11 | 0x12 | 0x13 => if f.width = 16 then { Uses.none with gs := [vd] } else Uses.none
    | 0x14 | 0x15 | 0x16 => { Uses.none with gs := [vd % 8] }
    | 0x30 => if f.blockScaled then { Uses.none with vs := [vd, w.vc.toNat] } else { Uses.none with vs := regsOf f vd }
    | 0x54 => { Uses.none with vs := [vd, w.vc.toNat] }
    | 0x4A | 0x51 => { Uses.none with mem := (t.memAddr w, 1024) }
    | 0x36 | 0x37 | 0x49 | 0x53 | 0x55 | 0x7F => Uses.none
    | 0x20 | 0x21 | 0x22 | 0x23 | 0x24 | 0x25 | 0x26 | 0x27 | 0x28 | 0x2C | 0x2D | 0x2E => if f.width = 16 then Uses.none else { Uses.none with vs := [vd] }
    | _ => { Uses.none with vs := regsOf f vd }

/-! ### Draws (R56, R60) -/

/-- One draw of a lane: the tile and the drawn value. -/
def Tile.drawLane (t : Tile) (n lane : Nat) : Nat × Tile :=
  let (g, r) := draw n (t.gens.getD lane 0)
  (r, { t with gens := t.gens.set lane g, draws := t.draws.set lane (t.draws.getD lane 0 + 1) })

/-- One draw for each of `count` elements in increasing index, element `e` from lane `e mod 256`; no draw
outside SR. -/
def Tile.drawElems (t : Tile) (rm : Rnd) (count : Nat) : List Nat × Tile :=
  match rm with
  | .sr n => (List.range count).foldl (fun (acc : List Nat × Tile) e =>
      let (r, t) := acc.2.drawLane n (e % 256)
      (acc.1 ++ [r], t)) ([], t)
  | _ => (List.replicate count 0, t)

/-- The OR of the flags of active elements. -/
def Tile.orFlags (t : Tile) (w : Vx) (l : List Flags) : Flags :=
  ((l.zipIdx).filter (fun x => t.active w x.2)).foldl (fun a x => a ||| x.1) 0

end Sys2Proof.Machine
end

