-- ==== Sys2Proof/Machine/Vector.lean ====
section
/-! DEFINITION. The vector unit (R107 to R130): one meaning for each opcode of R112 over shared element
operations. -/

namespace Sys2Proof.Machine

/-! ### Issue -/

/-- What an instruction does once it may issue: a new tile and flags, a stall, or a fault of the
context. -/
inductive VxRes
  | ok (t : Tile) (fl : Flags)
  | fault (st : Status)

def fmtOf (c : Nat) : Fmt := (Fmt.ofCode c).getD .f32
def vxF (w : Vx) : Fmt := fmtOf w.fmt.toNat
def vxSf (w : Vx) : Fmt := fmtOf w.sfmt.toNat
def vxRm (w : Vx) : Rnd := (Rnd.ofFields w.rnd.toNat w.srw.toNat).getD .rne

/-- Array cycles an instruction other than a stream instruction holds the issue slot (R114): by class for
32-bit, 16-bit and binary64 operation. VMOV, which the table does not name, takes the cycles of the bitwise instructions, and GAND, GOR and GNOT take one
cycle whatever their format code.
Log entry 198, DESIGN CHOICE. -/
def vxCycles (op : Nat) (w : Vx) : Nat :=
  let by3 (a b c : Nat) : Nat := if w.fmt = 9 then c else if (vxF w).width = 16 then b else a
  match op with
  | 0x07 | 0x08 => by3 4 4 16
  | 0x20 | 0x21 | 0x22 | 0x23 | 0x24 | 0x25 | 0x26 | 0x27 | 0x28 => 4
  | 0x2C | 0x2D => 9
  | 0x2E => 10
  | 0x30 =>
    if (vxF w).blockScaled then (if w.sfmt = 9 then 8 else 2)
    else if w.fmt = 9 || w.sfmt = 9 then 4 else 1
  | 0x40 | 0x41 | 0x42 => by3 8 8 16
  | 0x43 | 0x44 => 4
  | 0x48 | 0x4A | 0x50 | 0x51 | 0x5C => by3 1 1 2
  | 0x49 => if (vxSf w).width = 16 then 2 else 1
  | 0x14 | 0x15 | 0x16 | 0x7F => 1
  | _ => by3 1 1 4

/-- Issue an instruction: its word stands at the tile's position and no thermal trip holds issue. A parity error in what it uses ends the context (R129). -/
def runVx (t : Sys2Proof.Tile) (op : Nat) (w : Vx) (f : Site → Tile → VxRes) (s : State) :
    Host.Outcome State Fault Refusal :=
  if s.issueStopped then .next s
  else s.whenWord t.val (vxWord op w) (fun x tl s =>
    if tl.parityOf (vxUses op w tl) then s.runParity x
    else match f x tl with
    | .ok t2 fl => ((s.setTile t.val ({ t2 with flags := t2.flags ||| fl }.cleaned (vxWrites op w tl))).bumpTile t.val cVxuBusy (vxCycles op w)).advance t.val 1
    | .fault st => s.runFault x st)

/-! ### Element operations -/

/-- Apply an operation to lists of operand values, element by element, rounding each result. -/
def mapRound (f : Fmt) (rm : Rnd) (fn : List FV → FV × Flags) (ops : List (List Nat)) (rs : List Nat) : List (Nat × Flags) :=
  rs.mapIdx (fun e r => rnd1 f rm r (fn (ops.map (fun l => decode f (l.getD e 0)))))

/-- An arithmetic instruction of operands va, vb, vc as many as `n` says (R113). Under form 0b10 the index of the constant lies in bits that also name
vc (R111): the bits are read as both.
Log entry 198, DESIGN CHOICE. -/
def vxArith (n : Nat) (fn : Rnd → List FV → FV × Flags) (w : Vx) (x : Site) (t : Tile) : VxRes :=
  let f := (vxF w)
  let wd := f.width
  let ops := [t.elems wd w.va.toNat, t.second w wd x.im.consts, t.elems wd w.vc.toNat].take n
  let (rs, t) := t.drawElems (vxRm w) (elemCount wd)
  let out := mapRound f (vxRm w) (fn (vxRm w)) ops rs
  .ok (t.putActive w wd w.vd.toNat (out.map (fun e => e.1))) (t.orFlags w (out.map (fun e => e.2)))

/-- An instruction that moves or changes bits of elements and raises no flag. -/
def vxBits (n : Nat) (fn : Fmt → List Nat → Nat) (w : Vx) (x : Site) (t : Tile) : VxRes :=
  let wd := (vxF w).width
  let ops := [t.elems wd w.va.toNat, t.second w wd x.im.consts].take n
  .ok (t.putActive w wd w.vd.toNat ((List.range (elemCount wd)).map (fun e => fn (vxF w) (ops.map (fun l => l.getD e 0))))) 0

def arg (l : List FV) (i : Nat) : FV := l.getD i FV.dnan
def argN (l : List Nat) (i : Nat) : Nat := l.getD i 0
def isRdn (rm : Rnd) : Bool := rm == .rdn

/-- Replace the bits of a guard that a compare covers (R115). -/
def boolBits (l : List Bool) : BitVec 512 := (l.zipIdx).foldl (fun a x => if x.1 then a ||| (1#512 <<< x.2) else a) 0

/-- A compare into a guard (R112, R115). -/
def vxCmp (c : Cmp) (w : Vx) (x : Site) (t : Tile) : VxRes :=
  let f := (vxF w)
  let wd := f.width
  let a := t.elems wd w.va.toNat
  let b := t.second w wd x.im.consts
  let n := elemCount wd
  let out := (List.range n).map (fun e => fcmp c (decode f (a.getD e 0)) (decode f (b.getD e 0)))
  let old := t.guard w.vd.toNat
  let new := (List.range n).map (fun e => if t.active w e then (out.getD e (false, 0)).1 else old.getLsbD e)
  .ok (t.setGuard w.vd.toNat (boolBits new)) (t.orFlags w (out.map (fun e => e.2)))

/-- Guard logic: bits of inactive elements keep their value. The guard's 512 bits are the elements, whatever the format field says.
Log entry 198, DESIGN CHOICE. -/
def vxGuard (fn : BitVec 512 → BitVec 512 → BitVec 512) (w : Vx) (_ : Site) (t : Tile) : VxRes :=
  let r := fn (t.guard (w.va.toNat % 8)) (t.guard (w.vb.toNat % 8))
  let m := if w.gen then t.guard w.grd.toNat else BitVec.allOnes 512
  let d := w.vd.toNat % 8
  .ok (t.setGuard d ((r &&& m) ||| (t.guard d &&& ~~~m))) 0

/-- VSEL: va where the guard vc is 1, else vb. -/
def vxSel (w : Vx) (x : Site) (t : Tile) : VxRes :=
  let wd := (vxF w).width
  let a := t.elems wd w.va.toNat
  let b := t.second w wd x.im.consts
  let g := t.guard (w.vc.toNat % 8)
  .ok (t.putActive w wd w.vd.toNat ((List.range (elemCount wd)).map (fun e => if g.getLsbD e then a.getD e 0 else b.getD e 0))) 0

/-- A transcendental: in a 16-bit format, elements 0 to 255 in the low halves, through binary32 (R114,
R118). The high halves stay as they are (log entry 27, DEDUCED). -/
def vxTrans (fn : FV → FV × Flags) (w : Vx) (_ : Site) (t : Tile) : VxRes :=
  let f := (vxF w)
  let wd := f.width
  let a := t.elems wd w.va.toNat
  let one (c : Nat) : Nat × Flags :=
    let (c32, fl) := r32 (fn (decode f c))
    if wd = 16 then
      let (c16, fl2) := convert f .rne 0 (decode .f32 c32)
      (c16, fl ||| fl2)
    else (c32, fl)
  let out := (a.take 256).map one
  let keep := (t.elems wd w.vd.toNat).drop 256
  .ok (t.putActive w wd w.vd.toNat (out.map (fun e => e.1) ++ keep)) (t.orFlags w (out.map (fun e => e.2)))

/-- Binary32 steps of the composites (R119), flags carried. -/
def step32 (fl : Flags) (v : FV × Flags) : FV × Flags :=
  let (c, g) := r32 v
  (d32 c, fl ||| g)

def withSign (neg : Bool) : FV → FV
  | .nan _ q p => .nan neg q p
  | .inf _ => .inf neg
  | .fin _ x => .fin neg x

def FV.signBit : FV → Bool
  | .nan n _ _ => n
  | .inf n => n
  | .fin n _ => n

/-- The sequence of VSIGM: its negation inverts the sign bit, a NaN's included (R113). -/
def sigm32 (v : FV) : FV × Flags :=
  let (e, fl) := step32 0 (texp (withSign (!v.signBit) v))
  let (s, fl) := step32 fl (fadd false FV.one e)
  step32 fl (fdiv FV.one s)

def tanh32 (v : FV) : FV × Flags :=
  let two : FV := .fin false ⟨2, 0, false⟩
  let (a, fl) := step32 0 (fmul two (withSign false v))
  let (m, fl) := step32 fl (texpm1 (withSign (!a.signBit) a))
  let (d, fl) := step32 fl (fadd false two m)
  let (q, fl) := step32 fl (fdiv (withSign (!m.signBit) m) d)
  (withSign v.signBit q, fl)

def silu32 (v : FV) : FV × Flags :=
  let (g, fl) := sigm32 v
  step32 fl (fmul v g)

/-! ### Reductions (R116, R117) -/

/-- Combine by the tree, with the value for no element. -/
def treeOr (op : (Nat × Flags) → (Nat × Flags) → (Nat × Flags)) (dflt : Nat) (l : List (Nat × Flags)) : Nat × Flags :=
  (tree op 10 l).getD (dflt, 0)

def nodeOp (f : Fmt) (fn : FV → FV → FV × Flags) (a b : Nat × Flags) : Nat × Flags :=
  let (c, fl) := rnd1 f .rne 0 (fn (decode f a.1) (decode f b.1))
  (c, a.2 ||| b.2 ||| fl)

/-- A reduction over groups of `g` lanes, written to the active elements. -/
def vxReduce (g : Nat) (fn : FV → FV → FV × Flags) (dflt : FV) (w : Vx) (_ : Site) (t : Tile) : VxRes :=
  let f := (vxF w)
  let wd := f.width
  let a := t.elems wd w.va.toNat
  let d := (convert f .rne 0 dflt).1
  let groups := (List.range (256 / g)).map (fun b =>
    treeOr (nodeOp f fn) d ((((List.range g).map (fun i => g * b + i)).filter (fun e => t.active w e)).map (fun e => (a.getD e 0, 0))))
  let out := (List.range 256).map (fun e => (groups.getD (e / g) (0, 0)).1)
  .ok (t.putActive w wd w.vd.toNat out) (groups.foldl (fun x e => x ||| e.2) 0)

/-! ### Conversion in registers (R120, R121) -/

/-- Write elements 0 to 255 of a conversion result: a 16-bit destination's high halves become zero, and an
inactive element's lane is left unchanged. -/
def Tile.putConverted (t : Tile) (w : Vx) (out : List Nat) : Tile :=
  let wd := (vxF w).width
  if wd = 16 then
    let old := t.vreg w.vd.toNat
    t.setVreg w.vd.toNat ((old.zip out).mapIdx (fun e x => if t.active w e then BitVec.ofNat 32 (x.2 % 65536) else x.1))
  else t.putActive w wd w.vd.toNat out

/-- Quantise 16 elements: BS8, codes, mask bit and flags. Inactive elements are padding. -/
def quantBlock (f : Fmt) (rm : Rnd) (ts : Mag) (xs : List (FV × Nat × Bool)) : Nat × List Nat × Bool × Flags :=
  let real := (xs.filter (fun x => x.2.2)).map (fun x => x.1)
  let c := chooseBs8 f ts real
  let q := xs.map (fun x => if x.2.2 then quantElem f rm x.2.1 c ts x.1 else (0, 0))
  let zero := c == 0 || ((q.zip xs).filter (fun y => y.2.2.2)).all (fun y => codeIsZero f y.1.1)
  (c, q.map (fun y => y.1), zero, q.foldl (fun a y => a ||| y.2) 0)

/-- Element bytes of blocks, packed by R45. -/
def packBlocks (f : Fmt) (blocks : List (List Nat)) : Bytes :=
  blocks.flatMap (fun b => leBytes (blockBytes f 16) (packCodes f.width b))

/-- Scales, mask word and zeros, as vc holds them. -/
def sideBytes (scales : List Nat) (mask : Nat) : Bytes := scales.map (fun c => BitVec.ofNat 8 c) ++ leBytes 2 mask

/-- A quantising CVT. Where vd and vc name one register, the scales and mask of vc are written last and stand.
Log entry 198, DESIGN CHOICE. -/
def vxQuant (w : Vx) (x : Site) (t : Tile) : VxRes :=
  let f := (vxF w)
  let ts := t.tsOperand w x.im.consts
  if !ts32Ok ts then .fault .malformed
  else
    let a := t.elems (vxSf w).width w.va.toNat
    let (rs, t) := t.drawElems (vxRm w) 256
    let blocks := (List.range 16).map (fun b => quantBlock f (vxRm w) (ts32 ts)
      ((List.range 16).map (fun i => let e := 16 * b + i; (decode (vxSf w) (a.getD e 0), rs.getD e 0, t.active w e))))
    let mask := (blocks.zipIdx).foldl (fun m y => if y.1.2.2.1 then m + 2 ^ y.2 else m) 0
    let fl := blocks.foldl (fun m y => m ||| y.2.2.2) 0
    .ok ((t.setRegBytes w.vd.toNat (packBlocks f (blocks.map (fun y => y.2.1)))).setRegBytes w.vc.toNat
      (sideBytes (blocks.map (fun y => y.1)) mask)) fl

def vxDequant (w : Vx) (x : Site) (t : Tile) : VxRes :=
  let sf := (vxSf w)
  let ts := t.tsOperand w x.im.consts
  if !ts32Ok ts then .fault .malformed
  else
    let data := t.regBytes w.va.toNat
    let side := t.regBytes w.vc.toNat
    let n := blockBytes sf 16
    let (rs, t) := t.drawElems (vxRm w) 256
    let out := (List.range 256).map (fun e =>
      let b := e / 16
      let code := unpackCode sf.width (fieldLE data (b * n) n) (e % 16)
      convert (vxF w) (vxRm w) (rs.getD e 0) (stored sf (fieldLE side b 1) (ts32 ts) code))
    .ok (t.putConverted w (out.map (fun y => y.1))) (t.orFlags w (out.map (fun y => y.2)))

def vxScalarCvt (w : Vx) (_ : Site) (t : Tile) : VxRes :=
  let a := (t.elems (vxSf w).width w.va.toNat).take 256
  let (rs, t) := t.drawElems (vxRm w) 256
  let out := (a.zip rs).map (fun y => convert (vxF w) (vxRm w) y.2 (decode (vxSf w) y.1))
  .ok (t.putConverted w (out.map (fun y => y.1))) (t.orFlags w (out.map (fun y => y.2)))

def vxCvt (w : Vx) (x : Site) (t : Tile) : VxRes :=
  match cvtKind w.fmt.toNat w.sfmt.toNat with
  | some .quant => vxQuant w x t
  | some .dequant => vxDequant w x t
  | _ => vxScalarCvt w x t

/-! ### Raw lanes -/

/-- A value in the operation format broadcast over a 32-bit lane, as the instructions on raw lanes take it: a narrower format is repeated where its width
divides the lane, and of a binary64 value the low 32 bits are taken; each of these instructions acts on one register in every format.
Log entry 198, DESIGN CHOICE. -/
def laneFill (width v : Nat) : U32 :=
  if width < 32 && 32 % width == 0 then BitVec.ofNat 32 (packCodes width (List.replicate (32 / width) v)) else BitVec.ofNat 32 v

def Tile.secondLanes (t : Tile) (w : Vx) (consts : List Nat) : List U32 :=
  match w.form.toNat with
  | 1 => List.replicate 256 (laneFill (vxF w).width (t.sreg w.vb.toNat).toNat)
  | 2 => List.replicate 256 (laneFill (vxF w).width (nth0 consts (w.vb.toNat * 64 + w.vc.toNat)))
  | _ => t.vreg w.vb.toNat

/-- A bitwise instruction on raw lanes; a 16-bit format guards each half (R115; log entry 28, DEDUCED). -/
def vxRaw (fn : U32 → U32 → U32) (w : Vx) (x : Site) (t : Tile) : VxRes :=
  let r := ((t.vreg w.va.toNat).zip (t.secondLanes w x.im.consts)).map (fun y => fn y.1 y.2)
  let t' := t.setVreg w.vd.toNat r
  let wd := if (vxF w).width = 16 then 16 else 32
  .ok (t.putActive w wd w.vd.toNat (t'.elems wd w.vd.toNat)) 0

def vxRot (w : Vx) (x : Site) (t : Tile) : VxRes :=
  let k := ((t.second w 32 x.im.consts).headD 0) % 256
  let a := t.elems 32 w.va.toNat
  .ok (t.putActive w 32 w.vd.toNat ((List.range 256).map (fun l => a.getD ((l + k) % 256) 0))) 0

/-- VHI and VLO move 16-bit halves; each is guarded by the element it writes.
Log entry 219, DESIGN CHOICE. -/
def vxHalf (hi : Bool) (w : Vx) (_ : Site) (t : Tile) : VxRes :=
  let a := t.elems 16 w.va.toNat
  let d := t.elems 16 w.vd.toNat
  let r := if hi then d.take 256 ++ a.take 256 else a.drop 256 ++ d.drop 256
  .ok (t.putActive w 16 w.vd.toNat r) 0

def vxRand (w : Vx) (_ : Site) (t : Tile) : VxRes :=
  let n := (vxRm w).bits
  let (rs, t) := t.drawElems (vxRm w) 256
  .ok (t.putActive w 32 w.vd.toNat (rs.map (fun r => (convert .f32 .rne 0 (.fin false ⟨r, -(n : Int), false⟩)).1))) 0

/-! ### Tile memory and the residual region (R111, R123, R124) -/

/-- Whether a residual instruction may reach a range. -/
def Site.resOk (x : Site) (a n : Nat) : Bool := x.residual.2 != 0 && x.residual.1 ≤ a && a + n ≤ x.residual.1 + x.residual.2

def vxLoad (ok : Site → Nat → Nat → Bool) (w : Vx) (x : Site) (t : Tile) : VxRes :=
  let a := t.memAddr w
  if !ok x a 1024 then .fault .bounds
  else .ok (t.putActive w 32 w.vd.toNat ((lanesOf (t.mem.reads a 1024)).map BitVec.toNat)) 0

def vxStore (ok : Site → Nat → Nat → Bool) (w : Vx) (x : Site) (t : Tile) : VxRes :=
  let a := t.memAddr w
  if !ok x a 1024 then .fault .bounds
  else
    let mem := ((t.vreg w.vd.toNat).zipIdx).foldl (fun m y =>
      if t.active w y.2 then m.writes (a + 4 * y.2) (leBytes 4 y.1.toNat) else m) t.mem
    .ok { t with mem := mem } 0

/-- RADD (R124): the residual word is the first operand. -/
def vxRadd (w : Vx) (x : Site) (t : Tile) : VxRes :=
  let sf := (vxSf w)
  let n := elemCount sf.width
  let a := t.memAddr w
  if !x.resOk a (4 * n) then .fault .bounds
  else
    let d := t.elems sf.width w.vd.toNat
    let out := d.mapIdx (fun e c => r32 (fadd false (d32 (leNat (t.mem.reads (a + 4 * e) 4))) (decode sf c)))
    let mem := (out.zipIdx).foldl (fun m y =>
      if t.active w y.2 then m.writes (a + 4 * y.2) (leBytes 4 y.1.1) else m) t.mem
    .ok { t with mem := mem } (t.orFlags w (out.map (fun y => y.2)))

/-! ### Stream instructions (R112, R126, R142) -/

/-- Bytes a SIN or SOUT moves. -/
def streamBytes (f : Fmt) : Nat := if f.width = 64 then 2048 else 1024

/-- A register or pair as stream bytes: elements in order; a pair's register vd first.
Log entry 219, DESIGN CHOICE. -/
def Tile.streamOut (t : Tile) (f : Fmt) (n : Nat) : Bytes :=
  if f.width = 64 then t.regBytes n ++ t.regBytes (n + 1)
  else (t.elems f.width n).flatMap (fun c => leBytes (f.width / 8) c)

/-- Element codes from stream bytes.
Log entry 219, DESIGN CHOICE. -/
def streamElems (f : Fmt) (b : Bytes) : List Nat :=
  if f.width = 64 then (List.range 256).map (fun e => fieldLE b (4 * e) 4 + fieldLE b (1024 + 4 * e) 4 * 2 ^ 32)
  else (List.range (elemCount f.width)).map (fun e => fieldLE b (f.width / 8 * e) (f.width / 8))

/-- Zero-block mask of a register (R126). -/
def Tile.zeroMask (t : Tile) (f : Fmt) (n : Nat) : Nat :=
  let l := t.elems f.width n
  ((List.range (l.length / 16)).map (fun b =>
    if ((l.drop (16 * b)).take 16).all (codeIsZero f) then 2 ^ b else 0)).sum

/-- Count set bits below `n`. -/
def popBits (v n : Nat) : Nat := ((List.range n).map (fun i => b2n (bitOf v i))).sum

/-- A stalled stream instruction counts one array cycle (R130).
Log entry 190, DESIGN CHOICE. -/
def State.vxStall (s : State) (t : Nat) : State := s.bumpTile t cVxuStall 1

/-- Issue a stream instruction; a parity error in what it uses ends the context (R129). -/
def runStream (t : Sys2Proof.Tile) (op : Nat) (w : Vx) (bytes links : Site → Nat) (f : Site → Tile → State → Option State) (s : State) :
    Host.Outcome State Fault Refusal :=
  if s.issueStopped then .next s
  else s.whenWord t.val (vxWord op w) (fun x tl s =>
    if tl.parityOf (vxUses op w tl) then s.runParity x
    else match f x tl s with
    | some s => ((s.setTile t.val ((s.tile t.val).cleaned (vxWrites op w tl))).bumpTile t.val cVxuBusy (ceilDiv (bytes x) (128 * max 1 (links x)))).advance t.val 1
    | none => s.vxStall t.val)

def inBytes (bs : List Beat) : Bytes := bs.flatMap (fun b => b.data)
def inScales (bs : List Beat) : Bytes := (bs.take 2).flatMap (fun b => leBytes 8 b.scale.toNat)
def inMask (bs : List Beat) : Nat := leNat ((bs.take 2).map (fun b => b.zmask))

def execSin (t : Sys2Proof.Tile) (w : Vx) (s : State) : Host.Outcome State Fault Refusal :=
  runStream t 0x52 w (fun _ => streamBytes (vxF w)) (fun x => x.inLinks w.vb.toNat) (fun x _ s =>
    (s.readPort t.val w.vb.toNat (streamBytes (vxF w) / 64) x).map (fun (bs, s) =>
      s.setTile t.val ((s.tile t.val).putActive w (vxF w).width w.vd.toNat (streamElems (vxF w) (inBytes bs))))) s

/-- The vector unit has sent by a port, whose waits for credit are its stalls (R130). -/
def State.sentBy (s : State) (t port : Nat) : State := s.setTile t { s.tile t with vxPort := some port }

/-- SOUT. Its guard has no effect: every element is sent and counts in the zero-block mask.
Log entry 198, DESIGN CHOICE. -/
def execSout (t : Sys2Proof.Tile) (w : Vx) (s : State) : Host.Outcome State Fault Refusal :=
  runStream t 0x53 w (fun _ => streamBytes (vxF w)) (fun x => x.outLinks w.vb.toNat) (fun x tl s =>
    let m := tl.zeroMask (vxF w) w.vd.toNat
    let nb := elemCount (vxF w).width / 16
    (s.sendPort t.val w.vb.toNat x (mkBeats (tl.streamOut (vxF w) w.vd.toNat) [] m (nb / 8))).map (fun s =>
      (s.bumpTile t.val cVxuZ (popBits m nb)).sentBy t.val w.vb.toNat)) s

def quantBytes (f : Fmt) : Nat := 16 * blockBytes f 16

/-- The codes of 256 elements as packed blocks (R45), those that a guard makes inactive kept as they are (R115). -/
def Tile.codesUnder (t : Tile) (w : Vx) (f : Fmt) (new : Bytes) : Bytes :=
  if !w.gen then new
  else
    let n := blockBytes f 16
    let code (b : Bytes) (e : Nat) : Nat := unpackCode f.width (fieldLE b (e / 16 * n) n) (e % 16)
    let old := t.regBytes w.vd.toNat
    packBlocks f ((List.range 16).map (fun b => (List.range 16).map (fun i => let e := 16 * b + i; code (if t.active w e then new else old) e))) ++
      old.drop (quantBytes f)

/-- SINQ: the codes of active elements to vd, the scales and mask to vc.
Log entry 198, DESIGN CHOICE. -/
def execSinq (t : Sys2Proof.Tile) (w : Vx) (s : State) : Host.Outcome State Fault Refusal :=
  runStream t 0x54 w (fun _ => quantBytes (vxF w)) (fun x => x.inLinks w.vb.toNat) (fun x _ s =>
    (s.readPort t.val w.vb.toNat (quantBytes (vxF w) / 64) x).map (fun (bs, s) =>
      let tl := s.tile t.val
      s.setTile t.val ((tl.setRegBytes w.vd.toNat (tl.codesUnder w (vxF w) (inBytes bs))).setRegBytes w.vc.toNat (inScales bs ++ leBytes 2 (inMask bs))))) s

/-- SOUTQ. Its guard has no effect.
Log entry 198, DESIGN CHOICE. -/
def execSoutq (t : Sys2Proof.Tile) (w : Vx) (s : State) : Host.Outcome State Fault Refusal :=
  runStream t 0x55 w (fun _ => quantBytes (vxF w)) (fun x => x.outLinks w.vb.toNat) (fun x tl s =>
    let side := tl.regBytes w.vc.toNat
    let m := fieldLE side 16 2
    (s.sendPort t.val w.vb.toNat x (mkBeats ((tl.regBytes w.vd.toNat).take (quantBytes (vxF w))) (side.take 16) m 2)).map (fun s =>
      (s.bumpTile t.val cVxuZ (popBits m 16)).sentBy t.val w.vb.toNat)) s

/-! ### The instructions -/

def execVadd (t : Sys2Proof.Tile) (w : Vx) (s : State) : Host.Outcome State Fault Refusal :=
  runVx t 0x01 w (vxArith 2 (fun rm l => fadd (isRdn rm) (arg l 0) (arg l 1)) w) s
def execVsub (t : Sys2Proof.Tile) (w : Vx) (s : State) : Host.Outcome State Fault Refusal :=
  runVx t 0x02 w (vxArith 2 (fun rm l => fsub (isRdn rm) (arg l 0) (arg l 1)) w) s
def execVmul (t : Sys2Proof.Tile) (w : Vx) (s : State) : Host.Outcome State Fault Refusal :=
  runVx t 0x03 w (vxArith 2 (fun _ l => fmul (arg l 0) (arg l 1)) w) s
def execVfma (t : Sys2Proof.Tile) (w : Vx) (s : State) : Host.Outcome State Fault Refusal :=
  runVx t 0x04 w (vxArith 3 (fun rm l => ffma (isRdn rm) false false (arg l 0) (arg l 1) (arg l 2)) w) s
def execVfms (t : Sys2Proof.Tile) (w : Vx) (s : State) : Host.Outcome State Fault Refusal :=
  runVx t 0x05 w (vxArith 3 (fun rm l => ffma (isRdn rm) false true (arg l 0) (arg l 1) (arg l 2)) w) s
def execVfnma (t : Sys2Proof.Tile) (w : Vx) (s : State) : Host.Outcome State Fault Refusal :=
  runVx t 0x06 w (vxArith 3 (fun rm l => ffma (isRdn rm) true false (arg l 0) (arg l 1) (arg l 2)) w) s
def execVdiv (t : Sys2Proof.Tile) (w : Vx) (s : State) : Host.Outcome State Fault Refusal :=
  runVx t 0x07 w (vxArith 2 (fun _ l => fdiv (arg l 0) (arg l 1)) w) s
def execVsqrt (t : Sys2Proof.Tile) (w : Vx) (s : State) : Host.Outcome State Fault Refusal :=
  runVx t 0x08 w (vxArith 1 (fun _ l => fsqrt (arg l 0)) w) s
def execVmin (t : Sys2Proof.Tile) (w : Vx) (s : State) : Host.Outcome State Fault Refusal :=
  runVx t 0x09 w (vxArith 2 (fun _ l => fmin (arg l 0) (arg l 1)) w) s
def execVmax (t : Sys2Proof.Tile) (w : Vx) (s : State) : Host.Outcome State Fault Refusal :=
  runVx t 0x0A w (vxArith 2 (fun _ l => fmax (arg l 0) (arg l 1)) w) s
def execVabs (t : Sys2Proof.Tile) (w : Vx) (s : State) : Host.Outcome State Fault Refusal :=
  runVx t 0x0B w (vxBits 1 (fun f l => argN l 0 % 2 ^ (f.width - 1)) w) s
def execVneg (t : Sys2Proof.Tile) (w : Vx) (s : State) : Host.Outcome State Fault Refusal :=
  runVx t 0x0C w (vxBits 1 (fun f l => (argN l 0 + 2 ^ (f.width - 1)) % 2 ^ f.width) w) s
def execVcpysgn (t : Sys2Proof.Tile) (w : Vx) (s : State) : Host.Outcome State Fault Refusal :=
  runVx t 0x0D w (vxBits 2 (fun f l => argN l 0 % 2 ^ (f.width - 1) + argN l 1 / 2 ^ (f.width - 1) * 2 ^ (f.width - 1)) w) s
def execVcmpeq (t : Sys2Proof.Tile) (w : Vx) (s : State) : Host.Outcome State Fault Refusal := runVx t 0x10 w (vxCmp .eq w) s
def execVcmplt (t : Sys2Proof.Tile) (w : Vx) (s : State) : Host.Outcome State Fault Refusal := runVx t 0x11 w (vxCmp .lt w) s
def execVcmple (t : Sys2Proof.Tile) (w : Vx) (s : State) : Host.Outcome State Fault Refusal := runVx t 0x12 w (vxCmp .le w) s
def execVcmpun (t : Sys2Proof.Tile) (w : Vx) (s : State) : Host.Outcome State Fault Refusal := runVx t 0x13 w (vxCmp .un w) s
def execGand (t : Sys2Proof.Tile) (w : Vx) (s : State) : Host.Outcome State Fault Refusal := runVx t 0x14 w (vxGuard (fun a b => a &&& b) w) s
def execGor (t : Sys2Proof.Tile) (w : Vx) (s : State) : Host.Outcome State Fault Refusal := runVx t 0x15 w (vxGuard (fun a b => a ||| b) w) s
def execGnot (t : Sys2Proof.Tile) (w : Vx) (s : State) : Host.Outcome State Fault Refusal := runVx t 0x16 w (vxGuard (fun a _ => ~~~a) w) s
def execVsel (t : Sys2Proof.Tile) (w : Vx) (s : State) : Host.Outcome State Fault Refusal := runVx t 0x17 w (vxSel w) s
def execVexp (t : Sys2Proof.Tile) (w : Vx) (s : State) : Host.Outcome State Fault Refusal := runVx t 0x20 w (vxTrans texp w) s
def execVexp2 (t : Sys2Proof.Tile) (w : Vx) (s : State) : Host.Outcome State Fault Refusal := runVx t 0x21 w (vxTrans texp2 w) s
def execVexpm1 (t : Sys2Proof.Tile) (w : Vx) (s : State) : Host.Outcome State Fault Refusal := runVx t 0x22 w (vxTrans texpm1 w) s
def execVlog (t : Sys2Proof.Tile) (w : Vx) (s : State) : Host.Outcome State Fault Refusal := runVx t 0x23 w (vxTrans (tlog false) w) s
def execVlog2 (t : Sys2Proof.Tile) (w : Vx) (s : State) : Host.Outcome State Fault Refusal := runVx t 0x24 w (vxTrans (tlog true) w) s
def execVrcp (t : Sys2Proof.Tile) (w : Vx) (s : State) : Host.Outcome State Fault Refusal := runVx t 0x25 w (vxTrans (fdiv FV.one) w) s
def execVrsqrt (t : Sys2Proof.Tile) (w : Vx) (s : State) : Host.Outcome State Fault Refusal := runVx t 0x26 w (vxTrans trsqrt w) s
def execVsinpi (t : Sys2Proof.Tile) (w : Vx) (s : State) : Host.Outcome State Fault Refusal := runVx t 0x27 w (vxTrans tsinpi w) s
def execVcospi (t : Sys2Proof.Tile) (w : Vx) (s : State) : Host.Outcome State Fault Refusal := runVx t 0x28 w (vxTrans tcospi w) s
def execVsigm (t : Sys2Proof.Tile) (w : Vx) (s : State) : Host.Outcome State Fault Refusal := runVx t 0x2C w (vxTrans sigm32 w) s
def execVtanh (t : Sys2Proof.Tile) (w : Vx) (s : State) : Host.Outcome State Fault Refusal := runVx t 0x2D w (vxTrans tanh32 w) s
def execVsilu (t : Sys2Proof.Tile) (w : Vx) (s : State) : Host.Outcome State Fault Refusal := runVx t 0x2E w (vxTrans silu32 w) s
def execCvt (t : Sys2Proof.Tile) (w : Vx) (s : State) : Host.Outcome State Fault Refusal := runVx t 0x30 w (vxCvt w) s
def execVhi (t : Sys2Proof.Tile) (w : Vx) (s : State) : Host.Outcome State Fault Refusal := runVx t 0x36 w (vxHalf true w) s
def execVlo (t : Sys2Proof.Tile) (w : Vx) (s : State) : Host.Outcome State Fault Refusal := runVx t 0x37 w (vxHalf false w) s
def execVrsum (t : Sys2Proof.Tile) (w : Vx) (s : State) : Host.Outcome State Fault Refusal :=
  runVx t 0x40 w (vxReduce 256 (fadd false) (FV.zero false) w) s
def execVrmax (t : Sys2Proof.Tile) (w : Vx) (s : State) : Host.Outcome State Fault Refusal :=
  runVx t 0x41 w (vxReduce 256 fmax (.inf true) w) s
def execVrmin (t : Sys2Proof.Tile) (w : Vx) (s : State) : Host.Outcome State Fault Refusal :=
  runVx t 0x42 w (vxReduce 256 fmin (.inf false) w) s
def execVrsum16 (t : Sys2Proof.Tile) (w : Vx) (s : State) : Host.Outcome State Fault Refusal :=
  runVx t 0x43 w (vxReduce 16 (fadd false) (FV.zero false) w) s
def execVrmax16 (t : Sys2Proof.Tile) (w : Vx) (s : State) : Host.Outcome State Fault Refusal :=
  runVx t 0x44 w (vxReduce 16 fmax (.inf true) w) s
def execRld (t : Sys2Proof.Tile) (w : Vx) (s : State) : Host.Outcome State Fault Refusal := runVx t 0x48 w (vxLoad Site.resOk w) s
def execRadd (t : Sys2Proof.Tile) (w : Vx) (s : State) : Host.Outcome State Fault Refusal := runVx t 0x49 w (vxRadd w) s
def execRst (t : Sys2Proof.Tile) (w : Vx) (s : State) : Host.Outcome State Fault Refusal := runVx t 0x4A w (vxStore Site.resOk w) s
def execLd (t : Sys2Proof.Tile) (w : Vx) (s : State) : Host.Outcome State Fault Refusal := runVx t 0x50 w (vxLoad Site.memOk w) s
def execSt (t : Sys2Proof.Tile) (w : Vx) (s : State) : Host.Outcome State Fault Refusal := runVx t 0x51 w (vxStore Site.memOk w) s
def execVrand (t : Sys2Proof.Tile) (w : Vx) (s : State) : Host.Outcome State Fault Refusal := runVx t 0x5C w (vxRand w) s
def execVand (t : Sys2Proof.Tile) (w : Vx) (s : State) : Host.Outcome State Fault Refusal := runVx t 0x60 w (vxRaw (fun a b => a &&& b) w) s
def execVor (t : Sys2Proof.Tile) (w : Vx) (s : State) : Host.Outcome State Fault Refusal := runVx t 0x61 w (vxRaw (fun a b => a ||| b) w) s
def execVxor (t : Sys2Proof.Tile) (w : Vx) (s : State) : Host.Outcome State Fault Refusal := runVx t 0x62 w (vxRaw (fun a b => a ^^^ b) w) s
def execVmov (t : Sys2Proof.Tile) (w : Vx) (s : State) : Host.Outcome State Fault Refusal := runVx t 0x63 w (vxRaw (fun _ b => b) w) s
def execVrot (t : Sys2Proof.Tile) (w : Vx) (s : State) : Host.Outcome State Fault Refusal := runVx t 0x68 w (vxRot w) s

/-- VSYNC: wait until the drains of earlier MXU operations have written tile memory (R128); it holds the issue slot meanwhile, so each attempt counts
a busy cycle (R114, R130).
Log entry 190, DESIGN CHOICE. -/
def execVsync (t : Sys2Proof.Tile) (w : Vx) (s : State) : Host.Outcome State Fault Refusal :=
  if (match (s.tile t.val).mxu with
    | some m => m.a.toMem
    | none => false) then
    (if s.issueStopped then .next s else s.whenWord t.val (vxWord 0x7F w) (fun _ _ s => s.bumpTile t.val cVxuBusy 1))
  else runVx t 0x7F w (fun _ tl => .ok tl 0) s

end Sys2Proof.Machine
end

