-- ==== Sys2Proof/Machine/Control.lean ====
section
/-! DEFINITION. The control unit (R172): loops, scalar registers, argument slots, memory-port reads and
writes of tensor rows, and the end of a program. -/

namespace Sys2Proof.Machine

/-! ### Loops and scalar registers -/

/-- Set a tile and pass one word. -/
def State.done1 (s : State) (t : Nat) (tl : Tile) : State := (s.setTile t tl).advance t 1

/-- LOOP: a count of 0 skips the body. -/
def execLoop (t : Sys2Proof.Tile) (useReg : Bool) (reg : BitVec 5) (count : U32) (s : State) : Host.Outcome State Fault Refusal :=
  s.whenWord t.val (wLoop useReg reg.toNat count.toNat) (fun x tl s =>
    let n := if useReg then (tl.sreg reg.toNat).toNat else count.toNat
    if useReg && tl.parityOf (Uses.reg reg.toNat) then s.runParity x
    else if n = 0 then
      let p := x.im.progs.getD x.st []
      let pos := skipLoop (p.length + 1) 0 (tl.pos + 1) (p.drop (tl.pos + 1))
      (s.setTile t.val { tl with pos := pos }).moved x.rid
    else s.done1 t.val { tl with loops := (tl.pos + 1, n) :: tl.loops })

/-- ENDLOOP. -/
def execEndloop (t : Sys2Proof.Tile) (s : State) : Host.Outcome State Fault Refusal :=
  s.whenWord t.val wEndloop (fun x tl s =>
    match tl.loops with
    | (start, n) :: r =>
      if 1 < n then (s.setTile t.val { tl with pos := start, loops := (start, n - 1) :: r }).moved x.rid
      else s.done1 t.val { tl with loops := r }
    | [] => s.done1 t.val tl)

/-- SETS. -/
def execSets (t : Sys2Proof.Tile) (reg : BitVec 5) (imm : U32) (s : State) : Host.Outcome State Fault Refusal :=
  s.whenWord t.val (wSets reg.toNat imm.toNat) (fun _ tl s => s.done1 t.val ((tl.setSreg reg.toNat (imm.setWidth 64)).cleaned (Uses.reg reg.toNat)))

/-- ADDS: the immediate is sign-extended. -/
def execAdds (t : Sys2Proof.Tile) (reg : BitVec 5) (imm : U32) (s : State) : Host.Outcome State Fault Refusal :=
  s.whenWord t.val (wAdds reg.toNat imm.toNat) (fun x tl s =>
    if tl.parityOf (Uses.reg reg.toNat) then s.runParity x
    else s.done1 t.val (tl.setSreg reg.toNat (tl.sreg reg.toNat + imm.signExtend 64)))

/-- ARGS. -/
def execArgs (t : Sys2Proof.Tile) (reg : BitVec 5) (slot : BitVec 6) (s : State) : Host.Outcome State Fault Refusal :=
  s.whenWord t.val (wArgs reg.toNat slot.toNat) (fun x tl s =>
    s.done1 t.val ((tl.setSreg reg.toNat (x.run.args.getD slot.toNat 0)).cleaned (Uses.reg reg.toNat)))

/-! ### Memory-port accesses of a tile -/

/-- A range of an argument slot's object. -/
structure SlotRange where
  slot : Nat
  off : Nat
  len : Nat

/-- Whether a stage of a kind may read an object: HBM objects as R133 has it; of the flash tier, MODEL objects by tier-read and expert-gather stages, DATA
objects by tier-read stages, and ADAPTER objects by either in the owner's probe images (R242). No rule gives the status of a read by another kind; BOUNDS is
that of an access a page does not allow.
Log entry 210, DESIGN CHOICE. -/
def Obj.readBy (o : Obj) (stage : Nat) : Bool :=
  o.tier != 2 || (match o.kind with
    | 1 | 2 => stage == 3 || stage == 4
    | 3 => stage == 3
    | _ => false)

/-- Issue a tile's read of a range, after the page and key checks: the access, or none for ZERO pages, or
the status and scope of the fault (R185, R237, R238, R459). -/
def State.tileRead (s : State) (t : Nat) (x : Site) (r : SlotRange) : Except (Status × Scope) (Option Nat × State) :=
  if r.len = 0 then .ok (none, s)
  else
    match argObj s x.run.args r.slot with
    | none => .error (.handle, .context)
    | some (key, o) =>
      if o.bytes < r.off + r.len || !o.readBy (x.im.stageAt x.st).kind then .error (.bounds, .context)
      else if !s.keyServes key then .error (.key, .context)
      else
        match o.readVerdict r.off r.len with
        | .bad st sc => .error (st, sc)
        | _ => if o.allZero r.off r.len then .ok (none, s) else .ok (some s.accId, s.issueRead (.tile t) false key r.off r.len 0)

/-- Issue several reads. -/
def State.tileReads (s : State) (t : Nat) (x : Site) : List SlotRange → Except (Status × Scope) (List Nat × State)
  | [] => .ok ([], s)
  | r :: rs =>
    match s.tileRead t x r with
    | .error st => .error st
    | .ok (a, s) =>
      (match s.tileReads t x rs with
       | .error st => .error st
       | .ok (l, s) => .ok (a.toList ++ l, s))

/-- The bytes of a slot range, as the pages hold them. -/
def State.slotBytes (s : State) (x : Site) (r : SlotRange) : Bytes :=
  match argObj s x.run.args r.slot with
  | some (key, _) => s.objRead key r.off r.len
  | none => zeros r.len

/-- Issue a tile's write of a range: its slot must be read and write (R176).
Log entry 219, DESIGN CHOICE. -/
def State.tileWrite (s : State) (t : Nat) (x : Site) (slot off : Nat) (data : Bytes) : Except (Status × Scope) State :=
  match argObj s x.run.args slot, x.im.args[slot]? with
  | some (key, o), some d =>
    if d.type != 2 || o.bytes < off + data.length then .error (.bounds, .context)
    else if !s.keyServes key then .error (.key, .context)
    else
      (match o.writeVerdict off data.length with
       | .bad st sc => .error (st, sc)
       | _ => .ok (s.issueWrite (.tile t) false key off data 0))
  | _, _ => .error (.handle, .context)

/-- A tile waits for reads it has issued. -/
def State.await (s : State) (t : Nat) (accs : List Nat) (a : After) : State :=
  s.setTile t { s.tile t with wait := some ⟨accs, a, s.ts⟩ }

/-- Run an instruction that reads memory: at first its reads are issued and the tile waits; once every
read has come back, the next attempt of the same word acts on the data. -/
def State.whenRead (s : State) (t w : Nat) (issue : Site → Tile → State → Except (Status × Scope) (List Nat × After × State))
    (act : Site → Tile → After → State → State) : Host.Outcome State Fault Refusal :=
  match s.site t with
  | none => .next s
  | some x =>
    let tl := s.tile t
    if x.run.st != .running || tl.ended || x.word tl.pos != some w then .next s
    else
      match tl.wait with
      | none => if !x.slotFree tl then .next s else (match issue x tl s with
        | .ok (l, a, s) => .next ((s.await t l a).moved x.rid)
        | .error e => .next (s.runStop x e))
      | some wt => if wt.accs.isEmpty then .next (act x tl wt.after s) else .next s

/-! ### Tensor rows (R46, R86, R174) -/

def TensorD.f (d : TensorD) : Fmt := fmtOf d.fmt

/-- Element bytes of one row. -/
def TensorD.rowElem (d : TensorD) : Nat :=
  if d.f.blockScaled then d.blocksPerRow * blockBytes d.f (sparseKept d.sparsity) else d.kLen * d.f.width / 8

/-- Beats of one 16-block transfer, or of one register, and the blocks it covers (R126, R142). -/
def transferBeats (f : Fmt) : Nat := if f.blockScaled then blockBytes f 16 / 4 else 16
def transferBlocks (f : Fmt) : Nat := if f.width = 16 then 32 else 16

/-- A row of stored elements and scales as beats: transfers of 16 blocks, the scales on the sideband, a
mask bit for each block whose BS8 is zero (R91; log entry 29, DEDUCED). -/
def rowBeats (f : Fmt) (data scales : Bytes) : List Beat :=
  if f.blockScaled then
    let per := 16 * blockBytes f 16
    (List.range (ceilDiv data.length per)).flatMap (fun i =>
      let sc := (scales.drop (16 * i)).take 16
      let mask := ((sc.zipIdx).map (fun e => if e.1 = 0 then 2 ^ e.2 else 0)).sum
      mkBeats ((data.drop (per * i)).take per) sc mask 2)
  else mkBeats data [] 0 0

/-- A row's beats, up to a row length in bytes.
Log entry 193, DESIGN CHOICE. -/
def padRow (n : Nat) (l : List Beat) : List Beat :=
  l ++ (List.range (n / 64 - l.length)).map (fun i => ⟨beatBytes (inBytes l) (l.length + i), 0, 0, false, false, false, false, 0, none⟩)

/-- The data bytes and scales of a row read from a stream. -/
def unRow (f : Fmt) (n nb : Nat) (l : List Beat) : Bytes × Bytes :=
  let data := (inBytes l).take n
  if f.blockScaled then
    let tb := transferBeats f
    (data, ((List.range (ceilDiv nb 16)).flatMap (fun i => inScales ((l.drop (tb * i)).take 2))).take nb)
  else (data, [])

/-- The bytes of a row on a consumer's or producer's stream. -/
def Site.inRowBytes (x : Site) (port : Nat) : Nat := match x.inStream port with
  | some (_, d) => if d.mode = 3 then d.rowBytes / x.stageTiles d.consumer else d.rowBytes
  | none => 0
def Site.outRowBytes (x : Site) (port : Nat) : Nat := match x.outStream port with
  | some (_, d) => producerRow d (x.stageTiles d.producer)
  | none => 0

/-- MRD: rows of a tensor, from where the tile's last one of that tensor ended, onto a port; past the
tensor's rows is BOUNDS (log entry 30, DEDUCED). -/
def execMrd (t : Sys2Proof.Tile) (tensor : U8) (port : BitVec 4) (rows : U32) (s : State) : Host.Outcome State Fault Refusal :=
  s.whenRead t.val (wMem 0x88 tensor.toNat port.toNat rows.toNat)
    (fun x tl s =>
      match x.im.tensors[tensor.toNat]? with
      | none => .error (.malformed, .context)
      | some d =>
        let c := tl.cursors.getD tensor.toNat 0
        let n := rows.toNat
        if d.rows < c + n || d.elemSlot = 255 then .error (.bounds, .context)
        else
          let rs := [⟨d.elemSlot, d.elemOff + c * d.rowElem, n * d.rowElem⟩] ++
            (if d.scaleSlot = 255 then [] else [⟨d.scaleSlot, d.scaleOff + c * d.blocksPerRow, n * d.blocksPerRow⟩])
          (match s.tileReads t.val x rs with
           | .error st => .error st
           | .ok (l, s) => .ok (l, .mrd c, s.setTile t.val { tl with cursors := tl.cursors.set tensor.toNat (c + n) })))
    (fun x tl a s =>
      match x.im.tensors[tensor.toNat]?, a with
      | some d, .mrd c =>
        let beats := (List.range rows.toNat).flatMap (fun i =>
          let data := s.slotBytes x ⟨d.elemSlot, d.elemOff + (c + i) * d.rowElem, d.rowElem⟩
          let sc := if d.scaleSlot = 255 then [] else s.slotBytes x ⟨d.scaleSlot, d.scaleOff + (c + i) * d.blocksPerRow, d.blocksPerRow⟩
          padRow (x.outRowBytes port.toNat) (rowBeats d.f data sc))
        (match s.sendPort t.val port.toNat x beats with
         | none => s
         | some s => (s.setTile t.val { s.tile t.val with wait := none }).advance t.val 1)
      | _, _ => s.setTile t.val { tl with wait := none })

/-- Collect beats of a row from a port into the row buffer: as many as have arrived, up to `n`. -/
def State.collect (s : State) (t port n : Nat) (x : Site) : (fuel : Nat) → State
  | 0 => s
  | k + 1 =>
    let tl := s.tile t
    if n ≤ tl.rowBuf.length then s
    else
      match s.readPort t port 1 x with
      | none => s
      | some (bs, s) => State.collect (s.setTile t { s.tile t with rowBuf := (s.tile t).rowBuf ++ bs }) t port n x k

/-! ### Elements from a port (R309, R310, R380; log entry 192, DEDUCED) -/

/-- Beats a port must still give for `m` bytes of elements: what an earlier instruction left of a beat comes first.
Log entry 192, DEDUCED. -/
def Tile.beatsFor (tl : Tile) (port m : Nat) : Nat := ceilDiv (m - (tl.rest.getD port []).length) 64

/-- The bytes at hand on a port: what was left, and the beats collected.
Log entry 192, DEDUCED. -/
def Tile.atHand (tl : Tile) (port : Nat) : Bytes := tl.rest.getD port [] ++ tl.rowBuf.flatMap (fun b => b.data)

/-- Take `m` bytes of elements; what is left of the last beat stays for the next instruction.
Log entry 192, DEDUCED. -/
def Tile.takeElems (tl : Tile) (port m : Nat) : Tile :=
  let r := (tl.atHand port).drop m
  { tl with rowBuf := [], rest := if r.isEmpty then tl.rest.erase port else tl.rest.set port r }

/-- MWR: rows from a port into a tensor, each written as it completes, from where the tile's last one of
that tensor ended.
Log entry 30, DEDUCED. -/
def execMwr (t : Sys2Proof.Tile) (tensor : U8) (port : BitVec 4) (rows : U32) (s : State) : Host.Outcome State Fault Refusal :=
  s.whenWord t.val (wMem 0x89 tensor.toNat port.toNat rows.toNat) (fun x tl s =>
    match x.im.tensors[tensor.toNat]? with
    | none => s.runFault x .malformed
    | some d =>
      if rows = 0 || rows.toNat ≤ tl.rowsDone then s.done1 t.val { tl with rowsDone := 0 }
      else
        let n := x.inRowBytes port.toNat / 64
        let s := s.collect t.val port.toNat n x n
        let tl := s.tile t.val
        if tl.rowBuf.length < n || n = 0 then s
        else
          let c := tl.cursors.getD tensor.toNat 0
          if d.rows ≤ c || d.elemSlot = 255 then s.runFault x .bounds
          else
            let (data, sc) := unRow d.f d.rowElem d.blocksPerRow tl.rowBuf
            let tl := { tl with rowBuf := [], rowsDone := tl.rowsDone + 1, cursors := tl.cursors.set tensor.toNat (c + 1) }
            let s := s.setTile t.val tl
            (match s.tileWrite t.val x d.elemSlot (d.elemOff + c * d.rowElem) data with
             | .error e => s.runStop x e
             | .ok s =>
               (match (if d.scaleSlot = 255 then .ok s else s.tileWrite t.val x d.scaleSlot (d.scaleOff + c * d.blocksPerRow) sc) with
                | .error e => s.runStop x e
                | .ok s => if rows.toNat ≤ tl.rowsDone then s.done1 t.val { s.tile t.val with rowsDone := 0 } else s.moved x.rid)))

/-- END: the program ends once the tile's MXU operation has drained, and every credit of its inputs returns
(R153). The cycles lost to the memory port (MEM_STALL, R155) are a free value.
Log entry 190, DESIGN CHOICE. -/
def execEndProgram (t : Sys2Proof.Tile) (s : State) : Host.Outcome State Fault Refusal :=
  if (s.tile t.val).mxu.isSome then .next s
  else
    s.whenWord t.val wEnd (fun x tl s =>
      let (i, s) := s.fresh
      let s := s.setTile t.val { tl with ended := true, rowBuf := [], carryBuf := [], regs := tl.regs.set cMemStall (Config.freeWord i).toNat }
      match s.runs.get x.rid with
      | some r => (s.setRun x.rid { r.closeInputs x.im x.st x.k with lastMove := s.ts }).tileDone x.rid t.val
      | none => s)

end Sys2Proof.Machine
end

