-- ==== Sys2Proof/Machine/Adapters.lean ====
section
/-! DEFINITION. Private adapters (R210 to R234): PUBLISH, pins and evictions, the adapter loader, probe
reports and base replacement. -/

namespace Sys2Proof.Machine

/-! ### The adapter object (R210 to R212) -/

def adLayers (h : Bytes) : Nat := fieldLE h 6 2
def adRank (h : Bytes) : Nat := fieldLE h 8 1
def adProbes (h : Bytes) : Nat := fieldLE h 9 1
def adDrifted (h : Bytes) : Bool := bitOf (fieldLE h 10 2) 0
def adLoss (h : Bytes) : Nat := fieldLE h 12 4
def adBase (h : Bytes) : Bytes := (h.drop 0x10).take 16
def adLen (h : Bytes) : Nat := fieldLE h 0x20 4
def adProbeOff (h : Bytes) : Nat := fieldLE h 0x24 4
def adProbeLen (h : Bytes) : Nat := fieldLE h 0x28 4
def adDigest (h : Bytes) : Bytes := (h.drop 0x30).take 48

/-- Layer map entry `i` of an object's bytes, and its fields (R211). -/
def adEntry (b : Bytes) (i : Nat) : Bytes := (b.drop (0x80 + 32 * i)).take 32
def adEntryFmt (e : Bytes) : Nat := fieldLE e 2 1
def adEntryIn (e : Bytes) : Nat := fieldLE e 4 4
def adEntryOut (e : Bytes) : Nat := fieldLE e 8 4

/-- Whether a header is well formed for an object of `n` bytes (R210). -/
def adHeaderOk (h : Bytes) (n : Nat) : Bool :=
  fieldLE h 0 4 == 0x31504441 && fieldLE h 4 2 == 0x0100 && 1 ≤ adLayers h && adLayers h ≤ 1024 &&
  1 ≤ adRank h && adRank h ≤ 128 && adProbes h ≤ 64 && fieldLE h 10 2 < 2 &&
  (adLoss h < 0x7F800000 || adLoss h == 0x80000000) && adLen h % 64 == 0 && adLen h ≤ n &&
  0x80 + 32 * adLayers h ≤ adLen h && adProbeOff h % 64 == 0 && (adProbes h != 0 || adProbeOff h == 0) &&
  adProbeOff h + adProbeLen h ≤ adLen h && reservedZero h 0x2C 4 && reservedZero h 0x60 32

/-- Element and scale bytes of a dense matrix of `rows` rows of `k` elements (R46). -/
def matElem (f : Fmt) (rows k : Nat) : Nat :=
  if f.blockScaled then rows * ceilDiv k 16 * blockBytes f 16 else rows * k * f.width / 8
def matScaleOff (f : Fmt) (off rows k : Nat) : Nat := roundUp (off + matElem f rows k) 64
def matEnd (f : Fmt) (off rows k : Nat) : Nat :=
  if f.blockScaled then matScaleOff f off rows k + rows * ceilDiv k 16 else off + matElem f rows k

/-- Directory entry `i` of a probe set: the byte offset of a sequence within the set, and its token count, from 2 to 4,096 (R212). -/
def probeEntry (b : Bytes) (i : Nat) : Nat × Nat :=
  let o := adProbeOff b + 8 * i
  (fieldLE b o 4, fieldLE b (o + 4) 4)
/-- The token ids of a probe sequence. -/
def probeTokens (b : Bytes) (i : Nat) : List Nat :=
  let e := probeEntry b i
  (List.range e.2).map (fun j => fieldLE b (adProbeOff b + e.1 + 4 * j) 4)

/-- Whether a layer map is well formed, and its matrices follow it (R210, R211). -/
def adMapOk (b h : Bytes) : Bool :=
  (List.range (adLayers h)).all (fun i =>
    let e := adEntry b i
    let f := fmtOf (adEntryFmt e)
    (Fmt.ofCode (adEntryFmt e)).isSome && reservedZero e 3 1 && reservedZero e 0x14 4 &&
    fieldLE e 0x18 4 % 64 == 0 && fieldLE e 0x1C 4 % 64 == 0 &&
    0x80 + 32 * adLayers h ≤ fieldLE e 0x18 4 && 0x80 + 32 * adLayers h ≤ fieldLE e 0x1C 4 &&
    matEnd f (fieldLE e 0x18 4) (adRank h) (adEntryIn e) ≤ adLen h &&
    matEnd f (fieldLE e 0x1C 4) (adEntryOut e) (adRank h) ≤ adLen h)

/-- The layer check against a base's header and layer table (R228, R245). -/
def layerCheck (b h table : Bytes) : Bool :=
  (List.range (adLayers h)).all (fun i =>
    let e := adEntry b i
    let l := fieldLE e 0 2
    let t := (table.drop (0x40 + 16 * l)).take 16
    l < fieldLE table 6 2 && adEntryFmt e == fieldLE t 0 1 && adEntryIn e == fieldLE t 4 4 && adEntryOut e == fieldLE t 8 4)

/-- Bytes ADPT compares: a whole object up to its length. -/
def State.adBytes (s : State) (key : Nat) : Bytes :=
  let h := s.objRead key 0 128
  s.objRead key 0 (max 128 (adLen h))

/-! ### PUBLISH (R213, R232) -/

/-- Whether a key slot may protect a new adapter (R458): a TIER slot of the partition that no object and no
adapter names. -/
def State.publishKeyOk (s : State) (p k : Nat) : Bool :=
  k != 0 && s.keyOk (some p) k [.tier] && !s.objs.any (fun (e : Nat × Obj) => e.2.keySlot == k) &&
    !s.adpt.reg.any (fun (e : Nat × RegEntry) => e.2.keySlot == k)

/-- The TRAINING entry an object backs. -/
def State.trainingOf (s : State) (key : Nat) : Option (Nat × RegEntry) :=
  s.adpt.reg.find? (fun (e : Nat × RegEntry) => e.2.regState == regTraining && e.2.object.toNat % 2 ^ 20 == key)

def registrySlots : Nat := 65535

/-- The lowest FREE registry slot (R213). -/
def State.freeSlot (s : State) : Option Nat :=
  let i := s.adpt.reg.lowestFree (s.adpt.reg.length + 1) 0
  if i < registrySlots then some i else none

/-- Failures of a PUBLISH that has read an object's bytes: those of the context, then those of the request (R6, R213). A header that breaks R210 leaves
nothing to digest. -/
def State.publishFails (s : State) (p key k : Nat) (b : Bytes) : Option (Status × Scope) :=
  let o := s.objs.getD key (hiddenObj .object none 0)
  let h := b.take 128
  let ctx := failIf (!(adHeaderOk h o.bytes && adMapOk b h)) .malformed ++
    failIf (sha384 ((b.take (adLen h)).drop 0x80) != adDigest h) .digestMismatch ++ failIf (!s.publishKeyOk p k) .key
  match govern (if adHeaderOk h o.bytes then ctx else .malformed :: failIf (!s.publishKeyOk p k) .key) with
  | some st => some (st, .context)
  | none =>
    let dig := match s.trainingOf key with
      | some (_, r) => r.base != s.adpt.base || r.carry == caPending || r.carry == caIncompatible
      | none => adBase h != s.adpt.base
    let room := s.flashRoom p < ceilDiv (adLen h) pageBytes || s.freeSlot.isNone
    (govern (failIf dig .digestMismatch ++ failIf (!layerCheck b h s.adpt.baseTable) .malformed ++ failIf room .bounds)).map
      (fun st => (st, .request))

/-- Create the flash object of a new adapter: kind ADAPTER, behind a handle of the partition. -/
def State.newAdapterObj (s : State) (p k n : Nat) : Option (Nat × State) :=
  let i := s.objs.lowestFree (s.objs.length + 1) 0
  let g := s.nextGen i
  let o : Obj := ⟨g, .object, none, some p, 2, 2, k, false, false, false, false, none, [], false, [], 0, none, 0, none⟩
  if 2 ^ 20 ≤ i then none
  else (s.newFlash i o n []).map (fun s => (i, { s with objGens := s.objGens.set i g }))

/-- Once a PUBLISH has read its source: its checks, then the flash write of the new object. -/
def State.publishRead (s : State) (id : Nat) (w : Work) (key k : Nat) : State :=
  let drop := { s with works := s.works.erase id }
  match w.q, w.part with
  | some qk, some p =>
    if !w.failed.isEmpty then (drop.countPartial w).complete qk w.sub w.privDone
    else if !s.regRails then drop.devFault .integrity (some (qk, w.sub))
    else if !s.shroud.railsOk then drop.devFault .parity (some (qk, w.sub))
    else
      let b := w.bytes.take (max 128 (adLen (w.bytes.take 128)))
      (match s.publishFails p key k b with
       | some (st, sc) => drop.faultAt qk w.sub st sc
       | none =>
         let n := ceilDiv b.length pageBytes
         match s.newAdapterObj p k n with
         | none => drop.complete qk w.sub (Done.req .bounds)
         | some (nk, s) =>
           let w := { w with kind := .publish key k (some nk), chunks := pageChunks 0 b.length, done := [], failed := [], firstBad := none, got := [] }
           let s := { s with works := s.works.set id w }
           (List.range w.chunks.length).foldl (fun s i =>
             match w.chunks[i]? with
             | some c => s.issueWrite (.work id) true nk c.off ((b.drop c.off).take c.len) i
             | none => s) s)
  | _, _ => drop

/-- PUBLISH: the management DMA reads the object. -/
def execPublish (q : QId) (a : PublishArgs) (s : State) : Host.Outcome State Fault Refusal :=
  s.whenCtx q (.publish a) (fun qk e c x s =>
    match s.ownObj c e.ts a.handle, x.part with
    | some (key, o), some _ =>
      let (id, s) := s.startWork (mkWork qk e (some c) x.part (.publish key a.keySlot.toNat none) (pageChunks 0 o.bytes) s.ts 0)
      (match s.workBusy id, s.works.get id with
       | false, some w => s.publishRead id w key a.keySlot.toNat
       | _, _ => s)
    | _, _ => s.ctxFault c .handle (some (qk, e.sub)))

/-- The registry entry of a published adapter. -/
def State.publishedEntry (s : State) (p k key nk : Nat) : RegEntry :=
  let h := s.objRead nk 0 128
  let o := s.objs.getD nk (hiddenObj .object none 0)
  let ca := match s.trainingOf key with
    | some (_, r) => r.carry
    | none => caNative
  let c := regCtl k p regPublished ca ca
  ⟨c, ~~~c, s.adpt.base, mkHandle nk o.gen, none, adLayers h, 0x7FC00000, BitVec.ofNat 32 (adLoss h), s.ts, s.ts, adProbes h, adDrifted h⟩

/-- Once the flash write has ended: the object is sealed and the slot assigned, or nothing is. -/
def State.publishWritten (s : State) (id : Nat) (w : Work) (key k nk : Nat) : State :=
  let s := { s with works := s.works.erase id }
  match w.q, w.part with
  | some qk, some p =>
    if !w.failed.isEmpty then (s.dropPages nk).complete qk w.sub (Done.req .tierFail)
    else if !s.regRails then (s.dropPages nk).devFault .integrity (some (qk, w.sub))
    else
      (match s.freeSlot with
       | none => (s.dropPages nk).complete qk w.sub (Done.req .bounds)
       | some slot =>
         let s := s.sealObj nk (s.objRead nk 0 (s.objs.getD nk (hiddenObj .object none 0)).bytes)
         (s.setReg slot (s.publishedEntry p k key nk)).complete qk w.sub (Done.okay slot 0))
  | _, _ => s

/-! ### Loading (R217, R220, R221) -/

/-- Cache pages a partition's entries take, wipes included. -/
def State.cachePages (s : State) (p : Nat) : Nat :=
  (s.objs.filter (fun (e : Nat × Obj) => e.2.part == some p && (match e.2.use with
    | .cache _ => true
    | _ => false))).foldl (fun n e => n + e.2.pages.length) 0

/-- Cache pages a partition is wiping. -/
def State.wipingPages (s : State) (p : Nat) : Nat :=
  (s.adpt.wipes.filter (fun (e : Nat × (Nat × Nat × Option Nat)) => e.2.1 == p)).foldl (fun n e => n + (match s.objs.get e.2.2.1 with
    | some o => o.pages.length
    | none => 0)) 0

/-- Pages a published adapter takes (R217). -/
def State.adapterPages (s : State) (r : RegEntry) : Nat :=
  let h := s.objRead (r.object.toNat % 2 ^ 20) 0 128
  ceilDiv (adLen h - adProbeLen h) pageBytes

/-- Pages LOADING entries still wait for. -/
def State.owedPages (s : State) (p : Nat) : Nat :=
  (s.adpt.cache.filter (fun (e : Nat × CacheEntry) => e.2.part == p && e.2.st == .loading && e.2.pages.isNone)).foldl (fun n e =>
    n + (match s.adpt.reg.get e.2.slot with
      | some r => s.adapterPages r
      | none => 0)) 0

def State.cacheCount (s : State) (p : Nat) : Nat := (s.adpt.cache.filter (fun (e : Nat × CacheEntry) => e.2.part == p)).length

/-- Whether one more entry of `n` pages fits the partition's grant. Pages still being wiped are no room, save for the loads they were evicted for: those
that wait, and this one to the extent of the `freed` pages evicted for it (R220, R221). -/
def State.fits (s : State) (p n freed : Nat) : Bool :=
  match s.layout p with
  | some l => s.cacheCount p < l.adapterQuota.toNat &&
      (s.cachePages p - s.wipingPages p) + s.owedPages p + n + (s.wipingPages p - (s.owedPages p + freed)) ≤ l.adapterPages.toNat
  | none => false

/-- The eviction candidate of a partition: oldest unpin first, then lower index (R221). -/
def State.candidate (s : State) (p : Nat) : Option Nat :=
  ((s.adpt.cache.filter (fun (e : Nat × CacheEntry) => e.2.part == p && e.2.st == .resident && e.2.total == 0 && !e.2.evict &&
      e.2.pages.isSome)).foldl (fun (best : Option (Nat × Nat)) e => match best with
    | none => some (e.1, e.2.unpinTs)
    | some b => if e.2.unpinTs < b.2 then some (e.1, e.2.unpinTs) else some b) none).map (fun b => b.1)

/-- Evict candidates until a load of `n` pages fits; none when they cannot make room. -/
def State.makeRoom (s : State) (p n freed : Nat) : (fuel : Nat) → Option State
  | 0 => if s.fits p n freed then some s else none
  | k + 1 =>
    if s.fits p n freed then some s
    else
      match s.candidate p with
      | none => none
      | some i =>
        let s' := (s.wipeEntry i).bumpPart p cAdEvict 1
        State.makeRoom s' p n (freed + (s'.wipingPages p - s.wipingPages p)) k

/-- The pieces of an adapter object that the loader reads: the object without its probe set, by page, with the parts of R254 over the pages it covers
(R212, R217). -/
def loadChunks (h : Bytes) : List Chunk :=
  let (a, b) := if adProbes h = 0 then (adLen h, adLen h) else (adProbeOff h, adProbeOff h + adProbeLen h)
  let l := cutPages 0 a ++ cutPages b (adLen h - b)
  let pages := (l.map (fun r => r.1 / pageBytes)).eraseDups
  l.map (fun r => ⟨r.1, r.2, partOf pages.length (pages.idxOf (r.1 / pageBytes))⟩)

/-- Start the loader of an entry whose pages are free: a hidden page set under the adapter's key slot, and
the reads of its object. -/
def State.startLoad (s : State) (i : Nat) : State :=
  match s.adpt.cache.get i with
  | none => s
  | some e =>
    match s.adpt.reg.get e.slot with
    | none => s
    | some r =>
      let n := s.adapterPages r
      let cap := match s.layout e.part with
        | some l => l.adapterPages.toNat
        | none => 0
      if e.pages.isSome || e.st != .loading || cap < s.cachePages e.part + n then s
      else
        let k := s.hiddenKey
        match s.newHbm k (hiddenObj (.cache i) (some e.part) r.keySlot) n [] with
        | none => s
        | some s =>
          let s := s.setCache i { e with pages := some k }
          let src := r.object.toNat % 2 ^ 20
          ((s.bumpPart e.part cAdLoads 1).startWork
            ⟨none, 0, none, some e.part, .adapterLoad src i, loadChunks (s.objRead src 0 128), [], [], none, s.ts, 0, []⟩).2

/-- Start every load that waits for room. -/
def State.startLoads (s : State) : State :=
  (s.adpt.cache.filter (fun (e : Nat × CacheEntry) => e.2.st == .loading && e.2.pages.isNone)).foldl (fun s e => s.startLoad e.1) s

/-- What the loader copies: the object without its probe set (R212). -/
def State.loadBytes (s : State) (src : Nat) : Bytes :=
  let b := s.adBytes src
  let h := b.take 128
  if adProbes h = 0 then b else b.take (adProbeOff h) ++ b.drop (adProbeOff h + adProbeLen h)

/-- The lowest free cache index. -/
def State.cacheIndex (s : State) : Nat :=
  let used := s.adpt.cache.map (fun (e : Nat × CacheEntry) => e.1) ++ s.adpt.wipes.map (fun (e : Nat × (Nat × Nat × Option Nat)) => e.1)
  ((List.range 4097).find? (fun i => !used.contains i)).getD 4096

/-! ### Pins (R218 to R222, R225) -/

/-- A PIN that ends with a status at request scope. -/
def State.pinRefused (s : State) (qk sub : Nat) (st : Status) : State := s.complete qk sub (Done.req st)

/-- Read a registry entry of the submitting partition: a FREE slot is HANDLE, another partition's KEY, and
a dual-rail mismatch a device fault (R214, R220). -/
def State.withReg (s : State) (p c qk sub slot : Nat) (f : RegEntry → State) : State :=
  match s.adpt.reg.get slot with
  | none => s.ctxFault c .handle (some (qk, sub))
  | some r =>
    if !r.railOk then s.devFault .integrity (some (qk, sub))
    else if r.regState = 0 then s.ctxFault c .handle (some (qk, sub))
    else if r.owner != p then s.ctxFault c .key (some (qk, sub))
    else f r

/-- Whether a carry state accepts a serve-form pin (R215). -/
def serveOk (carry : Nat) (drifted : Bool) : Bool := carry == caNative || carry == caCarried || (carry == caDrifted && drifted)

/-- PIN_ADAPTER in serve form. -/
def State.pinServe (s : State) (p c qk sub slot : Nat) : State :=
  s.withReg p c qk sub slot (fun r =>
    if r.regState = regRevoked then s.pinRefused qk sub .key
    else if !serveOk r.carry r.allowDrifted then s.pinRefused qk sub .digestMismatch
    else
      match s.entryOf slot with
      | some (i, e) =>
        (match e.st with
         | .void => s.pinRefused qk sub (if e.revoked then .key else .tierFail)
         | .resident =>
           if 65535 ≤ e.total then s.pinRefused qk sub .bounds
           else ((s.setCache i (e.pin c)).bumpPart p cAdHits 1).complete qk sub (Done.okay slot 0)
         | .loading =>
           if 65535 ≤ e.total then s.pinRefused qk sub .bounds
           else s.setCache i { e.pin c with waiters := e.waiters ++ [(qk, sub, c)] })
      | none =>
        (match s.makeRoom p (s.adapterPages r) 0 (s.adpt.cache.length + 1) with
         | none => s.pinRefused qk sub .bounds
         | some s =>
           let i := s.cacheIndex
           let e : CacheEntry := ⟨.loading, p, slot, [(c, 1)], false, 0, none, [(qk, sub, c)], [], false, false⟩
           let s := s.setCache i e
           ((match s.adpt.reg.get slot with
             | some r => s.setReg slot { r with cacheIdx := some i }
             | none => s).startLoad i)))

/-- The header and the layer map of an adapter object, as a range from its start. -/
def headLen (layers : Nat) : Nat := 0x80 + 32 * layers

/-- Another train-form PIN of an object that backs a TRAINING entry adds a pin (R225). -/
def State.trainAgain (s : State) (c qk sub slot : Nat) : State :=
  match s.entryOf slot with
  | some (i, e) =>
    if 65535 ≤ e.total then s.pinRefused qk sub .bounds
    else (s.setCache i (e.pin c)).complete qk sub (Done.okay slot 0)
  | none => s.pinRefused qk sub .bounds

/-- Once a train-form PIN has read its object's header and layer map: their checks, the lowest FREE registry slot in state TRAINING, and a RESIDENT entry
that the object itself backs (R225). -/
def State.trainRead (s : State) (id : Nat) (w : Work) (key : Nat) (handle : U32) : State :=
  let s := { s with works := s.works.erase id }
  match w.q, w.ctx, w.part, s.objs.get key with
  | some qk, some c, some p, some o =>
    let b := w.bytes
    let h := b.take 128
    if !w.failed.isEmpty then (s.countPartial w).complete qk w.sub w.privDone
    else if !s.regRails then s.devFault .integrity (some (qk, w.sub))
    else if !(adHeaderOk h o.bytes && adMapOk b h) || adProbes h != 0 then s.ctxFault c .malformed (some (qk, w.sub))
    else
      match s.trainingOf key with
      | some (slot, _) => s.trainAgain c qk w.sub slot
      | none =>
        (match s.freeSlot, s.makeRoom p 0 0 (s.adpt.cache.length + 1) with
         | some slot, some s =>
           let i := s.cacheIndex
           let ctl := regCtl o.keySlot p regTraining caNative caNative
           let s := s.setReg slot ⟨ctl, ~~~ctl, adBase h, handle, some i, adLayers h, 0x7FC00000, BitVec.ofNat 32 (adLoss h),
             s.ts, s.ts, adProbes h, adDrifted h⟩
           (s.setCache i ⟨.resident, p, slot, [(c, 1)], false, 0, none, [], [], false, false⟩).complete qk w.sub (Done.okay slot 0)
         | _, _ => s.pinRefused qk w.sub .bounds)
  | some qk, some c, _, none => s.ctxFault c .handle (some (qk, w.sub))
  | _, _, _, _ => s

/-- PIN_ADAPTER in train form (R225): a trainable HBM object of the context that holds an adapter without
a probe set, whose header and layer map the management DMA reads as it does for PUBLISH. -/
def State.pinTrain (s : State) (p c t qk : Nat) (e : Entry) (handle : U32) : State :=
  match s.ownObj c t handle with
  | none => s.ctxFault c .handle (some (qk, e.sub))
  | some (key, o) =>
    if !s.regRails then s.devFault .integrity (some (qk, e.sub))
    else if o.tier != 1 || !o.trainable then s.ctxFault c .malformed (some (qk, e.sub))
    else
      match s.trainingOf key with
      | some (slot, _) => s.trainAgain c qk e.sub slot
      | none =>
        let n := min o.bytes (headLen (adLayers (s.objRead key 0 128)))
        let (id, s) := s.startWork (mkWork qk e (some c) (some p) (.pinTrain key handle) (pageChunks 0 n) s.ts 0)
        match s.workBusy id, s.works.get id with
        | false, some w => s.trainRead id w key handle
        | _, _ => s

/-- PIN_ADAPTER. -/
def execPinAdapter (q : QId) (a : PinArgs) (s : State) : Host.Outcome State Fault Refusal :=
  s.whenCtx q (.pinAdapter a) (fun qk e c x s =>
    match x.part with
    | none => s.ctxFault c .handle (some (qk, e.sub))
    | some p => if a.form = 0 then s.pinServe p c qk e.sub a.slot.toNat else s.pinTrain p c e.ts qk e a.handle)

/-- UNPIN_ADAPTER. -/
def execUnpinAdapter (q : QId) (slot : U16) (s : State) : Host.Outcome State Fault Refusal :=
  s.whenCtx q (.unpinAdapter slot) (fun qk e c x s =>
    match x.part with
    | none => s.ctxFault c .handle (some (qk, e.sub))
    | some p => s.withReg p c qk e.sub slot.toNat (fun r =>
        if r.regState = regRevoked then s.complete qk e.sub (Done.okay 0 0)
        else
          match s.entryOf slot.toNat with
          | some (i, en) =>
            if en.st == .void then s.complete qk e.sub (Done.okay 0 0)
            else if en.pins.getD c 0 = 0 then s.ctxFault c .handle (some (qk, e.sub))
            else ((s.setCache i (en.unpin c)).afterUnpin i).complete qk e.sub (Done.okay 0 0)
          | none => s.ctxFault c .handle (some (qk, e.sub))))

/-- EVICT_ADAPTER. -/
def execEvictAdapter (q : QId) (slot : U16) (s : State) : Host.Outcome State Fault Refusal :=
  s.whenCtx q (.evictAdapter slot) (fun qk e c x s =>
    match x.part with
    | none => s.ctxFault c .handle (some (qk, e.sub))
    | some p => s.withReg p c qk e.sub slot.toNat (fun r =>
        let ok (s : State) : State := s.complete qk e.sub (Done.okay 0 0)
        if r.regState != regPublished then ok s
        else
          match s.entryOf slot.toNat with
          | some (i, en) =>
            if en.st == .void then ok s
            else if en.total != 0 || en.st == .loading then ok ((s.setCache i { en with evict := true, byCommand := true }).bumpPart p cAdDefer (b2n (!en.evict)))
            else ok ((s.wipeEntry i).bumpPart p cAdEvict 1)
          | none => ok s))

/-- ADAPTER_LOAD_DONE: once every read of the load has come back, the entry becomes RESIDENT, or VOID with
the failure's status; waiting PINs complete (R220). -/
def execAdapterLoadDone (entry : Nat) (status : Status) (s : State) : Host.Outcome State Fault Refusal :=
  match s.adpt.cache.get entry, s.works.find? (fun (e : Nat × Work) => match e.2.kind with
      | .adapterLoad _ i => i == entry
      | _ => false) with
  | some e, some (id, w) =>
    if s.workBusy id then .next s
    else
      let s := { s with works := s.works.erase id }
      if e.st != .loading then .next s
      else
        let st := if !w.failed.isEmpty then w.status
          else match status with
            | .tierFail | .partialDone | .integrity | .key => status
            | _ => .ok
        if st == .ok then
          let src := match w.kind with
            | .adapterLoad src _ => src
            | _ => 0
          let s := (match e.pages with
            | some k => s.objWrite k 0 (s.loadBytes src)
            | none => s)
          let s := s.setCache entry { e with st := .resident, waiters := [] }
          let s := e.waiters.foldl (fun s x => s.complete x.1 x.2.1 (Done.okay e.slot 0)) s
          .next (s.afterUnpin entry)
        else
          let s := ((s.bumpPart e.part cAdLoadFail 1).countPartial w).voidEntry entry false
          let d : Done := { w.privDone with st := st }
          .next (e.waiters.foldl (fun s x => s.complete x.1 x.2.1 d) s)
  | _, _ => .next s

/-- Return frames to the free HBM frames: zeroed, counter blocks initialised (R220, R238). -/
def State.freeFrame (s : State) (f : Nat) : State :=
  { s with hbm := s.hbm.clear (f * pageBytes) pageBytes, hbmUsed := s.hbmUsed.erase f, shroud := s.shroud.initFrame f }

/-- ADAPTER_WIPE_DONE: an entry's pages are zero and return to the grant; a REVOKED registry slot whose entry this was becomes FREE; loads that wait for
room start (R220, R224). -/
def execAdapterWipeDone (entry : Nat) (s : State) : Host.Outcome State Fault Refusal :=
  match s.adpt.wipes.get entry with
  | none => .next s
  | some (_, k, revoked) =>
    let fs := match s.objs.get k with
      | some o => o.pages.map Pte.frameNo
      | none => []
    let s := { s with objs := s.objs.erase k, adpt := { s.adpt with wipes := s.adpt.wipes.erase entry } }
    let s := fs.foldl State.freeFrame s
    .next (match revoked with
      | some slot => s.freeRevoked slot
      | none => s).startLoads

/-! ### Revocation (R223, R459) -/

/-- Registry entries that a key slot protects: PUBLISHED and TRAINING ones. -/
def State.protectedBy (s : State) (k : Nat) : Tbl RegEntry :=
  s.adpt.reg.filter (fun (e : Nat × RegEntry) => e.2.keySlot == k && (e.2.regState == regPublished || e.2.regState == regTraining))

/-- A key slot is withdrawn: adapters it protects become REVOKED, their entries, where they have any, VOID, and their pins go.
Waiting PINs complete with KEY. An adapter that is not resident has no entry to hold (R224), so its slot becomes FREE. -/
def State.revokeAdapters (s : State) (k : Nat) : State :=
  (s.protectedBy k).foldl (fun s e =>
    let s := s.setReg e.1 (e.2.withState regRevoked)
    match s.entryOf e.1 with
    | some (i, en) =>
      let s := s.voidEntry i true
      en.waiters.foldl (fun s x => s.pinRefused x.1 x.2.1 .key) s
    | none => s.freeRevoked e.1) s

/-! ### Base replacement (R227 to R232) -/

/-- Start an admin command of the physical function (R404). -/
def State.whenAdmin (s : State) (q : QId) (cmd : HostCmd) (f : Nat → Entry → State → State) : Host.Outcome State Fault Refusal :=
  if q.idx = 0 then s.whenStarted q cmd f else .next s

/-- The carry an entry takes against a proposed base, by its header and layer map: INCOMPATIBLE when the layer check fails; DRIFTED when a published
adapter has no probe (R230); else PENDING (R228, R232).
Log entry 205, DEDUCED. -/
def proposedCarry (r : RegEntry) (b table : Bytes) : Nat :=
  if !layerCheck b (b.take 128) table then caIncompatible else if r.probes = 0 && r.regState == regPublished then caDrifted else caPending

/-- Change every PUBLISHED and every TRAINING entry. -/
def mapReg (s : State) (f : RegEntry → RegEntry) : State :=
  { s with adpt := { s.adpt with reg := s.adpt.reg.map (fun (e : Nat × RegEntry) =>
      (e.1, if e.2.regState == regPublished || e.2.regState == regTraining then f e.2 else e.2)) } }

/-- Once the headers have been read: the layer checks. An adapter whose header read failed is INCOMPATIBLE, and the failure is counted (R228). -/
def State.headersRead (s : State) (id : Nat) (w : Work) (model : Nat) (ads : List (Nat × Nat)) : State :=
  let s := { s with works := s.works.erase id }
  match w.q, s.objs.get model, s.adpt.proposal with
  | some qk, some o, some (dig, table) =>
    if dig != o.digest.take 16 then s.complete qk w.sub (Done.req .aborted)
    else if !s.regRails then s.devFault .integrity (some (qk, w.sub))
    else
      let s := (ads.zipIdx).foldl (fun s x =>
        match s.adpt.reg.get x.1.1 with
        | none => s
        | some r =>
          if r.object.toNat % 2 ^ 20 != x.1.2 || !(r.regState == regPublished || r.regState == regTraining) then s
          else if w.failed.contains x.2 then (s.setReg x.1.1 (r.withCarry r.carry caIncompatible)).bumpPart r.owner cAdLoadFail 1
          else s.setReg x.1.1 (r.withCarry r.carry (proposedCarry r (w.got.getD x.2 []) table))) s
      s.complete qk w.sub (Done.okay 0 0)
  | some qk, _, _ => s.complete qk w.sub (Done.req .aborted)
  | none, _, _ => s

/-- BASE_PROPOSE: a sealed MODEL object of the operator. Every next_carry becomes PENDING, and the management DMA reads the adapters' headers for their
layer checks (R227, R228). -/
def execBasePropose (q : QId) (handle : U32) (s : State) : Host.Outcome State Fault Refusal :=
  s.whenAdmin q (.basePropose handle) (fun qk e s =>
    let named := (s.objOf handle).filter (fun x => x.2.kind == 1 && x.2.isSealed)
    match govern (failIf s.adpt.proposal.isSome .bounds ++ failIf named.isNone .handle), named with
    | some st, _ => s.complete qk e.sub (Done.req st)
    | none, none => s.complete qk e.sub (Done.req .handle)
    | none, some (key, o) =>
      if !s.regRails then s.devFault .integrity (some (qk, e.sub))
      else
        let table := s.objRead key 0 (0x40 + 16 * fieldLE (s.objRead key 0 64) 6 2)
        let live := s.adpt.reg.filter (fun (x : Nat × RegEntry) => x.2.regState == regPublished || x.2.regState == regTraining)
        let ads := live.map (fun (x : Nat × RegEntry) => (x.1, x.2.object.toNat % 2 ^ 20))
        let s := mapReg s (fun r => r.withCarry r.carry caPending)
        let s := { s with adpt := { s.adpt with proposal := some (o.digest.take 16, table) } }
        let chunks : List Chunk := (live.zipIdx).map (fun x => ⟨0, headLen x.1.2.layers, x.2⟩)
        let (id, s) := s.startWork (mkWork qk e none none (.headers key ads) chunks s.ts 0)
        match s.workBusy id, s.works.get id with
        | false, some w => s.headersRead id w key ads
        | _, _ => s)

/-- BASE_COMMIT: next_carry becomes carry; CARRIED and DRIFTED entries take the new digest; a pinned adapter
that carry now refuses is evicted at its release (R231, R232).
Log entry 178, DEDUCED. -/
def execBaseCommit (q : QId) (s : State) : Host.Outcome State Fault Refusal :=
  s.whenAdmin q .baseCommit (fun qk e s =>
    match s.adpt.proposal with
    | none => s.complete qk e.sub (Done.req .bounds)
    | some (dig, table) =>
      if !s.regRails then s.devFault .integrity (some (qk, e.sub)) else
      let s := mapReg s (fun r =>
        let n := r.nextCarry
        let r := { r.withCarry n n with carryTs := if n = r.carry then r.carryTs else s.ts }
        if n = caCarried || n = caDrifted then { r with base := dig } else r)
      let refuse (slot : Nat) : Bool := match s.adpt.reg.get slot with
        | some r => r.regState == regPublished && !serveOk r.carry r.allowDrifted
        | none => false
      let pinned := s.adpt.cache.filter (fun (x : Nat × CacheEntry) => x.2.total != 0 && refuse x.2.slot)
      let cache := s.adpt.cache.map (fun (x : Nat × CacheEntry) =>
        (x.1, if x.2.total != 0 && refuse x.2.slot then { x.2 with evict := true } else x.2))
      let s := pinned.foldl (fun (s : State) (x : Nat × CacheEntry) => s.bumpPart x.2.part cAdDefer (b2n (!x.2.evict))) s
      { s with adpt := { s.adpt with base := dig, baseTable := table, proposal := none, cache := cache } }.repair.complete qk e.sub (Done.okay 0 0))

/-- BASE_ABANDON: every next_carry takes the value of its carry.
Log entry 178, DEDUCED. -/
def execBaseAbandon (q : QId) (s : State) : Host.Outcome State Fault Refusal :=
  s.whenAdmin q .baseAbandon (fun qk e s =>
    if !s.regRails then s.devFault .integrity (some (qk, e.sub)) else
    let reg := s.adpt.reg.map (fun (x : Nat × RegEntry) => (x.1, x.2.withCarry x.2.carry x.2.carry))
    { s with adpt := { s.adpt with reg := reg, proposal := none } }.complete qk e.sub (Done.okay 0 0))

/-! ### Probe reports (R229, R230) -/

/-- The mean probe loss of a result block. -/
def meanLoss (block : Bytes) (n : Nat) : Nat :=
  let acc := (List.range n).foldl (fun (acc : Nat) i =>
    let sum := d32 (fieldLE block (8 * i) 4)
    let tok : FV := .fin false ⟨fieldLE block (8 * i + 4) 4, 0, false⟩
    (r32 (fadd false (d32 acc) (d32 (r32 (fdiv sum tok)).1))).1) 0
  (r32 (fdiv (d32 acc) (.fin false ⟨n, 0, false⟩))).1

/-- Whether a probe report of an entry sets next_carry, while a proposal stands, or carry; none where neither is PENDING (R230). -/
def State.reportSets (s : State) (r : RegEntry) : Option Bool :=
  if s.adpt.proposal.isSome && r.nextCarry == caPending then some true else if r.carry == caPending then some false else none

/-- Once the block has been read: the mean sets next_carry while a proposal stands, and carry otherwise. -/
def State.reportRead (s : State) (id : Nat) (w : Work) (slot : Nat) : State :=
  let s := { s with works := s.works.erase id }
  match w.q, s.adpt.reg.get slot with
  | some qk, some r =>
    if !w.failed.isEmpty then (s.countPartial w).complete qk w.sub w.privDone
    else if !r.railOk then s.devFault .integrity (some (qk, w.sub))
    else
      match s.reportSets r with
      | none => s.complete qk w.sub (Done.req .stale)
      | some next =>
        let block := w.bytes
        if (List.range r.probes).any (fun i => fieldLE block (8 * i + 4) 4 == 0) then s.complete qk w.sub (Done.req .malformed)
        else
          let m := meanLoss block r.probes
          let v := if (fcmp .le (d32 m) (d32 r.lossBound.toNat)).1 then caCarried else caDrifted
          let r := { r with probeLoss := BitVec.ofNat 32 m }
          let r := if next then r.withCarry r.carry v
            else { r.withCarry v (if s.adpt.proposal.isSome then r.nextCarry else v) with carryTs := s.ts, base := s.adpt.base }
          (s.setReg slot r).complete qk w.sub (Done.okay 0 0)
  | some qk, none => s.complete qk w.sub (Done.req .stale)
  | none, _ => s

/-- PROBE_REPORT: accepted from the owner, for an adapter that is PENDING; the management DMA reads the block (R229, R230). -/
def execProbeReport (q : QId) (a : ProbeArgs) (s : State) : Host.Outcome State Fault Refusal :=
  s.whenCtx q (.probeReport a) (fun qk e c x s =>
    match s.adpt.reg.get a.slot.toNat, s.ownObj c e.ts a.handle with
    | some r, some (key, _) =>
      if !r.railOk then s.devFault .integrity (some (qk, e.sub))
      else if some r.owner != x.part then s.ctxFault c .handle (some (qk, e.sub))
      else if (s.reportSets r).isNone then s.complete qk e.sub (Done.req .stale)
      else
        let (id, s) := s.startWork (mkWork qk e (some c) x.part (.report a.slot.toNat key a.off.toNat) (pageChunks a.off.toNat 512) s.ts 0)
        (match s.workBusy id, s.works.get id with
         | false, some w => s.reportRead id w a.slot.toNat
         | _, _ => s)
    | none, _ => s.ctxFault c .handle (some (qk, e.sub))
    | _, none => s.ctxFault c .handle (some (qk, e.sub)))

/-! ### What gathers see (R200, R203, R226) -/

/-- Whether a context of the partition pins an entry. -/
def State.pinnedBy (s : State) (p : Nat) (e : CacheEntry) : Bool :=
  e.pins.any (fun x => s.ctxPart (some x.1) == some p)

/-- The object that holds an adapter's bytes, and how an offset of the object maps to it. -/
def State.adapterStore (s : State) (slot : Nat) : Option (Nat × Bytes) :=
  match s.adpt.reg.get slot, s.entryOf slot with
  | some r, some (_, e) =>
    (match e.pages with
     | some k => some (k, s.objRead k 0 128)
     | none => let k := r.object.toNat % 2 ^ 20; some (k, s.objRead k 0 128))
  | _, _ => none

/-- Where a byte of the adapter object lies in the cached copy. -/
def cachedOff (h : Bytes) (off : Nat) : Nat :=
  if adProbes h != 0 && adProbeOff h + adProbeLen h ≤ off then off - adProbeLen h else off

end Sys2Proof.Machine
end

