-- ==== Sys2Proof/Machine/Matrix.lean ====
section
/-! DEFINITION. The matrix unit (R78 to R106, R599): operands as stored, products and their order in fast
and strict mode, the output path, and the start and drain of output tiles. -/

namespace Sys2Proof.Machine

/-! ### Modes (R78, R79) -/

def transposed (m : Nat) : Bool := mwMode m == 4
/-- Rows per accumulator set, in all. -/
def setRows (m : Nat) : Nat := if transposed m then 256 else 128
/-- Output columns per set. -/
def setCols (m : Nat) : Nat := if transposed m then 64 else 128
/-- Independent units. -/
def mxuUnits (m : Nat) : Nat := if mwMode m = 2 then 2 else if mwMode m = 3 then 4 else 1
/-- Rows streamed in an array cycle. -/
def rowsPerCycle (m : Nat) : Nat := if transposed m then 2 else 1

/-- Reduction positions of one pass (R79, R88, R89). -/
def passDepth (m : Nat) : Nat :=
  let base := match widthClass (fmtOf (mwX m)) with
    | some 0 => 256
    | some 1 => 128
    | some 2 => 64
    | _ => 8
  let sp := if transposed m then 1 else if mwSparsity m = 0 then 1 else if mwSparsity m = 1 then 2 else 4
  max 1 (base / mxuUnits m) * sp

/-- Reduction length and output columns of an operation (R78). -/
def MxuOp.m (o : MxuOp) : Nat := o.a.mode.toNat
/-- Log entry 219, DESIGN CHOICE. -/
def MxuOp.red (o : MxuOp) : Nat := if transposed o.m then o.wRows else o.wK
def MxuOp.cols (o : MxuOp) : Nat := if transposed o.m then o.wK else o.wRows
def MxuOp.rowTiles (o : MxuOp) : Nat := ceilDiv o.rows (setRows o.m)
def MxuOp.colBlocks (o : MxuOp) : Nat := ceilDiv o.cols (setCols o.m)
/-- Rows of row tile `i`. -/
def MxuOp.tileRows (o : MxuOp) (i : Nat) : Nat := min (setRows o.m) (o.rows - i * setRows o.m)

/-! ### The stationary operand (R84 to R87) -/

/-- Positions of a metadata word's survivors within their block, in increasing position; none for a word
that R87 refuses. -/
def survivors (sp word : Nat) : Option (List Nat) :=
  match sp with
  | 1 =>
    if (List.range 4).all (fun g => bitsOf word (4 * g) 2 < bitsOf word (4 * g + 2) 2) then
      some ((List.range 4).flatMap (fun g => [4 * g + bitsOf word (4 * g) 2, 4 * g + bitsOf word (4 * g + 2) 2]))
    else none
  | 2 => if bitsOf word 8 8 = 0 then some ((List.range 4).map (fun g => 4 * g + bitsOf word (2 * g) 2)) else none
  | 3 =>
    if bitsOf word 12 4 = 0 && (List.range 2).all (fun g => bitsOf word (6 * g) 3 < bitsOf word (6 * g + 3) 3) then
      some ((List.range 2).flatMap (fun g => [8 * g + bitsOf word (6 * g) 3, 8 * g + bitsOf word (6 * g + 3) 3]))
    else none
  | _ => some (List.range 16)

/-- Whether every metadata word of an operand is well formed. -/
def metaOk (sp : Nat) (b : Bytes) : Bool :=
  sp == 0 || (List.range (b.length / 2)).all (fun i => (survivors sp (fieldLE b (2 * i) 2)).isSome)

/-- Stationary element of row `n` at position `k`: its value, or none when it is absent (R90); its block's
BS8 (0 for a format without scales). -/
def MxuOp.wAt (o : MxuOp) (n k : Nat) : Option FV × Nat :=
  let f := fmtOf (mwW o.m)
  if o.wK ≤ k then (none, 0)
  else if !f.blockScaled then
    (some (decode f (fieldLE o.w ((n * o.wK + k) * (f.width / 8)) (f.width / 8))), 0)
  else
    let nb := ceilDiv o.wK 16
    let b := n * nb + k / 16
    let sc := fieldLE o.wScale b 1
    let sp := mwSparsity o.m
    let size := blockBytes f (sparseKept sp)
    let pos := (survivors sp (if sp = 0 then 0 else fieldLE o.wMeta (2 * b) 2)).getD []
    match pos.findIdx? (fun p => p == k % 16) with
    | some i => (if sc = 0 then none else some (decode f (unpackCode f.width (fieldLE o.w (b * size) size) i)), sc)
    | none => (none, sc)

/-! ### Products and sums (R69, R90 to R96) -/

/-- Streaming element at reduction position `k` of a row: its value, or none when absent, and its BS8. -/
def MxuOp.xAt (o : MxuOp) (r : XRow) (k : Nat) : Option FV × Nat :=
  let f := fmtOf (mwX o.m)
  let b := k / 16
  let sc := if f.blockScaled then nth0 r.scales b else 0
  if (f.blockScaled && sc == 0) || (mwZskip o.m && bitOf r.zmask b) || o.red ≤ k then (none, sc)
  else (some (decode f (nth0 r.elems k)), sc)

/-- Stationary element met by position `k` for output `j`. -/
def MxuOp.wFor (o : MxuOp) (j k : Nat) : Option FV × Nat := if transposed o.m then o.wAt k j else o.wAt j k

/-- Multiply by a BS8 value; a format without scales has none. -/
def byScale (v : FV) (c : Nat) : FV :=
  if c = 0 then v
  else match v with
    | .fin n x => .fin n (x.mul (bs8 c))
    | v => v

/-- Present products of positions `[lo, hi)`: product with no scale but the stationary one in transposed
mode, the streaming BS8 and the stationary BS8. -/
def MxuOp.products (o : MxuOp) (r : XRow) (j lo hi : Nat) : List (FV × Nat × Nat) :=
  ((List.range (hi - lo)).map (fun i => lo + i)).filterMap (fun k =>
    match o.xAt r k, o.wFor j k with
    | (some x, cx), (some w, cw) =>
      if transposed o.m then some ((fmul x (byScale w cw)).1, cx, cw) else some ((fmul x w).1, cx, cw)
    | _, _ => none)

/-- Add one chunk to an accumulator in fast mode. -/
def chunkAdd (trans : Bool) (acc : Nat) (ps : List (FV × Nat × Nat)) : Nat :=
  match tree p20Add 8 (ps.map (fun p => toP20 p.1)), ps with
  | some v, p :: _ => accAdd acc (if trans then byScale v p.2.1 else byScale (byScale v p.2.1) p.2.2)
  | _, _ => acc

/-- The accumulator of output `j` for a row, over the whole reduction. -/
def MxuOp.dot (o : MxuOp) (strict : Bool) (r : XRow) (j : Nat) : Nat :=
  let f := fmtOf (mwX o.m)
  let t := transposed o.m
  if strict || f == .f32 then
    (o.products r j 0 o.red).foldl (fun acc p =>
      accAdd acc (if t then byScale p.1 p.2.1 else byScale (byScale p.1 p.2.1) p.2.2)) 0
  else
    let size := if f.width = 16 then 4 else 16
    (List.range (ceilDiv o.red size)).foldl (fun acc c => chunkAdd t acc (o.products r j (size * c) (min o.red (size * c + size)))) 0

/-- Blocks in which a row meets no present product at all, over the outputs of a column block: what
MXU_ABSENT counts (R106). -/
def MxuOp.absentBlocks (o : MxuOp) (r : XRow) (lo hi : Nat) : Nat :=
  if !(fmtOf (mwX o.m)).blockScaled then 0
  else ((List.range (ceilDiv o.red 16)).filter (fun b =>
    ((List.range (hi - lo)).map (fun i => lo + i)).all (fun j => (o.products r j (16 * b) (min o.red (16 * b + 16))).isEmpty))).length

/-! ### The output path (R98 to R102) -/

/-- TS32 x TS32, rounded once; an operand without a scale contributes 1 (R98). -/
def MxuOp.s (o : MxuOp) : FV :=
  let v (sc : Bool) (w : Nat) : FV := if sc then d32 w else FV.one
  d32 (r32 (fmul (v (fmtOf (mwX o.m)).blockScaled o.xTs) (v (fmtOf (mwW o.m)).blockScaled o.wTs))).1

/-- The value that leaves for one output (R98). -/
def MxuOp.outVal (o : MxuOp) (carry acc : Nat) : FV :=
  let rdn := mwRnd o.m == 4
  let cf := if mwCarry o.m = 1 then Fmt.f32 else Fmt.w16
  let c := if mwCarry o.m = 0 then FV.zero false else canonNan (decode cf carry)
  canonNan (fadd rdn c (canonNan (fmul (d32 acc) o.s).1)).1

def MxuOp.outRnd (o : MxuOp) : Rnd := (Rnd.ofFields (mwRnd o.m) (mwSrw o.m)).getD .rne

/-- The draws of one drain: every edge lane takes its 128 (R101). Draw `i` of column `j` is element
`128 j + i`, set row `i` in the forward modes; in the transposed mode lanes 320 + j serve the odd rows. -/
def Tile.drawEdge (t : Tile) (rm : Rnd) : List (List Nat) × Tile :=
  match rm with
  | .sr n => (List.range 128).foldl (fun (acc : List (List Nat) × Tile) lane =>
      let (l, t) := (List.range 128).foldl (fun (a : List Nat × Tile) _ =>
        let (r, t) := a.2.drawLane n (256 + lane)
        (a.1 ++ [r], t)) (([] : List Nat), acc.2)
      (acc.1 ++ [l], t)) ([], t)
  | _ => ([], t)

/-- The set row of row `i` of a row tile with `n` rows per unit (R101). -/
def setRow (i : Nat) : Nat := i

/-- The draw for set row `i`, output column `j` of the block. -/
def edgeDraw (m : Nat) (ds : List (List Nat)) (i j : Nat) : Nat :=
  if transposed m then nth0 (ds.getD (if i % 2 = 0 then j else 64 + j) []) (i / 2) else nth0 (ds.getD j []) i

/-- Convert one row of a drained set: codes, scales and flags. A block-scaled output chooses a BS8 for each
16 columns from the exact values (R99). Like a SOUT or a quantising CVT (R126), the output path marks a block as zero when its BS8 is 0x00 or each of its codes
decodes to zero.
Log entry 200, DESIGN CHOICE. -/
def MxuOp.convertRow (o : MxuOp) (ds : List (List Nat)) (i : Nat) (carry accs : List Nat) : XRow × Flags :=
  let f := fmtOf (mwOut o.m)
  let rm := o.outRnd
  let vs := accs.mapIdx (fun j a => o.outVal (nth0 carry j) a)
  if f.blockScaled then
    let blocks := (List.range (ceilDiv vs.length 16)).map (fun b =>
      quantBlock f rm (ts32 o.oTs) (((vs.drop (16 * b)).take 16).mapIdx (fun i' v => (v, edgeDraw o.m ds i (16 * b + i'), true))))
    (⟨blocks.flatMap (fun b => b.2.1), blocks.map (fun b => b.1),
      ((blocks.zipIdx).map (fun e => if e.1.2.2.1 then 2 ^ e.2 else 0)).sum⟩, blocks.foldl (fun a b => a ||| b.2.2.2) 0)
  else
    let cs := vs.mapIdx (fun j v => convert f rm (edgeDraw o.m ds i j) v)
    let codes := cs.map (fun c => c.1)
    (⟨codes, [], ((List.range (ceilDiv codes.length 16)).map (fun b =>
      if ((codes.drop (16 * b)).take 16).all (codeIsZero f) then 2 ^ b else 0)).sum⟩, cs.foldl (fun a c => a ||| c.2) 0)

/-! ### Rows as beats -/

/-- A row's codes as stored bytes. -/
def rowData (f : Fmt) (elems : List Nat) : Bytes :=
  if f.blockScaled then
    (List.range (ceilDiv elems.length 16)).flatMap (fun b => leBytes (blockBytes f 16) (packCodes f.width ((elems.drop (16 * b)).take 16)))
  else elems.flatMap (fun c => leBytes (f.width / 8) c)

/-- A row as beats: transfers of 16 blocks, or registers, each with its own sideband (R126, R142). -/
def XRow.beats (r : XRow) (f : Fmt) : List Beat :=
  let data := rowData f r.elems
  let per := 64 * transferBeats f
  let nb := transferBlocks f
  (List.range (ceilDiv data.length per)).flatMap (fun i =>
    mkBeats ((data.drop (per * i)).take per) ((r.scales.map (fun c => BitVec.ofNat 8 c)).drop (16 * i) |>.take 16) (bitsOf r.zmask (nb * i) nb) (nb / 8))

/-- Read a row of `n` elements back from beats. -/
def XRow.ofBeats (f : Fmt) (n : Nat) (l : List Beat) : XRow :=
  let tb := transferBeats f
  let nb := transferBlocks f
  let blocks := ceilDiv n 16
  let data := inBytes l
  let parts := (List.range (ceilDiv blocks nb)).map (fun i => (l.drop (tb * i)).take tb)
  let mask := ((parts.mapIdx (fun i p => leNat ((p.take (nb / 8)).map (fun b => b.zmask)) * 2 ^ (nb * i)))).sum
  let elems := if f.blockScaled then
      (List.range n).map (fun k => unpackCode f.width (fieldLE data (k / 16 * blockBytes f 16) (blockBytes f 16)) (k % 16))
    else (List.range n).map (fun k => fieldLE data (k * (f.width / 8)) (f.width / 8))
  ⟨elems, if f.blockScaled then ((parts.flatMap inScales).take blocks).map BitVec.toNat else [], mask⟩

/-- Bytes of a row of `n` elements, and of its scales. -/
def rowElemBytes (f : Fmt) (n : Nat) : Nat := if f.blockScaled then ceilDiv n 16 * blockBytes f 16 else n * f.width / 8
def rowScaleBytes (f : Fmt) (n : Nat) : Nat := if f.blockScaled then ceilDiv n 16 else 0

/-- Bytes that `n` rows of `m` elements take in tile memory. -/
def rowsBytes (f : Fmt) (n m : Nat) : Nat := n * (rowElemBytes f m + rowScaleBytes f m)

/-- Row `i` of an operand of `total` rows in tile memory: elements, then the scales of all rows (log entry 31, DESIGN CHOICE).
Log entry 219, DESIGN CHOICE. -/
def memRow (mem : Mem) (f : Fmt) (base total n i : Nat) : XRow :=
  let eb := rowElemBytes f n
  let sb := rowScaleBytes f n
  let data := mem.reads (base + i * eb) eb
  let elems := if f.blockScaled then
      (List.range n).map (fun k => unpackCode f.width (fieldLE data (k / 16 * blockBytes f 16) (blockBytes f 16)) (k % 16))
    else (List.range n).map (fun k => fieldLE data (k * (f.width / 8)) (f.width / 8))
  let sc := (mem.reads (base + total * eb + i * sb) sb).map BitVec.toNat
  ⟨elems, sc, ((sc.zipIdx).map (fun e => if e.1 = 0 then 2 ^ e.2 else 0)).sum⟩

/-! ### Collecting rows -/

/-- Beats of a row on an in port. -/
def Site.rowLen (x : Site) (port : Nat) : Nat := x.inRowBytes port / 64

/-- Collect one streamed row into the operation, when all its beats have arrived. -/
def State.takeRow (s : State) (t : Nat) (x : Site) (port : Nat) (f : Fmt) (n : Nat) : Option (XRow × State) :=
  let len := x.rowLen port
  let s := s.collect t port len x len
  let tl := s.tile t
  if len = 0 || tl.rowBuf.length < len then none
  else some (XRow.ofBeats f n tl.rowBuf, s.setTile t { tl with rowBuf := [] })

/-- The window row that is row `i` of the operation's group. -/
def MxuOp.winRow (o : MxuOp) (u : TktUnit) (i : Nat) : Nat :=
  match o.group with
  | some g => nth0 (u.groups.getD g (0, [])).2 i
  | none => i
/-- Rows the operand in tile memory has, and which of them row `i` is (log entry 32, DEDUCED). -/
def MxuOp.memRows (o : MxuOp) : Nat := o.a.rows.toNat
/-- The row of an operand in memory that input `i` takes: the window's row where rows come by a ticket window (R204).
Log entry 32, DEDUCED. -/
def MxuOp.memIndex (o : MxuOp) (u : TktUnit) (i : Nat) : Nat := o.winRow u i
/-- The beats of row `i` of the operation's group. -/
def MxuOp.groupRow (o : MxuOp) (u : TktUnit) (i : Nat) : List Beat :=
  match u.window[o.winRow u i]? with
  | some r => r.beats
  | none => []

/-- Gather streamed rows for a row tile: as many as have arrived, up to `n`. -/
def State.takeRows (s : State) (t : Nat) (x : Site) : (fuel n : Nat) → State
  | 0, _ => s
  | k + 1, n =>
    match (s.tile t).mxu with
    | none => s
    | some o =>
      if n ≤ o.xr.length then s
      else if o.a.fromMem then
        let i := o.rowTile * setRows o.m + o.xr.length
        let r := memRow (s.tile t).mem (fmtOf (mwX o.m)) o.base o.memRows o.red (o.memIndex (s.tile t).tkt i)
        State.takeRows (s.setTile t { s.tile t with mxu := some { o with xr := o.xr ++ [r] } }) t x k n
      else if o.group.isSome then
        let r := XRow.ofBeats (fmtOf (mwX o.m)) o.red (o.groupRow (s.tile t).tkt (o.rowTile * setRows o.m + o.xr.length))
        State.takeRows (s.setTile t { s.tile t with mxu := some { o with xr := o.xr ++ [r] } }) t x k n
      else
        let len := x.rowLen o.a.sport.toNat
        let s := s.collect t o.a.sport.toNat len x len
        let tl := s.tile t
        if len = 0 || tl.rowBuf.length < len then s
        else
          let r := XRow.ofBeats (fmtOf (mwX o.m)) o.red tl.rowBuf
          State.takeRows (s.setTile t { tl with rowBuf := [], mxu := some { o with xr := o.xr ++ [r] } }) t x k n

/-- Collect beats of a carry row. -/
def State.collectCarry (s : State) (t port n : Nat) (x : Site) : (fuel : Nat) → State
  | 0 => s
  | k + 1 =>
    if n ≤ (s.tile t).carryBuf.length then s
    else
      match s.readPort t port 1 x with
      | none => s
      | some (bs, s) => State.collectCarry (s.setTile t { s.tile t with carryBuf := (s.tile t).carryBuf ++ bs }) t port n x k

/-- Gather carry rows for the drain of a row tile. -/
def State.takeCarry (s : State) (t : Nat) (x : Site) : (fuel n : Nat) → State
  | 0, _ => s
  | k + 1, n =>
    match (s.tile t).mxu with
    | none => s
    | some o =>
      if n ≤ o.cr.length || mwCarry o.m = 0 then s
      else
        let port := o.a.carry.toNat
        let len := x.rowLen port
        let s := s.collectCarry t port len x len
        let tl := s.tile t
        if len = 0 || tl.carryBuf.length < len then s
        else
          let r := XRow.ofBeats (if mwCarry o.m = 1 then .f32 else .w16) o.cols tl.carryBuf
          State.takeCarry (s.setTile t { tl with carryBuf := [], mxu := some { o with cr := o.cr ++ [r] } }) t x k n

/-! ### Output tiles (R103, R599) -/

/-- Array cycles in which the busiest unit streams a row in one pass: the units fill the set rows in blocks
(R101). -/
def MxuOp.streamCycles (o : MxuOp) (rows : Nat) : Nat :=
  ceilDiv (min rows (setRows o.m / mxuUnits o.m)) (rowsPerCycle o.m)

def MxuOp.passes (o : MxuOp) : Nat := ceilDiv o.red (passDepth o.m)

/-- Load cycles of the stationary tile of a pass (R82): none when it is the tile of the unit's pass before, which
happens where the stationary operand is one tile (R599).
Log entry 65, DEDUCED. -/
def MxuOp.loadCycles (o : MxuOp) (same : Bool) : Nat := if same then 0 else if transposed o.m then 64 else 128

/-- A stationary operand of one tile, which a pass may find in the unit from the pass before.
Log entry 65, DEDUCED. -/
def MxuOp.oneTile (o : MxuOp) : Option (Bytes × Bytes × Bytes) := if o.passes = 1 && o.colBlocks = 1 then some (o.w, o.wScale, o.wMeta) else none

/-- Whether a pass uses the stationary tile that the unit's previous pass left: the same operand's, or one loaded for the group it is packed with
(R82, R202).
Log entry 65, DEDUCED. -/
def Tile.hasLoaded (t : Tile) (o : MxuOp) : Bool := (o.oneTile.isSome && t.held == o.oneTile) || o.packed

/-- Bytes an array cycle needs from the mesh at full rate (R79, R83). -/
def MxuOp.feedBytes (o : MxuOp) : Nat :=
  let f := fmtOf (mwX o.m)
  let bytes := if f == .f32 then 32 else if f == .f6 then 96 else 128
  bytes * rowsPerCycle o.m * (if transposed o.m || mwSparsity o.m = 0 then 1 else if mwSparsity o.m = 1 then 2 else 4)

/-- Array cycles of the rows of one pass when the operand bytes come over `links` links (R83). -/
def MxuOp.fedCycles (o : MxuOp) (links rows : Nat) : Nat :=
  let have_ := 128 * min 4 (max 1 links)
  if o.a.fromMem || o.feedBytes ≤ have_ then o.streamCycles rows else ceilDiv (o.streamCycles rows * o.feedBytes) have_

/-- Array cycles of one output tile: its passes (R82), at the rate of its feed (R83); 16 times over in strict
mode (R71), whose rows no feed then holds up. -/
def MxuOp.tileCycles (o : MxuOp) (strict same : Bool) (links rows : Nat) : Nat :=
  if strict then 16 * (o.passes * max (o.streamCycles rows) (o.loadCycles same))
  else o.passes * max (o.fedCycles links rows) (o.loadCycles same)

/-- Cycles of those in which a row is streamed (R106). -/
def MxuOp.busyCycles (o : MxuOp) (strict : Bool) (rows : Nat) : Nat :=
  o.passes * o.streamCycles rows * (if strict then 16 else 1)

/-- Cycles of those lost to operand supply (R83).
Log entry 65, DEDUCED. -/
def MxuOp.feedStall (o : MxuOp) (strict same : Bool) (links rows : Nat) : Nat :=
  if strict then 0
  else o.passes * (max (o.fedCycles links rows) (o.loadCycles same) - max (o.streamCycles rows) (o.loadCycles same))

/-- What a tile's matrix unit uses at the start of an output tile: the stationary tile and a streaming operand in tile memory (R105). -/
def MxuOp.parityAt (o : MxuOp) (t : Tile) : Bool :=
  t.upsets.any (fun u => u == .stat || (o.a.fromMem && (Uses.mk [] [] [] (o.base, rowsBytes (fmtOf (mwX o.m)) o.memRows o.red)).hit u))

/-- MXU_TILE_START: the next output tile accumulates in a set whose drain has finished, once the rows of
its row tile have arrived. The array stands still first for the cycles by which the drain outlasts the output tile before (R103). A parity error in what the
unit uses ends the context (R105). -/
def execMxuTileStart (t : Sys2Proof.Tile) (s : State) : Host.Outcome State Fault Refusal :=
  if s.issueStopped then .next s
  else
    match s.site t.val, (s.tile t.val).mxu with
    | some x, some o =>
      if o.rowTiles ≤ o.rowTile || 2 ≤ (s.tile t.val).sets.length then .next s
      else
        let n := o.tileRows o.rowTile
        let s := s.takeRows t.val x (n + 1) n
        let tl := s.tile t.val
        (match tl.mxu with
         | none => .next s
         | some o =>
           if o.xr.length < n then .next s
           else if o.parityAt tl then .next (s.runParity x)
           else
             let lo := o.colBlock * setCols o.m
             let hi := min o.cols (lo + setCols o.m)
             let acc := o.xr.map (fun r => (List.range (hi - lo)).map (fun j => o.dot x.run.strict r (lo + j)))
             let absent := (o.xr.map (fun r => o.absentBlocks r lo hi)).sum
             let lastBlock := o.colBlock + 1 == o.colBlocks
             let o' := { o with rowTile := if lastBlock then o.rowTile + 1 else o.rowTile,
                                colBlock := if lastBlock then 0 else o.colBlock + 1, xr := if lastBlock then [] else o.xr }
             let sets := tl.sets ++ [⟨o.rowTile, o.colBlock, acc.flatten⟩]
             let same := tl.hasLoaded o
             let links := x.inLinks o.a.sport.toNat
             let cyc := o.tileCycles x.run.strict same links n
             let s := s.setTile t.val { tl with mxu := some o', sets := sets, held := o.oneTile, lastT := some cyc }
             let s := (s.bumpTile t.val cMxuBusy (o.busyCycles x.run.strict n)).bumpTile t.val cMxuAbsent (absent + n * o.padding)
             let s := s.bumpTile t.val cMxuFeedStall (o.feedStall x.run.strict same links n)
             .next ((s.bumpTile t.val cMxuDrainStall (128 - tl.lastT.getD 128)).moved x.rid))
    | _, _ => .next s

/-- Append the columns of a drained set to the rows of its row tile. -/
def joinRows (f : Fmt) (old new : List XRow) : List XRow :=
  if old.isEmpty then new
  else (old.zip new).map (fun p =>
    let nb := if f.blockScaled then p.1.scales.length else p.1.elems.length / 16
    ⟨p.1.elems ++ p.2.elems, p.1.scales ++ p.2.scales, p.1.zmask + p.2.zmask * 2 ^ nb⟩)

/-- Put the columns of one drained set, from column `lo` on, into tile memory, at the register's address plus the stationary descriptor's output
offset (R173).
Log entry 31, DESIGN CHOICE. -/
def MxuOp.storeRows (o : MxuOp) (d : TensorD) (rowTile lo : Nat) (rows : List XRow) (tl : Tile) : Tile :=
  let f := fmtOf (mwOut o.m)
  let base := o.base + d.outOff
  let eb := rowElemBytes f o.cols
  let sb := rowScaleBytes f o.cols
  let mem := (rows.zipIdx).foldl (fun m e =>
    let i := rowTile * setRows o.m + e.2
    (m.writes (base + i * eb + rowElemBytes f lo) (rowData f e.1.elems)).writes (base + o.rows * eb + i * sb + rowScaleBytes f lo)
      (e.1.scales.map (fun c => BitVec.ofNat 8 c))) tl.mem
  { tl with mem := mem }.cleaned { Uses.none with mem := (base + rowTile * setRows o.m * eb, if rows.isEmpty || lo + setCols o.m < o.cols then 0 else rows.length * eb) }

/-- Send finished rows by the out port. None while the port cannot take them. The drain sends beside the program, so it does not hold the issue slot (R128). -/
def State.emitRows (s : State) (t : Nat) (x : Site) (o : MxuOp) (rows : List XRow) : Option State :=
    let f := fmtOf (mwOut o.m)
    (s.sendPort t o.a.oport.toNat x (rows.flatMap (fun r => padRow (x.outRowBytes o.a.oport.toNat) (r.beats f)))).map (fun s2 =>
      s2.setTile t { s2.tile t with sent := (s.tile t).sent })

/-- An MXU operation reaches what it reads and what it writes in tile memory: nothing of the stage's residual region, which residual instructions alone
reach (R123), and nothing past the end of tile memory.
Log entry 200, DESIGN CHOICE. -/
def MxuOp.fits (o : MxuOp) (x : Site) (d : TensorD) : Bool :=
  (!o.a.fromMem || x.memOk o.base (rowsBytes (fmtOf (mwX o.m)) o.memRows o.red)) &&
  (!o.a.toMem || x.memOk (o.base + d.outOff) (rowsBytes (fmtOf (mwOut o.m)) o.rows o.cols))

end Sys2Proof.Machine
end

