-- ==== Sys2Proof/Machine/Tickets.lean ====
section
/-! DEFINITION. Tickets (R187 to R209): checks, the ticket unit's instructions, windows and gathers, and the
MXU operation and drain they wrap (R98 to R104, R173, R200, R204). -/

namespace Sys2Proof.Machine

/-! ### Fields (R187, R188) -/

def tkSeq (t : Nat) : Nat := bitsOf t 48 16
def tkPart (t : Nat) : Nat := bitsOf t 44 4
def tkProbe (t : Nat) : Bool := bitOf t 42
def tkTrain (t : Nat) : Bool := bitOf t 41
def tkAdapter (t : Nat) : Nat := bitsOf t 24 16
def tkExpert1 (t : Nat) : Nat := bitsOf t 16 8
def tkExpert0 (t : Nat) : Nat := bitsOf t 8 8
def tkSkip (t : Nat) : Nat := bitsOf t 0 8

/-- Whether a ticket is MALFORMED to a table, or to a unit that reads no table (R189). -/
def tkBad (table : Option Bytes) (t : Nat) : Bool :=
  let e0 := tkExpert0 t
  let e1 := tkExpert1 t
  let high (e : Nat) : Bool := match table with
    | some b => e != 0xFF && (tblRole b == 2 || tblRole b == 4 || (tblRole b == 1 && tblKey b == 1)) && tblExperts b ≤ e
    | none => false
  bitOf t 43 || (e0 == 0xFF && e1 != 0xFF) || (e0 == e1 && e0 != 0xFF) || high e0 || high e1

/-- Lower and higher expert of a ticket with their gate weights; the same one twice when there is one. -/
def tkExperts (t gate : Nat) : (Nat × Nat) × (Nat × Nat) :=
  let a := (tkExpert0 t, gate % 65536)
  let b := (tkExpert1 t, gate / 65536 % 65536)
  if b.1 = 0xFF then (a, a) else if a.1 < b.1 then (a, b) else (b, a)

/-! ### The stationary operand of an operation (R173, R174, R200) -/

/-- Where an operand's arrays lie: object, offset and length, or nowhere in memory; and its TS32. -/
structure WSrc where
  e : Option (Nat × Nat × Nat)
  sc : Option (Nat × Nat × Nat)
  me : Option (Nat × Nat × Nat)
  ts : Nat
  held : Bool

/-- A range of a slot's object, within its bounds. -/
def State.slotAt (s : State) (x : Site) (slot off len : Nat) : Except Status (Option (Nat × Nat × Nat)) :=
  if slot = 255 || len = 0 then .ok none
  else
    match argObj s x.run.args slot with
    | none => .error .handle
    | some (k, o) => if o.bytes < off + len then .error .bounds else .ok (some (k, off, len))

/-- The TS32 a descriptor gives (R174).
Log entry 77, DEDUCED. -/
def State.tsOf (s : State) (x : Site) (d : TensorD) : Nat :=
  if d.tsSrc = 1 then leNat (s.slotBytes x ⟨d.scaleSlot, d.tsOff, 4⟩) else d.ts32

/-- The arrays of `rows` rows of a tensor from row `first` on. -/
def State.tensorSrc (s : State) (x : Site) (d : TensorD) (first rows : Nat) : Except Status WSrc :=
  if d.rows < first + rows then .error .bounds
  else
    match s.slotAt x d.elemSlot (d.elemOff + first * d.rowElem) (rows * d.rowElem),
      s.slotAt x d.scaleSlot (d.scaleOff + first * d.blocksPerRow) (rows * d.blocksPerRow),
      s.slotAt x d.metaSlot (d.metaOff + 2 * first * d.blocksPerRow) (2 * rows * d.blocksPerRow) with
    | .ok e, .ok sc, .ok me => .ok ⟨e, sc, me, s.tsOf x d, false⟩
    | .error st, _, _ => .error st
    | _, .error st, _ => .error st
    | _, _, .error st => .error st

/-- An adapter's matrix of a table's layer in the cache (R200, R211, R224). -/
def State.adapterSrc (s : State) (x : Site) (b : Bytes) (slot : Nat) (d : TensorD) : Except Status WSrc :=
  match s.adapterStore slot with
  | none => .error .handle
  | some (k, h) =>
    let n := match s.objs.get k with
      | some o => o.bytes
      | none => 0
    let whole := s.objRead k 0 (0x80 + 32 * adLayers h)
    let e := adEntry whole (tblLayer b)
    let up := tblMatrix b == 1
    let off := fieldLE e (if up then 0x1C else 0x18) 4
    let rows := if up then adEntryOut e else adRank h
    let kk := if up then adRank h else adEntryIn e
    let f := fmtOf (adEntryFmt e)
    let elems := d.rows * d.rowElem
    let held := match s.entryOf slot with
      | some (_, c) => c.hold.contains x.rid
      | none => false
    let at_ (o len : Nat) : Option (Nat × Nat × Nat) :=
      let o := cachedOff h o
      if len = 0 || n < o + len then none else some (k, o, len)
    if adLayers h ≤ tblLayer b then .ok ⟨none, none, none, 0, held⟩
    else .ok ⟨at_ off elems, at_ (matScaleOff f off rows kk) (d.rows * d.blocksPerRow), none,
      fieldLE e (if up then 0x10 else 0x0C) 4, held⟩

/-- The weights of an operation: its own tensor's, or those of a gather's group. -/
def State.weights (s : State) (x : Site) (tl : Tile) (d : TensorD) (g : Option Nat) : Except Status WSrc :=
  match g, x.im.tableOf (x.im.stageAt x.st) with
  | some i, some b =>
    let key := (tl.tkt.groups.getD i (0, [])).1
    if tblRole b = 3 then s.adapterSrc x b key d
    else
      (match x.im.tensors[fieldLE b (64 + 8 * key + 2) 1]? with
       | some td => s.tensorSrc x td (fieldLE b (64 + 8 * key) 2) d.rows
       | none => .error .malformed)
  | _, _ => s.tensorSrc x d 0 d.rows

/-- Issue a tile's read of an object's range after its checks (R238, R459); `held` marks a withdrawn key kept
for the RUN (R224).
Log entry 210, DESIGN CHOICE. -/
def State.readAt (s : State) (t : Nat) (x : Site) (held : Bool) (r : Option (Nat × Nat × Nat)) : Except (Status × Scope) (List Nat × State) :=
  match r with
  | none => .ok ([], s)
  | some (key, off, len) =>
    match s.objs.get key with
    | none => .error (.handle, .context)
    | some o =>
      if !o.readBy (x.im.stageAt x.st).kind then .error (.bounds, .context)
      else if !s.keyServes key && !held then .error (.key, .context)
      else
        match o.readVerdict off len with
        | .bad st sc => .error (st, sc)
        | _ => if o.allZero off len then .ok ([], s) else .ok ([s.accId], s.issueRead (.tile t) false key off len 0)

/-- Bytes of a range; an array that lies nowhere in memory reads free values (log entry 31, DESIGN CHOICE). -/
def State.rangeOr (s : State) (r : Option (Nat × Nat × Nat)) (n : Nat) : Bytes × State :=
  match r with
  | some (key, off, len) => (s.objRead key off len, s)
  | none => ((List.range n).map (fun i => (Config.freeWord (s.free + i)).setWidth 8), { s with free := s.free + n })

/-! ### Packed groups (R202) -/

/-- The rank of an adapter's matrix, where a gather may pack it: 16, 32 or 64, and fewer than 128 rows in its group.
Log entry 201, DESIGN CHOICE. -/
def State.packRank (s : State) (g : Nat × List Nat) : Option Nat :=
  match s.adapterStore g.1 with
  | some (_, h) => if (adRank h == 16 || adRank h == 32 || adRank h == 64) && g.2.length < 128 then some (adRank h) else none
  | none => none

/-- Groups packed into one stationary tile: neighbours of one rank, as many as 128 / r. `ranks` are the groups' ranks; the answer is the sizes of the packs in
order.
Log entry 201, DESIGN CHOICE. -/
def packSizes : (last : Option Nat) → (size : Nat) → List (Option Nat) → List Nat
  | _, size, [] => if size = 0 then [] else [size]
  | last, size, r :: rest =>
    if size = 0 then packSizes r 1 rest
    else match r with
      | none => size :: packSizes none 1 rest
      | some n => if last = some n && size < 128 / n then packSizes r (size + 1) rest else size :: packSizes r 1 rest

/-- Each group's pack: how many groups it holds and the group's place among them. -/
def packPlaces (l : List Nat) : List (Nat × Nat) := l.flatMap (fun n => (List.range n).map (fun i => (n, i)))

/-! ### MXU_OP (R173) -/

/-- Whether the word before a tile's position is a TGATH. -/
def Site.gathered (x : Site) (pos : Nat) : Option Nat :=
  if pos = 0 then none
  else match x.word (pos - 1) with
    | some w => if bitsOf w 56 8 = 0x94 then some w else none
    | none => none

/-- The group an operation runs on next: none outside a gather, an error past the last group. -/
def Site.nextGroup (x : Site) (tl : Tile) : Option (Option Nat) :=
  if (x.gathered tl.pos).isNone then some none
  else if tl.tkt.gathered < tl.tkt.groups.length then some (some tl.tkt.gathered) else none

/-- Put an operation on the matrix unit, its weights at hand. -/
def State.startMxu (s : State) (t : Nat) (x : Site) (a : MxuArgs) (g : Option Nat) : State :=
  let tl := s.tile t
  match x.im.tensors[a.stat.toNat]?, x.im.tensors[a.streamT.toNat]? with
  | some d, some xd =>
    (match s.weights x tl d g with
     | .error st => s.runFault x st
     | .ok w =>
       let f := d.f
       let (we, s) := s.rangeOr w.e (d.rows * d.rowElem)
       let (ws, s) := if f.blockScaled then s.rangeOr w.sc (d.rows * d.blocksPerRow) else ([], s)
       let (wm, s) := if d.sparsity = 0 then ([], s) else s.rangeOr w.me (2 * d.rows * d.blocksPerRow)
       let od := x.im.tensors[a.outT.toNat]?
       let oTs := match od with
         | some o => s.tsOf x o
         | none => 0
       let xTs := s.tsOf x xd
       let tsBad (b : Bool) (v : Nat) : Bool := b && !ts32Ok v
       let rows := match g with
         | some i => (tl.tkt.groups.getD i (0, [])).2.length
         | none => a.rows.toNat
       let pack := match g, x.im.tableOf (x.im.stageAt x.st) with
         | some i, some b => (tl.tkt.packs.getD i (1, 0), tblMatrix b == 1 && f.blockScaled, (s.packRank (tl.tkt.groups.getD i (0, []))).getD 0)
         | _, _ => ((1, 0), false, 0)
       let padding := if pack.2.1 then (pack.1.1 - 1) * pack.2.2 / 16 else 0
       let o : MxuOp := ⟨a, (tl.sreg a.reg.toNat).toNat, rows, g, we, ws, wm, d.rows, d.kLen, w.ts, xTs, oTs, [], [], 0, 0, [], pack.1.2 != 0, padding⟩
       if tsBad f.blockScaled w.ts || tsBad xd.f.blockScaled xTs || tsBad (fmtOf (mwOut a.mode.toNat)).blockScaled oTs || !metaOk d.sparsity wm then
         s.runFault x .malformed
       else if !o.fits x d then s.runFault x .bounds
       else if (a.fromMem || a.toMem) && tl.parityOf (Uses.reg a.reg.toNat) then s.runParity x
       else
         let u := tl.tkt
         let tl := { tl with mxu := some o, sets := [], wait := none, tkt := if g.isSome then { u with gathered := u.gathered + 1 } else u }
         let s := s.setTile t tl
         if g.isSome then s.moved x.rid else s.advance t 2)
  | _, _ => s.runFault x .malformed

/-- MXU_OP: it waits for the operation before it to drain, reads its stationary operand through the memory
port, and hands the unit over. Under a TGATH it runs once for each group (R191). Whether an operation may start its first output tile while the one before
still drains, R103 does not say.
Log entry 200, DESIGN CHOICE. -/
def execMxuOp (t : Sys2Proof.Tile) (a : MxuArgs) (s : State) : Host.Outcome State Fault Refusal :=
  if s.issueStopped || (s.tile t.val).mxu.isSome then .next s
  else
    match s.site t.val with
    | none => .next s
    | some x =>
      if x.word ((s.tile t.val).pos + 1) != some (wMxu1 a) then .next s
      else
        s.whenRead t.val (wMxu0 a)
          (fun x tl s =>
            match x.nextGroup tl, x.im.tensors[a.stat.toNat]? with
            | none, _ => .ok ([], .mxu none, s)
            | some g, some d =>
              (match s.weights x tl d g with
               | .error st => .error (st, .context)
               | .ok w =>
                 (match s.readAt t.val x w.held w.e with
                  | .error st => .error st
                  | .ok (l, s) =>
                    (match s.readAt t.val x w.held w.sc with
                     | .error st => .error st
                     | .ok (l', s) =>
                       (match s.readAt t.val x w.held w.me with
                        | .error st => .error st
                        | .ok (l'', s) => .ok (l ++ l' ++ l'', .mxu g, s)))))
            | some _, none => .error (.malformed, .context))
          (fun x tl _ s =>
            match x.nextGroup tl with
            | none => (s.setTile t.val { tl with wait := none }).advance t.val 2
            | some g => s.startMxu t.val x a g)

/-! ### Restored rows (R204) -/

def planIndex (plan : Bytes) (i : Nat) : Nat := fieldLE plan (64 + 2 * i) 2

/-- The group a row came in, as the sort that emitted it noted.
Log entry 73, DEDUCED. -/
def TktRow.grp (r : TktRow) : Option Nat := (r.beats.head?).bind (fun b => b.grp)

/-- The expert that row `i` of a gather's window is for, with its gate weight: the group it came in, else its place among the rows of the same token, says
which of the two.
Log entry 73, DEDUCED. -/
def TktUnit.expertOf (u : TktUnit) (i : Nat) : Nat × Nat :=
  match u.window[i]? with
  | none => (0, 0)
  | some r =>
    let (lo, hi) := tkExperts r.tkt r.gate
    let second := match r.grp with
      | some k => k != lo.1
      | none => (List.range i).any (fun j => planIndex u.plan j == planIndex u.plan i)
    if second then hi else lo

/-- The gate weight of row `i` of a window. -/
def TktUnit.gateOf (u : TktUnit) (i : Nat) : Nat := (u.expertOf i).2

/-- Combine an expert's row with what is stored of its token: products and the multiply-add in binary32. -/
def combineRow (gate : Nat) (old : Option (List Nat)) (y : List Nat) : List Nat :=
  let g := decode .w16 gate
  match old with
  | none => y.map (fun c => (r32 (fmul g (d32 c))).1)
  | some l => (y.zip l).map (fun p => (r32 (ffma false false false g (d32 p.1) (d32 p.2))).1)

/-- A binary32 row with its zero-block mask. -/
def f32Row (l : List Nat) : XRow :=
  ⟨l, [], ((List.range (ceilDiv l.length 16)).map (fun b =>
    if ((l.drop (16 * b)).take 16).all (codeIsZero .f32) then 2 ^ b else 0)).sum⟩

/-- Store the rows of a row tile of a restoring gather. -/
def TktUnit.storeRows (u : TktUnit) (expert : Bool) (o : MxuOp) (rowTile : Nat) (rows : List XRow) : TktUnit :=
  (rows.zipIdx).foldl (fun u e =>
    let i := o.winRow u (rowTile * setRows o.m + e.2)
    let w := planIndex u.plan i
    let beats := if expert then
        let old := (u.stored.get w).map (fun b => (XRow.ofBeats .f32 o.cols b).elems)
        (f32Row (combineRow (u.gateOf i) old e.1.elems)).beats .f32
      else e.1.beats (fmtOf (mwOut o.m))
    { u with stored := u.stored.set w beats }) u

/-- Array cycles lost to the window store's path when the rows of a row tile go there: 256 bytes a cycle, against the cycles in which they drain (R103, R198).
Log entry 75, DEDUCED. -/
def MxuOp.storeLoss (o : MxuOp) (n : Nat) : Nat :=
  n * ceilDiv (rowElemBytes (fmtOf (mwOut o.m)) o.cols + rowScaleBytes (fmtOf (mwOut o.m)) o.cols) 256 - ceilDiv (n * o.colBlocks) (rowsPerCycle o.m)

/-- Put the rows of a row tile into the window store; the combine of two experts' rows reads what is stored, which ends the context when its parity fails
(R204, R207). -/
def State.storeRestored (s : State) (t : Nat) (x : Site) (o : MxuOp) (rowTile : Nat) (rows : List XRow) : State :=
  let tl := s.tile t
  let expert := (x.im.stageAt x.st).kind == 4
  if expert && tl.upsets.contains .store then s.runParity x
  else (s.setTile t { tl with tkt := tl.tkt.storeRows expert o rowTile rows }).bumpTile t cTktStore (o.storeLoss rows.length)

/-! ### MXU_DRAIN (R98 to R104) -/

/-- Whether an operation's output rows go to tile memory: not those of a restoring gather, which go to the window store (R204). -/
def MxuOp.intoMem (o : MxuOp) (u : TktUnit) : Bool := o.a.toMem && !(o.group.isSome && u.restore)

/-- Deliver finished rows: into the window store of a restoring gather, or by the out port; those for tile memory stand there already. -/
def State.deliver (s : State) (t : Nat) (x : Site) (o : MxuOp) (rowTile : Nat) (rows : List XRow) : Option State :=
  let tl := s.tile t
  if o.group.isSome && tl.tkt.restore then
    some (s.storeRestored t x o rowTile rows)
  else if o.a.toMem then some s
  else s.emitRows t x o rows

/-- MXU_DRAIN: the oldest finished set leaves through the output path, once its carry rows have come: into tile memory at once (R104), or, with the last
columns of its rows, once the port takes them. A parity error in the set ends the context (R105). -/
def execMxuDrain (t : Sys2Proof.Tile) (s : State) : Host.Outcome State Fault Refusal :=
  match s.site t.val, (s.tile t.val).mxu, (s.tile t.val).sets with
  | some x, some o, set :: rest =>
    let n := o.tileRows set.rowTile
    let s := s.takeCarry t.val x (n + 1) n
    let o := ((s.tile t.val).mxu).getD o
    if mwCarry o.m != 0 && o.cr.length < n then .next s
    else if (s.tile t.val).upsets.contains .acc then .next (s.runParity x)
    else
      let lo := set.colBlock * setCols o.m
      let w := min o.cols (lo + setCols o.m) - lo
      let (ds, tl) := (s.tile t.val).drawEdge o.outRnd
      let res : List (XRow × Flags) := (List.range n).map (fun i =>
        o.convertRow ds i (((o.cr.getD i ⟨[], [], 0⟩).elems.drop lo).take w) ((set.acc.drop (w * i)).take w))
      let here := o.intoMem tl.tkt
      let tl := match here, x.im.tensors[o.a.stat.toNat]? with
        | true, some d => o.storeRows d set.rowTile lo (res.map (fun (r : XRow × Flags) => r.1)) tl
        | _, _ => tl
      let rows := if here then [] else joinRows (fmtOf (mwOut o.m)) o.out (res.map (fun r => r.1))
      let flags := res.foldl (fun a r => a ||| r.2) tl.flags
      let lastBlock := set.colBlock + 1 == o.colBlocks
      let o' := { o with out := if lastBlock then [] else rows, cr := if lastBlock then [] else o.cr }
      let done := lastBlock && set.rowTile + 1 == o.rowTiles
      let s' := s.setTile t.val { tl with flags := flags, sets := rest, mxu := if done then none else some o' }
      if lastBlock then
        (match s'.deliver t.val x o set.rowTile rows with
         | some s' => .next (s'.moved x.rid)
         | none => .next s)
      else .next (s'.moved x.rid)
  | _, _, _ => .next s

/-! ### TATT, TSRC, TROUTE -/

/-- Attach tickets to the next rows of a port, after those already sent or attached. -/
def State.attachTo (s : State) (t port : Nat) (x : Site) (l : List (Nat × Nat)) : State :=
  let tl := s.tile t
  let row := match x.outStream port, s.runs.get x.rid with
    | some (si, d), some r => r.outPos.getD (laneKey si x.k) 0 / rowOr (producerRow d (x.stageTiles d.producer)) 1
    | _, _ => 0
  let old := tl.tkt.attach.getD port []
  let old := old ++ List.replicate (row - old.length) (0, 0)
  s.setTile t { tl with tkt := { tl.tkt with attach := tl.tkt.attach.set port (old ++ l) } }

/-- Add to the ticket count of a RUN record (R534). -/
def addTickets (r : Bytes) (n : Nat) : Bytes := r.take 28 ++ leBytes 4 (fieldLE r 28 4 + n) ++ r.drop 32

/-- Keep the ticket records a TATT read for the step ledger (R534).
Log entry 89, DEDUCED. -/
def State.ledgerTickets (s : State) (run : Run) (b : Bytes) : State :=
  let p := run.part
  let l := (s.part p).led
  let big := 65536 * 16 < l.cur.recs.length + b.length
  let flags := if big then l.cur.flags ||| 4 else l.cur.flags
  let runs := match run.ledAt with
    | some i => l.cur.runs.mapIdx (fun j r => if j = i then addTickets r (b.length / 16) else r)
    | none => l.cur.runs
  let cur := { l.cur with recs := l.cur.recs ++ b, tickets := min 65536 (l.cur.tickets + b.length / 16), flags := flags, runs := runs }
  s.setPart p { s.part p with led := { l with cur := cur } }

/-- TATT. A record of 16 bytes is a ticket, its gate word and four reserved bytes (R187, R189). -/
def execTatt (t : Sys2Proof.Tile) (slot : U8) (port : BitVec 4) (reg : BitVec 5) (rows : U32) (s : State) : Host.Outcome State Fault Refusal :=
  s.whenRead t.val (wTatt slot.toNat port.toNat reg.toNat rows.toNat)
    (fun x tl s =>
      let off := (tl.sreg reg.toNat).toNat
      if tl.parityOf (Uses.reg reg.toNat) then .error (.parity, .context)
      else match s.tileRead t.val x ⟨slot.toNat, off, 16 * rows.toNat⟩ with
      | .error st => .error st
      | .ok (a, s) => .ok (a.toList, .tatt off, s))
    (fun x _ a s =>
      match a with
      | .tatt off =>
        let b := s.slotBytes x ⟨slot.toNat, off, 16 * rows.toNat⟩
        let l := (List.range rows.toNat).map (fun i => (fieldLE b (16 * i) 8, fieldLE b (16 * i + 8) 4))
        (match govern (failIf (l.any (fun k => tkBad none k.1) || (List.range rows.toNat).any (fun i => !reservedZero b (16 * i + 12) 4)) .malformed ++ failIf (l.any (fun k => tkPart k.1 != x.run.part)) .bounds) with
         | some st => s.runFault x st
         | none =>
           let s := (s.ledgerTickets x.run b).attachTo t.val port.toNat x l
           (s.setTile t.val { s.tile t.val with wait := none }).advance t.val 1)
      | _ => s)

/-- TSRC. -/
def execTsrc (t : Sys2Proof.Tile) (port : BitVec 4) (s : State) : Host.Outcome State Fault Refusal :=
  s.whenWord t.val (wTsrc port.toNat) (fun _ tl s => s.done1 t.val { tl with tkt := { tl.tkt with source := port.toNat } })

/-- TROUTE. -/
def execTroute (t : Sys2Proof.Tile) (port : BitVec 4) (reg : BitVec 5) (s : State) : Host.Outcome State Fault Refusal :=
  s.whenWord t.val (wTroute port.toNat reg.toNat) (fun x tl s =>
    if tl.parityOf (Uses.reg reg.toNat) then s.runParity x
    else s.done1 t.val { tl with tkt := { tl.tkt with route := tl.tkt.route.set port.toNat (tl.sreg reg.toNat).toNat } })

/-! ### Windows (R194 to R198, R203) -/

/-- Take one row of a port into the window. None while it has not arrived. -/
def State.windowRow (s : State) (t port : Nat) (x : Site) : Option State :=
  let len := x.rowLen port
  let s := s.collect t port len x len
  let tl := s.tile t
  if len = 0 || tl.rowBuf.length < len then none
  else
    let k := ((tl.tkt.recv.getD port []).getLast?).getD (0, 0)
    let last := tl.rowBuf.any (fun b => b.last)
    let u := { tl.tkt with window := tl.tkt.window ++ [⟨k.1, k.2, tl.rowBuf⟩], closed := tl.tkt.closed || last }
    some (s.setTile t { tl with rowBuf := [], tkt := u })

/-- Whether nothing more can come on an in port: every producer has ended and no beat is on its way (R153).
Log entry 26, DESIGN CHOICE. -/
def State.portDry (s : State) (x : Site) (port : Nat) : Bool :=
  match x.inStream port, s.runs.get x.rid with
  | some (si, d), some r =>
    (List.range (x.stageTiles d.producer)).all (fun j => (s.tile (x.im.tileAt ((x.im.stageAt d.producer).firstTile + j))).ended) &&
      (List.range d.routeCount).all (fun j => let l := r.lane (laneKey si j); l.out.isEmpty && l.flight.isEmpty && l.buf.isEmpty)
  | _, _ => false

/-- Fill the window from a port up to `n` rows, or to the end of the stream. -/
def State.fillWindow (s : State) (t port n : Nat) (x : Site) : (fuel : Nat) → State
  | 0 => s
  | k + 1 =>
    let u := (s.tile t).tkt
    if u.closed || n ≤ u.window.length then s
    else
      match s.windowRow t port x with
      | some s => State.fillWindow s t port n x k
      | none =>
        let s := s.collect t port (x.rowLen port) x (x.rowLen port)
        if s.portDry x port && !u.window.isEmpty && (s.tile t).rowBuf.isEmpty then s.setTile t { s.tile t with tkt := { (s.tile t).tkt with closed := true } } else s

/-- What a sort sees of a row's adapter (R203): `torn` is a registry entry whose ctl word fails its check (R214). -/
inductive Seen
  | grouped | waits | voided | torn
  | bad (st : Status)
  deriving DecidableEq, Repr

/-- What the ticket unit sees of a row's adapter at a window's close: resident, loading, or the status it fails with (R203).
Log entry 71, DEDUCED. -/
def State.seen (s : State) (p : Nat) (tkt : Nat) : Seen :=
  let a := tkAdapter tkt
  if a = 0xFFFF then .grouped
  else
    match s.adpt.reg.get a, s.entryOf a with
    | some r, some (_, e) =>
      if !r.railOk then .torn
      else if r.owner != p then .bad .key
      else
        (match e.st with
         | .loading => .waits
         | .void => .voided
         | .resident =>
           if !s.pinnedBy p e then .bad .handle
           else if tkTrain tkt && r.regState != regTraining then .waits
           else .grouped)
    | some r, none => if !r.railOk then .torn else if r.owner != p then .bad .key else .bad .handle
    | none, _ => .bad .handle

/-- The sort keys of a row under a table: none when it is not emitted, two when it visits two experts. -/
def rowKeys (b : Bytes) (tkt : Nat) : List Nat :=
  if tblSkip b (tkSkip tkt) then []
  else if tblKey b = 1 then [tkExpert0 tkt, tkExpert1 tkt].filter (fun e => e != 0xFF)
  else [tkAdapter tkt].filter (fun a => a != 0xFFFF)

/-- Insert a key and window index, keys rising, indices in arrival order. -/
def insertKey (k i : Nat) : List (Nat × List Nat) → List (Nat × List Nat)
  | [] => [(k, [i])]
  | (a, l) :: r => if k < a then (k, [i]) :: (a, l) :: r else if k = a then (a, l ++ [i]) :: r else (a, l) :: insertKey k i r

/-- The groups of a window. -/
def windowGroups (b : Bytes) (rows : List TktRow) (voided : Nat → Bool) : List (Nat × List Nat) :=
  (rows.zipIdx).foldl (fun g e => if voided e.2 then g else (rowKeys b e.1.tkt).foldl (fun g k => insertKey k e.2 g) g) []

/-- The plan row (R196). -/
def planRow (number count : Nat) (order : List Nat) : Bytes :=
  padTo 4160 (leBytes 4 number ++ leBytes 2 count ++ leBytes 2 order.length ++ zeros 56 ++ order.flatMap (leBytes 2))

/-- Array cycles a row loses to the window store's path (R198).
Log entry 75, DEDUCED. -/
def storeLoss (row links : Nat) : Nat := ceilDiv row 256 - ceilDiv row (128 * max 1 links)

/-- Keep the tickets of a window's rows, by the plan stream and its producer, for the gathers that restore the window's tokens (R204).
Log entry 33, DESIGN CHOICE. -/
def State.noteWindow (s : State) (x : Site) (plan : Nat) (l : List (Nat × Nat)) : State :=
  match x.outStream plan, s.runs.get x.rid with
  | some (si, _), some r =>
    let key := laneKey si x.k
    s.setRun x.rid { r with windows := r.windows.set key (r.windows.getD key [] ++ [l]) }
  | _, _ => s

/-- Emit a closed window's plan and groups.
Log entry 70, DEDUCED. -/
def State.emitWindow (s : State) (t : Nat) (x : Site) (b : Bytes) (inp outp plan : Nat) (voided : Nat → Bool) : Option State :=
  let tl := s.tile t
  let rows := tl.tkt.window
  let gs := windowGroups b rows voided
  let order := gs.flatMap (fun g => g.2)
  let out := gs.flatMap (fun g => g.2.filterMap (fun i => (rows[i]?).map (fun (r : TktRow) => { r with beats := r.beats.map (fun (b : Beat) => { b with grp := some g.1 }) })))
  match s.sendPort t plan x (mkBeats (planRow tl.tkt.number rows.length order) [] 0 0) with
  | none => none
  | some s =>
    let s := s.attachTo t outp x (out.map (fun r => (r.tkt, r.gate)))
    match (if out.isEmpty then some s else s.sendPort t outp x (out.flatMap (fun r => padRow (x.outRowBytes outp) r.beats))) with
    | none => none
    | some s =>
      let vs := ((rows.zipIdx).filter (fun e => voided e.2)).map (fun e => tkSeq e.1.tkt)
      let tl := s.tile t
      let u := { tl.tkt with window := [], closed := false, number := tl.tkt.number + 1, voids := tl.tkt.voids ++ vs, judged := none }
      let s := (s.setTile t { tl with tkt := u, upsets := tl.upsets.filter (fun u => u != .window && u != .store) }).noteWindow x plan (rows.map (fun r => (r.tkt, r.gate)))
      let s := (s.bumpTile t cTktWindows 1).bumpTile t cTktGroups gs.length
      let s := s.bumpTile t cTktSkipped (rows.filter (fun r => tblSkip b (tkSkip r.tkt))).length
      let s := s.bumpTile t cTktVoid vs.length
      some (s.bumpTile t cTktStore (rows.length * storeLoss (x.inRowBytes inp) (x.inLinks inp) +
        out.length * storeLoss (x.outRowBytes outp) (x.outLinks outp)))

/-- The adapters of a closed window's rows are as they should be: the rows to be voided are fixed, and what the window waited is counted (R203, R208). -/
def State.judgeWindow (s : State) (t : Nat) (voided : List Bool) : State :=
  let u := (s.tile t).tkt
  let wait := match u.waiting with
    | some w => (s.ts - w) * 7 / 10
    | none => 0
  (s.setTile t { s.tile t with tkt := { u with waiting := none, judged := some voided } }).bumpTile t cTktAdptWait wait

/-- TSORT: take rows until the window closes, check its tickets and adapters, and emit plan and groups. A parity error in the ticket window or the window
store ends the context (R207).
Log entry 71, DEDUCED. -/
def execTsort (t : Sys2Proof.Tile) (inp outp plan : BitVec 4) (s : State) : Host.Outcome State Fault Refusal :=
  s.whenWord t.val (wTsort inp.toNat outp.toNat plan.toNat) (fun x _ s =>
    match x.im.tableOf (x.im.stageAt x.st) with
    | none => s.runFault x .malformed
    | some b =>
      let n := tblWindow b
      let s := s.fillWindow t.val inp.toNat n x (n + 1)
      let u := (s.tile t.val).tkt
      if !u.closed && u.window.length < n then s
      else if (s.tile t.val).upsets.any (fun u => u == .window || u == .store) then s.runParity x
      else
        let byAdapter := tblKey b == 0
        let seen := u.window.map (fun r => if byAdapter then s.seen x.run.part r.tkt else .grouped)
        let bads := seen.filterMap (fun v => match v with
          | .bad st => some st
          | _ => none)
        let emit (s : State) (l : List Bool) : State :=
          match s.emitWindow t.val x b inp.toNat outp.toNat plan.toNat (fun i => l.getD i false) with
          | some s => s.advance t.val 1
          | none => s
        if u.judged.isNone && seen.contains .torn then s.devFault .integrity (some (x.run.q, x.run.sub)) else
        match u.judged, govern (failIf (u.window.any (fun r => tkBad (some b) r.tkt)) .malformed ++ bads) with
        | some l, _ => emit s l
        | none, some st => s.runFault x st
        | none, none =>
          if seen.any (fun v => v == .waits) then
            s.setTile t.val { s.tile t.val with tkt := { u with waiting := some (u.waiting.getD s.ts) } }
          else
            let l := seen.map (fun v => v == .voided)
            emit (s.judgeWindow t.val l) l)

/-- ADAPTER_WAIT_TIMEOUT (R203). -/
def execAdapterWaitTimeout (t : Sys2Proof.Tile) (s : State) : Host.Outcome State Fault Refusal :=
  match s.site t.val, (s.tile t.val).tkt.waiting with
  | some x, some w => if 2000000 < s.ts - w then .next (s.runFault x .tierFail) else .next s
  | _, _ => .next s

/-! ### Gathers (R200, R201, R204) -/

/-- The key of row `i` of a gather's window. -/
def TktUnit.gatherKey (u : TktUnit) (expert : Bool) (i : Nat) : Nat :=
  match u.window[i]? with
  | none => 0
  | some r => if expert then (u.expertOf i).1 else tkAdapter r.tkt

/-- Groups of rows in the order they came: neighbours of one key. -/
def runsOf (key : Nat → Nat) (rows : List Nat) : List (Nat × List Nat) :=
  rows.foldl (fun g i => match g.getLast? with
    | some (k, l) => if k = key i then g.dropLast ++ [(k, l ++ [i])] else g ++ [(key i, [i])]
    | none => [(key i, [i])]) []

/-! ### TGATH and TEMIT (R191, R200 to R204) -/

/-- The producer of a plan row on a plan stream (R135), for the `n`th plan that a tile takes. -/
def planProducer (mode np k n : Nat) : Nat := if np = 1 then 0 else if mode = 5 then n % np else k

/-- The tickets of the tokens of a plan's window, from the sort that made it.
Log entry 33, DESIGN CHOICE. -/
def State.planTokens (s : State) (x : Site) (port n : Nat) (plan : Bytes) : List (Nat × Nat) :=
  match x.inStream port, s.runs.get x.rid with
  | some (si, d), some r => (r.windows.getD (laneKey si (planProducer d.mode (x.stageTiles d.producer) x.k n)) []).getD (fieldLE plan 0 4) []
  | _, _ => []

/-- A gather begins a window: it takes a new plan. -/
def TktUnit.takePlan (u : TktUnit) (plan : Bytes) (tokens : List (Nat × Nat)) : TktUnit :=
  { u with plan := plan, window := [], closed := false, taking := true, plans := u.plans + 1, tokens := tokens }

/-- Lay out the groups of a gather's window for the operation that follows: rows of a class that the table skips take part in none (R192). -/
def State.layGroups (s : State) (x : Site) (b : Bytes) (u : TktUnit) (a : MxuArgs) (restore pack : Bool) : TktUnit :=
  let idx := (List.range u.window.length).filter (fun i => match u.window[i]? with
    | some r => !tblSkip b (tkSkip r.tkt)
    | none => false)
  let gs := runsOf (u.gatherKey (tblRole b == 2)) idx
  let cols := match x.im.tensors[a.stat.toNat]? with
    | some d => if transposed a.mode.toNat then d.kLen else d.rows
    | none => 0
  let packs := if pack && tblRole b == 3 then packPlaces (packSizes none 0 (gs.map s.packRank)) else []
  { u with groups := gs, gathered := 0, restore := restore, fmt := mwOut a.mode.toNat, cols := cols, stored := [], taking := false, closed := false, packs := packs }

/-- TGATH: once the operation before it has drained, take a plan and the window's rows, check their tickets, and lay out the groups for the operation
that follows. Packing changes no result (R202). A parity error in the ticket window ends the context (R207). -/
def execTgath (t : Sys2Proof.Tile) (plan : BitVec 4) (restore pack : Bool) (s : State) : Host.Outcome State Fault Refusal :=
  if (s.tile t.val).mxu.isSome then .next s
  else s.whenWord t.val (wTgath plan.toNat restore pack) (fun x tl s =>
    match x.word (tl.pos + 1), x.word (tl.pos + 2), x.im.tableOf (x.im.stageAt x.st) with
    | some w0, some w1, some b =>
      let a := mxu0Of w0 w1
      let s := if tl.tkt.taking then s else s.collectCarry t.val plan.toNat 65 x 65
      let tl := s.tile t.val
      if !tl.tkt.taking && tl.carryBuf.length < 65 then s
      else
        let p := (tl.carryBuf.flatMap (fun c => c.data)).take 4160
        let tl := if tl.tkt.taking then tl else { tl with tkt := tl.tkt.takePlan p (s.planTokens x plan.toNat tl.tkt.plans p), carryBuf := [] }
        let n := fieldLE tl.tkt.plan 6 2
        let s := (s.setTile t.val tl).fillWindow t.val a.sport.toNat n x (n + 1)
        let u := (s.tile t.val).tkt
        if u.window.length < n then s.setTile t.val { s.tile t.val with tkt := { u with closed := false } }
        else if (s.tile t.val).upsets.contains .window then s.runParity x
        else
          let badPart (r : TktRow) : Bool := tkPart r.tkt != x.run.part && !x.run.dispParts.contains (tkPart r.tkt)
          (match govern (failIf (u.window.any (fun r => tkBad (some b) r.tkt)) .malformed ++ failIf (u.window.any badPart) .bounds) with
           | some st => s.runFault x st
           | none =>
             let u := s.layGroups x b u a restore pack
             let s := (s.setTile t.val { s.tile t.val with tkt := u }).bumpTile t.val cTktGroups u.groups.length
             let skipped := if restore then 0 else (u.window.filter (fun r => tblSkip b (tkSkip r.tkt))).length
             (s.bumpTile t.val cTktSkipped skipped).advance t.val 1)
    | _, _, _ => s.runFault x .malformed)

/-- The row of a token that no group computed: every element +0, every mask bit set. -/
def zeroRow (f : Fmt) (n : Nat) : List Beat :=
  (XRow.beats ⟨List.replicate n 0, if f.blockScaled then List.replicate (ceilDiv n 16) 0 else [], 2 ^ ceilDiv n 16 - 1⟩ f)

/-- The ticket of token `i` of a window: that of its row in the sort's window; for a plan that no sort of the RUN made, that of a row of it in the gather's
window, else a free value (R204; log entry 33, DESIGN CHOICE). -/
def TktUnit.tokenTicket (u : TktUnit) (free i : Nat) : Nat × Nat :=
  match u.tokens[i]? with
  | some k => k
  | none =>
    match ((List.range u.window.length).find? (fun j => planIndex u.plan j == i)).bind (fun j => u.window[j]?) with
    | some r => (r.tkt, r.gate)
    | none => ((Config.freeWord (free + 2 * i)).toNat, (Config.freeWord (free + 2 * i + 1)).toNat % 2 ^ 32)

/-- TEMIT: one row for each token of the window, in window order, with its ticket. A parity error in the window store ends the context (R207). -/
def execTemit (t : Sys2Proof.Tile) (outp : BitVec 4) (s : State) : Host.Outcome State Fault Refusal :=
  if (s.tile t.val).mxu.isSome then .next s
  else
    s.whenWord t.val (wTemit outp.toNat) (fun x tl s =>
      if tl.upsets.contains .store then s.runParity x
      else
        let u := tl.tkt
        let n := fieldLE u.plan 4 2
        let tk := (List.range n).map (u.tokenTicket s.free)
        let f := fmtOf u.fmt
        let len := x.outRowBytes outp.toNat
        let rows := (List.range n).map (fun i => padRow len ((u.stored.get i).getD (zeroRow f u.cols)))
        let s' := { s with free := s.free + 2 * n }.attachTo t.val outp.toNat x tk
        match (if n = 0 then some s' else s'.sendPort t.val outp.toNat x rows.flatten) with
        | none => s
        | some s =>
          let tl := s.tile t.val
          s.done1 t.val
            { tl with tkt := { tl.tkt with plan := [], window := [], stored := [], emitted := tl.tkt.emitted + n }, regs := bump tl.regs cTktStore (n * storeLoss len (x.outLinks outp.toNat)) })

end Sys2Proof.Machine
end

