-- ==== Sys2Proof/Machine/Collectives.lean ====
section
/-! DEFINITION. Collectives and dispatch on this device (R373 to R382): operations of local members, how staged
messages are folded in the order of R377, and the exchange instructions (R380). -/

namespace Sys2Proof.Machine

/-! ### Operations and keys (R374, R375) -/

def Coll.key (c : Coll) : Nat := if c.op = 0xA8 then c.hi * 2 ^ 48 + c.seq else c.hi * 2 ^ 60 + c.seq

/-- Whether a staged message belongs to an operation. -/
def Coll.owns (c : Coll) (e : Nat × GroupMsg) : Bool :=
  e.1 == c.member && e.2.key.toNat == c.key && (e.2.op == 0xA8) == (c.op == 0xA8)

/-- Whether a message disagrees with the operation of its key. -/
def Coll.mismatch (c : Coll) (m : GroupMsg) : Bool :=
  m.op.toNat != c.op || m.count.toNat != c.count || m.wire.toNat != c.wire || m.scale.toNat != c.scale

/-- Messages staged from a sender on a tree, of a kind told by whether they climb the tree. -/
def Group.from_ (g : Group) (c : Coll) (sender tree : Nat) : List GroupMsg :=
  ((g.staged.filter (fun e => c.owns e && e.2.sender.toNat == sender && e.2.tree.toNat == tree)).map (fun e => e.2))

/-! ### Staging (R20, R310, R378) -/

/-- The engine in which member `v` forms its value for tree `t`: that of the port its route table gives for its parent, or of port
`t mod 12` at a root or beside its parent.
Log entry 188, DESIGN CHOICE. -/
def State.engineOf (s : State) (g : Group) (v t : Nat) : Nat :=
  let q := gePos g.entry (geParent g.entry t v)
  if v = geRoot g.entry t || s.rig.serves q then t % 12 else s.dropPort q

/-- Whether a staged message waits no longer: its shard has come down whole, or every earlier term of R377 for its elements is there.
Log entry 188, DESIGN CHOICE. -/
def Group.folded (g : Group) (e : Nat × GroupMsg) : Bool :=
  let t := e.2.tree.toNat
  let snd := e.2.sender.toNat
  g.colls.any (fun c => c.owns e &&
    (if e.1 != geRoot g.entry t && snd == geParent g.entry t e.1 then c.results.has t || c.applied.contains t
     else ((geChildren g.entry t e.1).filter (fun ch => ch < snd)).all (fun ch =>
       (List.range e.2.elems.toNat).all (fun i => (g.from_ c ch t).any (fun m => m.off.toNat ≤ e.2.off.toNat + i && e.2.off.toNat + i < m.off.toNat + m.elems.toNat)))))

/-- Bytes of messages that wait in an engine's staging.
Log entry 188, DESIGN CHOICE. -/
def State.engineUsed (s : State) (e : Nat) : Nat :=
  (s.groups.map (fun (x : Nat × Group) => ((x.2.staged.filter (fun m => m.2.op.toNat != 0xA3 && m.2.op.toNat != 0xA4 &&
    s.engineOf x.2 m.1 m.2.tree.toNat == e && !x.2.folded m)).map (fun m => m.2.data.length)).sum)).sum

def engineStaging : Nat := 4194304
/-- Staging of a die: six engines of 4 MiB (R20). -/
def dieStaging : Nat := 6 * engineStaging

/-- Bytes of buckets and waiting messages in a die's staging. A bucket stands there until it is applied, dropped or aborted (R312).
Log entry 188, DESIGN CHOICE. -/
def State.stagingUsed (s : State) (die : Nat) : Nat :=
  (s.usets.map (fun (e : Nat × USet) => ((e.2.staging.filter (fun b => tileDie b.tile == die)).map (fun b => b.size)).sum)).sum +
  (s.groups.map (fun (x : Nat × Group) => ((x.2.colls.filter (fun c => c.op == 0xA8 && c.die == die)).map (fun c => c.own.length * (if c.ofmt = 0 then 4 else 2))).sum)).sum +
  ((List.range 6).map (fun i => s.engineUsed (6 * die + i))).sum

/-- Whether an engine has room for a message to a member (R378).
Log entry 188, DESIGN CHOICE. -/
def State.admits (s : State) (gi dest : Nat) (m : GroupMsg) : Bool :=
  let e := s.engineOf (s.group gi) dest m.tree.toNat
  s.engineUsed e + m.data.length ≤ engineStaging && s.stagingUsed (e / 6) + m.data.length ≤ dieStaging

/-- Join the elements of messages that cover `[pos, len)` in turn. -/
def joinElems (w : Nat) (ms : List GroupMsg) (len : Nat) : (fuel : Nat) → (pos : Nat) → Option (List Nat)
  | 0, pos => if len ≤ pos then some [] else none
  | k + 1, pos =>
    if len ≤ pos then some []
    else
      match ms.find? (fun m => m.off.toNat == pos && m.elems.toNat != 0) with
      | none => none
      | some m => (joinElems w ms len k (pos + m.elems.toNat)).map (fun l => unpackWire w m.elems.toNat m.data ++ l)

/-- Own elements of shard `t`, widened; the commons member of a grouped update contributes +0. -/
def Group.ownShard (g : Group) (c : Coll) (t : Nat) : List Nat :=
  let (o, n) := shardOf c.count g.n t
  if c.op = 0xA8 && geIsCommons g.entry && c.member = geCommons g.entry then List.replicate n 0
  else ((c.own.drop o).take n).map (widen32 (fmtOf c.ofmt))

/-- The node value of a member for shard `t` (R377): none while a child's part is missing. -/
def Group.nodeValue (g : Group) (c : Coll) (t : Nat) : Option (List Nat) :=
  (geChildren g.entry t c.member).foldl (fun acc ch =>
    match acc, joinElems c.wire (g.from_ c ch t) (shardOf c.count g.n t).2 (g.staged.length + 1) 0 with
    | some a, some b => some ((a.zip b).map (fun p => (r32 (fadd false (d32 p.1) (d32 (widen32 (wireFmt c.wire) p.2)))).1))
    | _, _ => none) (some (g.ownShard c t))

/-! ### Sending -/

/-- The messages that carry elements of a shard, at most 8,192 data bytes each. -/
def shardMsgs (gi : Nat) (g : Group) (c : Coll) (sender t : Nat) (codes : List Nat) : List GroupMsg :=
  let per := 8192 / wireBytes c.wire
  (List.range (ceilDiv codes.length per)).map (fun i =>
    let l := (codes.drop (per * i)).take per
    mkMsg gi g.epoch c.key c.op t sender c.wire c.count l.length (per * i) c.scale (packWire c.wire l))

def State.sendAll (s : State) (kind sender dest : Nat) (ms : List GroupMsg) : State :=
  ms.foldl (fun s m => s.sendGroup kind sender dest m) s

/-- Send a shard down a tree from a member to its children. -/
def State.sendDown (s : State) (gi : Nat) (c : Coll) (t : Nat) (codes : List Nat) : State :=
  let g := s.group gi
  (geChildren g.entry t c.member).foldl (fun s ch => s.sendAll kDown c.member ch (shardMsgs gi g c c.member t codes)) s

/-! ### Progress -/

def State.collAt (s : State) (gi i : Nat) : Option Coll := (s.group gi).colls[i]?
def State.setColl (s : State) (gi i : Nat) (c : Coll) : State :=
  let g := s.group gi
  s.setGroup gi { g with colls := g.colls.set i c }

/-- A parity error in the staging of an operation, when it is used, is a context fault of the RUN that opened it (R326, R393).
Log entry 197, DESIGN CHOICE. -/
def State.collParity (s : State) (c : Coll) : State :=
  match s.runs.get c.rid with
  | some r => s.loseCtx r.ctx .parity .context (some (r.q, r.sub))
  | none => s

/-- Move one shard of an operation up its tree as far as it goes: to the parent, or to a result at the root. A
result of XALLRED goes down again. -/
def State.climb (s : State) (gi i t : Nat) : State :=
  match s.collAt gi i with
  | none => s
  | some c =>
    let g := s.group gi
    if c.op = 0xA2 || (shardOf c.count g.n t).2 = 0 || c.sent.contains t then s
    else
      match g.nodeValue c t with
      | none => s
      | some v =>
        let codes := v.map (toWire c.wire)
        if c.spoiled then s.collParity c
        else if c.member = geRoot g.entry t then
          let s := s.setColl gi i { c with sent := t :: c.sent, results := c.results.set t codes }
          if c.op = 0xA0 then s.sendDown gi c t codes else s
        else
          (s.setColl gi i { c with sent := t :: c.sent }).sendAll kUp c.member (geParent g.entry t c.member)
            (shardMsgs gi g c c.member t codes)

/-- Take a shard that has come down whole, and pass it on (R380, R381). -/
def State.descend (s : State) (gi i t : Nat) : State :=
  match s.collAt gi i with
  | none => s
  | some c =>
    let g := s.group gi
    if c.op = 0xA8 || c.op = 0xA1 || c.results.has t || c.member = geRoot g.entry t then s
    else
      let len := if c.op = 0xA2 then c.count else (shardOf c.count g.n t).2
      if len = 0 then s
      else
        match joinElems c.wire (g.from_ c (geParent g.entry t c.member) t) len (g.staged.length + 1) 0 with
        | none => s
        | some codes => if c.spoiled then s.collParity c else (s.setColl gi i { c with results := c.results.set t codes }).sendDown gi c t codes

/-- Send an all-gather piece from its member. -/
def State.gatherOwn (s : State) (gi i : Nat) : State :=
  match s.collAt gi i with
  | none => s
  | some c =>
    if c.op = 0xA2 && !c.sent.contains c.member then
      (s.setColl gi i { c with sent := c.member :: c.sent, results := c.results.set c.member c.own }).sendDown gi c c.member c.own
    else s

/-- Everything that can move in a group's operations moves. -/
def State.progress (s : State) (gi : Nat) : State :=
  let g := s.group gi
  (List.range g.colls.length).foldl (fun s i =>
    (List.range g.n).foldl (fun s t => (s.climb gi i t).descend gi i t) (s.gatherOwn gi i)) s

/-- Whether an operation holds all it delivers, and has sent all it owes. -/
def Group.complete (g : Group) (c : Coll) : Bool :=
  (List.range g.n).all (fun t =>
    let n := (shardOf c.count g.n t).2
    if c.op = 0xA2 then c.count == 0 || c.results.has t
    else n == 0 || (if c.op = 0xA1 then c.sent.contains t else c.results.has t))

/-- What the out port of an exchange receives. -/
def Group.delivered (g : Group) (c : Coll) : List Nat :=
  if c.op = 0xA1 then c.results.getD c.member []
  else (List.range g.n).flatMap (fun t => c.results.getD t [])

/-- Open an operation of a local member; a staged message that disagrees with it starts a group abort. -/
def State.openColl (s : State) (gi : Nat) (c : Coll) : State :=
  let g := s.group gi
  let bad := g.staged.any (fun e => c.owns e && c.mismatch e.2)
  let s := s.setGroup gi { g with colls := g.colls ++ [c] }
  if bad then s.abortGroup gi .mismatch else s.progress gi

/-- Remove an operation and its messages. -/
def State.closeColl (s : State) (gi : Nat) (c : Coll) : State :=
  let g := s.group gi
  let s := s.setGroup gi { g with colls := g.colls.filter (fun d => !(d.member == c.member && d.key == c.key && d.op == c.op)),
                                  staged := g.staged.filter (fun e => !c.owns e) }
  s.bumpPart (gePart g.entry c.member) cGrpOps 1

/-! ### Exchange instructions (R380) -/

/-- The status of an exchange instruction on a group, when it may not issue (R380, R391). -/
def exchangeFail (g : Group) (wire : Option Nat) (me : Option Nat) : Option Status :=
  govern (failIf (g.st != .active || me.isNone) .handle ++ failIf (geIsCommons g.entry) .malformed ++
    failIf (match wire with
      | some w => w != geWire g.entry
      | none => false) .malformed)

/-- The shared course of the three stream collectives. -/
def runExchange (op : Nat) (t : Sys2Proof.Tile) (wire inp outp : BitVec 4) (group : U8) (count : U32) (s : State) :
    Host.Outcome State Fault Refusal :=
  s.whenWord t.val (wX op wire.toNat inp.toNat outp.toNat group.toNat count.toNat) (fun x _ s =>
    let gi := group.toNat
    let g := s.group gi
    let me? := s.memberOf g x.run.part
    match exchangeFail g (some wire.toNat) me?, me? with
    | some st, _ => s.runFault x st
    | none, none => s.runFault x .handle
    | none, some me =>
      match g.colls.find? (fun c => c.member == me && c.hi == x.k && c.op != 0xA8 && c.rid == x.rid) with
      | some c =>
        if !g.complete c then s
        else if c.spoiled then s.runParity x
        else
          let bs := mkBeats (packWire c.wire (g.delivered c)) [] 0 0
          (match (if bs.isEmpty then some s else s.sendPort t.val outp.toNat x bs) with
           | none => s
           | some s => (s.closeColl gi c).advance t.val 1)
      | none =>
        let w := wireBytes wire.toNat
        let n := (s.tile t.val).beatsFor inp.toNat (count.toNat * w)
        let s := s.collect t.val inp.toNat n x n
        let tl := s.tile t.val
        if tl.rowBuf.length < n then s
        else
          let own := unpackWire wire.toNat count.toNat (tl.atHand inp.toNat)
          let sk := 64 * me + x.k
          let seq := g.seqs.getD sk 0
          let s := s.setTile t.val (tl.takeElems inp.toNat (count.toNat * w))
          let g := s.group gi
          let s := s.setGroup gi { g with seqs := g.seqs.set sk ((seq + 1) % 2 ^ 32) }
          (s.openColl gi ⟨me, op, x.k, seq, x.rid, count.toNat, wire.toNat, 0,
            (if wire = 1 then 1 else if wire = 2 then 2 else 0), own, [], [], [], s.ts, s.ts, tileDie t.val, false⟩).moved x.rid)

/-- XALLRED. -/
def execXallred (t : Sys2Proof.Tile) (wire inp outp : BitVec 4) (group : U8) (count : U32) (s : State) : Host.Outcome State Fault Refusal :=
  runExchange 0xA0 t wire inp outp group count s
/-- XREDSC. -/
def execXredsc (t : Sys2Proof.Tile) (wire inp outp : BitVec 4) (group : U8) (count : U32) (s : State) : Host.Outcome State Fault Refusal :=
  runExchange 0xA1 t wire inp outp group count s
/-- XALLGA. -/
def execXallga (t : Sys2Proof.Tile) (wire inp outp : BitVec 4) (group : U8) (count : U32) (s : State) : Host.Outcome State Fault Refusal :=
  runExchange 0xA2 t wire inp outp group count s

/-! ### Dispatch and combine (R201, R206, R382) -/

/-- A row as a message carries it: its beats with their sidebands (log entry 34, DEDUCED). -/
def beatsBytes (l : List Beat) : Bytes := l.flatMap (fun b => b.data ++ leBytes 8 b.scale.toNat ++ leBytes 1 b.zmask.toNat)
def bytesBeats (b : Bytes) : List Beat :=
  (List.range (b.length / 73)).map (fun i =>
    let x := (b.drop (73 * i)).take 73
    ⟨x.take 64, BitVec.ofNat 64 (fieldLE x 64 8), BitVec.ofNat 8 (fieldLE x 72 1), false, false, false, false, 0, none⟩)

/-- A row preceded by its ticket record.
Log entry 34, DEDUCED. -/
def rowBytes (r : TktRow) : Bytes := leBytes 8 r.tkt ++ leBytes 4 r.gate ++ zeros 4 ++ beatsBytes r.beats
def bytesRow (b : Bytes) : TktRow := ⟨fieldLE b 0 8, fieldLE b 8 4, bytesBeats (b.drop 16)⟩
/-- Cut a message's data into its rows. -/
def cutRows (n : Nat) (b : Bytes) : List Bytes :=
  let w := b.length / max 1 n
  (List.range n).map (fun i => (b.drop (w * i)).take w)

/-- The expert that row `i` of a window goes to: that of the group the row came in; for rows that no sort of the RUN emitted, the rows of one token come in
two equal halves, the lower expert's first.
Log entry 73, DEDUCED. -/
def dispatchExpert (rows : List TktRow) (i : Nat) : Nat :=
  match rows[i]? with
  | none => 0xFF
  | some r =>
    let same (x : TktRow) : Bool := x.tkt == r.tkt && x.gate == r.gate
    let before := ((rows.take i).filter same).length
    let all := (rows.filter same).length
    let (lo, hi) := tkExperts r.tkt r.gate
    match r.grp with
    | some k => if k = hi.1 then hi.1 else lo.1
    | none => if lo.1 = hi.1 || before < ceilDiv all 2 then lo.1 else hi.1

/-- The member that serves an expert: the one member at its position.
Log entry 73, DEDUCED. -/
def dispatchTarget (g : Group) (b : Bytes) (e : Nat) : Option Nat :=
  let pos := fieldLE b (64 + 8 * e + 3) 1
  match (List.range g.n).filter (fun m => gePos g.entry m == pos) with
  | [m] => some m
  | _ => none

def State.setDisp (s : State) (gi : Nat) (d : Disp) : State :=
  let g := s.group gi
  s.setGroup gi { g with disps := g.disps.map (fun x => if x.member == d.member && x.lane == d.lane && x.window == d.window then d else x) }

def Disp.key (d : Disp) : Nat := d.lane * 2 ^ 60 + d.window

/-- Whether a window awaits rows, or results of rows it sent. -/
def Group.dispAwaits (g : Group) (d : Disp) : Bool := !(List.range g.n).all (fun m => d.got.has m) || (d.returned && !(List.range g.n).all (fun m => d.back.has m))

/-- Take the staged messages of a window. The time since the last of them counts as waiting while the window awaits one (R394). -/
def State.absorb (s : State) (gi : Nat) (d : Disp) : State :=
  let g := s.group gi
  let mine (e : Nat × GroupMsg) : Bool := e.1 == d.member && e.2.key.toNat == d.key && (e.2.op == 0xA3 || e.2.op == 0xA4)
  let ms := g.staged.filter mine
  let s := if ms.isEmpty || !g.dispAwaits d then s else s.bumpPart (gePart g.entry d.member) cGrpWait (s.ts - d.heard)
  let d := if ms.isEmpty then d else { d with heard := s.ts }
  let d := ms.foldl (fun (d : Disp) e =>
    let rows := cutRows e.2.elems.toNat e.2.data
    if e.2.op = 0xA3 then { d with got := d.got.set e.2.sender.toNat (rows.map bytesRow) }
    else { d with back := d.back.set e.2.sender.toNat (rows.map bytesBeats) }) d
  (s.setGroup gi { g with staged := g.staged.filter (fun e => !mine e) }).setDisp gi d

/-- Send one message with rows to each other member (R382).
Log entry 72, DEDUCED. -/
def State.sendRows (s : State) (gi kind op me : Nat) (d : Disp) (rowsFor : Nat → List Bytes) : State :=
  let g := s.group gi
  ((List.range g.n).filter (fun m => m != me)).foldl (fun s m =>
    let rows := rowsFor m
    s.sendGroup kind me m (mkMsg gi g.epoch d.key op 0 me (geWire g.entry) rows.length rows.length 0 0 rows.flatten)) s

/-- XDISP. Rows of a class that the table skips are not sent (R192). A parity error in the ticket window ends the context (R207).
Log entry 72, DEDUCED. Log entry 74, DEDUCED. -/
def execXdisp (t : Sys2Proof.Tile) (inp outp : BitVec 4) (group : U8) (s : State) : Host.Outcome State Fault Refusal :=
  s.whenWord t.val (wX 0xA3 0 inp.toNat outp.toNat group.toNat 0) (fun x _ s =>
    let gi := group.toNat
    let g := s.group gi
    let me? := s.memberOf g x.run.part
    match exchangeFail g none me?, me?, x.im.tableOf (x.im.stageAt x.st) with
    | some st, _, _ => s.runFault x st
    | none, some me, some b =>
      let wk := 64 * me + x.k
      let win := g.windows.getD wk 0
      (match g.disps.find? (fun d => d.member == me && d.lane == x.k && d.window == win) with
       | none =>
         let s := s.fillWindow t.val inp.toNat (tblWindow b) x (tblWindow b + 1)
         let u := (s.tile t.val).tkt
         if !u.closed && u.window.length < tblWindow b then s
         else if u.window.any (fun r => tkBad (some b) r.tkt) then s.runFault x .malformed
         else if (s.tile t.val).upsets.contains .window then s.runParity x
         else
           let sent := u.window.filter (fun r => !tblSkip b (tkSkip r.tkt))
           let targets := (List.range sent.length).map (fun i => dispatchTarget g b (dispatchExpert sent i))
           if targets.any Option.isNone then s.runFault x .malformed
           else
             let rows := (sent.zip targets).map (fun p => (p.2.getD 0, p.1))
             let to_ (m : Nat) : List TktRow := (rows.filter (fun r => r.1 == m)).map (fun r => r.2)
             let d : Disp := ⟨me, x.k, win, x.rid, rows, [(me, to_ me)], false, false, [], s.ts, s.ts⟩
             let s := s.setTile t.val { s.tile t.val with tkt := { u with window := [], closed := false } }
             let g := s.group gi
             let s := s.setGroup gi { g with disps := g.disps ++ [d] }
             ((s.sendRows gi kDispatch 0xA3 me d (fun m => (to_ m).map rowBytes)).absorb gi d).moved x.rid
       | some d =>
         if !(List.range g.n).all (fun m => d.got.has m) then s
         else
           let rows := (List.range g.n).flatMap (fun m => d.got.getD m [])
           let bad := (List.range g.n).any (fun m => m != me && (d.got.getD m []).any (fun r => tkPart r.tkt != gePart g.entry m))
           if bad then s.runFault x .bounds
           else if rows.any (fun r => tkBad (some b) r.tkt) then s.runFault x .malformed
           else
             let s' := s.attachTo t.val outp.toNat x (rows.map (fun r => (r.tkt, r.gate)))
             (match (if rows.isEmpty then some s' else s'.sendPort t.val outp.toNat x (rows.flatMap (fun r => padRow (x.outRowBytes outp.toNat) r.beats))) with
              | none => s
              | some s =>
                let s := s.setDisp gi { d with emitted := true }
                let g := s.group gi
                let s := s.setGroup gi { g with windows := g.windows.set wk (win + 1) }
                let s := (match s.runs.get x.rid with
                  | some r => s.setRun x.rid { r with dispParts := (r.dispParts ++ rows.map (fun (r : TktRow) => tkPart r.tkt)).eraseDups }
                  | none => s)
                s.advance t.val 1))
    | none, _, _ => s.runFault x .malformed)

/-- XCOMB: the results of a window go back in the order its rows came, and come back in the order this member
sent its own. -/
def execXcomb (t : Sys2Proof.Tile) (inp outp : BitVec 4) (group : U8) (s : State) : Host.Outcome State Fault Refusal :=
  s.whenWord t.val (wX 0xA4 0 inp.toNat outp.toNat group.toNat 0) (fun x _ s =>
    let gi := group.toNat
    let g := s.group gi
    let me? := s.memberOf g x.run.part
    match exchangeFail g none me?, me? with
    | some st, _ => s.runFault x st
    | none, none => s.runFault x .handle
    | none, some me =>
      match g.disps.find? (fun d => d.member == me && d.lane == x.k && d.emitted) with
      | none => s
      | some d =>
        if !d.returned then
          let n := ((List.range g.n).map (fun m => (d.got.getD m []).length)).sum
          let s := s.fillWindow t.val inp.toNat n x (n + 1)
          let u := (s.tile t.val).tkt
          if u.window.length < n then s
          else
            let start (m : Nat) : Nat := ((List.range m).map (fun k => (d.got.getD k []).length)).sum
            let for_ (m : Nat) : List (List Beat) := ((u.window.drop (start m)).take (d.got.getD m []).length).map (fun r => r.beats)
            let d := { d with returned := true, back := d.back.set me (for_ me), since := s.ts, heard := s.ts }
            let s := s.setTile t.val { s.tile t.val with tkt := { u with window := [], closed := false } }
            (((s.setDisp gi d).sendRows gi kCombine 0xA4 me d (fun m => (for_ m).map beatsBytes)).absorb gi d).moved x.rid
        else if !(List.range g.n).all (fun m => d.back.has m) then s
        else
          let out := (d.rows.zipIdx).map (fun e =>
            let k := ((d.rows.take e.2).filter (fun r => r.1 == e.1.1)).length
            ((d.back.getD e.1.1 []).getD k [], e.1.2))
          let s' := s.attachTo t.val outp.toNat x (out.map (fun r => (r.2.tkt, r.2.gate)))
          (match (if out.isEmpty then some s' else s'.sendPort t.val outp.toNat x (out.flatMap (fun r => padRow (x.outRowBytes outp.toNat) r.1))) with
           | none => s
           | some s =>
             let g := s.group gi
             let s := s.setGroup gi { g with disps := g.disps.filter (fun e => !(e.member == me && e.lane == d.lane && e.window == d.window)) }
             let s := s.bumpPart x.run.part cGrpOps 1
             s.advance t.val 1))

end Sys2Proof.Machine
end

