-- ==== Sys2Proof/Machine/Update.lean ====
section
/-! DEFINITION. The fused optimiser update (R297 to R325): recipes, update sets, buckets in staging, and the
application of a block. The close of an attempt stands in its own file. -/

namespace Sys2Proof.Machine

/-! ### Microwords (R305 to R307) -/

def uwOp (w : Nat) : Nat := bitsOf w 26 6
def uwDst (w : Nat) : Nat := bitsOf w 21 5
def uwA (w : Nat) : Nat := bitsOf w 16 5
def uwB (w : Nat) : Nat := bitsOf w 11 5
def uwC (w : Nat) : Nat := bitsOf w 6 5
def mkUw (op dst a b c : Nat) : Nat := op * 2 ^ 26 + dst * 2 ^ 21 + a * 2 ^ 16 + b * 2 ^ 11 + c * 2 ^ 6

/-- Operands an operation reads; none for a reserved operation. -/
def uwArity : Nat → Option Nat
  | 0x01 | 0x02 | 0x03 | 0x05 | 0x08 | 0x09 => some 2
  | 0x04 => some 3
  | 0x06 | 0x07 | 0x0A | 0x0B | 0x20 | 0x21 | 0x22 | 0x23 | 0x24 => some 1
  | 0x3F => some 0
  | _ => none

def uwReads (w : Nat) : List Nat := ([uwA w, uwB w, uwC w]).take ((uwArity (uwOp w)).getD 0)
def uwWrites (w : Nat) : Bool := 1 ≤ uwOp w && uwOp w ≤ 0x0B

/-- Whether every temporary is written before it is read. -/
def tempsOk : (known : List Nat) → List Nat → Bool
  | _, [] => true
  | known, w :: r =>
    (uwReads w).all (fun c => 12 ≤ c || known.contains c) && (!uwWrites w || uwDst w < 12) &&
    tempsOk (if uwWrites w then uwDst w :: known else known) r

def countOp (op : Nat) (ws : List Nat) : Nat := (ws.filter (fun w => uwOp w == op)).length

def Recipe.keepsM1 (r : Recipe) : Bool := bitOf r.state 0
def Recipe.keepsM2 (r : Recipe) : Bool := bitOf r.state 1
def Recipe.factored (r : Recipe) : Bool := bitOf r.state 2
def Recipe.mBytes (r : Recipe) : Nat := if r.mfmt = 2 then 2 else 4
def Recipe.rm (r : Recipe) : Rnd := (Rnd.ofFields r.rnd r.srw).getD .rne

/-- Read a recipe, refusing what R304 and R307 refuse.
Log entry 217, DESIGN CHOICE. -/
def readRecipe (b : Bytes) : Option Recipe :=
  let n := fieldLE b 0 1
  let st := fieldLE b 1 1
  let mf := fieldLE b 2 1
  let rb := fieldLE b 3 1
  let ws := (List.range n).map (fun i => fieldLE b (0x40 + 4 * i) 4)
  let usesFac := ws.any (fun w => uwOp w == 0x23 || uwOp w == 0x24 || (uwReads w).any (fun c => c == 16 || c == 17))
  let ok := 2 ≤ n && n ≤ 112 && st < 8 && (mf == 0 || mf == 2) && rb < 32 && reservedZero b 4 60 &&
    (Rnd.ofFields (bitsOf rb 0 3) (bitsOf rb 3 2)).isSome &&
    ws.all (fun w => (uwArity (uwOp w)).isSome && bitsOf w 0 6 == 0) && tempsOk [] ws &&
    ws.getLast?.map uwOp == some 0x3F && countOp 0x3F ws == 1 && countOp 0x20 ws == 1 &&
    countOp 0x21 ws == b2n (bitOf st 0) && countOp 0x22 ws == b2n (bitOf st 1) &&
    (bitOf st 2 || !usesFac) && !(bitOf st 1 && bitOf st 2)
  if ok then some ⟨st, mf, bitsOf rb 0 3, bitsOf rb 3 2, ws⟩ else none

/-- AdamW, as R308 disassembles it. -/
def adamW : List Nat :=
  [mkUw 3 0 12 22 0, mkUw 4 0 14 21 0, mkUw 0x21 0 0 0 0, mkUw 3 1 12 12 0, mkUw 3 1 1 24 0, mkUw 4 1 15 23 1,
   mkUw 0x22 0 1 0 0, mkUw 3 2 0 27 0, mkUw 3 3 1 28 0, mkUw 6 3 3 0 0, mkUw 1 3 3 25 0, mkUw 5 2 2 3 0,
   mkUw 4 2 13 26 2, mkUw 3 2 2 20 0, mkUw 0x20 0 2 0 0, mkUw 0x3F 0 0 0 0]

/-- Fykor's recipes (R308): states and word counts are the manual's; the words of entries 1 to 3 and every
entry's moment format and rounding are free values (log entry 35, DESIGN CHOICE). -/
def fykorRecipe (e : Nat) : Recipe :=
  let r := (Config.fykorRounding e).toNat
  let mf := if bitOf r 8 then 2 else 0
  let st := if e = 0 then 3 else if e = 3 then 4 else 1
  let n := if e = 1 then 6 else if e = 2 then 10 else 13
  ⟨st, mf, bitsOf r 0 3, bitsOf r 3 2, if e = 0 then adamW else (List.range n).map (fun i => (Config.fykorMicroword e i).toNat)⟩

/-- A partition's recipe table entry; none when empty. -/
def State.recipe (s : State) (p e : Nat) : Option Recipe := if e < 4 then some (fykorRecipe e) else s.recipes.get (16 * p + e)

/-! ### Reading an object for a command (R253, R417) -/

/-- Run a command on bytes the management DMA reads: a page or line that refuses the read ends the command
(R238, R253, R278). -/
def State.withBytes (s : State) (qk sub c key off len : Nat) (f : Bytes → State → State) : State :=
  match s.objs.get key with
  | none => s.ctxFault c .handle (some (qk, sub))
  | some o =>
    if o.bytes < off + len then s.ctxFault c .bounds (some (qk, sub))
    else if !s.keyServes key then s.complete qk sub (Done.req .key)
    else
      match o.readVerdict off len with
      | .bad st sc => s.faultAt qk sub st (if sc == .context then .request else sc)
      | _ => if s.rangeBad key off len != 0 then s.complete qk sub (Done.req .integrity) else f (s.objRead key off len) s

/-- Whether a set of a partition has a descriptor with a recipe entry. -/
def State.recipeUsed (s : State) (p e : Nat) : Bool :=
  s.usets.any (fun (x : Nat × USet) => x.1 / 16 == p && x.2.descs.any (fun d => d.recipe == e))

/-- RECIPE_LOAD (R304, R307).
Log entry 217, DESIGN CHOICE. -/
def execRecipeLoad (q : QId) (a : RecipeArgs) (s : State) : Host.Outcome State Fault Refusal :=
  s.whenCtx q (.recipeLoad a) (fun qk e c x s =>
    match x.part, s.ownObj c e.ts a.handle with
    | some p, some (key, _) =>
      if 16 ≤ a.entry.toNat then s.ctxFault c .malformed (some (qk, e.sub))
      else if a.entry.toNat < 4 || s.recipeUsed p a.entry.toNat then s.complete qk e.sub (Done.req .bounds)
      else s.withBytes qk e.sub c key a.off.toNat 512 (fun b s =>
        match readRecipe b with
        | none => s.ctxFault c .malformed (some (qk, e.sub))
        | some r => { s with recipes := s.recipes.set (16 * p + a.entry.toNat) r }.complete qk e.sub (Done.okay 0 0))
    | _, _ => s.ctxFault c .handle (some (qk, e.sub)))

/-! ### Update sets (R298 to R301) -/

def posFinite (w : Nat) : Bool := 0 < w && w < 0x7F800000
def isPowTwo (w : Nat) : Bool := w % 2 ^ 23 == 0 && 1 ≤ w / 2 ^ 23 && w / 2 ^ 23 ≤ 254

def readDesc (b : Bytes) (obj : Nat) : Desc :=
  ⟨fieldLE b 0 1, fieldLE b 1 1, obj, fieldLE b 8 4, fieldLE b 0xC 4, fieldLE b 0x10 8, fieldLE b 0x18 8, fieldLE b 0x20 8,
   fieldLE b 0x28 8, fieldLE b 0x30 8, fieldLE b 0x38 4⟩

def Desc.f (d : Desc) : Fmt := fmtOf d.fmt
def Desc.params (d : Desc) : Nat := d.rows * d.kLen
def Desc.nb (d : Desc) : Nat := ceilDiv d.kLen 16
def Desc.elemBytes (d : Desc) : Nat := if d.f.blockScaled then d.rows * d.nb * blockBytes d.f 16 else d.params * d.f.width / 8

/-- The arrays a descriptor places in its object. -/
def Desc.arrays (d : Desc) (r : Recipe) : List (Nat × Nat) :=
  [(d.wc, d.elemBytes), (d.sc, if d.f.blockScaled then d.rows * d.nb else 0), (d.master, 6 * d.params),
   (d.m1, if r.keepsM1 then r.mBytes * d.params else 0),
   (d.m2, if r.keepsM2 then r.mBytes * d.params else if r.factored then 4 * (d.rows + d.kLen) else 0), (d.ts, 4)]

/-- Failures of one descriptor (R299 to R301). -/
def State.descFails (s : State) (p c t mode : Nat) (b : Bytes) : List Status :=
  let fm := Fmt.ofCode (fieldLE b 1 1)
  let d := readDesc b 0
  let field := failIf (fm.isNone || fm == some .f64 || fm == some .x48 || 16 ≤ d.recipe || !reservedZero b 2 2 || !reservedZero b 0x3C 4 ||
    d.rows == 0 || d.kLen == 0 || d.wc % 64 != 0 || d.sc % 64 != 0 || d.master % 64 != 0 || d.m1 % 64 != 0 || d.m2 % 64 != 0 || d.ts % 4 != 0 ||
    (!d.f.blockScaled && d.sc != 0)) .malformed
  let rec_ := match s.recipe p d.recipe with
    | none => [.malformed]
    | some r => failIf ((!r.keepsM1 && d.m1 != 0) || (!r.keepsM2 && !r.factored && d.m2 != 0)) .malformed
  field ++ rec_ ++
  (match s.ownObj c t (u32At b 4) with
   | none => [.handle]
   | some (_, o) =>
     failIf (o.tier != 1 || !o.trainable || o.inSet.isSome ||
       (match s.recipe p d.recipe with
        | some r => (d.arrays r).any (fun a => o.bytes < a.1 + a.2)
        | none => false)) .bounds ++
     failIf (o.paired != (mode == 0)) .malformed)

/-- Failures of a set record (R298). -/
def recordFails (b : Bytes) : List Status :=
  let mode := fieldLE b 0 1
  failIf (1 < mode || !reservedZero b 1 1 || !reservedZero b 6 2 || (255 < fieldLE b 2 2 && fieldLE b 2 2 != 0xFFFF) ||
    fieldLE b 4 2 == 0 || 4096 < fieldLE b 4 2 || !posFinite (fieldLE b 8 4) ||
    (if mode = 1 then !posFinite (fieldLE b 0xC 4) else fieldLE b 0xC 4 != 0) ||
    !isPowTwo (fieldLE b 0x10 4) || !isPowTwo (fieldLE b 0x14 4) || !isPowTwo (fieldLE b 0x18 4) ||
    fieldLE b 0x10 4 < fieldLE b 0x14 4 || fieldLE b 0x18 4 < fieldLE b 0x10 4 ||
    fieldLE b 0x28 8 % 64 != 0 || fieldLE b 0x30 8 % 64 != 0 || fieldLE b 0x3C 4 % 4 != 0) .malformed

/-- UPDATE_SET_CREATE (R297 to R301, R366): objects join the set, and their read half is the set's.
Log entry 78, DEDUCED.
Log entry 217, DESIGN CHOICE. -/
def execUpdateSetCreate (q : QId) (a : SetArgs) (s : State) : Host.Outcome State Fault Refusal :=
  s.whenCtx q (.updateSetCreate a) (fun qk e c x s =>
    match x.part, s.ownObj c e.ts a.handle with
    | some p, some (key, _) =>
      s.withBytes qk e.sub c key a.off.toNat 64 (fun b s =>
        let n := fieldLE b 4 2
        match s.ownObj c e.ts (u32At b 0x20), s.ownObj c e.ts (u32At b 0x24), s.ownObj c e.ts (u32At b 0x38) with
        | some (dk, _), some (_, ho), some (_, so) =>
          if fieldLE b 0 1 ≤ 1 && (ho.bytes < fieldLE b 0x30 8 || so.bytes < fieldLE b 0x3C 4 + 4) then s.ctxFault c .bounds (some (qk, e.sub))
          else if 4096 < n then s.ctxFault c .malformed (some (qk, e.sub))
          else s.withBytes qk e.sub c dk (fieldLE b 0x28 8) (64 * n) (fun ds s =>
            let each := (List.range n).map (fun i => (ds.drop (64 * i)).take 64)
            match govern (recordFails b ++ each.flatMap (s.descFails p c e.ts (fieldLE b 0 1))) with
            | some st => s.ctxFault c st (some (qk, e.sub))
            | none =>
              let grp := if fieldLE b 2 2 = 0xFFFF then none else some (fieldLE b 2 2)
              let k := setKey p a.set.toNat
              if 16 ≤ a.set.toNat || s.usets.has k || (grp.isSome && s.usets.any (fun (y : Nat × USet) => y.1 / 16 == p && y.2.group == grp)) then
                s.complete qk e.sub (Done.req .bounds)
              else
                let descs := each.map (fun d => readDesc d ((u32At d 4).toNat % 2 ^ 20))
                let mode := fieldLE b 0 1
                let u : USet := ⟨c, mode, grp, fieldLE b 8 4, fieldLE b 0xC 4, fieldLE b 0x14 4, fieldLE b 0x18 4, fieldLE b 0x1C 4,
                  descs, (fieldLE b 0x24 4, fieldLE b 0x30 8), (fieldLE b 0x38 4, fieldLE b 0x3C 4), mkCommit 0 0 false false false mode false 0,
                  ~~~(mkCommit 0 0 false false false mode false 0), 0, 0, fieldLE b 0x10 4, 0, none, none, 0, [], 0, [], [], [], [], [], [], false, 0, none, true, none, none, false, []⟩
                let s := s.setUset k u
                let s := ((descs.map (fun d => d.obj)).eraseDups).foldl (fun s i => match s.objs.get i with
                  | some o => s.setObj i { o with inSet := some k, half := 0 }
                  | none => s) s
                s.complete qk e.sub (Done.okay 0 0))
        | _, _, _ => s.ctxFault c .handle (some (qk, e.sub)))
    | _, _ => s.ctxFault c .handle (some (qk, e.sub)))

/-- Remove a set: its objects keep their read half (R302). -/
def State.dropSet (s : State) (k : Nat) : State :=
  let s := (s.objs.filter (fun (e : Nat × Obj) => e.2.inSet == some k)).foldl (fun s e => s.setObj e.1 { e.2 with inSet := none }) s
  { s with usets := s.usets.erase k }

/-- UPDATE_SET_DESTROY. -/
def execUpdateSetDestroy (q : QId) (set : U8) (s : State) : Host.Outcome State Fault Refusal :=
  s.whenCtx q (.updateSetDestroy set) (fun qk e c x s =>
    let k := setKey (x.part.getD 16) set.toNat
    match (if set.toNat < 16 then s.usets.get k else none) with
    | none => s.ctxFault c .handle (some (qk, e.sub))
    | some u =>
      if u.ctx != c then s.ctxFault c .handle (some (qk, e.sub))
      else if u.isOpen then s.complete qk e.sub (Done.req .bounds)
      else (s.dropSet k).complete qk e.sub (Done.okay 0 0))

/-! ### Opening an attempt (R308, R316, R59) -/

/-- UPD block offsets (R327, R596). -/
def cUpdCommits : Nat := 0x3000
def cUpdSkipped : Nat := 0x3008
def cUpdBuckets : Nat := 0x3010
def cUpdDropped : Nat := 0x3018
def cUpdClipped : Nat := 0x3020
def cUpdParams : Nat := 0x3028
def cUpdCarry : Nat := 0x3030
def cUpdRefused : Nat := 0x3038
def cUpdBackoff : Nat := 0x3040
/-- NET_CURSORk (R523). -/
def netCursor (k : Nat) : Nat := 0x6100 + 8 * k

/-- The key of the generator of unit `u` in a RUN: one for the RUN, whichever of its sets the unit serves (R59, R314; log entry 36, DEDUCED). -/
def unitKey (rid u : Nat) : Nat := 64 * rid + u

/-- Seed the update units' generators for a RUN, unless they have been seeded within it (R58, R59).
Log entry 36, DEDUCED. -/
def State.seedUnits (s : State) (rid : Nat) (r : Run) : State :=
  if s.unitGens.has (unitKey rid 0) then s
  else { s with unitGens := (List.range 64).foldl (fun t i => t.set (unitKey rid i) (seedGen r.seed (4096 + i) 0 r.stream, 0)) s.unitGens }

/-- The lowest-numbered paired set of a partition, whose attempts are its steps (R533). -/
def State.stepSet (s : State) (p : Nat) : Option Nat :=
  (s.usets.find? (fun (e : Nat × USet) => e.1 / 16 == p && e.2.mode == 0)).map (fun (e : Nat × USet) => e.1)

/-- What the reads of an attempt's hyperparameter blocks come to (R308): a block past its object, a page, key or line that refuses, or reserved bytes
that are not zero (R11).
Log entry 77, DEDUCED. -/
def State.hypFails (s : State) (u : USet) : List (Status × Scope) :=
  match s.objs.get (s.named u.hyper.1) with
  | none => [(.handle, .context)]
  | some o =>
    ((u.descs.map (fun d => d.recipe)).eraseDups).flatMap (fun i =>
      let off := u.hyper.2 + 64 * i
      if o.bytes < off + 64 then [(.bounds, .context)]
      else if !s.keyServes (s.named u.hyper.1) then [(.key, .context)]
      else
        match o.readVerdict off 64 with
        | .bad st sc => [(st, sc)]
        | _ => if s.rangeBad (s.named u.hyper.1) off 64 != 0 then [(.integrity, .context)]
          else if reservedZero (s.objRead (s.named u.hyper.1) off 64) 48 16 then [] else [(.malformed, .context)])

/-- The one of several outcomes that governs: the widest scope, then the lowest code (R6). -/
def governOf (l : List (Status × Scope)) : Option (Status × Scope) :=
  match l.find? (fun e => e.2 == .partition) with
  | some e => some e
  | none => (govern (l.map (fun e => e.1))).map (fun st => (st, .context))

/-- Open an attempt: hyperparameter blocks are read, flags, count and accumulator clear, units are seeded, and
the step ledger notes the step's start (R534).
Log entry 77, DEDUCED. -/
def State.openAttempt (s : State) (k : Nat) (u : USet) (rid : Nat) (r : Run) : State :=
  let hyp := ((u.descs.map (fun d => d.recipe)).eraseDups).foldl (fun (t : Tbl (List Nat)) i =>
    let b := s.objRead (s.named u.hyper.1) (u.hyper.2 + 64 * i) 64
    Tbl.set t i ((List.range 12).map (fun j => fieldLE b (4 * j) 4))) []
  let u := u.setCommit (mkCommit u.half 1 false false false u.mode (cmTorn u.commit) 0)
  let u := { u with run := some rid, openTs := s.ts, hyp := hyp, acc := 0, staging := [], fed := [], begun := [], written := [], wcOnly := [],
                    closeSent := false, verdict := none, fresh := false, fetch := none, carried := false, writes := [] }
  let s := s.setUset k u
  let s := s.seedUnits rid r
  let p := k / 16
  if s.stepSet p = some k then
    let l := (s.part p).led
    let cur := { l.cur with tsOpen := s.ts, cursors := (List.range 16).map (fun i => (s.part p).regs.getD (netCursor i) 0) }
    s.setPart p { s.part p with led := { l with cur := cur } }
  else s

/-- Open the commons member's operations for contributions that wait in staging, while its attempt is open (R391). -/
def State.openCommons (s : State) (gi me k : Nat) : State :=
  match s.usets.get k with
  | none => s
  | some u =>
    match u.run with
    | none => s
    | some rid =>
      let g := s.group gi
      if !geIsCommons g.entry || me != geCommons g.entry then s
      else (g.staged.filter (fun (e : Nat × GroupMsg) => e.1 == me && e.2.op == 0xA8)).foldl (fun (s : State) (e : Nat × GroupMsg) =>
        if (s.group gi).st != .active || (s.group gi).colls.any (fun c => c.member == me && c.op == 0xA8 && c.key == e.2.key.toNat) then s
        else s.openColl gi ⟨me, 0xA8, bitsOf e.2.key.toNat 48 12, e.2.key.toNat % 2 ^ 32, rid, e.2.count.toNat, geWire g.entry, u.scale, 0, [], [], [], [], s.ts, s.ts, 0, false⟩) s

/-! ### UFEED and UEND (R309 to R311, R391) -/

def ufeedBytes (fmt : Nat) : Nat := if fmt = 0 then 4 else 2

/-- Whether a parameter index stands at the start of a working copy block, or at the tensor's end (R310).
Log entry 217, DESIGN CHOICE. -/
def Desc.atBlock (d : Desc) (i : Nat) : Bool :=
  i == d.params || i % d.kLen % 16 == 0

/-- Whether a snapshot copies pages of a set's objects: an attempt of a bucket-mode set waits (R323). -/
def State.setUnderSnap (s : State) (k : Nat) : Bool :=
  s.objs.any (fun (e : Nat × Obj) => e.2.inSet == some k && e.2.pages.any Pte.snap)

/-- Failures of a UFEED at issue (R297, R309, R310, R317, R326, R391). -/
def State.ufeedFails (s : State) (x : Site) (u : USet) (fmt sa count : Nat) : List Status :=
  let di := sa % 4096
  let first := sa / 2 ^ 32
  let g := s.group (u.group.getD 0)
  let commons := u.group.isSome && geIsCommons g.entry
  failIf (bitsOf sa 12 20 != 0) .malformed ++
  failIf (match u.run with
    | some r => r != x.rid
    | none => u.lastRun == some x.rid) .bounds ++
  failIf (commons && (u.mode == 1 || s.memberOf g x.run.part == some (geCommons g.entry))) .malformed ++
  (match u.descs[di]? with
   | none => [.bounds]
   | some d =>
     failIf (d.params < first + count) .bounds ++
     failIf (1048576 < count * ufeedBytes fmt || 1048575 ≤ u.fed.length || !d.atBlock first || !d.atBlock (first + count) ||
       u.fed.any (fun r => r.1 == di && overlaps first count r.2.1 r.2.2)) .malformed)

/-- UFEED: the attempt opens at its first issue; the bucket stands in staging once its elements have come. -/
def execUfeed (t : Sys2Proof.Tile) (fmt port set : BitVec 4) (reg : BitVec 5) (count : U32) (s : State) : Host.Outcome State Fault Refusal :=
  s.whenWord t.val (wUfeed fmt.toNat port.toNat set.toNat reg.toNat count.toNat) (fun x tl s =>
    let k := setKey x.run.part set.toNat
    let sa := (tl.sreg reg.toNat).toNat
    match s.usets.get k with
    | none => s.runFault x .handle
    | some u =>
      if u.ctx != x.run.ctx then s.runFault x .handle
      else if !u.railOk then s.partFault x.run.part .parity (some (x.run.q, x.run.sub))
      else
        match govern (s.ufeedFails x u fmt.toNat sa count.toNat) with
        | some st => s.runFault x st
        | none =>
          if u.run.isNone && u.mode == 1 && s.setUnderSnap k then s
          else if dieStaging < s.stagingUsed (tileDie t.val) + count.toNat * ufeedBytes fmt.toNat then s
          else match (if u.run.isNone then governOf (s.hypFails u) else none) with
          | some e => s.runStop x e
          | none =>
            let s := if u.run.isNone then s.openAttempt k u x.rid x.run else s
            let w := ufeedBytes fmt.toNat
            let n := (s.tile t.val).beatsFor port.toNat (count.toNat * w)
            let s := s.collect t.val port.toNat n x n
            let tl := s.tile t.val
            if tl.rowBuf.length < n then s.moved x.rid
            else
              match s.usets.get k with
              | none => s
              | some u =>
                let f := wireFmt fmt.toNat
                let b := tl.atHand port.toNat
                let codes := (List.range count.toNat).map (fun i => fieldLE b (w * i) w)
                let di := sa % 4096
                let first := sa / 2 ^ 32
                let s := s.setTile t.val (tl.takeElems port.toNat (count.toNat * w))
                let u := { u with fed := u.fed ++ [(di, first, count.toNat)] }
                let s := (match u.group with
                  | none => s.setUset k { u with staging := u.staging ++ [(⟨di, first, t.val, codes.map (widen32 f), count.toNat * w, false⟩ : Bucket)] }
                  | some gi =>
                    let s := s.setUset k u
                    let g := s.group gi
                    (match s.memberOf g x.run.part with
                     | some me => s.openColl gi ⟨me, 0xA8, di, first, x.rid, count.toNat, geWire g.entry, u.scale, fmt.toNat, codes, [], [], [], s.ts, s.ts, tileDie t.val, false⟩
                     | none => s))
                s.advance t.val 1)

/-- UEND: the tile has fed its last bucket. The commons member's UEND opens its attempt (R391). -/
def execUend (t : Sys2Proof.Tile) (set : BitVec 4) (s : State) : Host.Outcome State Fault Refusal :=
  s.whenWord t.val (wUend set.toNat) (fun x _ s =>
    let k := setKey x.run.part set.toNat
    match s.usets.get k with
    | none => s.runFault x .handle
    | some u =>
      if u.ctx != x.run.ctx then s.runFault x .handle
      else if !u.railOk then s.partFault x.run.part .parity (some (x.run.q, x.run.sub))
      else
        let g := s.group (u.group.getD 0)
        let commons := u.group.isSome && geIsCommons g.entry && s.memberOf g x.run.part == some (geCommons g.entry)
        match (if commons && u.run.isNone then governOf (s.hypFails u) else none) with
        | some e => s.runStop x e
        | none =>
        let s := if commons && u.run.isNone then (s.openAttempt k u x.rid x.run).openCommons (u.group.getD 0) (geCommons g.entry) k else s
        let s := (match s.usets.get k with
          | some u => s.setUset k { u with ended := insertNat t.val u.ended }
          | none => s)
        s.advance t.val 1)

/-! ### One parameter (R306) -/

/-- What a recipe computes with: the gradient, the master, moments, factors and hyperparameters. -/
structure PIn where
  g : Nat
  w : Nat
  m1 : Nat
  m2 : Nat
  rf : Nat
  cf : Nat
  h : List Nat

/-- What it has computed so far: temporaries, the master as X48, the stored moments, the pending factors with
whether each has been scaled, and whether any stored value is not finite. -/
structure POut where
  q : List Nat
  w : Nat
  m1 : Nat
  m2 : Nat
  rf : Nat
  rfBegun : Bool
  cf : Nat
  cfBegun : Bool
  nonfinite : Bool

def isNonfinite32 (c : Nat) : Bool := bitsOf c 23 8 == 255

/-- The value of an operand code (R305). -/
def opnd (i : PIn) (o : POut) (c : Nat) : Nat :=
  if c < 12 then nth0 o.q c
  else if c = 12 then i.g else if c = 13 then i.w / 65536 else if c = 14 then i.m1 else if c = 15 then i.m2
  else if c = 16 then i.rf else if c = 17 then i.cf else if c = 18 then 0x3F800000 else if c = 19 then 0
  else nth0 i.h (c - 20)

/-- SGN. -/
def sgn32 (a : Nat) : Nat :=
  match d32 a with
  | .nan .. => (r32 (FV.quieten (d32 a), 0)).1
  | v => if v.isZero then a else if FV.signBit v then 0xBF800000 else 0x3F800000

/-- Add to a factor, scaling it first where this is the attempt's first addition to it. -/
def factorAdd (h3 f a : Nat) (begun : Bool) : Nat :=
  let f := if begun then f else (r32 (fmul (d32 h3) (d32 f))).1
  (r32 (fadd false (d32 f) (d32 a))).1

/-- A master plus a value, rounded by R53; a NaN's extension is zero (R52). -/
def masterAdd (w a : Nat) : Nat :=
  let v := (fadd false (decode .x48 w) (d32 a)).1
  let c := (convert .x48 .rne 0 v).1
  if v.isNan then c / 65536 * 65536 else c

/-- One microword. -/
def microStep (mf : Nat) (i : PIn) (o : POut) (w : Nat) : POut :=
  let a := opnd i o (uwA w)
  let b := opnd i o (uwB w)
  let c := opnd i o (uwC w)
  let put (v : Nat) : POut := { o with q := o.q.set (uwDst w) v }
  let va := d32 a
  let vb := d32 b
  match uwOp w with
  | 0x01 => put (r32 (fadd false va vb)).1
  | 0x02 => put (r32 (fsub false va vb)).1
  | 0x03 => put (r32 (fmul va vb)).1
  | 0x04 => put (r32 (ffma false false false va vb (d32 c))).1
  | 0x05 => put (r32 (fdiv va vb)).1
  | 0x06 => put (r32 (fsqrt va)).1
  | 0x07 => put (r32 (trsqrt va)).1
  | 0x08 => put (r32 (fmax va vb)).1
  | 0x09 => put (r32 (fmin va vb)).1
  | 0x0A => put (a % 2 ^ 31)
  | 0x0B => put (sgn32 a)
  | 0x20 => let m := masterAdd i.w a; { o with w := m, nonfinite := o.nonfinite || isNonfinite32 (m / 65536) }
  | 0x21 => let v := (convert (wireFmt mf) .rne 0 va).1; { o with m1 := v, nonfinite := o.nonfinite || !(decode (wireFmt mf) v).isFin }
  | 0x22 => let v := (convert (wireFmt mf) .rne 0 va).1; { o with m2 := v, nonfinite := o.nonfinite || !(decode (wireFmt mf) v).isFin }
  | 0x23 => let v := factorAdd (nth0 i.h 3) o.rf a o.rfBegun; { o with rf := v, rfBegun := true, nonfinite := o.nonfinite || isNonfinite32 v }
  | 0x24 => let v := factorAdd (nth0 i.h 3) o.cf a o.cfBegun; { o with cf := v, cfBegun := true, nonfinite := o.nonfinite || isNonfinite32 v }
  | _ => o

/-- Run a recipe for one parameter, up to END. -/
def runRecipe (mf : Nat) (i : PIn) : List Nat → POut → POut
  | [], o => o
  | w :: r, o => if uwOp w = 0x3F then o else runRecipe mf i r (microStep mf i o w)

/-! ### State pages as the units reach them (R302, R324) -/

/-- The page that holds logical page `j` of an object in a half. -/
def Obj.halfPage (o : Obj) (h j : Nat) : Nat := if o.paired then 2 * j + h else j
/-- The half an attempt writes. -/
def USet.pend (u : USet) : Nat := if u.mode = 0 then 1 - u.half else u.half

def State.halfRead (s : State) (key h off len : Nat) : Bytes :=
  match s.objs.get key with
  | none => zeros len
  | some o => (cutPages off len).flatMap (fun r => s.pageRead (o.pte (o.halfPage h (r.1 / pageBytes))) (r.1 % pageBytes) r.2)

/-- The command whose attempt writes an object of a set. -/
def State.setWriter (s : State) (o : Obj) : Option (Nat × Nat) :=
  match (o.inSet.bind (fun k => s.usets.get k)).bind (fun u => u.run.bind (fun r => s.runs.get r)) with
  | some r => some (r.q % 65536, r.sub)
  | none => none

def State.halfWrite (s : State) (key h off : Nat) (data : Bytes) : State :=
  match s.objs.get key with
  | none => s
  | some o => (cutPages off data.length).foldl (fun s r =>
      s.pageWrite key (o.halfPage h (r.1 / pageBytes)) (r.1 % pageBytes) ((data.drop (r.1 - off)).take r.2) (s.setWriter o)) s

/-- The ranges of an object a block's state lies in. -/
def Desc.blockRanges (d : Desc) (r : Recipe) (row b : Nat) : List (Nat × Nat) :=
  let p0 := row * d.kLen + 16 * b
  let n := min 16 (d.kLen - 16 * b)
  [(d.master + 6 * p0, 6 * n),
   (d.wc + (if d.f.blockScaled then (row * d.nb + b) * blockBytes d.f 16 else p0 * d.f.width / 8), if d.f.blockScaled then blockBytes d.f 16 else n * d.f.width / 8),
   (d.sc + row * d.nb + b, if d.f.blockScaled then 1 else 0), (d.ts, 4),
   (d.m1 + r.mBytes * p0, if r.keepsM1 then r.mBytes * n else 0),
   (d.m2 + r.mBytes * p0, if r.keepsM2 then r.mBytes * n else 0),
   (d.m2 + 4 * row, if r.factored then 4 else 0), (d.m2 + 4 * d.rows + 4 * 16 * b, if r.factored then 4 * n else 0)]

/-- What stops a unit at a block: nothing, a page under snapshot, the check of R324, a partial write to a failing line (R280), or another refusal of a
page, key or line. -/
inductive UStop
  | go | waits | refused | unwritable
  | bad (st : Status) (sc : Scope)
  deriving DecidableEq, Repr

/-- Check every page a block reads and writes. -/
def State.blockStop (s : State) (p : Nat) (u : USet) (d : Desc) (r : Recipe) (row b : Nat) : UStop :=
  match s.objs.get d.obj with
  | none => .bad .handle .context
  | some o =>
    let rs := (d.blockRanges r row b).flatMap (fun x => cutPages x.1 x.2)
    let rp := rs.map (fun x => o.pte (o.halfPage u.half (x.1 / pageBytes)))
    let wp := rs.map (fun x => o.pte (o.halfPage u.pend (x.1 / pageBytes)))
    let bads := rp.filterMap (fun x => match x.readVerdict with
      | .bad st sc => some (UStop.bad st sc)
      | _ => none) ++ wp.filterMap (fun x => match x.writeVerdict with
      | .bad st sc => some (UStop.bad st sc)
      | _ => none)
    let bad := rs.any (fun x => let y := o.pte (o.halfPage u.half (x.1 / pageBytes))
      y.st != .zero && !(s.shroud.badLines y.frameNo (x.1 % pageBytes) x.2).isEmpty)
    let refused := rs.any (fun x => let y := o.pte (o.halfPage u.pend (x.1 / pageBytes))
      y.st != .zero && s.shroud.refusesWrite y.frameNo (x.1 % pageBytes) x.2)
    if (rp ++ wp).any (fun x => !x.railOk) then .bad .parity .partition
    else if (rp ++ wp).any (fun x => x.tier != 1 || !x.trainable || x.ownerPart != p) then .refused
    else if !s.keyServes d.obj then .bad .key .context
    else
      match bads with
      | x :: _ => x
      | [] => if bad then .bad .integrity .context else if refused then .unwritable else if wp.any (fun x => x.writeVerdict == .waits) then .waits else .go

/-! ### Applying a block (R313 to R315) -/

/-- The unit of a block: that of the frame of its first master byte, or of the tensor's for a factored
recipe.
Log entry 217, DESIGN CHOICE. -/
def State.unitOf (s : State) (u : USet) (d : Desc) (r : Recipe) (p0 : Nat) : Nat :=
  match s.objs.get d.obj with
  | none => 0
  | some o => ((o.pte (o.halfPage u.half ((d.master + (if r.factored then 0 else 6 * p0)) / pageBytes))).frameNo % 256) / 4

/-- The result of one block: master codes, moments, factors and the working copy. -/
structure BlkOut where
  ws : List Nat
  m1 : List Nat
  m2 : List Nat
  rf : Nat
  cf : List Nat
  cfBegun : List Bool
  rfBegun : Bool
  nonfinite : Bool

/-- Run the recipe over the parameters of a block in increasing index. -/
def State.runBlock (s : State) (u : USet) (di : Nat) (d : Desc) (r : Recipe) (row b : Nat) (gOf : Nat → Nat) : BlkOut :=
  let p0 := row * d.kLen + 16 * b
  let n := min 16 (d.kLen - 16 * b)
  let mb := r.mBytes
  let ms := s.halfRead d.obj u.half (d.master + 6 * p0) (6 * n)
  let m1s := if r.keepsM1 then s.halfRead d.obj u.half (d.m1 + mb * p0) (mb * n) else []
  let m2s := if r.keepsM2 then s.halfRead d.obj u.half (d.m2 + mb * p0) (mb * n) else []
  let rAt := d.m2 + 4 * row
  let cAt := d.m2 + 4 * d.rows + 4 * (16 * b)
  let fac (h off len : Nat) : Bytes := if r.factored then s.halfRead d.obj h off len else []
  let rfC := fieldLE (fac u.half rAt 4) 0 4
  let rBeg := u.begun.contains (di, false, row)
  let rf0 := if rBeg then fieldLE (fac u.pend rAt 4) 0 4 else rfC
  let cfs := fac u.half cAt (4 * n)
  let cfp := fac u.pend cAt (4 * n)
  let h := u.hyp.getD d.recipe []
  let init : BlkOut := ⟨[], [], [], rf0, [], [], rBeg, false⟩
  (List.range n).foldl (fun (o : BlkOut) j =>
    let cBeg := u.begun.contains (di, true, 16 * b + j)
    let cfC := fieldLE cfs (4 * j) 4
    let g := gOf (p0 + j)
    let w := fieldLE ms (6 * j) 4 * 65536 + fieldLE ms (6 * j + 4) 2
    let m (x : Bytes) : Nat := widen32 (wireFmt r.mfmt) (fieldLE x (mb * j) mb)
    let m1 := if r.keepsM1 then m m1s else (Config.absentMoment 1 (p0 + j)).toNat
    let m2 := if r.keepsM2 then m m2s else (Config.absentMoment 2 (p0 + j)).toNat
    let i : PIn := ⟨g, w, m1, m2, rfC, cfC, h⟩
    let q := runRecipe r.mfmt i r.words ⟨List.replicate 12 0, w, fieldLE m1s (mb * j) mb, fieldLE m2s (mb * j) mb, o.rf, o.rfBegun,
      if cBeg then fieldLE cfp (4 * j) 4 else cfC, cBeg, false⟩
    ⟨o.ws ++ [q.w], o.m1 ++ [q.m1], o.m2 ++ [q.m2], q.rf, o.cf ++ [q.cf], o.cfBegun ++ [q.cfBegun], q.rfBegun,
      o.nonfinite || q.nonfinite || isNonfinite32 g⟩) init

/-- Draws of a unit's generator.
Log entry 36, DEDUCED. -/
def drawMany (n : Nat) : (count : Nat) → U64 → List Nat × U64
  | 0, g => ([], g)
  | k + 1, g => let (g, r) := draw n g; let (l, g) := drawMany n k g; (r :: l, g)

/-- Draw `n` times from a unit's generator, and count the draws (R61).
Log entry 36, DEDUCED. -/
def State.unitDraws (s : State) (rid u w n : Nat) : List Nat × State :=
  let (g, c) := s.unitGens.getD (unitKey rid u) (0, 0)
  let (l, g) := drawMany w n g
  (l, { s with unitGens := s.unitGens.set (unitKey rid u) (g, c + n) })

/-- Element bytes and BS8 of a block's working copy. -/
def requant (f : Fmt) (rm : Rnd) (ts : Nat) (ws ds : List Nat) : Bytes × Bytes :=
  if f.blockScaled then
    let xs := (List.range 16).map (fun i => match ws[i]? with
      | some w => (decode .x48 w, nth0 ds i, true)
      | none => (FV.zero false, nth0 ds i, false))
    let q := quantBlock f rm (ts32 ts) xs
    (packBlocks f [q.2.1], [BitVec.ofNat 8 q.1])
  else (ws.mapIdx (fun i w => leBytes (f.width / 8) (convert f rm (nth0 ds i) (decode .x48 w)).1) |>.flatten, [])

/-- Write a block: master, moments, factors, element bytes and BS8 code, in the pending half. Answers the bytes
of the working copy, too, which a root sends down (R383).
Log entry 67, DESIGN CHOICE. Log entry 76, DEDUCED. -/
def State.applyBlock (s : State) (k di : Nat) (d : Desc) (r : Recipe) (row b : Nat) (gOf : Nat → Nat) : State × Bytes :=
  match s.usets.get k with
  | none => (s, [])
  | some u =>
    let p0 := row * d.kLen + 16 * b
    let o := s.runBlock u di d r row b gOf
    let n := o.ws.length
    let ts := fieldLE (s.halfRead d.obj u.half d.ts 4) 0 4
    let un := s.unitOf u d r p0
    let (ds, s) := (match r.rm with
      | .sr w => s.unitDraws (u.run.getD (u.lastRun.getD 0)) un w (if d.f.blockScaled then 16 else n)
      | _ => ([], s))
    let (el, sc) := requant d.f r.rm ts o.ws ds
    let mb := r.mBytes
    let wr (off : Nat) (bs : Bytes) (s : State) : State := if bs.isEmpty then s else s.halfWrite d.obj u.pend off bs
    let master := o.ws.flatMap (fun w => leBytes 4 (w / 65536) ++ leBytes 2 w)
    let m1 := if r.keepsM1 then o.m1.flatMap (leBytes mb) else []
    let m2 := if r.keepsM2 then o.m2.flatMap (leBytes mb) else []
    let rf := if r.factored then leBytes 4 o.rf else []
    let cf := if r.factored then o.cf.flatMap (leBytes 4) else []
    let eAt := d.wc + (if d.f.blockScaled then (row * d.nb + b) * blockBytes d.f 16 else p0 * d.f.width / 8)
    let s := wr (d.master + 6 * p0) master s
    let s := wr (d.m2 + mb * p0) m2 (wr (d.m1 + mb * p0) m1 s)
    let s := wr (d.m2 + 4 * d.rows + 4 * (16 * b)) cf (wr (d.m2 + 4 * row) rf s)
    let s := wr (d.sc + row * d.nb + b) sc (wr eAt el s)
    let begun := (if o.rfBegun then [(di, false, row)] else []) ++ ((o.cfBegun.zipIdx).filter (fun x => x.1)).map (fun x => (di, true, 16 * b + x.2))
    let u := { u with begun := (u.begun ++ begun).eraseDups }
    let u := if o.nonfinite then u.setCommit (u.commit ||| (1#32 <<< 27)) else u
    let s := s.setUset k u
    let p := k / 16
    let l := (s.part p).led
    let s := if s.stepSet p = some k then
        s.setPart p { s.part p with led := { l with writes := l.writes ++ master ++ m1 ++ m2 ++ rf ++ cf ++ el ++ sc } } else s
    (s, el ++ sc)

/-- Blocks whose first parameter lies in a range, in increasing parameter index. -/
def Desc.blocksIn (d : Desc) (first count : Nat) : List (Nat × Nat) :=
  if count = 0 || d.kLen = 0 then []
  else ((List.range ((first + count - 1) / d.kLen - first / d.kLen + 1)).flatMap (fun i =>
    (List.range d.nb).map (fun b => (first / d.kLen + i, b)))).filter (fun x =>
      let p0 := x.1 * d.kLen + 16 * x.2
      first ≤ p0 && p0 < first + count)

/-- The square of a finite binary32 value in units of 2^-320 (R316). -/
def sq320 (c : Nat) : Nat :=
  match d32 c with
  | .fin _ x => shlI (x.m * x.m) (2 * x.k + 320)
  | _ => 0

/-- RNE64 of an accumulator, and its root (R316). -/
def normOf (acc : Nat) : Nat := (convert .f64 .rne 0 (fsqrt (decode .f64 (convert .f64 .rne 0 (.fin false ⟨acc, -320, false⟩)).1)).1).1
/-- Whether a binary64 norm exceeds a binary32 bound. -/
def normOver (n b : Nat) : Bool := (fcmp .lt (d32 b) (decode .f64 n)).1

/-- Apply the blocks of a range in turn; stops at the first block that a check stops. -/
def State.applyRange (s : State) (k di : Nat) (d : Desc) (r : Recipe) (gOf : Nat → Nat) : List (Nat × Nat) → State × Bytes × UStop
  | [] => (s, [], .go)
  | (row, b) :: rest =>
    match s.usets.get k with
    | none => (s, [], .go)
    | some u =>
      let ts := fieldLE (s.halfRead d.obj u.half d.ts 4) 0 4
      let stop := if d.f.blockScaled && !ts32Ok ts then UStop.bad .malformed .context else s.blockStop (k / 16) u d r row b
      (match stop with
       | .go =>
         let (s, bs) := s.applyBlock k di d r row b gOf
         let (s, more, st) := s.applyRange k di d r gOf rest
         (s, bs ++ more, st)
       | st => (s, [], st))

/-- Whether a page under snapshot stands in the way of a range. -/
def State.rangeWaits (s : State) (k : Nat) (d : Desc) (r : Recipe) (l : List (Nat × Nat)) : Bool :=
  match s.usets.get k with
  | none => false
  | some u => l.any (fun x => s.blockStop (k / 16) u d r x.1 x.2 == .waits)

/-- What a bucket or shard came to. -/
inductive Applied
  | waits
  | done (s : State) (wc : Bytes) (ok : Bool)
  | fault (s : State) (st : Status) (sc : Scope)

/-- The gradients of a bucket over the loss scale (R309, R313). -/
def USet.grads (u : USet) (gs : List Nat) : List Nat := gs.map (fun g => (r32 (fdiv (d32 g) (d32 u.scale))).1)

/-- Whether bucket mode drops a bucket: one before it was, an element is not finite, or its norm exceeds abs_bound (R319). -/
def USet.drops (u : USet) (gs : List Nat) : Bool :=
  let G := u.grads gs
  u.mode == 1 && (cmDropped u.commit || G.any isNonfinite32 || normOver (normOf (G.map sq320).sum) u.absB)

/-! ### Reads of state (R241, R278, R326) -/

/-- Ranges joined where one follows another or repeats it. -/
def joinRanges : List (Nat × Nat) → List (Nat × Nat)
  | [] => []
  | (o, n) :: r =>
    if n = 0 then joinRanges r
    else match joinRanges r with
      | (p, m) :: l => if o + n = p then (o, n + m) :: l else if o = p && n = m then (p, m) :: l else (o, n) :: (p, m) :: l
      | [] => [(o, n)]

/-- What a bucket's blocks need from memory: the object, and the ranges of its read half that hold state, up to the first block that a check stops.
Log entry 195, DESIGN CHOICE. -/
def State.stateReads (s : State) (k di first : Nat) (gs : List Nat) : Nat × List (Nat × Nat) :=
  match s.usets.get k with
  | none => (0, [])
  | some u =>
    match u.descs[di]? with
    | none => (0, [])
    | some d =>
      match s.objs.get d.obj with
      | none => (0, [])
      | some o =>
        let r := (s.recipe (k / 16) d.recipe).getD (fykorRecipe 0)
        let blocks := (d.blocksIn first gs.length).takeWhile (fun x => s.blockStop (k / 16) u d r x.1 x.2 == .go)
        let rs := blocks.map (fun x => d.blockRanges r x.1 x.2)
        (d.obj, if u.drops gs then [] else ((List.range 8).flatMap (fun i => joinRanges (rs.map (fun l => l.getD i (0, 0))))).filter (fun x => !o.allZero x.1 x.2))

/-- The reads of state a bucket waits for: at first they are issued; none when nothing is outstanding, so that the bucket is applied.
Log entry 195, DESIGN CHOICE. -/
def State.fetchState (s : State) (k di first : Nat) (gs : List Nat) : Option State :=
  match (s.usets.get k).bind (fun u => u.fetch) with
  | some [] => none
  | some _ => some s
  | none =>
    let (key, rs) := s.stateReads k di first gs
    if rs.isEmpty then none
    else
      let (ids, s) := rs.foldl (fun (acc : List Nat × State) x => (acc.1 ++ [acc.2.accId], acc.2.issueRead (.update (k / 16) (k % 16)) false key x.1 x.2 0)) ([], s)
      match s.usets.get k with
      | some u => some (s.setUset k { u with fetch := some ids })
      | none => some s

/-- A read of a bucket's state has come back. -/
def State.fetched (s : State) (k id : Nat) : State :=
  match s.usets.get k with
  | some u => s.setUset k { u with fetch := u.fetch.map (removeNat id) }
  | none => s

/-- The bucket is done with: the next one reads its own state. -/
def State.fetchDone (s : State) (k : Nat) : State :=
  match s.usets.get k with
  | some u => s.setUset k { u with fetch := none }
  | none => s

/-- The HBM writes of ranges of an object's pending half: their data stand, and the unit awaits the answers (R241).
Log entry 195, DESIGN CHOICE. -/
def State.issueUnitWrites (s : State) (k : Nat) (l : List (Nat × Nat × Nat)) : State :=
  let (ids, s) := (l.filter (fun x => x.2.2 != 0)).foldl (fun (a : List Nat × State) x =>
    (a.1 ++ [a.2.accId], a.2.addAcc ⟨.hbmWrite, .update (k / 16) (k % 16), false, x.1, x.2.1, x.2.2, [], 0, s.ts, [], 0, false, s.ts, 0⟩)) ([], s)
  match s.usets.get k with
  | some u => s.setUset k { u with writes := u.writes ++ ids }
  | none => s

/-- A unit's write has been answered. -/
def State.unitWritten (s : State) (k id : Nat) : State :=
  match s.usets.get k with
  | some u => s.setUset k { u with writes := removeNat id u.writes }
  | none => s

/-- What a unit writes for blocks of a descriptor: every range of their state but the TS32. -/
def State.blockWrites (s : State) (k : Nat) (d : Desc) (blocks : List (Nat × Nat)) : List (Nat × Nat × Nat) :=
  let r := (s.recipe (k / 16) d.recipe).getD (fykorRecipe 0)
  let rs := blocks.map (fun x => d.blockRanges r x.1 x.2)
  (([0, 1, 2, 4, 5, 6, 7] : List Nat).flatMap (fun i => joinRanges (rs.map (fun l => l.getD i (0, 0))))).map (fun x => (d.obj, x.1, x.2))

/-- Apply one bucket, or the shard of one: G from the gradient and the loss scale, the check and clip of bucket
mode, then block by block (R309, R313, R319).
Log entry 194, DEDUCED. Log entry 195, DESIGN CHOICE.
Log entry 217, DESIGN CHOICE. -/
def State.applyBucket (s : State) (k di first : Nat) (gs : List Nat) : Applied :=
  match s.usets.get k with
  | none => .waits
  | some u =>
    match u.descs[di]? with
    | none => .waits
    | some d =>
      let r := (s.recipe (k / 16) d.recipe).getD (fykorRecipe 0)
      let blocks := d.blocksIn first gs.length
      if s.rangeWaits k d r blocks then .waits
      else
        let G := u.grads gs
        let acc := (G.map sq320).sum
        let bad := G.any isNonfinite32
        let nb := normOf acc
        let fails := u.drops gs
        let clip := u.mode == 1 && !fails && normOver nb u.bucketB
        let c := (r32 (fdiv (d32 u.bucketB) (d32 (convert .f32 .rne 0 (decode .f64 nb)).1))).1
        let G := if clip then G.map (fun g => (r32 (fmul (d32 g) (d32 c))).1) else G
        let u := { u with acc := u.acc + acc }
        let u := if bad then u.setCommit (u.commit ||| (1#32 <<< 27)) else u
        let u := if u.mode == 1 && !cmDropped u.commit && normOver nb u.absB then u.setCommit (u.commit ||| (1#32 <<< 26)) else u
        let p := k / 16
        if fails then .done (((s.setUset k (u.setCommit (u.commit ||| (1#32 <<< 25)))).bumpPart p cUpdDropped 1)) [] false
        else
          let s := (s.setUset k u).bumpPart p cUpdClipped (b2n clip)
          let gOf (i : Nat) : Nat := match G[i - first]? with
            | some g => g
            | none => (Config.freeWord (s.free + i)).toNat % 2 ^ 32
          let s := { s with free := s.free + b2n (blocks.any (fun b => first + G.length < b.1 * d.kLen + 16 * b.2 + min 16 (d.kLen - 16 * b.2))) * (first + G.length + 16) }
          let (s, wc, st) := s.applyRange k di d r gOf blocks
          match st with
          | .refused => .fault (s.bumpPart p cUpdRefused 1) .tierFail .context
          | .unwritable => .fault (s.bumpPart p cWriteRefused 1) .integrity .context
          | .bad st sc => .fault s st sc
          | _ =>
            let s := s.issueUnitWrites k (s.blockWrites k d blocks)
            (match s.usets.get k with
             | none => .waits
             | some u =>
               let u := u.setCommit (mkCommit u.half (cmState u.commit) (cmNonfinite u.commit) (cmOver u.commit) (cmDropped u.commit) u.mode
                 (cmTorn u.commit) (cmBuckets u.commit + 1))
               .done (((s.setUset k { u with written := u.written ++ [(di, first, gs.length)] }).bumpPart p cUpdBuckets 1).bumpPart p cUpdParams gs.length) wc true)

/-- A fault while a block is applied ends the set's context, with the RUN of the attempt its victim. -/
def State.unitFault (s : State) (k : Nat) (st : Status) (sc : Scope) : State :=
  match s.usets.get k with
  | none => s
  | some u =>
    let victim := ((u.run.or u.lastRun).bind (fun r => s.runs.get r)).map (fun r => (r.q, r.sub))
    if sc == .partition then s.partFault (k / 16) st victim else s.loseCtx u.ctx st .context victim

/-! ### UPD_BUCKET_APPLY (R311, R314, R383) -/

/-- The working copy of a shard as messages: whole blocks, at most 8,192 bytes each.
Log entry 60, DEDUCED. -/
def wcMsgs (gi : Nat) (g : Group) (c : Coll) (t : Nat) (d : Desc) (wc : Bytes) (elems : Nat) : List GroupMsg :=
  let size := if d.f.blockScaled then blockBytes d.f 16 + 1 else 16 * d.f.width / 8
  let per := 8192 / size
  let n := ceilDiv wc.length (size * per)
  (List.range n).map (fun i =>
    mkMsg gi g.epoch c.key c.op t c.member c.wire c.count (min (16 * per) (elems - 16 * per * i)) (16 * per * i) c.scale
      ((wc.drop (size * per * i)).take (size * per)))

/-- Mark a shard of a bucket applied at this member; a bucket with every shard applied leaves staging. -/
def State.shardDone (s : State) (gi i t : Nat) : State :=
  match s.collAt gi i with
  | none => s
  | some c =>
    let g := s.group gi
    let c := { c with applied := insertNat t c.applied }
    let s := s.setColl gi i c
    if (List.range g.n).all (fun t => (shardOf c.count g.n t).2 = 0 || (c.applied.contains t && (c.sent.contains t || c.member == geCommons g.entry))) then s.closeColl gi c
    else s

/-- Shards of a bucket that a member roots and has not applied, in increasing order. -/
def Group.owed (g : Group) (c : Coll) : List Nat :=
  (List.range g.n).filter (fun t => (shardOf c.count g.n t).2 != 0 && geRoot g.entry t == c.member && !c.applied.contains t)

/-- UPD_BUCKET_APPLY: the oldest bucket of a local set, or the first unapplied shard this member roots of a
group's oldest bucket, once its sum is whole. A root sends the shard's working copy down (R383), or a message without elements for a
shard it dropped (log entry 60, DEDUCED).
Log entry 76, DEDUCED. -/
def execUpdBucketApply (p : Part) (set : BitVec 4) (s : State) : Host.Outcome State Fault Refusal :=
  let k := setKey p.val set.toNat
  match s.usets.get k with
  | none => .next s
  | some u =>
    if !u.railOk then .next (s.partFault p.val .parity none)
    else s.whenRails (fun s =>
      match u.group with
      | none =>
        (match u.staging with
         | [] => .next s
         | b :: rest =>
           if b.spoiled then .next (s.unitFault k .parity .context)
           else match s.fetchState k b.desc b.first b.gs with
           | some s => .next s
           | none =>
             match s.applyBucket k b.desc b.first b.gs with
             | .waits => .next s
             | .fault s st sc => .next (s.unitFault k st sc)
             | .done s _ _ => (match s.usets.get k with
               | some u => .next (s.setUset k { u with staging := rest, fetch := none })
               | none => .next s))
      | some gi =>
        let g := s.group gi
        match s.memberOf g p.val with
        | none => .next s
        | some me =>
          match (g.colls.zipIdx).find? (fun e => e.1.op == 0xA8 && e.1.member == me && !(g.owed e.1).isEmpty) with
          | none => .next s
          | some (c, i) =>
            let t := (g.owed c).headD 0
            match c.results.get t with
            | none => .next s
            | some codes =>
              let (o, n) := shardOf c.count g.n t
              let gs := codes.map (widen32 (wireFmt c.wire))
              (if c.spoiled then .next (s.unitFault k .parity .context)
               else match s.fetchState k c.hi (c.seq + o) gs with
               | some s => .next s
               | none =>
                 match s.applyBucket k c.hi (c.seq + o) gs with
                 | .waits => .next s
                 | .fault s st sc => .next (s.unitFault k st sc)
                 | .done s wc _ =>
                   (match u.descs[c.hi]? with
                    | none => .next s
                    | some d =>
                      let drop := mkMsg gi g.epoch c.key c.op t c.member c.wire c.count 0 0 c.scale []
                      let ms := if wc.isEmpty then [drop] else wcMsgs gi g c t d wc n
                      let s := (geChildren g.entry t me).foldl (fun s ch => s.sendAll kDown me ch ms) (s.fetchDone k)
                      .next (s.shardDone gi i t))))

end Sys2Proof.Machine
end

