-- ==== Sys2Proof/Machine/Runs.lean ====
section
/-! DEFINITION. The start and the end of a RUN (R148 to R155, R184, R185, R380, R517, R534, R535): banks, seeds,
registers and credits at the start, the record at the end, and the limits between. -/

namespace Sys2Proof.Machine

/-! ### What an image names -/

/-- Groups that exchange instructions of an image name. -/
def Image.exchangeGroups (im : Image) : List Nat :=
  ((im.progs.flatMap (fun p => instrWords (p.length + 1) p)).filterMap (fun w =>
    if wordUnit w = 4 then some (bitsOf w 32 8) else none)).eraseDups

/-- Update sets an image feeds. -/
def Image.fedSets (im : Image) : List Nat :=
  ((im.progs.flatMap (fun p => instrWords (p.length + 1) p)).filterMap (fun w =>
    if wordUnit w = 5 then some (bitsOf w 40 4) else none)).eraseDups

/-- Groups a RUN of an image names, directly or through its update sets. -/
def State.imageGroups (s : State) (p : Nat) (im : Image) : List Nat :=
  (im.exchangeGroups ++ im.fedSets.filterMap (fun n => (s.usets.get (Sys2Proof.Machine.setKey p n)).bind (fun u => u.group))).eraseDups

/-- Whether a group is ACTIVE here with a partition as a member. -/
def State.groupReady (s : State) (p g : Nat) : Bool :=
  (s.group g).st == .active && (s.memberOf (s.group g) p).isSome

/-- Failures of a RUN's groups (R380, R391). -/
def State.groupFails (s : State) (p : Nat) (im : Image) : List Status :=
  failIf ((s.imageGroups p im).any (fun g => !s.groupReady p g)) .handle ++
    failIf (im.exchangeGroups.any (fun g => geIsCommons (s.group g).entry)) .malformed

/-- Window stores of an image: one for each tile of a stage with a ticket table (R197).
Log entry 83, DEDUCED. -/
def Image.stores (im : Image) : Nat :=
  (im.stages.map (fun st => match im.tableOf st with
    | some t => tblStore t * st.tileCount
    | none => 0)).sum

/-- Bytes of last-level cache a partition holds: 4 MiB for each way (R460).
Log entry 83, DEDUCED. -/
def State.llcBytes (s : State) (p : Nat) : Nat :=
  match s.layout p with
  | some l => 4194304 * ((List.range 16).filter (fun w => bitOf l.llcWays.toNat w)).length
  | none => 0

/-! ### Replay (R534, R535) -/

/-- The 64-byte RUN record of a RUN that starts now.
Log entry 89, DEDUCED. -/
def State.runRecord (s : State) (r : Run) (x : ImgSlot) (host : U64) (first : Nat) : Bytes :=
  leBytes 8 s.ts ++ leBytes 8 host.toNat ++ leBytes 4 r.stream ++ leBytes 1 r.slot ++ leBytes 1 (b2n r.strict) ++ zeros 2 ++
    leBytes 4 first ++ leBytes 4 0 ++ x.digest.take 16 ++ (sha384 (r.args.flatMap (fun a => leBytes 8 a.toNat))).take 16

/-- Whether a RUN differs from the reference record an armed replay stands at; a step whose reference lost
records is not checked here. -/
def Ledger.differs (l : Ledger) (rec : Bytes) : Bool :=
  match l.ref[l.stepAt]? with
  | none => false
  | some e =>
    if bitOf e.flags 1 || bitOf e.flags 2 then false
    else
      match e.runs[l.runAt]? with
      | none => true
      | some r => (r.drop 16).take 5 != (rec.drop 16).take 5 || r.drop 32 != rec.drop 32

/-- Note a RUN in the step ledger: the state and the index of its record. -/
def State.ledgerRun (s : State) (p : Nat) (rec : Bytes) (seed : U64) (strict : Bool) : Option Nat × State :=
  let l := (s.part p).led
  let c := l.cur
  let room := c.runs.length < 32
  let flags := c.flags ||| (if room then 0 else 2) ||| (if strict then 8 else 0) ||| (if l.armed then 1 else 0)
  let cur := { c with runCount := min 65535 (c.runCount + 1), seed := if c.runCount = 0 then seed.toNat else c.seed, flags := flags, runs := if room then c.runs ++ [rec] else c.runs }
  (if room then some c.runs.length else none, s.setPart p { s.part p with led := { l with cur := cur, runAt := l.runAt + 1 } })

/-- Disarm a replay. -/
def State.disarm (s : State) (p : Nat) : State :=
  s.setPart p { s.part p with led := { (s.part p).led with armed := false } }

/-! ### Starting -/

def holdsImg (b : Option BankImg) (i : BankImg) : Bool := b == some i
def Tile.current (t : Tile) : Option BankImg := if t.cur1 then t.bank1 else t.bank0
def Tile.shadow (t : Tile) : Option BankImg := if t.cur1 then t.bank0 else t.bank1

/-- Make an image current on a tile: nothing, a swap, or a warm reload and a swap (R151, R184). -/
def Tile.bring (t : Tile) (i : BankImg) : Tile :=
  if holdsImg t.current i then t
  else if holdsImg t.shadow i then { t with cur1 := !t.cur1 }
  else let t := t.loadShadow i; { t with cur1 := !t.cur1 }

/-- The counters a RUN start clears (R106, R130, R155, R208). -/
def runCounters : List Nat :=
  [cMxuBusy, cMxuDrainStall, cMxuFeedStall, cMxuAbsent, cVxuBusy, cVxuStall, cVxuZ, cInBeats, cOutBeats, cCreditStall, cMemStall, cRunCycles,
   cTktWindows, cTktGroups, cTktSkipped, cTktAdptWait, cTktStore, cTktVoid]

/-- The generators of a tile: lanes 0 to 255 of its VXU and 256 to 383 of its MXU edge (R57, R58). -/
def seedLanes (seed : U64) (tile stream : Nat) : Tbl U64 :=
  (List.range 384).map (fun l => (l, seedGen seed tile l stream))

/-- A place whose contents the start of a RUN does not write: tile memory and the stationary tile. -/
def Upset.outlives : Upset → Bool
  | .mem _ | .stat => true
  | _ => false

/-- A tile at the start of a RUN (R68, R107, R151). -/
def Tile.begin_ (t : Tile) (rid : Nat) (gens : Tbl U64) : Tile :=
  { t.stop with
    run := some rid, pos := 0, ended := false, v := [], g := [], x := [], gens := gens, draws := [], flags := 0, cursors := [], tkt := TktUnit.reset,
    regs := runCounters.foldl Tbl.erase t.regs, lastT := none, upsets := t.upsets.filter Upset.outlives }

/-- Credits of a route at the start of a RUN: one for each beat of its receive buffer (R144), which the producers of a GATHER or COLLECT stream share.
Log entry 189, DEDUCED. -/
def StreamD.creditsOf (d : StreamD) (np j : Nat) : Nat :=
  if d.mode = 4 || d.mode = 5 then d.bufferBeats / np + b2n (j < d.bufferBeats % np) else d.bufferBeats

/-- The lanes of an image's streams with full credits (R144, R149).
Log entry 189, DEDUCED. -/
def Image.freshLanes (im : Image) : Tbl Lane :=
  (im.streams.zipIdx).foldl (fun (t : Tbl Lane) e =>
    (List.range e.1.routeCount).foldl (fun (t : Tbl Lane) j =>
      t.set (laneKey e.2 j) { Lane.empty with credits := e.1.creditsOf (im.stageAt e.1.producer).tileCount j }) t) []

/-- RING_WARM (R452) and the wake and hold counters (R565). -/
def cRingWarm : Nat := 0x508
def cWakeWait : Nat := 0x650
def cRunHold : Nat := 0x658

/-- The host time an entry carries. -/
def State.entryHostTs (s : State) (qk sub : Nat) : U64 :=
  match (s.queues.get qk).bind (fun q => q.fetched.find? (fun e => e.sub == sub)) with
  | some e => e.hostTs
  | none => 0

/-- The doorbell TS of a RUN's entry (R181, R411). -/
def State.entryTs (s : State) (r : Run) : Nat :=
  match (s.queues.get r.q).bind (fun q => q.fetched.find? (fun e => e.sub == r.sub)) with
  | some e => e.ts
  | none => r.issueTs

/-- Start a RUN on its tiles, whose generators are seeded by their places in the image's tile list (R58, R163). The first instruction issues 24 array cycles
later, 200 after a swap (R151, R184). The time of a warm reload is a free value of at most 4 µs (R184).
Log entry 157, DEDUCED. Log entry 179, DESIGN CHOICE. -/
def State.launch (s : State) (rid : Nat) (r : Run) (x : ImgSlot) (im : Image) (seed : U64) : State :=
  let bi : BankImg := ⟨r.part, r.slot, r.load⟩
  let warm := im.tiles.any (fun t => !holdsImg (s.tile t).current bi && !holdsImg (s.tile t).shadow bi)
  let lead := if im.tiles.all (fun t => holdsImg (s.tile t).current bi) then 24 else 200
  let (i, s) := s.fresh
  let s := if warm then s.bumpDev cRingWarm ((Config.freeWord i).toNat % 4001) else s
  let s := { s with unitGens := s.unitGens.filter (fun (e : Nat × U64 × Nat) => e.1 / 64 != rid) }
  let s := im.tiles.zipIdx.foldl (fun s t => s.setTile t.1 (((s.tile t.1).bring bi).begin_ rid (seedLanes seed t.2 r.stream))) s
  let rec_ := s.runRecord r x (s.entryHostTs r.q r.sub) (s.part r.part).led.cur.tickets
  let (at_, s) := s.ledgerRun r.part rec_ seed r.strict
  s.setRun rid { r with
    st := .running, heldForGroup := none, tiles := im.tiles, seed := seed, startTs := s.ts, lastMove := s.ts, lanes := im.freshLanes,
    outPos := [], inPos := [], lead := lead, turns := [], windows := [], sets := im.fedSets.map (Sys2Proof.Machine.setKey r.part), groups := s.imageGroups r.part im, ledAt := at_ }

/-- Whether another RUN stands before this one on its tiles: one that runs there, or an earlier one of its
queue (R152). -/
def State.runBlocked (s : State) (rid : Nat) (r : Run) (im : Image) : Bool :=
  s.runs.any (fun (e : Nat × Run) => e.1 != rid &&
    ((e.2.st == .running && e.2.tiles.any (fun t => im.tiles.contains t)) ||
     (e.2.st == .queued && e.2.q == r.q && e.2.sub != r.sub && diff32 r.sub e.2.sub < 65536 &&
       (match s.runImage e.2 with
        | some o => o.tiles.any (fun t => im.tiles.contains t)
        | none => false))))

/-- RUN_START: the checks of a RUN's start, in the state in which its image is loaded, its domains are awake, no
earlier RUN holds its tiles and no cap holds it; then the start (R151, R152, R184, R185, R197, R380, R535, R546,
R549). A RUN held for its groups waits for them (R506, R517). -/
def execRunStart (r : Nat) (s : State) : Host.Outcome State Fault Refusal :=
  match s.runs.get r with
  | none => .next s
  | some run =>
    match run.st, s.imgSlot run.part run.slot, s.ctxs.get run.ctx with
    | .queued, some x, some c =>
      (match x.st, x.image with
       | .loading, _ | .empty, _ | _, none => .next s
       | _, some im =>
         if s.dev.fault.isSome || s.runBlocked r run im || !s.allAwake (s.runDomains im run.args) || s.pwr.holdSince.isSome then .next s
         else
           let v := some (run.q, run.sub)
           if !s.partRails run.part then .next (s.partFault run.part .parity v) else
           let s := if run.heldForGroup.isSome || (s.net run.part).waitGroups then (s.imageGroups run.part im).foldl State.remoteJoins s else s
           let notReady := (s.imageGroups run.part im).any (fun g => !s.groupReady run.part g)
           if notReady && (run.heldForGroup.isSome || (s.net run.part).waitGroups) then
             .next (s.setRun r { run with heldForGroup := some (run.heldForGroup.getD s.ts) })
           else
             let a : RunArgs := ⟨BitVec.ofNat 8 run.slot, run.strict, BitVec.ofNat 24 run.stream, run.args⟩
             match govern (s.runFails run.ctx (s.entryTs run) run.part a ++ failIf (s.llcBytes run.part < im.stores) .bounds ++ s.groupFails run.part im) with
             | some st => .next (s.ctxFault run.ctx st v)
             | none =>
               let run := { run with load := x.load }
               let rec_ := s.runRecord run x 0 0
               if (s.part run.part).led.armed && (s.part run.part).led.differs rec_ then
                 .next ((s.endEntry run.q run.sub .digestMismatch .request).disarm run.part)
               else .next (s.launch r run x im c.seed))
    | .queued, none, _ => .next (s.ctxFault run.ctx .handle (some (run.q, run.sub)))
    | _, _, _ => .next s

/-- RUN_GROUP_WAIT_LIMIT: a RUN held for a group that has not become ACTIVE within its wait_limit meets R380: the
context faults with HANDLE. -/
def execRunGroupWaitLimit (r : Nat) (s : State) : Host.Outcome State Fault Refusal :=
  match s.runs.get r with
  | none => .next s
  | some run =>
    match run.st, run.heldForGroup, s.runImage run with
    | .queued, some t, some im =>
      if (s.imageGroups run.part im).any (fun g => !s.groupReady run.part g && t + 1000 * geWait (s.group g).entry ≤ s.ts) then
        .next (s.ctxFault run.ctx .handle (some (run.q, run.sub)))
      else .next s
    | _, _, _ => .next s

/-! ### Ending -/

/-- Whether a RUN holds an operation of a group. -/
def State.holdsOps (s : State) (rid : Nat) : Bool :=
  s.groups.any (fun (e : Nat × Group) => e.2.colls.any (fun c => c.rid == rid) || e.2.disps.any (fun d => d.rid == rid))

/-- Whether accesses of a RUN's tiles are in flight. -/
def State.runBusy (s : State) (r : Run) : Bool := s.accs.any (fun (e : Nat × Access) => ownerIsTile r.tiles e.2.owner)

/-- Whether everything a RUN started has ended (R153). -/
def State.runOver (s : State) (rid : Nat) (r : Run) : Bool :=
  r.st == .running && r.tiles.all (fun t => (s.tile t).ended) &&
    r.lanes.all (fun (e : Nat × Lane) => e.2.out.isEmpty && e.2.flight.isEmpty) && !s.runBusy r && !s.holdsOps rid &&
    !s.usets.any (fun (e : Nat × USet) => e.2.run == some rid)

/-- RUN_COMPLETE: the record carries the OR of the tiles' flags, and NORM_REJECT when an attempt rejected (R320),
or ABORTED when rows were voided (R204; log entry 43, DEDUCED). -/
def execRunComplete (r : Nat) (s : State) : Host.Outcome State Fault Refusal :=
  match s.runs.get r with
  | none => .next s
  | some run =>
    if !s.runOver r run then .next s
    else
      let voided := run.tiles.any (fun t => !(s.tile t).tkt.voids.isEmpty)
      let st := (govern (failIf voided .aborted ++ run.closeSt.toList.filter (fun x => x != .ok))).getD .ok
      let d : Done := ⟨st, .request, 0, 0, 0, s.runFlags run % 128, none⟩
      .next ((s.releaseRun r).complete run.q run.sub d)

/-- Whether a memory read of a RUN's tiles is in flight. -/
def State.runReads (s : State) (r : Run) : Bool :=
  s.accs.any (fun (e : Nat × Access) => ownerIsTile r.tiles e.2.owner && (e.2.kind == .hbmRead || e.2.kind == .flashRead))

/-- Whether a RUN has a memory read, tier read or collective outstanding. -/
def State.runWaits (s : State) (rid : Nat) (r : Run) : Bool := s.runReads r || s.holdsOps rid || r.tiles.any (fun t => (s.tile t).tkt.waiting.isSome)

/-- PIPELINE_WATCHDOG: 1 ms without movement ends the context with TIMEOUT (R148). -/
def execPipelineWatchdog (r : Nat) (s : State) : Host.Outcome State Fault Refusal :=
  match s.runs.get r with
  | none => .next s
  | some run =>
    if run.st == .running && !s.pwr.trip && run.lastMove + 1000000 ≤ s.ts && !s.runWaits r run then
      .next (s.ctxFault run.ctx .timeout (some (run.q, run.sub)))
    else .next s

end Sys2Proof.Machine
end

