-- ==== Sys2Proof/Machine/Returns.lean ====
section
/-! DEFINITION. What comes back from memory (R238 to R258, R278 to R283): HBM answers, flash parts, their limits,
rebuilt subtrees, and the life of segments and wiped pages. -/

namespace Sys2Proof.Machine

/-! ### The ends of an access -/

/-- An access ends; the domains of its object have just been used (R545). -/
def State.dropAcc (s : State) (id : Nat) : State :=
  let s := match s.accs.get id with
    | some (a : Access) => (match (if a.kind == AccKind.hostRead then none else s.objs.get a.obj) with
      | some o => (o.rangeDomains a.off a.len).foldl State.touchDom s
      | none => s)
    | none => s
  { s with accs := s.accs.erase id }.settleLeaving
def State.setAcc (s : State) (id : Nat) (a : Access) : State := { s with accs := s.accs.set id a }

/-- The command on whose behalf an access writes: local queue and index. -/
def State.accWriter (s : State) (a : Access) : Option (Nat × Nat) :=
  match a.owner with
  | .tile t => ((s.tile t).run.bind (fun r => s.runs.get r)).map (fun r => (r.q % 65536, r.sub))
  | .work w => (s.works.get w).bind (fun w => w.q.map (fun q => (q % 65536, w.sub)))
  | _ => none

/-- A tile no longer waits for an access. -/
def State.unwait (s : State) (t id : Nat) : State :=
  let tl := s.tile t
  match tl.wait with
  | some w => s.setTile t { tl with wait := some { w with accs := removeNat id w.accs } }
  | none => s

/-- A work with nothing in flight moves on: a transfer completes, a SEAL digests, a PUBLISH writes or seals. Images
and adapter loads end by commands of their own. -/
def State.settleWork (s : State) (id : Nat) : State :=
  match s.works.get id with
  | none => s
  | some w =>
    if s.workBusy id then s
    else
      match w.kind with
      | .copy _ | .fill _ => s.finishTransfer id w (s.workDstKey w)
      | .sealing k => s.finishSeal id w k
      | .loadImage .. => s.readBody id
      | .publish k slot none => s.publishRead id w k slot
      | .publish k slot (some nk) => s.publishWritten id w k slot nk
      | .headers k ads => s.headersRead id w k ads
      | .report slot _ _ => s.reportRead id w slot
      | .pinTrain k h => s.trainRead id w k h
      | _ => s

/-- A tile's access has come back; the stall on flash reads ends with the last of them (R252). -/
def State.tileAcc (s : State) (t id : Nat) (a : Access) : State :=
  let n := if a.kind == .flashRead then s.flashStall t else 0
  let p := s.accPart a
  let s := (s.dropAcc id).unwait t id
  if s.flashStall t = 0 then s.countStall p n else s

/-- A read has its data. -/
def State.accData (s : State) (id : Nat) (a : Access) : State :=
  match a.owner with
  | .tile t => s.tileAcc t id a
  | o =>
  let s := s.dropAcc id
  match o with
  | .work w => (s.chunkData w a.chunk (s.objRead a.obj a.off a.len)).settleWork w
  | .update p n => s.fetched (Sys2Proof.Machine.setKey p n) id
  | _ => s

/-- A write has landed. -/
def State.accWritten (s : State) (id : Nat) (a : Access) : State :=
  let s := (s.objWriteBy (s.accWriter a) a.obj a.off a.data).dropAcc id
  match a.owner with
  | .work w => (s.chunkDone w a.chunk).settleWork w
  | .tile t => (match (s.tile t).run with
    | some rid => s.tileDone rid t
    | none => s)
  | _ => s

/-- An access has failed: the context of an ordinary consumer, or the request's part (R241, R253, R254). -/
def State.accFail (s : State) (id : Nat) (a : Access) (st : Status) : State :=
  let p := s.accPart a
  match a.owner with
  | .tile t =>
    let s := if st == .tierFail then s.bumpPart? p cTierFail 1 else s
    let s := (match (s.tile t).run.bind (fun r => s.runs.get r) with
     | some r => s.ctxFault r.ctx st (some (r.q, r.sub))
     | none => s)
    s.dropAcc id
  | .work w => ((s.dropAcc id).failChunk w a.chunk st (a.kind == .hbmWrite || a.kind == .flashWrite)).settleWork w
  | .update p n =>
    let s := s.dropAcc id
    let s := if st == .tierFail then s.bumpPart? (some p) cTierFail 1 else s
    if (s.usets.get (Sys2Proof.Machine.setKey p n)).any (fun u => (u.fetch.getD []).contains id || u.writes.contains id) then s.unitFault (Sys2Proof.Machine.setKey p n) st .context else s
  | .none => s.dropAcc id

/-- A page refuses an access at the moment it is performed: with the status and scope the page gives (R237 to R239). -/
def State.accRefused (s : State) (id : Nat) (a : Access) (st : Status) (sc : Scope) : State :=
  match a.owner, sc with
  | .work w, _ => ((s.dropAcc id).chunkBad w a.chunk st sc).settleWork w
  | _, .partition => (match s.accPart a with
    | some p => (s.partFault p st (match a.owner with
      | .tile t => ((s.tile t).run.bind (fun r => s.runs.get r)).map (fun r => (r.q, r.sub))
      | _ => none)).dropAcc id
    | none => (s.devFault st none).dropAcc id)
  | _, _ => s.accFail id a st

/-! ### HBM (R241, R278 to R282) -/

/-- The HBM lines an access covers, in order: of the half read, or of every page a write reaches (R303); and whether a write covers each in part only. -/
def State.accParts (s : State) (a : Access) : List (Nat × Bool) :=
  match s.objs.get a.obj with
  | none => []
  | some o => (cutPages a.off a.len).flatMap (fun r =>
      (if a.kind == .hbmWrite then o.physW (r.1 / pageBytes) else [o.phys (r.1 / pageBytes)]).flatMap (fun i =>
        (linesOf (r.1 % pageBytes) r.2).map (fun l => ((o.pte i).frameNo * 1024 + l, partialLine (r.1 % pageBytes) r.2 l))))
def State.accLines (s : State) (a : Access) : List Nat := (s.accParts a).map (fun e => e.1)

/-- The line at an index of a list of lines.
Log entry 84, DESIGN CHOICE. -/
def linesAt (ls idx : List Nat) : List Nat := idx.filterMap (fun i => ls[i]?)

/-- SHROUD_HEALTH offsets (R296, R593). -/
def cTreeFail : Nat := 0x103000
def cSubRestored : Nat := 0x103008
def cSubLost : Nat := 0x103010

/-- A counter block (height 0) or node failed twice: it is recorded, counted and logged (R281). -/
def State.nodeFails (s : State) (h n : Nat) : State :=
  if s.shroud.failed.contains (h, n) then s
  else ({ s with shroud := { s.shroud with failed := s.shroud.failed ++ [(h, n)] } }.bumpDev cTreeFail 1).logRec (.node h n)

/-- Use the metadata of lines: cache lines whose parity fails are dropped or lost, and what has been lost is counted and logged (R276, R281). -/
def State.settleMeta (s : State) (ls : List Nat) : State :=
  let (h, f) := s.shroud.settleUpsets ls
  f.foldl (fun s x => (s.bumpDev cTreeFail 1).logRec (.node x.1 x.2)) { s with shroud := h }

/-- The counter block or node above a line of an access that failed at the read and at its retry: the line by its place in the access, and the height. One
that is in the cache is not read.
Log entry 84, DESIGN CHOICE. -/
def State.nodeOf (s : State) (ls : List Nat) (node : Option (Nat × Nat)) : Option (Nat × Nat) :=
  match node with
  | none => none
  | some (i, h) => (match ls[i]? with
    | none => none
    | some l =>
      let n := globalOf (l / 64) / 8 ^ h
      if 8 < h || s.shroud.cache.has (metaKey h n) then none else some (h, n))

/-- Bring in the metadata of a read's lines, counting a read that waits for it (R277, R295).
Log entry 85, DEDUCED. -/
def State.useMeta (s : State) (p : Option Nat) (ls : List Nat) : State :=
  if ls.all s.shroud.hits then s
  else { s with shroud := s.shroud.loadLines ls }.bumpPart? p cMetaMiss 1

/-- Whether an access meets the counter block that the Carousel holds locked: it waits, for 1 µs at most (R287). -/
def State.lockedFor (s : State) (ls : List Nat) : Bool :=
  s.shroud.sweeps.any (fun (e : Nat × Sweep) => e.2.lock.any (fun x => s.ts ≤ x.2 + 1000 && ls.any (fun l => l / 64 == x.1)))

/-- Lines whose tag failed at the read and at the re-read stay as they are and keep failing. -/
def State.tagsFail (s : State) (p : Option Nat) (l : List Nat) : State :=
  { s with shroud := { s.shroud with bad := l.foldl (fun b x => insertNat x b) s.shroud.bad } }.bumpPart? p cTagFail l.length

/-- Retry an access once, then fail it with TIER_FAIL. -/
def State.retryAcc (s : State) (id : Nat) (a : Access) : State :=
  if a.tries = 0 then (s.setAcc id { a with tries := 1, since := s.ts }).bumpPart? (s.accPart a) cHbmRetry 1
  else s.accFail id a .tierFail

/-- HBM_READ_RETURN: the lines and the chain of their counter blocks are verified (R278).
Log entry 84, DESIGN CHOICE. Log entry 186, DEDUCED. -/
def execHbmReadReturn (acc : Nat) (v : Arrival) (s : State) : Host.Outcome State Fault Refusal :=
  match s.acc? acc with
  | none => .next s
  | some a =>
    if a.kind != .hbmRead then .next s
    else s.whenRails (fun s =>
      let ls := s.accLines a
      if s.lockedFor ls then .next s
      else if v.phyError then .next (s.retryAcc acc a)
      else
        let s := s.settleMeta ls
        match s.nodeOf ls v.node with
        | some n => .next ((s.nodeFails n.1 n.2).accFail acc a .integrity)
        | none =>
          let p := s.accPart a
          let s := s.useMeta p ls
          let wrong := (linesAt ls (v.bad1.filter v.bad2.contains)).filter (fun l => !s.shroud.blockLost (l / 64) && s.shroud.minor l != 0)
          let bad := ls.filter (fun l => !s.shroud.blockLost (l / 64) && (wrong.contains l || s.shroud.lineBad l))
          if bad.isEmpty && !ls.any (fun l => s.shroud.blockLost (l / 64)) then .next (s.accData acc a)
          else .next ((s.tagsFail p bad).accFail acc a .integrity))

/-- HBM_ACCESS_TIMEOUT: no answer within 4 µs. -/
def execHbmAccessTimeout (acc : Nat) (s : State) : Host.Outcome State Fault Refusal :=
  match s.acc? acc with
  | none => .next s
  | some a => if (a.kind == .hbmRead || a.kind == .hbmWrite) && a.since + 4000 ≤ s.ts then .next (s.retryAcc acc a) else .next s

/-- HBM_WRITE_ANSWER: the write lands once no page under snapshot stands in its way (R238); a partial write whose
old line fails verification is refused (R279, R280). An update unit's write has landed when its block was applied (log entry 195, DESIGN CHOICE). -/
def execHbmWriteAnswer (acc : Nat) (v : Arrival) (s : State) : Host.Outcome State Fault Refusal :=
  match s.acc? acc with
  | none => .next s
  | some a =>
    if a.kind != .hbmWrite then .next s
    else s.whenRails (fun s =>
      if v.phyError then .next (s.retryAcc acc a)
      else if s.lockedFor (s.accLines a) then .next s
      else
        match a.owner, s.objs.get a.obj with
        | .update p n, _ => .next ((s.dropAcc acc).unitWritten (Sys2Proof.Machine.setKey p n) acc)
        | _, none => .next (s.accFail acc a .handle)
        | _, some o =>
          let ls := s.accLines a
          match o.writeVerdict a.off a.len with
          | .bad st sc => .next (s.accRefused acc a st sc)
          | .waits => .next s
          | _ =>
            let s := s.settleMeta ls
            let p := s.accPart a
            let old := ((s.accParts a).filter (fun e => e.2 && (s.shroud.blockLost (e.1 / 64) || s.shroud.minor e.1 != 0))).map (fun e => e.1)
            match s.nodeOf ls v.node with
            | some n =>
              let s := s.nodeFails n.1 n.2
              if old.isEmpty then .next (s.accWritten acc a)
              else .next ((s.bumpPart? p cWriteRefused 1).accFail acc a .integrity)
            | none =>
              let bad := old.filter (fun l => (linesAt ls (v.bad1.filter v.bad2.contains)).contains l || s.shroud.lineBad l)
              if bad.isEmpty then .next (s.accWritten acc a)
              else .next (((s.tagsFail p (bad.filter (fun l => !s.shroud.blockLost (l / 64)))).bumpPart? p cWriteRefused 1).accFail acc a .integrity))

/-! ### Flash (R249 to R252) -/

/-- A part read of a channel was late or failed: eight in a row within 1 ms take the channel down, which is logged (R250). -/
def State.channelLate (s : State) (c : Nat) : State :=
  let l := ((s.flash.lateRun.getD c []) ++ [s.ts])
  let l := l.drop (l.length - 8)
  let down := l.length = 8 && s.ts ≤ l.headD 0 + 1000000 && !s.flash.down.contains c
  let s := { s with flash := { s.flash with lateRun := s.flash.lateRun.set c l, down := if down then insertNat c s.flash.down else s.flash.down } }
  if down then s.logRec (.channel c) else s

/-- A part read of a channel was answered in time. -/
def State.channelOk (s : State) (c : Nat) : State := { s with flash := { s.flash with lateRun := s.flash.lateRun.erase c } }

/-- A row is delivered from its own parts, or, once a part is late, from the first 14 of the row. -/
def RowRead.ready (r : RowRead) : Bool :=
  r.want.all (fun x => r.arrived.contains x) || (!r.late.isEmpty && 14 ≤ r.arrived.length)

/-- The first line of the page that a part at a group position holds, if it holds data of the page (R246, R247). -/
def RowRead.partLine (r : RowRead) (pos : Nat) : Option Nat :=
  let j := (pos + 30 - 2 * r.row) % 16
  let b := 14 * r.row + j
  if j < 14 && r.frame % 7 == b / 16 then some (64 * (b % 16)) else none

/-- The lines of the page, among those of a part at a position, that the access reads. -/
def Access.partWants (a : Access) (r : RowRead) (pos : Nat) (lines : List Nat) : List Nat :=
  match r.partLine pos with
  | none => []
  | some f => ((lines.filter (fun l => l < 64)).map (fun l => f + l)).filter (fun l => a.off < 64 * (1024 * r.page + l + 1) && 64 * (1024 * r.page + l) < a.off + a.len)

/-- Put a row back, deliver it when it is ready, and the access when every row is in: unless a line of it failed verification twice (R278). -/
def State.putRow (s : State) (acc : Nat) (a : Access) (i : Nat) (r : RowRead) : State :=
  let p := s.accPart a
  let ready := r.ready && !r.done
  let s := if ready && !r.want.all (fun x => r.arrived.contains x) then s.bumpPart? p cTierReconstruct 1 else s
  let a := { a with rows := a.rows.set i { r with done := r.done || ready } }
  let s := s.setAcc acc a
  if a.rows.all (fun r => r.done) then
    let wrong : List Nat := a.rows.flatMap (fun r => r.bad2.map (fun l => r.frame * 1024 + l))
    let s := { s with shroud := { s.shroud with badFlash := wrong.foldl (fun b l => insertNat l b) s.shroud.badFlash } }
    let bad : Nat := s.rangeBad a.obj a.off a.len
    if bad = 0 then s.accData acc a else (s.bumpPart? p cTagFail bad).accFail acc a .integrity
  else s

/-- The row and position a part number names: 16 times the row's place in the access, plus its position. -/
def Access.partAt (a : Access) (part : Nat) : Option RowRead := a.rows[part / 16]?

/-- A part of a row is late: the parts needed to rebuild the row are read at once.
Log entry 86, DEDUCED. -/
def State.partLate (s : State) (acc : Nat) (a : Access) (part : Nat) (r : RowRead) : State :=
  let p := s.accPart a
  let s := (s.bumpPart? p cTierLate 1).channelLate (channelOf r.frame (part % 16))
  let (r, n) := s.markLate r (part % 16)
  (if n = 0 then s else s.bumpPart? p cTierChannelDown n).putRow acc a (part / 16) r

/-- FLASH_PART_RETURN: a part arrives, or its channel reports a media error, which is read once more. A part with lines whose tag fails, by their place in
the part, is read once more too (R278).
Log entry 84, DESIGN CHOICE. -/
def execFlashPartReturn (acc part : Nat) (v : PartAnswer) (s : State) : Host.Outcome State Fault Refusal :=
  match s.acc? acc with
  | none => .next s
  | some a =>
    match a.partAt part with
    | none => .next s
    | some r =>
      let pos := part % 16
      let again (r : RowRead) : RowRead := if r.out.contains pos then { r with sent := r.sent.set pos s.ts } else r
      let put (r : RowRead) : State := s.setAcc acc { a with rows := a.rows.set (part / 16) r }
      if a.kind != .flashRead || r.done || !(r.out.contains pos || r.late.contains pos) then .next s
      else if v.mediaError then
        (if !r.out.contains pos then .next s
         else if r.retried.contains pos then .next (s.partLate acc a part r)
         else .next ((put (again { r with retried := insertNat pos r.retried })).bumpPart? (s.accPart a) cTierRetry 1))
      else
        let failing := a.partWants r pos v.badLines
        let mine := (a.partWants r pos (List.range 64))
        let seen := r.bad1.any mine.contains
        if !failing.isEmpty && !seen then .next (put (again { r with bad1 := r.bad1 ++ failing }))
        else
          let s := if r.out.contains pos then s.channelOk (channelOf r.frame pos) else s
          .next (s.putRow acc a (part / 16) { r with out := removeNat pos r.out, arrived := insertNat pos r.arrived, bad2 := r.bad2 ++ failing.filter r.bad1.contains })

/-- FLASH_PART_LATE: a part read is unanswered after 60 µs. -/
def execFlashPartLate (acc part : Nat) (s : State) : Host.Outcome State Fault Refusal :=
  match s.acc? acc with
  | none => .next s
  | some a =>
    match a.partAt part with
    | none => .next s
    | some r =>
      if a.kind != .flashRead || r.done || !r.out.contains (part % 16) || s.ts < r.sent.getD (part % 16) a.since + 60000 then .next s
      else .next (s.partLate acc a part r)

/-- TIER_STALL_TIMEOUT: a flash read has kept its consumer waiting for more than 2 ms (R252, R253). -/
def execTierStallTimeout (acc : Nat) (s : State) : Host.Outcome State Fault Refusal :=
  match s.acc? acc with
  | none => .next s
  | some a => if a.kind == .flashRead && !s.pwr.trip && 2000000 < s.stallTime a then .next (s.accFail acc a .tierFail) else .next s

/-- The verdict against a flash write at the moment it is performed: one write command for a page (R238). -/
def State.flashVerdict (s : State) (a : Access) (o : Obj) : Verdict :=
  match a.owner with
  | .work id => (match s.works.get id with
    | some w => (match s.workDst w with
      | .obj _ base => w.writeVerdict o base a.off a.len
      | _ => o.writeVerdict a.off a.len)
    | none => o.writeVerdict a.off a.len)
  | _ => o.writeVerdict a.off a.len

/-- FLASH_WRITE_DONE: a write of a FILLING or INCOMPLETE page has ended. -/
def execFlashWriteDone (acc : Nat) (okWrite : Bool) (s : State) : Host.Outcome State Fault Refusal :=
  match s.acc? acc with
  | none => .next s
  | some a =>
    if a.kind != .flashWrite then .next s
    else if !okWrite then .next (s.accFail acc a .tierFail)
    else
      match s.objs.get a.obj with
      | none => .next (s.accFail acc a .handle)
      | some o =>
        match s.flashVerdict a o with
        | .bad st sc => .next (s.accRefused acc a st sc)
        | _ => .next (s.accWritten acc a)

/-! ### Segments and pages (R248, R257, R258, R413) -/

/-- Whether a segment belongs to a SNAPSHOT region, granted whole by a layout (R257). -/
def snapTag (tag : Nat) : Bool := tag / 32 == 4 && tag % 32 < 16

/-- A segment no frame of which is live.
Log entry 87, DEDUCED. -/
def State.segmentDead (s : State) (g : Nat) : Bool :=
  s.flash.owner.has g && (segFrames g).all (fun f => !s.flash.used.has f) && (!snapTag (s.flash.owner.getD g 0) || (segFrames g).any s.flash.dead.contains)

/-- SEGMENT_ERASE: the segment is erased and returned, one of a SNAPSHOT region to the free segments of that region (R258). At its 10,000th erase it is
retired, and such a region shrinks (R257).
Log entry 87, DEDUCED. -/
def execSegmentErase (seg : Nat) (s : State) : Host.Outcome State Fault Refusal :=
  if !s.segmentDead seg then .next s
  else
    let fs := segFrames seg
    let f := s.flash
    let n := f.eraseCount seg + 1
    let mem := fs.foldl (fun m x => Mem.clear m (x * pageBytes) pageBytes) f.mem
    let stays := snapTag (f.owner.getD seg 0) && n < 10000
    let f := { f with mem := mem, dead := f.dead.filter (fun x => !fs.contains x), erases := f.erases.set seg (f.erases.getD seg 0 + 1), owner := if stays then f.owner else f.owner.erase seg,
                      retired := if 10000 ≤ n then insertNat seg f.retired else f.retired }
    .next { s with flash := f, shroud := { s.shroud with badFlash := s.shroud.badFlash.filter (fun l => !fs.contains (l / 1024)) } }

/-- Move a live flash page to another frame of its region. -/
def State.moveFrame (s : State) (src dst : Nat) : State :=
  match s.flash.used.get src with
  | none => s
  | some key =>
    match s.objs.get key with
    | none => s
    | some o =>
      let b := s.flash.mem.reads (src * pageBytes) pageBytes
      let fl := { s.flash with
        mem := (s.flash.mem.clear (dst * pageBytes) pageBytes).writes (dst * pageBytes) b,
        used := (s.flash.used.erase src).set dst key, dead := insertNat src s.flash.dead }
      let pages := o.pages.map (fun p => if p.tier == 2 && p.frameNo == src then { p with frame := BitVec.ofNat 32 dst } else p)
      { s with flash := fl }.setObj key { o with pages := pages }

/-- SEGMENT_RELOCATE: the live pages of a segment most of whose frames are dead move to other frames of the region.
A relocation that fails, or meets a line that fails, changes nothing.
Log entry 87, DEDUCED. -/
def execSegmentRelocate (seg : Nat) (pick : List Nat) (failed : Bool) (s : State) : Host.Outcome State Fault Refusal :=
  match s.flash.owner.get seg with
  | none => .next s
  | some tag =>
    let live := (segFrames seg).filter (fun f => s.flash.used.has f)
    let movable := live.all (fun f => s.objs.has (s.flash.used.getD f 0))
    let bad := s.shroud.badFlash.any (fun l => live.contains (l / 1024))
    if live.isEmpty || 112 ≤ live.length || !movable || failed || bad then .next s
    else
      let away (l : List Nat) : List Nat := l.filter (fun f => segOf f != seg)
      let s' := s.growRegion tag 8 ((s.regionFree tag).length + live.length)
      let free := away (s'.regionFree tag)
      let dst := if pick.length == live.length && pick.Nodup && pick.all (fun f => free.contains f) then pick else free.take live.length
      if dst.length < live.length then .next s
      else .next ((live.zip dst).foldl (fun s e => s.moveFrame e.1 e.2) s')

/-- PAGE_WIPE_DONE: the page's counter blocks start afresh from the high-water mark. -/
def execPageWipeDone (frame : Nat) (s : State) : Host.Outcome State Fault Refusal :=
  if s.wiping.has frame then s.whenRails (fun s => .next ({ s with wiping := s.wiping.erase frame }.freeFrame frame))
  else .next s

/-! ### Rebuilding a subtree (R283) -/

/-- The counter blocks of a frame beneath a node, by position. -/
def blocksUnder (h node f : Nat) : List Nat := ((List.range 16).map (fun i => 16 * f + i)).filter (fun pos => globalOf pos / 8 ^ h == node)

/-- Whether a line of metadata is a counter block or node beneath a node, or that node. -/
def keyBeneath (h node m : Nat) : Bool := keyHeight m ≤ h && keyIndex m / 8 ^ (h - keyHeight m) == node

/-- Fresh nodes beneath a failed one, and up to it: what memory and the cache held of them is gone, the failures beneath it too; counter blocks in the cache
stay there. -/
def Shroud.freshNodes (h : Shroud) (k node : Nat) : Shroud :=
  { h with failed := h.failed.filter (fun f => !(f.1 ≤ k && f.2 / 8 ^ (k - f.1) == node)),
           nodes := h.nodes.filter (fun e => !keyBeneath k node e.1),
           cache := h.cache.filter (fun e => keyHeight e.1 = 0 || !keyBeneath k node e.1) }

/-- Re-initialise counter blocks; the nodes above them, beneath the failed one, are written back in their turn. -/
def Shroud.freshBlocks (h : Shroud) (k node : Nat) (blocks : List Nat) : Shroud :=
  let h := blocks.foldl (fun h pos => h.initBlock pos) h
  { h with cache := h.cache.map (fun e => (e.1, if keyHeight e.1 != 0 && keyBeneath k node e.1 then { e.2 with dirty := true } else e.2)) }

/-- The latest sealed snapshot's copy of a page. -/
def State.snapCopy (s : State) (key i : Nat) : Option Nat :=
  (List.range 16).findSome? (fun p => ((s.net p).snaps.reverse.findSome? (fun n =>
    (n.pages.find? (fun x => x.obj == key && x.page == i)).map (fun x => x.frame))))

/-- Write a whole frame by full-line writes. -/
def State.writeFrame (s : State) (part : Option Nat) (f : Nat) (data : Bytes) : State :=
  let s := s.touchLines part (f * 1024) 1024
  { s with hbm := (s.hbm.clear (f * pageBytes) pageBytes).writes (f * pageBytes) data }

/-- Restore one page beneath a failed node from the first source that has it: the catcher's copy, the latest snapshot, or its counter blocks, which were still
in the cache, whose written lines are encrypted again under the fresh majors. Else every line is poisoned over the encryption of zeros. Answers whether it
was restored (R283). -/
def State.restorePage (s : State) (key i f : Nat) (catcher : List Nat) (cached : Option (List Nat)) : Bool × State :=
  match s.objs.get key with
  | none => (true, s)
  | some o =>
    let p := o.pte i
    if p.mirror && catcher.contains f then (true, s.writeFrame o.part f (s.hbm.reads (f * pageBytes) pageBytes))
    else
      match (if p.sinceSnap then none else s.snapCopy key i), cached with
      | some ff, _ => (true, s.writeFrame o.part f (s.flash.mem.reads (ff * pageBytes) pageBytes))
      | none, some lines =>
        let (bad, poison) := (s.shroud.bad, s.shroud.poison)
        let s := lines.foldl (fun s l => s.touchLines o.part l 1) s
        (true, { s with shroud := { s.shroud with bad := bad, poison := poison } })
      | none, none =>
        let s := s.writeFrame o.part f []
        (false, { s with shroud := s.shroud.poisonLines ((List.range 1024).map (fun l => f * 1024 + l)) })

/-- The written lines of a frame's counter blocks beneath a node, when every such block is in the cache. -/
def State.cachedLines (s : State) (h node f : Nat) : Option (List Nat) :=
  let bs := blocksUnder h node f
  if bs.all (fun pos => s.shroud.cache.has (metaKey 0 (globalOf pos))) then
    some (bs.flatMap (fun pos => ((s.shroud.block pos).minors.filter (fun e => e.2 != 0)).map (fun e => 64 * pos + e.1)))
  else none

/-- End what owns an unrestored page, by the table of R283. Rings count as Onlyn's own (log entry 44, DEDUCED). -/
def State.loseOwner (s : State) (key : Nat) : State :=
  match s.objs.get key with
  | none => s
  | some o =>
    match o.use with
    | .object => (match o.owner, o.part with
      | some c, _ => s.ctxFault c .integrity none
      | none, some p => s.partFault p .integrity none
      | none, none => s.devFault .integrity none)
    | .cache e => (match s.adpt.cache.get e with
      | some x => x.pins.foldl (fun s p => s.ctxFault p.1 .integrity none) s
      | none => s)
    | .image p slot => (match s.imgSlot p slot with
      | some x => (s.emptySlot p slot).ctxFault x.owner .integrity none
      | none => s)
    | .table => (match o.part with
      | some p => s.partFault p .integrity none
      | none => s.devFault .integrity none)
    | .ring => s.devFault .integrity none

/-- SUBTREE_REBUILD: `fromCatcher` lists the mirrored frames the catcher's copy restored. -/
def execSubtreeRebuild (height node : Nat) (fromCatcher : List Nat) (s : State) : Host.Outcome State Fault Refusal :=
  if !s.shroud.failed.contains (height, node) then .next s
  else s.whenRails (fun s =>
    let frames := s.hbmUsed.filter (fun (e : Nat × Nat) => !(blocksUnder height node e.1).isEmpty)
    let kept : Tbl (Option (List Nat)) := frames.map (fun e => (e.1, s.cachedLines height node e.1))
    let s := { s with shroud := (s.shroud.freshNodes height node).freshBlocks height node (frames.flatMap (fun e => blocksUnder height node e.1)) }
    let (lost, s) := frames.foldl (fun (acc : List Nat × State) e =>
      match acc.2.objs.get e.2 with
      | none => acc
      | some o =>
        match o.pages.findIdx? (fun p => p.tier == 1 && p.frameNo == e.1) with
        | none => acc
        | some i =>
          if (o.pte i).st == .zero then acc
          else
            let (ok, s) := acc.2.restorePage e.2 i e.1 fromCatcher (kept.getD e.1 none)
            (if ok then acc.1 else insertNat e.2 acc.1, s)) ([], s)
    let s := s.bumpDev (if lost.isEmpty then cSubRestored else cSubLost) 1
    .next (lost.foldl State.loseOwner s))

end Sys2Proof.Machine
end

