-- ==== Sys2Proof/Machine/Contexts.lean ====
section
/-! DEFINITION. Contexts, queues and objects as they are made and ended (R395 to R398, R408 to R413, R420 to R422,
R467, R494): CONTEXT_CREATE and CONTEXT_DESTROY, the queue commands, PARTITION_ABORT and OBJECT_FREE. -/

namespace Sys2Proof.Machine

/-! ### Rings and their windows (R397) -/

/-- The partition of a virtual function (R576).
Log entry 166, DEDUCED. -/
def fnPart (f : Nat) : Option Nat := if f = 0 then none else some (f - 1)

/-- The next free offset of a function's BAR2 window, in pages of 64 KiB.
Log entry 176, DESIGN CHOICE. -/
def FnSt.nextMap (f : FnSt) : Nat := (f.maps.map (fun m => roundUp (m.1 + m.2.1) pageBytes)).foldl max 0

/-- The MEMORY slot a partition's rings stand under; slot 0 for the operator's. -/
def State.ringKey (s : State) (p : Option Nat) : Nat := match p.bind s.layout with
  | some l => l.keyBase.toNat
  | none => 0

/-- Allocate a ring of some bytes and map it: its page set and its BAR2 offset. None when it does not fit (R602).
Log entry 176, DESIGN CHOICE. -/
def State.newRing (s : State) (f : Nat) (p : Option Nat) (bytes : Nat) : Option (Nat × Nat × State) :=
  let n := ceilDiv bytes pageBytes
  let room := match p with
    | some p => s.hbmRoom p
    | none => s.operatorHbmRoom
  let k := s.hiddenKey
  if room < n then none
  else
    (s.newHbm k (hiddenObj .ring p (s.ringKey p)) n []).map (fun s =>
      let b := (s.fn f).nextMap
      (k, b, s.setFn f { s.fn f with maps := (s.fn f).maps ++ [(b, bytes, k)] }))

/-- Wipe a ring and unmap it (R408). -/
def State.dropRing (s : State) (f ring : Nat) : State :=
  let x := s.fn f
  (s.setFn f { x with maps := x.maps.filter (fun m => m.2.2 != ring) }).dropPages ring

/-- Create a function's admin queue: 256 entries in each ring, at index 0 and BAR2 offset 0 (R397).
Log entry 180, DESIGN CHOICE. -/
def State.makeAdmin (s : State) (f : Nat) : State :=
  match (s.setFn f { s.fn f with maps := [] }).newRing f none (256 * 128 + 256 * 32) with
  | none => s
  | some (k, b, s) => s.setQueue (adminKey f) ⟨none, 8, 8, k, b, 0, 0, [], 0, 0, .active, 0, [], none⟩

/-! ### Creating -/

/-- Contexts of a partition. -/
def State.ctxsOf (s : State) (p : Option Nat) : List Nat :=
  (s.ctxs.filter (fun (e : Nat × Ctx) => e.2.part == p)).map (fun (e : Nat × Ctx) => e.1)

/-- Failures of a CONTEXT_CREATE (R395, R467, R494, R515).
Log entry 220, DESIGN CHOICE. -/
def State.ctxCreateFails (s : State) (p : Option Nat) (a : CtxArgs) : List Status :=
  failIf (a.evLog2.toNat < 6 || 16 < a.evLog2.toNat) .malformed ++ failIf (1024 ≤ s.ctxs.length) .bounds ++ failIf s.isCatcher .bounds ++
  (match p with
   | none => []
   | some p => failIf (16 ≤ p) .malformed ++ failIf (p < 16 && (s.part p).sess.st != .bound) .key ++ failIf (64 ≤ (s.ctxsOf (some p)).length) .bounds ++
       failIf (s.net p).restore.isSome .bounds)

/-- CONTEXT_CREATE: a virtual function names its own partition; the physical function names one, or 0xFF for an
operator context. The seed is a draw of the true random number generator (R61).
Log entry 166, DEDUCED. -/
def execContextCreate (q : QId) (a : CtxArgs) (pick : Nat) (s : State) : Host.Outcome State Fault Refusal :=
  s.whenAdmin q (.contextCreate a) (fun qk e s =>
    let f := q.fn.val
    let p := if f = 0 then (if a.part = 0xFF then none else some a.part.toNat) else fnPart f
    match govern (s.ctxCreateFails p a) with
    | some st => s.complete qk e.sub (Done.req st)
    | none =>
      match s.newRing f p (32 * 2 ^ a.evLog2.toNat), s.ctxs.pickFree 1024 pick with
      | some (k, b, s), some c =>
        let (i, s) := s.fresh
        let x : Ctx := ⟨.active, f, p, (Config.trng i).setWidth 64, a.evLog2.toNat, k, b, 0, false, false⟩
        (s.setCtx c x).complete qk e.sub (Done.okay c b)
      | _, _ => s.complete qk e.sub (Done.req .bounds))

/-- The context an admin command names: one created through the queue's function, or any for the physical
function.
Log entry 174, DEDUCED. -/
def State.adminCtx (s : State) (f c : Nat) : Option Ctx :=
  match s.ctxs.get c with
  | some x => if x.fn = f || f = 0 then some x else none
  | none => none

/-- The lowest free local queue index of a function, or the one picked. -/
def State.queueIndex (s : State) (f pick : Nat) : Nat :=
  if 1 ≤ pick && pick < 65536 && !s.queues.has (f * 65536 + pick) then pick
  else ((List.range 4098).find? (fun i => 1 ≤ i && !s.queues.has (f * 65536 + i))).getD 4098

/-- QUEUE_CREATE: the completion ring follows the submission ring.
Log entry 220, DESIGN CHOICE. -/
def execQueueCreate (q : QId) (a : QueueArgs) (pick : Nat) (s : State) : Host.Outcome State Fault Refusal :=
  s.whenAdmin q (.queueCreate a) (fun qk e s =>
    let c := a.ctx.toNat
    let sz (l : U8) : Bool := 6 ≤ l.toNat && l.toNat ≤ 16
    let x? := match s.adminCtx q.fn.val c with
      | some x => if x.st == CtxSt.draining then none else some x
      | none => none
    let fails := failIf (!sz a.sqLog2 || !sz a.cqLog2) .malformed ++ failIf x?.isNone .handle ++
      failIf (64 ≤ (s.ctxQueues c).length || 4096 ≤ (s.queues.filter (fun (y : Nat × Queue) => y.2.ctx.isSome)).length) .bounds
    match govern fails, x? with
    | some st, _ => s.complete qk e.sub (Done.req st)
    | none, none => s
    | none, some x =>
      match s.newRing x.fn x.part (128 * 2 ^ a.sqLog2.toNat + 32 * 2 ^ a.cqLog2.toNat) with
      | none => s.complete qk e.sub (Done.req .bounds)
      | some (k, b, s) =>
        let i := s.queueIndex x.fn pick
        (s.setQueue (x.fn * 65536 + i) ⟨some c, a.sqLog2.toNat, a.cqLog2.toNat, k, b, 0, 0, [], 0, 0, .active, 0, [], none⟩).complete
          qk e.sub (Done.okay i b))

/-! ### Aborting (R420, R421) -/

/-- Take a queue's ready entries and end each at once; an entry for which no completion slot is free leaves no record
(log entry 45, DEDUCED). -/
def State.skipReady (s : State) (qk : Nat) (st : Status) (sc : Scope) : (fuel : Nat) → State
  | 0 => s
  | k + 1 =>
    match s.queues.get qk with
    | none => s
    | some q =>
      if q.ready = 0 then s
      else
        match readEntry (s.readyBytes q 5) with
        | none => s.setQueue qk { q with head := q.tail, stamps := [] }
        | some e =>
          let full := q.cqSize ≤ s.slotsUsed qk q
          let s := s.setQueue qk (q.take e)
          State.skipReady (if full then s.dropEntry qk q.head else s.complete qk q.head (Done.of st sc)) qk st sc k

/-- End all the work of a queue that an abort covers: what has been fetched, and what is ready.
Log entry 45, DEDUCED. -/
def State.abortQueue (s : State) (qk : Nat) (st : Status) (sc : Scope) : State :=
  let s := s.endQueue qk (fun _ => true) st sc none
  match s.queues.get qk with
  | some q => s.skipReady qk st sc (q.ready + 1)
  | none => s

/-- The queue an admin command names by context and local index.
Log entry 174, DEDUCED. -/
def State.namedQueue (s : State) (f : Nat) (a : QueueRef) : Option (Nat × Ctx) :=
  match s.adminCtx f a.ctx.toNat with
  | none => none
  | some x =>
    let k := x.fn * 65536 + a.idx.toNat
    match s.queues.get k with
    | some q => if q.ctx == some a.ctx.toNat then some (k, x) else none
    | none => none

/-- QUEUE_ABORT. -/
def execQueueAbort (q : QId) (a : QueueRef) (s : State) : Host.Outcome State Fault Refusal :=
  s.whenAdmin q (.queueAbort a) (fun qk e s =>
    match s.namedQueue q.fn.val a with
    | none => s.complete qk e.sub (Done.req .handle)
    | some (k, x) =>
      if x.st == .draining then s.complete qk e.sub (Done.req .handle)
      else
        let s := if x.st == .lost then s.abortQueue k .contextLost .context else s.abortQueue k .aborted .request
        s.complete qk e.sub (Done.okay 0 0))

/-- Remove a queue and its rings. -/
def State.dropQueue (s : State) (k : Nat) : State :=
  match s.queues.get k with
  | none => s
  | some q => { s.dropRing (qFn k) q.ring with queues := s.queues.erase k }

/-- QUEUE_DESTROY: the queue's work ends as by QUEUE_ABORT, and its rings go (log entry 46, DEDUCED). -/
def execQueueDestroy (q : QId) (a : QueueRef) (s : State) : Host.Outcome State Fault Refusal :=
  s.whenAdmin q (.queueDestroy a) (fun qk e s =>
    match s.namedQueue q.fn.val a with
    | none => s.complete qk e.sub (Done.req .handle)
    | some (k, x) =>
      let s := if x.st == .lost then s.abortQueue k .contextLost .context else s.abortQueue k .aborted .request
      (s.dropQueue k).complete qk e.sub (Done.okay 0 0))

/-- Destroy a context: its work ends, and its pins, image slots, events, update sets, objects and rings go (R420 to
R422). -/
def State.destroyCtx (s : State) (c : Nat) : State :=
  match s.ctxs.get c with
  | none => s
  | some x =>
    let st := if x.st == .lost then Status.contextLost else .aborted
    let s := s.setCtx c { x with st := .draining }
    let s := (s.ctxQueues c).foldl (fun s k => s.abortQueue k st .context) s
    let s := s.releaseCtxPins c
    let s := (match x.part with
      | some p => ((s.part p).slots.filter (fun (e : Nat × ImgSlot) => e.2.owner == c)).foldl (fun (s : State) (e : Nat × ImgSlot) => s.emptySlot p e.1) s
      | none => s)
    let s := (s.events.filter (fun (e : Nat × Event) => e.2.owner == c)).foldl (fun (s : State) (e : Nat × Event) => s.destroyEvent e.1) s
    let s := (s.usets.filter (fun (e : Nat × USet) => e.2.ctx == c)).foldl (fun (s : State) (e : Nat × USet) => s.dropSet e.1) s
    let s := (s.objs.filter (fun (e : Nat × Obj) => e.2.owner == some c)).foldl (fun (s : State) (e : Nat × Obj) => s.dropPages e.1) s
    let s := (s.ctxQueues c).foldl State.dropQueue s
    let s := s.dropRing x.fn x.ring
    { s with ctxs := s.ctxs.erase c }

/-- CONTEXT_DESTROY. -/
def execContextDestroy (q : QId) (ctx : U16) (s : State) : Host.Outcome State Fault Refusal :=
  s.whenAdmin q (.contextDestroy ctx) (fun qk e s =>
    match s.adminCtx q.fn.val ctx.toNat with
    | none => s.complete qk e.sub (Done.req .handle)
    | some _ => (s.destroyCtx ctx.toNat).complete qk e.sub (Done.okay 0 0))

/-- Loads under way in a partition that is aborted: each completes ABORTED, and its slot is EMPTY (R180). -/
def State.abortLoads (s : State) (p : Nat) : State :=
  (s.works.filter (fun (e : Nat × Work) => e.2.part == some p && (match e.2.kind with
    | .loadImage .. => true
    | _ => false))).foldl (fun (s : State) (e : Nat × Work) => match e.2.q with
      | some qk => s.endEntry qk e.2.sub .aborted .partition
      | none => s) s

/-- Put every context of a partition into LOST with the abort's status: its work ends with CONTEXT_LOST at partition
scope (R406, R420), its loads under way with ABORTED (R180). -/
def State.abortPartition (s : State) (p : Nat) (st : Status) : State :=
  let s := s.abortLoads p
  let cs := s.ctxs.filter (fun (e : Nat × Ctx) => e.2.part == some p && e.2.st != .draining)
  let s := cs.foldl (fun s e => s.loseCtx e.1 st .partition none) s
  cs.foldl (fun s e => (s.ctxQueues e.1).foldl (fun s k => s.abortQueue k .contextLost .partition) s) s

/-- PARTITION_ABORT: a virtual function may name its own partition only. -/
def execPartitionAbort (q : QId) (part : U8) (s : State) : Host.Outcome State Fault Refusal :=
  s.whenAdmin q (.partitionAbort part) (fun qk e s =>
    if 16 ≤ part.toNat then s.complete qk e.sub (Done.req .malformed)
    else if q.fn.val != 0 && fnPart q.fn.val != some part.toNat then s.complete qk e.sub (Done.req .handle)
    else (s.abortPartition part.toNat .aborted).complete qk e.sub (Done.okay 0 0))

/-! ### OBJECT_FREE (R410 to R412) -/

/-- Whether an object is the current or the proposed base. -/
def State.isBase (s : State) (o : Obj) : Bool :=
  o.kind == 1 && o.isSealed && (o.digest.take 16 == s.adpt.base || (match s.adpt.proposal with
    | some (d, _) => o.digest.take 16 == d
    | none => false))

/-- Whether a training pin holds an object. -/
def State.trainPinned (s : State) (key : Nat) : Bool := (s.trainingOf key).isSome

/-- OBJECT_FREE.
Log entry 220, DESIGN CHOICE. -/
def execObjectFree (q : QId) (handle : U32) (s : State) : Host.Outcome State Fault Refusal :=
  s.whenCtx q (.objectFree handle) (fun qk e c _ s =>
    match s.ownObj c e.ts handle with
    | none => s.ctxFault c .handle (some (qk, e.sub))
    | some (key, o) =>
      if o.inSet.isSome || s.trainPinned key || s.isBase o then s.complete qk e.sub (Done.req .bounds)
      else if o.draining.isSome then s.complete qk e.sub (Done.okay 0 0)
      else if s.namedBefore c s.ts key then (s.setObj key { o with draining := some s.ts }).complete qk e.sub (Done.okay 0 0)
      else (s.dropPages key).complete qk e.sub (Done.okay 0 0))

end Sys2Proof.Machine
end

