-- ==== Sys2Proof/Machine/Carousel.lean ====
section
/-! DEFINITION. Re-keying (R285 to R292, R296): REKEY, the Carousel's sweeps over HBM counter blocks and flash pages,
and their ends. -/

namespace Sys2Proof.Machine

/-! ### Sweeps -/

def State.sweep (s : State) (n : Nat) : Option Sweep := s.shroud.sweeps.get n
def State.setSweep (s : State) (n : Nat) (x : Sweep) : State := { s with shroud := { s.shroud with sweeps := s.shroud.sweeps.set n x } }

/-- The sweep on a slot. -/
def State.sweepOf (s : State) (k : Nat) : Option (Nat × Sweep) := s.shroud.sweeps.find? (fun (e : Nat × Sweep) => e.2.slot == k)

/-- HBM frames whose page table entries name a slot, rising. -/
def State.slotFrames (s : State) (k : Nat) : List Nat :=
  (s.objs.flatMap (fun (e : Nat × Obj) => (e.2.pages.filter (fun p => p.tier == 1 && p.keySlot == k)).map Pte.frameNo)).foldl (fun l f => insertNat f l) []

/-- The first counter block of a slot at or past a position (R286). -/
def State.nextBlock (s : State) (k b : Nat) : Option Nat :=
  (s.slotFrames k).findSome? (fun f => if b < 16 * f + 16 then some (max b (16 * f)) else none)

/-- The first flash object of a slot at or past a key.
Log entry 91, DEDUCED. -/
def State.nextFlash (s : State) (k lo : Nat) : Option Nat :=
  (s.objs.find? (fun (e : Nat × Obj) => lo ≤ e.1 && e.2.tier == 2 && e.2.keySlot == k && !e.2.pages.isEmpty)).map (fun e => e.1)

/-- Whether counter block `blk` of page `i` of an object lies below a sweep's boundary, and so is under generation g + 1: over HBM by position (R286), over
flash by object and page, when HBM is behind the sweep (R288, R290). -/
def Sweep.below (x : Sweep) (key i : Nat) (p : Pte) (blk : Nat) : Bool :=
  if x.kind = 1 then p.tier = 1 && 16 * p.frameNo + blk < x.boundary
  else p.tier = 1 || key < x.obj || (key = x.obj && i < x.boundary)

/-- The generation pair in force for a page, and how many of its 16 counter blocks lie below the boundary (R289). -/
def State.sweepBelow (s : State) (key i : Nat) (p : Pte) : (Nat × Nat) × Nat :=
  let g := (s.key p.keySlot).gen
  match s.sweepOf p.keySlot with
  | some (_, x) => ((g, g + 1), ((List.range 16).filter (x.below key i p)).length)
  | none => ((g, g), 0)

/-- Complete the REKEY of a sweep. -/
def State.endRekey (s : State) (x : Sweep) (st : Status) : State :=
  match s.works.get x.work with
  | none => s
  | some w =>
    let s := { s with works := s.works.erase x.work }
    match w.q with
    | some qk => s.complete qk w.sub (Done.req st)
    | none => s

/-- Free flash frames once no read in flight uses them (R290). -/
def State.freeSwept (s : State) (l : List Nat) : State :=
  { s with flash := { s.flash with leaving := s.flash.leaving ++ l } }.settleLeaving

def State.dropSweep (s : State) (n : Nat) : State := { s with shroud := { s.shroud with sweeps := s.shroud.sweeps.erase n } }

/-- A slot with its newest generation alone. -/
def KeySlot.newest (k : KeySlot) : KeySlot := match k.next with
  | some y => { k with key := y, next := none, gen := k.gen + 1 }
  | none => k

/-- A sweep has covered every page: SEC destroys the old generation and REKEY completes. -/
def State.finishSweep (s : State) (n : Nat) (x : Sweep) : State :=
  let k := s.key x.slot
  let s := s.setKey x.slot k.newest
  ((s.freeSwept x.freed).dropSweep n).endRekey x .ok

/-- Where a sweep goes on: its next counter block, then the flash objects of the slot in turn, then its end.
Log entry 91, DEDUCED. -/
def State.onward (s : State) (n : Nat) (x : Sweep) : State :=
  match (if x.kind = 1 then s.nextBlock x.slot x.boundary else none) with
  | some b => s.setSweep n { x with boundary := b, lock := none }
  | none =>
    match s.nextFlash x.slot (if x.kind = 1 then 0 else x.obj + 1) with
    | some o => s.setSweep n { x with kind := 2, boundary := 0, obj := o, lock := none }
    | none => s.finishSweep n x

/-- A sweep stops and pauses; its boundary and both generations remain (R291). -/
def State.pauseSweep (s : State) (n : Nat) (x : Sweep) (st : Status) : State :=
  (s.setSweep n { x with paused := true, lock := none }).endRekey x st

/-- Withdrawing a slot's key ends its sweep, and both generations go (R292). -/
def State.endSweep (s : State) (k : Nat) : State :=
  match s.sweepOf k with
  | none => s
  | some (n, x) => ((s.freeSwept x.freed).dropSweep n).endRekey x .aborted

/-! ### The lock (R286, R287) -/

/-- Whether an access to a counter block is in flight (R286). -/
def State.blockBusy (s : State) (b : Nat) : Bool := s.accs.any (fun (e : Nat × Access) => (s.accLines e.2).any (fun l => l / 64 == b))

/-- Give up every lock: the Carousel holds one at a time. -/
def State.unlock (s : State) : State :=
  { s with shroud := { s.shroud with sweeps := s.shroud.sweeps.map (fun e => (e.1, { e.2 with lock := none })) } }

/-- Lock the block a running sweep comes to next, when no access to it is in flight.
Log entry 91, DEDUCED. -/
def State.lockNext (s : State) (n : Nat) : State :=
  match s.sweep n with
  | none => s
  | some x =>
    match (if x.paused || x.kind != 1 then none else s.nextBlock x.slot x.boundary) with
    | some b => if s.blockBusy b then s else s.unlock.setSweep n { x with lock := some (b, s.ts) }
    | none => s

/-- Count what each access to a block has waited for its lock, at most 1 µs (R287).
Log entry 91, DEDUCED. -/
def State.countLock (s : State) (b since : Nat) : State :=
  s.accs.foldl (fun (s : State) (e : Nat × Access) =>
    if (s.accLines e.2).any (fun l => l / 64 == b) then s.bumpPart? (s.accPart e.2) cCarouselWait (min 1000 (s.ts - max e.2.since since)) else s) s

/-! ### REKEY (R285) -/

/-- Whether a slot may be re-keyed: ACTIVE, granted, not slot 0, and of a memory kind (R285, R458). -/
def State.rekeyOk (s : State) (part : Option Nat) (k : Nat) : Bool := k != 0 && k < 8192 && s.keyOk part k [.memory, .tier]

/-- Sweeps that run. -/
def State.sweepsRunning (s : State) : Nat := (s.shroud.sweeps.filter (fun (e : Nat × Sweep) => !e.2.paused)).length

/-- Whether a REKEY of a slot must wait for a sweep to end: eight run, or none of the eight places is free. -/
def State.rekeyWaits (s : State) (part : Option Nat) (k : Nat) : Bool :=
  s.rekeyOk part k && (match s.sweepOf k with
    | some (_, x) => x.paused && 8 ≤ s.sweepsRunning
    | none => 8 ≤ s.shroud.sweeps.length)

/-- REKEY: a new generation beside the current one, and a sweep that covers every page of the slot; or a paused sweep
goes on at its boundary. -/
def execRekey (q : QId) (slot : U16) (s : State) : Host.Outcome State Fault Refusal :=
  if s.rekeyWaits (s.queuePart (qKey q)) slot.toNat then .next s
  else
    s.whenCtx q (.rekey slot) (fun qk e c x s =>
      let k := slot.toNat
      if !s.rekeyOk x.part k then s.ctxFault c .key (some (qk, e.sub))
      else
        let w := mkWork qk e (some c) x.part (.rekey k) [] s.ts 0
        match s.sweepOf k with
        | some (n, y) =>
          if !y.paused then s.complete qk e.sub (Done.req .bounds)
          else
            let (id, s) := s.startWork w
            (s.setSweep n { y with paused := false, work := id }).lockNext n
        | none =>
          let (i, s) := s.fresh
          let s := s.setKey k { s.key k with next := some (Config.trng i) }
          let (id, s) := s.startWork w
          let n := s.shroud.sweeps.lowestFree 8 0
          (s.onward n ⟨1, false, k, 0, 0, id, [], none⟩).lockNext n)

/-! ### Steps of a sweep -/

/-- Lines of a counter block. -/
def blockLines (b : Nat) : List Nat := (List.range 64).map (fun i => 64 * b + i)

/-- The partition that a frame is charged to. -/
def State.framePart (s : State) (f : Nat) : Option Nat := ((s.hbmUsed.get f).bind (fun k => s.objs.get k)).bind (fun o => o.part)

/-- The written lines of a counter block. -/
def Shroud.written (h : Shroud) (b : Nat) : List Nat := ((h.block b).minors.filter (fun (e : Nat × Nat) => e.2 != 0)).map (fun (e : Nat × Nat) => 64 * b + e.1)

/-- The block a sweep holds goes to the new generation: a line that fails verification is carried over poisoned and counted, and the boundary moves past it. -/
def State.sweepBlock (s : State) (n : Nat) (x : Sweep) (b : Nat) (badLines : List Nat) : State :=
  let s := { s with shroud := s.shroud.loadLines (s.shroud.written b) }
  let bad := (s.shroud.written b).filter (fun l => badLines.contains (l % 64) || s.shroud.lineBad l)
  let s := { s with shroud := s.shroud.poisonLines bad }.bumpPart? (s.framePart (b / 16)) cPoisoned bad.length
  s.onward n { x with boundary := b + 1 }

/-- CAROUSEL_BLOCK: the next counter block goes to the new generation once the Carousel has it locked, and the block after it is locked. A block or node above
it that fails twice (`unverifiable` gives its height), or has failed before, pauses the sweep (R281, R291). The Carousel's budget charges a step one unit
(R446). A REKEY ended by an abort pauses it too (R421).
Log entry 91, DEDUCED. -/
def execCarouselBlock (sweep : Fin 8) (badLines : List Nat) (unverifiable : Option Nat) (s : State) : Host.Outcome State Fault Refusal :=
  let n := sweep.val
  match s.sweep n with
  | none => .next s
  | some x =>
    if x.paused || x.kind != 1 then .next s
    else if !s.works.has x.work then .next (s.pauseSweep n x .aborted)
    else
      match s.nextBlock x.slot x.boundary with
      | none => .next (s.onward n x)
      | some b =>
        let held := x.lock.any (fun y => y.1 == b)
        if !held && s.blockBusy b then .next s
        else if !s.budgetRailOk 80 then .next (s.devFault .parity none)
        else if !s.budgetLeft 80 then .next s
        else s.whenRails (fun s =>
          let s := (s.spend 80 1).settleMeta (blockLines b)
          match s.nodeOf [64 * b] (unverifiable.map (fun h => (0, h))) with
          | some f => .next ((s.nodeFails f.1 f.2).pauseSweep n x .integrity)
          | none =>
            if s.shroud.blockLost b then .next (s.pauseSweep n x .integrity)
            else
              let s := (match x.lock with
                | some y => if held then s.countLock b y.2 else s
                | none => s)
              .next ((s.sweepBlock n x b badLines).lockNext n))

/-- A mark for frames a sweep has left, which belong to no object. -/
def sweptKey : Nat := 2 ^ 41

/-- The sweep has covered a page of the object: the boundary moves on, and with the last page the object's new flash major is its own. -/
def State.sweptPage (s : State) (n : Nat) (x : Sweep) (o : Obj) : State :=
  let x := { x with boundary := x.boundary + 1 }
  if x.boundary < o.pages.length then s.setSweep n x
  else
    let s := (match s.objs.get x.obj with
      | some o => s.setObj x.obj { o with major := o.nextMajor.getD o.major, nextMajor := none }
      | none => s)
    s.onward n x

/-- Move the page at a flash sweep's boundary to a fresh frame; reads in flight still use the old one. -/
def State.sweepPage (s : State) (n : Nat) (x : Sweep) (o : Obj) (dst : Nat) : State :=
  let src := (o.pte x.boundary).frameNo
  let s := s.moveFrame src dst
  let s := { s with flash := { s.flash with dead := removeNat src s.flash.dead, used := s.flash.used.set src sweptKey } }
  s.sweptPage n { x with freed := x.freed ++ [src] } o

/-- Draw an object's new flash major with its first page (R290). -/
def State.drawMajor (s : State) (x : Sweep) (o : Obj) : State :=
  if x.boundary != 0 || o.nextMajor.isSome then s
  else
    let h := s.shroud.setHwm (s.shroud.hwm + 1)
    { s with shroud := h }.setObj x.obj { o with nextMajor := some h.hwm }

/-- CAROUSEL_FLASH_PAGE: the next page of the object at hand goes to a fresh frame; one that holds nothing yet is left where it is. A read or write that
fails, a line that fails, or a region with no frame left pauses the sweep (R290, R291). -/
def execCarouselFlashPage (sweep : Fin 8) (pick : Nat) (failed : Option Status) (s : State) : Host.Outcome State Fault Refusal :=
  let n := sweep.val
  match s.sweep n with
  | none => .next s
  | some x =>
    if x.paused || x.kind != 2 then .next s
    else if !s.works.has x.work then .next (s.pauseSweep n x .aborted)
    else if !s.budgetRailOk 80 then .next (s.devFault .parity none)
    else if !s.budgetLeft 80 then .next s
    else
      let s := s.spend 80 16
      match s.objs.get x.obj, failed with
      | none, _ => .next (s.onward n x)
      | some _, some st => .next (s.pauseSweep n x (if st == .integrity then .integrity else .tierFail))
      | some o, none =>
        let p := o.pte x.boundary
        if s.shroud.badFlash.any (fun l => l / 1024 == p.frameNo) then .next (s.pauseSweep n x .integrity)
        else s.whenRails (fun s =>
          if p.st != .written && p.st != .sealedPg then .next ((s.drawMajor x o).sweptPage n x o)
          else
            match s.pickFlash (regionTag o.kind o.part) 1 [pick] with
            | none => .next (s.pauseSweep n x .tierFail)
            | some (fs, s) => .next ((s.drawMajor x o).sweepPage n x o (fs.headD 0)))

end Sys2Proof.Machine
end

