-- ==== Sys2Proof/Machine/Snaps.lean ====
section
/-! DEFINITION. Flash snapshots (R258, R289, R323, R509 to R514): their start, the copies, the seal, and retention. -/

namespace Sys2Proof.Machine

/-! ### Registers of the NET block (R523) -/

def rSnapCtrl : Nat := 0x6018
def rSnapLast : Nat := 0x6020
def rSnapTs : Nat := 0x6028
def cSnapSkipped : Nat := 0x6030
def rRestore : Nat := 0x6038
def rRestoreMap : Nat := 0x6040
def cStepback : Nat := 0x6048

def State.preg (s : State) (p off d : Nat) : Nat := (s.part p).regs.getD off d
def State.setPreg (s : State) (p off v : Nat) : State := s.setPart p { s.part p with regs := (s.part p).regs.set off v }

/-- NET_SNAP_CTRL: snapshots retained, and commits between automatic ones. -/
def State.snapCtrl (s : State) (p : Nat) : Nat := s.preg p rSnapCtrl 0x10040
def State.snapKeep (s : State) (p : Nat) : Nat := bitsOf (s.snapCtrl p) 16 4 + 1
def State.snapInterval (s : State) (p : Nat) : Nat := bitsOf (s.snapCtrl p) 0 16

/-! ### Which pages (R510, R513, R323) -/

/-- The pages of an object a snapshot covers: those of the committed half, with their logical numbers. -/
def Obj.snapIdx (o : Obj) : List Nat := (List.range o.logPages).map o.phys

/-- The copy of a page that the latest retained snapshot holding it has (R510). -/
def Net.copyOf (n : Net) (key gen i : Nat) : Option SnapPage :=
  n.snaps.reverse.findSome? (fun x =>
    if (x.view.objs.get key).map (fun o => o.gen) = some gen then x.pages.find? (fun y => y.obj == key && y.page == i) else none)

/-- Pages to copy, and pages whose earlier copy serves. A ZERO page needs neither: it is restored as ZERO (log entry 47, DEDUCED). -/
def State.snapPlan (s : State) (p : Nat) : List (Nat × Nat) × List SnapPage :=
  (s.handled p (fun o => o.snapshot)).foldl (fun acc e => e.2.snapIdx.foldl (fun acc i =>
    let y := e.2.pte i
    if y.st == .zero then acc
    else
      match (if y.sinceSnap then none else (s.net p).copyOf e.1 e.2.gen i) with
      | some c => (acc.1, acc.2 ++ [c])
      | none => (acc.1 ++ [(e.1, i)], acc.2)) acc) ([], [])

/-- Whether an object belongs to a bucket-mode set whose attempt is open, so that its copy has to wait (R323). -/
def State.bucketOpen (s : State) (o : Obj) : Bool :=
  match o.inSet.bind (fun k => s.usets.get k) with
  | some u => u.mode == 1 && u.isOpen
  | none => false

/-- Give pages wp and snap, those of open bucket-mode sets apart. -/
def State.protect (s : State) (l : List (Nat × Nat)) : State :=
  l.foldl (fun s e => match s.objs.get e.1 with
    | some o => if s.bucketOpen o then s else s.setObj e.1 (o.setPte e.2 (((o.pte e.2).withBit 12 true).withBit 11 true))
    | none => s) s

/-- Take snap from a page, and wp with it where a write may follow. -/
def Pte.unprotect (p : Pte) : Pte := let p := p.withBit 11 false; if p.tier = 1 then p.withBit 12 false else p

/-! ### Start (R509, R510) -/

/-- The generators of running RUNs, by tile; those of the update units stand under tile 4,096, by unit. -/
def State.genRecs (s : State) (p : Nat) : List GenRec :=
  (s.runs.filter (fun (e : Nat × Run) => e.2.part == p && e.2.st == .running)).flatMap (fun (e : Nat × Run) =>
    e.2.tiles.map (fun t => ⟨e.2.stream, t, (s.tile t).gens, (s.tile t).draws⟩) ++
    (let us := (s.unitGens.filter (fun (g : Nat × U64 × Nat) => g.1 / 64 == e.1)).map (fun (g : Nat × U64 × Nat) => (g.1 % 64, g.2))
     if us.isEmpty then [] else [⟨e.2.stream, 4096, us.map (fun g => (g.1, g.2.1)), us.map (fun g => (g.1, g.2.2))⟩]))

/-- Pins a partition's contexts hold, by registry slot. -/
def State.pinsOf (s : State) (p : Nat) : List (Nat × Nat) :=
  (s.adpt.cache.filter (fun (e : Nat × CacheEntry) => e.2.part == p && e.2.total != 0)).map (fun (e : Nat × CacheEntry) => (e.2.slot, e.2.total))

/-- Resident copies of a partition's loaded images. -/
def State.bodiesOf (s : State) (p : Nat) : List (Nat × Bytes) :=
  ((s.part p).slots.filter (fun (e : Nat × ImgSlot) => e.2.st == .loaded && hiddenBase ≤ e.2.body)).map (fun (e : Nat × ImgSlot) =>
    (e.1, match s.objs.get e.2.body with
      | some o => s.objRead e.2.body 0 o.bytes
      | none => []))

/-- Start a snapshot: the state is captured, the pages are protected, and a catcher is told. `at_` gives the number and
TS of a snapshot taken on the catcher. -/
def State.startSnap (s : State) (p : Nat) (cmd : Option (Nat × Nat)) (at_ : Option (Nat × Nat)) : State :=
  let n := s.net p
  let no := (at_.map (fun x => x.1)).getD (n.snapNo + 1)
  let ts := (at_.map (fun x => x.2)).getD s.ts
  let (todo, kept) := s.snapPlan p
  let (i, s') := s.fresh
  let x : Snap := ⟨no, ts, s.mirrors p || at_.isSome, at_.isSome, cmd, todo, kept, s.jview p, s.genRecs p, Config.trng i, [],
    (s.part p).sess.sealValue, s.pinsOf p, s.bodiesOf p, false⟩
  let s := s'.setNet p { n with running := some x, snapNo := no }
  let s := if at_.isNone && s.mirrors p then (s.flushJournal p).mirror p mkSnap (leBytes 4 no ++ zeros 4 ++ leBytes 8 ts) else s
  s.protect todo

/-- SNAPSHOT. An operator context has no partition to cover: BOUNDS (log entry 48, DESIGN CHOICE). -/
def execSnapshot (q : QId) (s : State) : Host.Outcome State Fault Refusal :=
  s.whenCtx q .snapshot (fun qk e _ x s =>
    match x.part with
    | none => s.complete qk e.sub (Done.req .bounds)
    | some p => if (s.net p).running.isSome then s.complete qk e.sub (Done.req .bounds) else s.startSnap p (some (qk, e.sub)) none)

/-- The automatic start at a commit: the lowest-numbered set's, at a multiple of the interval. -/
def State.autoSnap (s : State) (k epoch : Nat) : State :=
  let p := k / 16
  let n := s.snapInterval p
  let lowest := (s.usets.find? (fun (e : Nat × USet) => e.1 / 16 == p)).map (fun (e : Nat × USet) => e.1)
  if n = 0 || epoch % n != 0 || lowest != some k || (s.net p).st == .catching then s
  else if (s.net p).running.isSome then s.bumpPart p cSnapSkipped 1
  else s.startSnap p none none

/-! ### Ends (R512, R514) -/

/-- A mark for frames that hold snapshots. -/
def snapKey : Nat := 2 ^ 40

/-- Release SNAPSHOT frames. -/
def State.freeSnap (s : State) (l : List Nat) : State := s.freeSwept l

/-- Note the end of a snapshot, and complete its command. -/
def State.snapEnded (s : State) (p : Nat) (x : Snap) (st : Status) : State :=
  let s := (s.setPreg p rSnapLast (x.number * 2 ^ 32 + statusCode st * 2 ^ 24)).setPreg p rSnapTs x.ts
  match x.cmd with
  | some (q, sub) => s.complete q sub ⟨st, .request, x.number, 0, 0, 0, none⟩
  | none => s

/-- A snapshot fails: snap goes from every page, the frames it wrote are released, and its pages count as written
since the snapshot before it. -/
def State.failSnap (s : State) (p : Nat) (x : Snap) (st : Status) : State :=
  let s := s.setNet p { s.net p with running := none }
  let s := x.todo.foldl (fun s e => match s.objs.get e.1 with
    | some o => if (o.pte e.2).snap then s.setObj e.1 (o.setPte e.2 (o.pte e.2).unprotect) else s
    | none => s) s
  let own := x.pages.filter (fun y => y.holder == x.number)
  let s := own.foldl (fun s y => match s.objs.get y.obj with
    | some o => s.setObj y.obj (o.setPte y.page { o.pte y.page with sinceSnap := true })
    | none => s) s
  (s.freeSnap (own.map (fun y => y.frame))).snapEnded p x st

/-- Whether the command a snapshot runs for has ended by an abort (R421).
Log entry 92, DEDUCED. -/
def State.snapOrphan (s : State) (x : Snap) : Bool :=
  match x.cmd with
  | some (q, sub) => !(match s.queues.get q with
    | some qu => qu.fetched.any (fun e => e.sub == sub)
    | none => false)
  | none => false

/-! ### Copies (R258, R289, R510, R511) -/

/-- Pages a waiting write covers. -/
def State.waitedPages (s : State) : List (Nat × Nat) :=
  (s.accs.filter (fun (e : Nat × Access) => e.2.kind == .hbmWrite)).flatMap (fun (e : Nat × Access) => match s.objs.get e.2.obj with
    | some o => ((cutPages e.2.off e.2.len).flatMap (fun r => o.physW (r.1 / pageBytes))).map (fun i => (e.2.obj, i))
    | none => [])

/-- Pages an update unit waits to write. -/
def State.unitWaits (s : State) (p : Nat) : List (Nat × Nat) :=
  (s.usets.filter (fun (e : Nat × USet) => e.1 / 16 == p && e.2.isOpen)).flatMap (fun (e : Nat × USet) =>
    match e.2.staging with
    | [] => []
    | b :: _ => (match e.2.descs[b.desc]? with
      | none => []
      | some d =>
        let r := (s.recipe p d.recipe).getD (fykorRecipe 0)
        (match s.objs.get d.obj with
         | none => []
         | some o => (d.blocksIn b.first b.gs.length).flatMap (fun y => ((d.blockRanges r y.1 y.2).flatMap (fun z => cutPages z.1 z.2)).map (fun z =>
             (d.obj, o.halfPage e.2.pend (z.1 / pageBytes)))))))

/-- The page to copy next: one that a write waits on, else the first in order. -/
def State.nextSnapPage (s : State) (p : Nat) (x : Snap) : Option (Nat × Nat) :=
  let ready := x.todo.filter (fun e => match s.objs.get e.1 with
    | some o => (o.pte e.2).snap
    | none => true)
  let waited := s.waitedPages ++ s.unitWaits p
  match ready.find? (fun e => waited.contains e) with
  | some e => some e
  | none => ready.head?

/-- The segments of a partition's SNAPSHOT region. -/
def State.regionSegs (s : State) (p : Nat) : List Nat := (s.flash.owner.filter (fun (e : Nat × Nat) => e.2 == regionTag 4 (some p))).map (fun (e : Nat × Nat) => e.1)

/-- Whether anything has been written in a segment since its last erase. -/
def State.segWritten (s : State) (g : Nat) : Bool := (segFrames g).any (fun f => s.flash.used.has f || s.flash.dead.contains f)

/-- Of a region's segments, the free one with the lowest erase count, lower numbers first (R258). -/
def State.freshSegment (s : State) (segs : List Nat) : Option Nat :=
  ((segs.filter (fun g => !s.segWritten g)).foldl (fun (b : Option (Nat × Nat)) g =>
    let n := s.flash.eraseCount g
    match b with
    | none => some (n, g)
    | some y => if n < y.1 then some (n, g) else some y) none).map (fun y => y.2)

/-- The next SNAPSHOT frame: of the segment being filled, else the first of a free segment of the region. -/
def State.snapFrame (s : State) (p : Nat) : Option Nat :=
  let segs := s.regionSegs p
  match (segs.filter s.segWritten).findSome? (fun g => (segFrames g).find? (fun f => !s.flash.used.has f && !s.flash.dead.contains f)) with
  | some f => some f
  | none => (s.freshSegment segs).bind (fun g => (segFrames g).head?)

/-- The lines of an HBM page. -/
def Pte.lines (p : Pte) : List Nat := if p.tier = 1 then (List.range 1024).map (fun l => p.frameNo * 1024 + l) else []

/-- Copy one page: the record carries its entry, key slot, generation pair and boundary (R289). -/
def State.snapCopyPage (s : State) (p : Nat) (x : Snap) (e : Nat × Nat) (o : Obj) (f : Nat) : State :=
  let y := o.pte e.2
  let (g, b) := s.sweepBelow e.1 e.2 y
  let bytes := s.pageRead y 0 pageBytes
  let s := { s with flash := { s.flash with
    mem := (s.flash.mem.clear (f * pageBytes) pageBytes).writes (f * pageBytes) bytes, used := s.flash.used.set f (snapKey + 2 ^ 32 * p + x.number) } }
  let s := s.setObj e.1 (o.setPte e.2 { y.unprotect with sinceSnap := false })
  let pg : SnapPage := ⟨e.1, e.2, if o.paired then e.2 / 2 else e.2, f, x.number, y.unprotect, y.keySlot, g, b⟩
  s.setNet p { s.net p with running := some { x with todo := x.todo.erase e, pages := x.pages ++ [pg], again := false } }

/-- A page of HBM is read a second time after a media failure, which is counted, or a tag that fails (R241, R278); any other failure ends the snapshot.
Log entry 92, DEDUCED. -/
def State.snapFailed (s : State) (p : Nat) (x : Snap) (y : Pte) (st : Status) : State :=
  if y.tier = 1 && !x.again then
    let s := if st == .integrity then s else s.bumpPart p cHbmRetry 1
    s.setNet p { s.net p with running := some { x with again := true } }
  else (if y.tier = 1 && st == .integrity then s.bumpPart p cTagFail 1 else s).failSnap p x st

/-- SNAP_PAGE_COPY: `failed` is a read or write failure of the media. The read waits for a block that is locked (R287, R289).
Log entry 92, DEDUCED. -/
def execSnapPageCopy (p : Part) (failed : Option Status) (s : State) : Host.Outcome State Fault Refusal :=
  match (s.net p.val).running with
  | none => .next s
  | some x =>
    if s.snapOrphan x then .next (s.failSnap p.val x .aborted)
    else
      let s := s.protect (x.todo.filter (fun e => match s.objs.get e.1 with
        | some o => !(o.pte e.2).snap
        | none => false))
      match s.nextSnapPage p.val x with
      | none => .next (match failed with
        | some st => s.failSnap p.val x st
        | none => s)
      | some e =>
        match s.objs.get e.1 with
        | none => .next (s.setNet p.val { s.net p.val with running := some { x with todo := x.todo.erase e } })
        | some o =>
          let y := o.pte e.2
          if s.lockedFor y.lines then .next s
          else
            match failed, y.readVerdict with
            | some st, _ => .next (s.snapFailed p.val x y st)
            | none, .bad st .partition => .next (s.partFault p.val st none)
            | none, .bad st _ => .next (s.failSnap p.val x st)
            | none, _ => s.whenRails (fun s =>
              let s := (s.settleMeta y.lines).useMeta (some p.val) y.lines
              let bad := if y.tier = 1 then s.shroud.badLines y.frameNo 0 pageBytes else (s.shroud.badFlash.filter (fun l => l / 1024 == y.frameNo))
              if !s.keyServes e.1 then .next (s.failSnap p.val x .key)
              else if !bad.isEmpty then .next ((s.bumpPart p.val cTagFail bad.length).failSnap p.val x .integrity)
              else
                match s.snapFrame p.val with
                | none => .next (s.failSnap p.val x .bounds)
                | some f => if !s.budgetRailOk 81 then .next (s.devFault .parity none) else .next (if s.budgetLeft 81 then (s.spend 81 16).snapCopyPage p.val x e o f else s))

/-! ### The seal (R510, R511, R514) -/

/-- Frames that retained snapshots refer to. -/
def snapFrames (l : List Snap) : List Nat := l.flatMap (fun x => x.pages.map (fun y => y.frame))

/-- Release the oldest snapshots beyond the count retained. -/
def State.retain (s : State) (p : Nat) : State :=
  let n := s.net p
  let keep := n.snaps.drop (n.snaps.length - s.snapKeep p)
  let gone := (snapFrames n.snaps).eraseDups.filter (fun f => !(snapFrames keep).contains f)
  (s.setNet p { n with snaps := keep }).freeSnap gone

/-- SNAPSHOT_SEAL: once every page is copied, the manifest and the seal record are written. The manifest wraps each
source slot's newest generation; its bytes are not laid out here (log entry 49, DESIGN CHOICE). -/
def execSnapshotSeal (p : Part) (failed : Option Status) (s : State) : Host.Outcome State Fault Refusal :=
  match (s.net p.val).running with
  | none => .next s
  | some x =>
    if s.snapOrphan x then .next (s.failSnap p.val x .aborted)
    else
      match failed with
      | some st => .next (s.failSnap p.val x st)
      | none =>
        if !x.todo.isEmpty then .next s
        else
          let x := { x with keys := ((x.pages.map (fun y => y.slot)).eraseDups).map (fun k => (k, (s.key k).newest)) }
          let n := s.net p.val
          let s := (s.setNet p.val { n with running := none, snaps := n.snaps ++ [x] }).retain p.val
          .next (s.snapEnded p.val x .ok)

end Sys2Proof.Machine
end

