-- ==== Sys2Proof/Machine/Troupe.lean ====
section
/-! DEFINITION. The troupe table and the groups as the host sets them (R353 to R355, R366 to R372): TROUPE_SET,
GROUP_SET, GROUP_CLEAR and GROUP_JOIN. The messages by which a head passes a table to its members, and by which a
join reaches the other members, are not given (log entry 51, DESIGN CHOICE). -/

namespace Sys2Proof.Machine

/-! ### Tables in an object -/

/-- Bytes of an operator's object for an admin command: what refuses the read ends the command. -/
def State.withTable (s : State) (qk sub : Nat) (a : TableArgs) (len : Nat) (f : Bytes → State → State) : State :=
  match s.objOf a.handle with
  | none => s.complete qk sub (Done.req .handle)
  | some (key, o) =>
    let off := a.off.toNat
    if o.part.isSome then s.complete qk sub (Done.req .handle)
    else if o.bytes < off + len then s.complete qk sub (Done.req .bounds)
    else if !s.keyServes key then s.complete qk sub (Done.req .key)
    else
      match o.readVerdict off len with
      | .bad st sc => s.faultAt qk sub st (if sc == .context then .request else sc)
      | _ => if s.rangeBad key off len != 0 then s.complete qk sub (Done.req .integrity) else f (s.objRead key off len) s

/-! ### The checks of a troupe table (R355) -/

def tableBytes : Nat := 64 + 2048 + 64 * 128

def tbIsHead (e : Bytes) : Bool := bitOf (fieldLE e 3 1) 0
def tbPos (e : Bytes) : Nat := fieldLE e 0 1

/-- Ports of a member wired to a position. -/
def tbPortsTo (b : Bytes) (a q : Nat) : Nat := ((List.range 12).filter (fun p => tbWire b a p == q)).length

/-- Counts of R353: members, distinct positions, pairs that name each other, heads, and fields that stand alone. -/
def tableCounts (b : Bytes) : Bool :=
  let es := tbUsed b
  let ps := es.map tbPos
  16 ≤ tbMembers b && tbMembers b ≤ 64 && es.length == tbMembers b && ps.Nodup && ps.all (fun p => p < 64) &&
  reservedZero b 9 55 && 1 ≤ (es.filter tbIsHead).length && (es.filter tbIsHead).length ≤ 8 &&
  es.all (fun e =>
    let p := tbPos e
    let q := fieldLE e 1 1
    let h := fieldLE e 2 1
    fieldLE e 3 1 < 2 && q != p && ps.contains q && tbPair b q == p && 2 ≤ tbPortsTo b p q &&
    (if tbIsHead e then h == p else (match tbAt b h with
      | some x => tbIsHead x
      | none => false)))

/-- Wirings agree at both ends: as many ports each way, to members; the ports a member has to itself join in pairs (R328, R355).
Log entry 221, DEDUCED. -/
def tableWires (b : Bytes) : Bool :=
  let ps := (tbUsed b).map tbPos
  ps.all (fun a => (List.range 12).all (fun p =>
    let q := tbWire b a p
    q == 0xFF || (ps.contains q && tbPortsTo b a q == tbPortsTo b q a && (q != a || tbPortsTo b a a % 2 == 0))))

/-- Route entries are well formed: ports in range, the own entry 0xF. -/
def tableRoutes (b : Bytes) : Bool :=
  let ps := (tbUsed b).map tbPos
  ps.all (fun a => ps.all (fun d =>
    let r := tbRoute b a d
    r % 128 == 0 && rtValid r && (if a = d then rtPrimary r == 15 else rtPrimary r < 12) && (rtAlternate r < 12 || rtAlternate r == 15)))

/-- Hops from a position to another through primary entries; none when it is not reached. -/
def tbHops (b : Bytes) (d : Nat) : (fuel a : Nat) → Option Nat
  | 0, _ => none
  | k + 1, a =>
    if a = d then some 0
    else
      let q := tbWire b a (rtPrimary (tbRoute b a d))
      if (tbAt b q).isNone then none else (tbHops b d k q).map (fun n => n + 1)

def tableReach (b : Bytes) : Bool :=
  let ps := (tbUsed b).map tbPos
  ps.all (fun a => ps.all (fun d => (tbHops b d 65 a).isSome))

/-- The channels a destination's flits may leave a position by. -/
def tbOuts (b : Bytes) (a d : Nat) : List (Nat × Nat) :=
  if a = d then []
  else
    let r := tbRoute b a d
    ([rtPrimary r, rtAlternate r].filter (fun p => p < 12)).map (fun p => (a, p))

/-- Dependencies between channels, over primary and alternate entries together. Every class routes alike. -/
def tbDeps (b : Bytes) : List ((Nat × Nat) × (Nat × Nat)) :=
  let ps := (tbUsed b).map tbPos
  (ps.flatMap (fun d => ps.flatMap (fun a => (tbOuts b a d).flatMap (fun c => (tbOuts b (tbWire b c.1 c.2) d).map (fun e => (c, e)))))).eraseDups

/-- Drop, round by round, dependencies on channels that depend on nothing; a cycle never goes. -/
def acyclic : (fuel : Nat) → List ((Nat × Nat) × (Nat × Nat)) → Bool
  | 0, l => l.isEmpty
  | k + 1, l =>
    if l.isEmpty then true
    else acyclic k (l.filter (fun e => l.any (fun f => f.1 == e.2)))

/-- The depth of the time tree: hops to the lowest position (R358). -/
def tableDepth (b : Bytes) : Bool :=
  let ps := (tbUsed b).map tbPos
  let m := ps.foldl min 255
  ps.all (fun a => match tbHops b m 65 a with
    | some n => n ≤ 4
    | none => false)

def troupeOk (b : Bytes) : Bool :=
  tableCounts b && tableWires b && tableRoutes b && tableReach b && acyclic 769 (tbDeps b) && tableDepth b

/-- Bytes 0 to 15 of the digest of this device's identity certificate (R354). -/
def ownIdentity : Bytes := (sha384 Config.rsaLeaf).take 16

/-- Put a table in force: this device takes the position of its identity, and each device serves its own position
(R493). -/
def State.installTroupe (s : State) (b : Bytes) : State :=
  let at_ := ((tbUsed b).find? (fun e => (e.drop 16).take 16 == ownIdentity)).map tbPos
  let m := ((tbUsed b).map tbPos).foldl min 255
  let again (x : RPort) : RPort := if x.st == .authFail || x.st == .masked then { x with st := .down, falls := [] } else x
  let s := s.setRig { s.rig with ports := s.rig.ports.map (fun (e : Nat × RPort) => (e.1, again e.2)) }
  s.setRig { s.rig with troupe := b, pos := at_, placed := at_, lost := [], noRoute := [], serving := [], master := m,
                        parent := at_.bind (fun a => if a = m then none else some (rtPrimary (tbRoute b a m))), depth := (at_.bind (fun a => tbHops b m 65 a)).getD 0 }

/-- TROUPE_SET.
Log entry 51, DESIGN CHOICE. -/
def execTroupeSet (q : QId) (a : TableArgs) (s : State) : Host.Outcome State Fault Refusal :=
  s.whenAdmin q (.troupeSet a) (fun qk e s =>
    s.withTable qk e.sub a tableBytes (fun b s =>
      if troupeOk b then (s.installTroupe b).complete qk e.sub (Done.okay 0 0) else s.complete qk e.sub (Done.req .malformed)))

/-! ### The checks of a group entry (R366 to R369) -/

def entryBytes : Nat := 6208

/-- Whether a member's chain of parents reaches the root of a tree. -/
def treeReaches (b : Bytes) (t : Nat) : (fuel m : Nat) → Bool
  | 0, _ => false
  | k + 1, m => m == geRoot b t || (geParent b t m < geCount b && treeReaches b t k (geParent b t m))

/-- Whether an entry's trees have their roots and reach them. -/
def treesOk (b : Bytes) : Bool :=
  let n := geCount b
  (List.range 64).all (fun t => (List.range 64).all (fun m =>
    if t < n && m < n then (if m = geRoot b t then geParent b t m == 0xFF else treeReaches b t 65 m) else geParent b t m == 0))

/-- Whether the reserved fields of a group entry are zero (R11, R367). -/
def entryClean (b : Bytes) : Bool :=
  fieldLE b 2 1 < 2 && reservedZero b 6 2 && reservedZero b 0x10 48 && (List.range 64).all (fun m => reservedZero b (0x42 + 32 * m) 14)

/-- Whether a group entry passes LINK's checks; `last` is the generation last set for the group. -/
def State.entryOk (s : State) (b : Bytes) (last : Option Nat) : Bool :=
  let n := geCount b
  let pairs := (List.range n).map (fun m => (gePos b m, gePart b m))
  let g := fieldLE b 0 1
  2 ≤ n && n ≤ 64 && pairs.Nodup && pairs.all (fun p => (tbAt s.rig.troupe p.1).isSome && p.2 < 16) &&
  pairs.all (fun p => !s.rig.serves p.1 ||
    (s.groups.filter (fun (e : Nat × Group) => e.1 != g && e.2.st != .empty && (s.memberOf e.2 p.2).isSome)).length < 16) &&
  entryClean b && (List.range 64).all (fun m => reservedZero b (0x50 + 32 * m) 16 && (m < n || reservedZero b (0x40 + 32 * m) 2)) &&
  (match last with
   | some l => l < geGen b
   | none => true) && 100 ≤ geWait b && geWait b ≤ 100000 && geWire b ≤ 2 &&
  (if geIsCommons b then geCommons b < n && 2 ≤ geMin b && geMin b ≤ 16 && geMin b ≤ n - 1 else geCommons b == 0xFF && geMin b == 0) &&
  treesOk b

/-- The generation last set for a group; none before the first. -/
def State.lastGen (s : State) (g : Nat) : Option Nat := (s.groups.get g).map (fun x => x.gen)

/-- Whether an entry names this device, or the flyer it is the catcher of: a catcher keeps the entry its takeover rejoins
(R507). -/
def State.namesPair (s : State) (x : Group) : Bool :=
  !(s.locals x).isEmpty || (match s.pairOf with
    | some (f, c) => (List.range x.n).any (fun m => gePos x.entry m == f || gePos x.entry m == c)
    | none => false)

/-- Put an entry in force: an ACTIVE group is aborted first, and no member is joined. A device the entry does not concern keeps
the generation alone.
Log entry 109, DEDUCED. -/
def State.installGroup (s : State) (b : Bytes) : State :=
  let g := fieldLE b 0 1
  let s := s.abortGroup g .other
  let x : Group := { Group.reset with st := .joining, entry := b, gen := geGen b }
  s.setGroup g (if s.namesPair x then x else { Group.reset with gen := geGen b })

/-- GROUP_SET. -/
def execGroupSet (q : QId) (a : TableArgs) (s : State) : Host.Outcome State Fault Refusal :=
  s.whenAdmin q (.groupSet a) (fun qk e s =>
    s.withTable qk e.sub a entryBytes (fun b s =>
      if s.entryOk b (s.lastGen (fieldLE b 0 1)) then (s.installGroup b).complete qk e.sub (Done.okay 0 0)
      else s.complete qk e.sub (Done.req .malformed)))

/-- GROUP_CLEAR: the entry's first byte names the group; a reserved field that is not zero makes the entry MALFORMED. -/
def execGroupClear (q : QId) (a : TableArgs) (s : State) : Host.Outcome State Fault Refusal :=
  s.whenAdmin q (.groupClear a) (fun qk e s =>
    s.withTable qk e.sub a entryBytes (fun b s =>
      if !entryClean b then s.complete qk e.sub (Done.req .malformed) else
      let g := fieldLE b 0 1
      let s := s.abortGroup g .other
      let s := if s.groups.has g then s.setGroup g { Group.reset with gen := (s.group g).gen } else s
      s.complete qk e.sub (Done.okay 0 0)))

/-! ### Joining (R371, R372) -/

/-- How a join ends: a status and its scope, or the state it leaves. An EMPTY group has no entry to name a pair or to take a digest of. -/
def State.tryJoin (s : State) (p gi m gen owner : Nat) (digest : Bytes) : Except (Status × Scope) State :=
  let g := s.group gi
  let mine := m < g.n && s.rig.serves (gePos g.entry m) && gePart g.entry m == p
  match govern (failIf (g.st != .empty && !mine) .handle ++ failIf (owner == 0) .malformed) with
  | some st => .error (st, .context)
  | none =>
    match govern (failIf (g.st != .joining || g.gen != gen || g.owners.has m) .stale ++
        failIf (g.st != .empty && (sha384 g.entry).take 16 != digest) .digestMismatch) with
    | some st => .error (st, .request)
    | none =>
      let s := s.remoteJoins gi
      let g := s.group gi
      if g.joinShort m owner then .error (.bounds, .request) else .ok (s.setGroup gi (g.join m owner))

/-- GROUP_JOIN. -/
def execGroupJoin (q : QId) (a : JoinArgs) (s : State) : Host.Outcome State Fault Refusal :=
  s.whenCtx q (.groupJoin a) (fun qk e c x s =>
    match x.part with
    | none => s.ctxFault c .handle (some (qk, e.sub))
    | some p =>
      match s.tryJoin p a.group.toNat a.member.toNat a.generation.toNat a.owner.toNat (leBytes 16 a.digest.toNat) with
      | .error (st, .context) => s.ctxFault c st (some (qk, e.sub))
      | .error (st, _) => s.complete qk e.sub (Done.req st)
      | .ok s => s.complete qk e.sub (Done.okay 0 0))

/-- A partition's members leave their groups: an ACTIVE group is aborted, and the member is no longer joined (R370,
R385). -/
def State.leaveGroups (s : State) (p : Nat) : State :=
  s.groups.foldl (fun s (e : Nat × Group) => match s.memberOf e.2 p with
    | none => s
    | some m =>
      if e.2.owners.has m then
        let x := s.group e.1
        let s := if x.st == .active then (s.setGroup e.1 { x with st := .aborting, cause := some .other, owners := x.owners.erase m }).settleGroups
          else s.setGroup e.1 { x with owners := x.owners.erase m }
        s
      else s) s

end Sys2Proof.Machine
end

