-- ==== Sys2Proof/Machine/Restore.lean ====
section
/-! DEFINITION. Restores and replays (R515 to R518, R535): RESTORE_GO, RESTORE_DONE and REPLAY_ARM. -/

namespace Sys2Proof.Machine

/-! ### RESTORE_GO (R515) -/

/-- The snapshot a number names. -/
def Net.snap (n : Net) (no : Nat) : Option Snap := n.snaps.find? (fun x => x.number == no)

/-- Objects and events a snapshot restores, which the map lists. -/
def Snap.entries (x : Snap) : Nat := (x.view.objs.filter (fun (e : Nat × Obj) => e.2.snapshot)).length + x.view.events.length

/-- Whether a context owns nothing but the object that receives the map (log entry 53, DEDUCED). -/
def State.bareCtx (s : State) (p c map : Nat) : Bool :=
  !s.objs.any (fun (e : Nat × Obj) => e.2.owner == some c && e.1 != map) && !s.events.any (fun (e : Nat × Event) => e.2.owner == c) &&
  !(s.part p).slots.any (fun (e : Nat × ImgSlot) => e.2.owner == c) && !s.adpt.cache.any (fun (e : Nat × CacheEntry) => e.2.pins.has c) &&
  !s.usets.any (fun (e : Nat × USet) => e.2.ctx == c)

/-- The object that receives the map: one of the restoring context in HBM, large enough to hold it. -/
def State.mapObj (s : State) (p c : Nat) (x : Snap) : Option Nat :=
  match s.objOf (BitVec.ofNat 32 (s.preg p rRestoreMap 0)) with
  | some (k, o) => if o.owner == some c && 16 * x.entries ≤ o.bytes && o.tier == 1 then some k else none
  | none => none

/-- The restoring context, when the partition meets the conditions of a restore. -/
def State.restorer (s : State) (p : Nat) : Option Nat :=
  match s.ctxsOf (some p), (s.net p).snap (s.preg p rRestore 0 / 2 ^ 32) with
  | [c], some x => (match s.mapObj p c x with
    | some key => if (s.part p).sess.st == .bound && (s.net p).st != .catching && s.bareCtx p c key then some c else none
    | none => none)
  | _, _ => none

/-- NET_RESTORE with a state and status. -/
def State.setRestore (s : State) (p st code : Nat) : State :=
  s.setPreg p rRestore (s.preg p rRestore 0 / 2 ^ 32 * 2 ^ 32 + st * 256 + code)

/-- RESTORE_GO: a write of NET_RESTORE.go. A restore that may not start ends with BOUNDS. -/
def execRestoreGo (p : Part) (s : State) : Host.Outcome State Fault Refusal :=
  if (s.net p.val).restore.isSome then .next s
  else
    match s.restorer p.val with
    | none => .next (s.setRestore p.val 2 (statusCode .bounds))
    | some c =>
      let s := match s.ctxs.get c with
        | some x => s.setCtx c { x with restoring := true }
        | none => s
      let s := s.setNet p.val { s.net p.val with restore := some ⟨s.preg p.val rRestore 0 / 2 ^ 32, c⟩ }
      .next (s.setRestore p.val 1 0)

/-! ### Step 2: source slots (R516, R459) -/

/-- Whether a snapshot's slot is refused: withdrawn in this session after the snapshot, or not of this session's range. -/
def State.slotRefused (s : State) (p ts k : Nat) : Bool :=
  !s.granted p k || (s.key k).st == .held || (match (s.key k).gone with
    | some w => ts < w && (s.key k).st != .active
    | none => false)

/-- Fill an EMPTY slot from its wrapped key. -/
def State.fillSlot (s : State) (p ts : Nat) (e : Nat × KeySlot) : State :=
  if s.slotRefused p ts e.1 || (s.key e.1).st != .empty then s
  else s.setKey e.1 { e.2 with st := .active, valid := 1, validN := 0xFFFFFFFE, gone := none, outCount := 0 }

/-! ### Step 3: objects and pages -/

/-- A free index and generation for an object: the recorded ones where the index is free. -/
def State.restoreIdx (s : State) (key gen : Nat) : Nat × Nat :=
  if !s.objs.has key then (key, gen)
  else let i := s.objs.lowestFree (s.objs.length + 1) 0; (i, s.nextGen i)

/-- Write the pages of a restored object from their copies, or leave them incomplete under a refused slot.
Log entry 93, DEDUCED. -/
def State.restorePages (s : State) (x : Snap) (old new : Nat) (refused : Bool) : State :=
  (x.pages.filter (fun y => y.obj == old)).foldl (fun s y =>
    match s.objs.get new with
    | none => s
    | some o =>
      (o.physW y.logical).foldl (fun s i =>
        if refused then s.markIncomplete new i
        else
          let s := if o.tier = 2 then s.setObj new (o.setPte i ((o.pte i).setSt .filling)) else s
          s.pageWrite new i 0 (s.flash.mem.reads (y.frame * pageBytes) pageBytes) none) s) s

/-- Restore one object: its old and new keys, or none where it does not fit.
Log entry 93, DEDUCED. -/
def State.restoreObj (s : State) (p c : Nat) (x : Snap) (e : Nat × Obj) : Option (Nat × Nat) × State :=
  let (i, g) := s.restoreIdx e.1 e.2.gen
  let n := e.2.pages.length
  let o : Obj := { e.2 with gen := g, owner := some c, draining := none, pages := [], inSet := none }
  let room := if o.tier = 1 then s.hbmRoom p else s.flashRoom p
  if room < n || 2 ^ 20 ≤ i then (none, s)
  else
    match (if o.tier = 1 then s.newHbm i o n [] else s.newFlash i o n []) with
    | none => (none, s)
    | some s =>
      let s := { s with objGens := s.objGens.set i g }
      let s := s.restorePages x e.1 i (s.slotRefused p x.ts o.keySlot)
      let s := (match s.objs.get i with
        | some y => if e.2.isSealed then s.setObj i { y with pages := y.pages.map (fun q => q.sealPage false) } else s
        | none => s)
      (some (e.1, i), s)

/-! ### Steps 4 and 5: events, recipes, sets, registry, images -/

/-- A map from recorded keys to new ones. -/
abbrev KeyMap := List (Nat × Nat)
def KeyMap.at (m : KeyMap) (k : Nat) : Option Nat := (m.find? (fun e => e.1 == k)).map (fun e => e.2)

def State.restoreEvent (s : State) (c : Nat) (e : Nat × Event) : Option (Nat × Nat) × State :=
  match s.events.pickFree 65536 e.1 with
  | none => (none, s)
  | some n => (some (e.1, n), { s with events := s.events.set n { e.2 with owner := c, shown := e.2.value } })

/-- A set with its objects under their new keys; none where one is missing. -/
def State.restoreSet (s : State) (c : Nat) (m : KeyMap) (e : Nat × USet) : Option State :=
  let u := e.2
  let ds := u.descs.filterMap (fun d => (m.at d.obj).map (fun o => { d with obj := o }))
  match m.at (u.hyper.1 % 2 ^ 20), m.at (u.scaleAt.1 % 2 ^ 20) with
  | some h, some sc =>
    if ds.length != u.descs.length || s.usets.has e.1 then none
    else
      let u := { u with ctx := c, run := none, descs := ds, hyper := (s.handleOf h, u.hyper.2), scaleAt := (s.handleOf sc, u.scaleAt.2) }
      let u := u.withState 0
      some (((ds.map (fun d => d.obj)).eraseDups).foldl (fun s i => match s.objs.get i with
        | some o => s.setObj i { o with inSet := some e.1, half := u.half }
        | none => s) (s.setUset e.1 u))
  | _, _ => none

/-- A registry entry that the registry no longer holds returns where its object is there: a TRAINING entry's
restored object, or an adapter's flash object. -/
def State.restoreReg (s : State) (p : Nat) (m : KeyMap) (e : Nat × RegEntry) : State :=
  if s.adpt.reg.has e.1 then s
  else
    let old := e.2.object.toNat % 2 ^ 20
    if e.2.regState = regTraining then
      (match m.at old with
       | some i => s.setReg e.1 { e.2 with object := mkHandle i ((s.objs.get i).map (fun o => o.gen) |>.getD 0), cacheIdx := none }
       | none => s)
    else
      (match s.objs.get old with
       | some o => if o.kind == 2 && o.part == some p && e.2.regState == regPublished then s.setReg e.1 { e.2 with cacheIdx := none } else s
       | none => s)

/-- Pins held return for the restoring context; a published adapter that is not cached loads. -/
def State.restorePin (s : State) (p c : Nat) (e : Nat × Nat) : State :=
  match s.adpt.reg.get e.1 with
  | none => s
  | some r =>
    if r.owner != p then s
    else
      match s.entryOf e.1 with
      | some (i, x) => if x.st == .void then s else s.setCache i { x with pins := x.pins.set c e.2 }
      | none =>
        (match s.makeRoom p (if r.regState = regTraining then 0 else s.adapterPages r) 0 (s.adpt.cache.length + 1) with
         | none => s
         | some s =>
           let i := s.cacheIndex
           let training := r.regState == regTraining
           let s := s.setCache i ⟨if training then .resident else .loading, p, e.1, [(c, e.2)], false, 0, none, [], [], false, false⟩
           let s := s.setReg e.1 { r with cacheIdx := some i }
           if training then s else s.startLoad i)

/-- An image slot returns with its resident copy; none where the copy fails its digest. -/
def State.restoreImage (s : State) (p c : Nat) (x : Snap) (e : Nat × ImgSlot) : Option State :=
  match x.bodies.find? (fun b => b.1 == e.1) with
  | none => some s
  | some (_, body) =>
    if (s.imgSlot p e.1).isSome then some s
    else if sha384 body != e.2.digest then none
    else
      match s.keepBody p e.1 body with
      | none => none
      | some (k, s) =>
        let slot : ImgSlot := { e.2 with st := .loaded, owner := c, load := s.free, body := k, unloadTs := 0, unloadWait := [], loadTs := s.ts }
        let s := (s.fresh).2
        some (s.setPart p { s.part p with slots := (s.part p).slots.set e.1 slot })

/-! ### Step 8: groups (R518) -/

/-- A group of the snapshot: it returns to ACTIVE at its recorded epoch where every member restores the same epoch,
which for members elsewhere is a free value; any other is joined afresh. -/
def State.restoreGroup (s : State) (p : Nat) (e : Member) : Except Status State :=
  let g := s.group e.group
  let (i, s') := s.fresh
  let alike := (s.locals g).length == g.n || (Config.freeWord i).toNat % 2 == 0
  if g.st == .joining && alike && e.owners.length == g.n && gePart g.entry e.member == p && s.rig.serves (gePos g.entry e.member) && (sha384 g.entry).take 16 == e.digest then
    let seqs := (List.range 64).foldl (fun (t : Tbl Nat) l => t.set (64 * e.member + l) (nth0 e.seqs l)) g.seqs
    .ok (s'.setGroup e.group { g with st := .active, epoch := e.epoch, owners := e.owners, seqs := seqs })
  else
    match s'.tryJoin p e.group e.member g.gen e.owner e.digest with
    | .ok s => .ok s
    | .error (_, _) => .error .stale

/-! ### RESTORE_DONE (R516, R517) -/

/-- Fold with a first failure. -/
def keepFirst (a : Option Status) (b : Option Status) : Option Status := match a with
  | some _ => a
  | none => b

/-- Steps 2 to 9 of a restore into a context; the first failure of a step ends what follows, refused slots apart. -/
def State.applyRestore (s : State) (p c : Nat) (x : Snap) (media : Bool) : Option Status × State :=
  let v := x.view
  let refused := x.keys.any (fun e => s.slotRefused p x.ts e.1)
  let s := x.keys.foldl (fun s e => s.fillSlot p x.ts e) s
  if media then (some .tierFail, s)
  else
    let objs := v.objs.filter (fun (e : Nat × Obj) => e.2.snapshot)
    let (m, s) := objs.foldl (fun (a : KeyMap × State) e =>
      let (r, s) := a.2.restoreObj p c x e
      (a.1 ++ r.toList, s)) ([], s)
    if m.length < objs.length then (some .tierFail, s)
    else
      let (em, s) := v.events.foldl (fun (a : KeyMap × State) e =>
        let (r, s) := a.2.restoreEvent c e
        (a.1 ++ r.toList, s)) ([], s)
      if em.length < v.events.length then (some .bounds, s)
      else
        let s := v.recipes.foldl (fun s (e : Nat × Recipe) => { s with recipes := s.recipes.set e.1 e.2 }) s
        let s := v.sets.foldl (fun s (e : Nat × USet) => (s.restoreSet c m e).getD s) s
        let s := v.regs.foldl (fun s (e : Nat × RegEntry) => s.restoreReg p m e) s
        let s := x.pins.foldl (fun s e => s.restorePin p c e) s
        let (bad, s) := v.slots.foldl (fun (a : Bool × State) (e : Nat × ImgSlot) => match a.2.restoreImage p c x e with
          | some s => (a.1, s)
          | none => (true, a.2)) (false, s)
        if bad then (some .digestMismatch, s)
        else
          let seed := (v.ctxs.head?.map (fun (e : Nat × Ctx) => e.2.seed)).getD 0
          let s := match s.ctxs.get c with
            | some y => s.setCtx c { y with seed := seed }
            | none => s
          let l := (s.part p).led
          let s := s.setPart p { s.part p with led := { Ledger.reset with ref := l.ring } }
          let s := (v.cursors.zipIdx).foldl (fun s e => s.setPreg p (netCursor e.2) e.1) s
          let s := s.setNet p { s.net p with gens := x.gens, waitGroups := true }
          let (st, s) := v.groups.foldl (fun (a : Option Status × State) e => match a.2.restoreGroup p e with
            | .ok s => (a.1, s)
            | .error st => (keepFirst a.1 (some st), a.2)) (none, s)
          if st.isSome then (st, s)
          else
            let row (kind : Nat) (e : Nat × Nat) : Bytes := leBytes 1 kind ++ zeros 7 ++ leBytes 4 e.1 ++ leBytes 4 e.2
            let handle (k g : Nat) : Nat := (mkHandle k g).toNat
            let gen (t : Tbl Obj) (k : Nat) : Nat := ((t.get k).map (fun o => o.gen)).getD 0
            let rows := (m.map (fun e => row 1 (handle e.1 (gen v.objs e.1), handle e.2 (gen s.objs e.2)))) ++ em.map (row 2)
            match s.mapObj p c x with
            | none => (some .bounds, s)
            | some k => (if refused then some .key else none, s.objWrite k 0 rows.flatten)

/-- Whether the tag of a line of a snapshot's copies fails.
Log entry 54, DEDUCED. -/
def State.copiesFail (s : State) (x : Snap) : Bool := x.pages.any (fun y => s.shroud.badFlash.any (fun l => l / 1024 == y.frame))

/-- RESTORE_DONE: the restore's steps are carried out and the restore ends. The manifest verifies for a session with
the seal value of the snapshot's; `failed` is what the media answered: INTEGRITY or DIGEST_MISMATCH at the manifest or a page
record, TIER_FAIL at the pages (log entry 54, DEDUCED). -/
def execRestoreDone (p : Part) (failed : Option Status) (s : State) : Host.Outcome State Fault Refusal :=
  match (s.net p.val).restore with
  | none => .next s
  | some r =>
    let finish (s : State) (st : Status) : State :=
      let s := s.setNet p.val { s.net p.val with restore := none }
      let s := match s.ctxs.get r.ctx with
        | some x => s.setCtx r.ctx { x with restoring := false }
        | none => s
      s.setRestore p.val 2 (statusCode st)
    match (s.net p.val).snap r.number with
    | none => .next (finish s .bounds)
    | some x =>
      if !s.ctxs.has r.ctx then .next (finish s .bounds)
      else if x.sealed != (s.part p.val).sess.sealValue || failed == some .integrity || s.copiesFail x then .next (finish s .integrity)
      else if failed == some .digestMismatch then .next (finish s .digestMismatch)
      else
        let (st, s) := s.applyRestore p.val r.ctx x failed.isSome
        .next (finish s (st.getD .ok))

/-! ### REPLAY_ARM (R535) -/

def rReplay : Nat := 0x7030

/-- Arm or disarm a replay. -/
def State.armReplay (s : State) (p : Nat) (value : U64) : State :=
  let v := value.toNat
  let first := bitsOf v 32 32
  let l := (s.part p).led
  let at_ := (l.ref.findIdx? (fun e => e.epoch % 2 ^ 32 == first)).getD l.ref.length
  let reg := first * 2 ^ 32 + b2n (bitOf v 6) * 64 + v % 32
  let s := s.setPreg p rReplay reg
  s.setPart p { s.part p with led := { l with armed := bitOf v 5, stepAt := at_, runAt := 0 } }

/-- REPLAY_ARM: a write of DIGEST_REPLAY with armed set; it waits while DIGEST restarts (R431). -/
def execReplayArm (p : Part) (value : U64) (s : State) : Host.Outcome State Fault Refusal :=
  if s.compUp cpDigest then .next (s.armReplay p.val value)
  else .next { s with onlyn := { s.onlyn with replays := s.onlyn.replays ++ [(p.val, value)] } }

end Sys2Proof.Machine
end

