-- ==== Sys2Proof/Machine/Digests.lean ====
section
/-! DEFINITION. Replica digests (R524 to R532, R538): digest streams, page and line digests, rounds among the members of a
group and between flyer and catcher, the location of differences, and adoption. -/

namespace Sys2Proof.Machine

/-! ### Registers of the DIGEST block (R540) -/

def rDigCtrl : Nat := 0x7000
def rDigStatus : Nat := 0x7008
def rDigAgreed : Nat := 0x7010
def cDigRounds : Nat := 0x7018
def cDigAdopted : Nat := 0x7020
def cDigWait : Nat := 0x7028
def rDigDiag : Nat := 0x7038
def rDigLoc (n : Nat) : Nat := 0x7100 + 16 * n

/-! ### Keys (R455, R456, R526) -/

def wrapKey : Bytes := kmacBytes Config.uniqueSecret [] 256 "FKL WRAP"
/-- The seal key of a seal value. -/
def sealKeyOf (v : U256) : Bytes := kmacBytes wrapKey (leBytes 32 v.toNat) 256 "FKL SEAL"
/-- The seal key of a partition's session. -/
def State.sealKey (s : State) (p : Nat) : Bytes := sealKeyOf (s.part p).sess.sealValue

/-- The key of a stream's digests. -/
def digestKey (g : Bytes) : Bytes := kmacBytes g [] 256 "FKL DIGEST KEY"
def pageDigest (kd : Bytes) (e j : Nat) (b : Bytes) : Nat := leNat (kmacBytes kd (leBytes 8 e ++ leBytes 4 j ++ b) 128 "FKL REPLICA")
def lineDigest (kd : Bytes) (e j m : Nat) (b : Bytes) : Bytes := kmacBytes kd (leBytes 8 e ++ leBytes 4 j ++ leBytes 2 m ++ b) 64 "FKL LINE"

/-! ### The digest stream of a group replica (R525) -/

/-- The ranges of a descriptor in the stream: elements, scales, and the TS32 word. -/
def Desc.segs (d : Desc) : List (Nat × Nat × Nat) :=
  [(d.obj, d.wc, d.elemBytes), (d.obj, d.sc, if d.f.blockScaled then d.rows * d.nb else 0), (d.obj, d.ts, 4)]
def USet.segs (u : USet) : List (Nat × Nat × Nat) := u.descs.flatMap Desc.segs
def segBytes (l : List (Nat × Nat × Nat)) : Nat := (l.map (fun x => x.2.2)).sum

/-- The ranges of objects that a range of the stream stands for, with the number of its segment. -/
def streamCut : (segs : List (Nat × Nat × Nat)) → (i off len : Nat) → List (Nat × Nat × Nat × Nat)
  | [], _, _, _ => []
  | (o, a, n) :: r, i, off, len =>
    if len = 0 then []
    else if n ≤ off then streamCut r (i + 1) (off - n) len
    else
      let k := min len (n - off)
      (i, o, a + off, k) :: streamCut r (i + 1) 0 (len - k)

def State.streamRead (s : State) (u : USet) (h off len : Nat) : Bytes :=
  (streamCut u.segs 0 off len).flatMap (fun x => s.halfRead x.2.1 h x.2.2.1 x.2.2.2)

/-- Write a range of the stream in a half; each piece takes its part of the data. -/
def State.streamWrite (s : State) (u : USet) (h off : Nat) (data : Bytes) : State :=
  ((streamCut u.segs 0 off data.length).foldl (fun (a : State × Bytes) x => (a.1.halfWrite x.2.1 h x.2.2.1 (a.2.take x.2.2.2), a.2.drop x.2.2.2)) (s, data)).1

/-- Whether a write of a range of the stream may be made (R253). -/
def State.streamOpen (s : State) (u : USet) (h off len : Nat) : Bool :=
  (streamCut u.segs 0 off len).all (fun x => match s.objs.get x.2.1 with
    | none => false
    | some o => s.keyServes x.2.1 && (cutPages x.2.2.1 x.2.2.2).all (fun r => (o.pte (o.halfPage h (r.1 / pageBytes))).writeVerdict == .ok))

/-- Bytes of digest page `j`; the last may be shorter. -/
def digPageLen (total j : Nat) : Nat := min pageBytes (total - pageBytes * j)
def State.streamPage (s : State) (u : USet) (h j : Nat) : Bytes := s.streamRead u h (pageBytes * j) (digPageLen (segBytes u.segs) j)
/-- Bytes of line `m` of digest page `j`. -/
def State.streamLine (s : State) (u : USet) (h j m : Nat) : Bytes := ((s.streamPage u h j).drop (64 * m)).take 64

def State.groupDigests (s : State) (u : USet) (g : Group) (h e : Nat) : List Nat :=
  let kd := digestKey g.digest
  (List.range (ceilDiv (segBytes u.segs) pageBytes)).map (fun j => pageDigest kd e j (s.streamPage u h j))

/-! ### The stream of a pair replica (R525) -/

/-- Mirrored trainable objects with their logical pages, in increasing handle. -/
def State.pairPages (s : State) (p : Nat) : List (Nat × Nat) :=
  (s.handled p (fun o => o.mirrored && o.trainable)).flatMap (fun e => (List.range e.2.logPages).map (fun j => (e.1, j)))

/-- A logical page of the committed half. -/
def State.logPage (s : State) (key j : Nat) : Bytes := match s.objs.get key with
  | some o => s.pageRead (o.pte (o.phys j)) 0 pageBytes
  | none => []

def State.pairDigests (s : State) (p e : Nat) : List Nat :=
  let kd := digestKey (s.sealKey p)
  (s.pairPages p).map (fun x => pageDigest kd e x.2 (s.logPage x.1 x.2))

/-- The bytes of a pair's digest stream are charged to the partition's HBM budget (R528). -/
def State.chargePair (s : State) (p : Nat) : State := s.spend (4 * p) (16 * (s.pairPages p).length)

/-! ### Rounds (R527, R528) -/

def State.round (s : State) (p r : Nat) : Option Round := (s.part p).rounds.get r
def State.setRound (s : State) (p r : Nat) (x : Round) : State := s.setPart p { s.part p with rounds := (s.part p).rounds.set r x }
/-- Rounds of a set stand under its number for its group, and under 16 more for its pair. -/
def pairRound (n : Nat) : Nat := 16 + n
def State.roundBusy (s : State) (p n : Nat) : Bool :=
  ((s.round p n).map (fun r => r.running)).getD false || ((s.round p (pairRound n)).map (fun r => r.running)).getD false

def State.digInterval (s : State) (p : Nat) : Nat := s.preg p rDigCtrl 128 % 65536
def State.diverged (s : State) (p : Nat) : Bool := bitOf (s.preg p rDigStatus 0) 32
def State.located (s : State) (p : Nat) : Nat := s.preg p rDigStatus 0 % 2 ^ 32
def State.setDigStatus (s : State) (p : Nat) (div : Bool) (loc : Nat) : State := s.setPreg p rDigStatus (b2n div * 2 ^ 32 + loc % 2 ^ 32)

/-- The 16 write digests of a ledger, oldest first; steps it does not hold are zero. -/
def Ledger.writeDigests (l : Ledger) : List Nat := List.replicate (16 - l.ring.length) 0 ++ l.ring.map (fun e => e.writeDigest)

/-- End a round: counts, the agreed epoch, arbitration, and a diagnosis that waits for it. -/
def State.endRound (s : State) (p r : Nat) : State :=
  match s.round p r with
  | none => s
  | some x =>
    let s := (s.setRound p r { x with running := false, todo := [], lines := [] }).bumpPart p cDigRounds 1
    let s := if x.found.isEmpty && !x.split then s.setPreg p rDigAgreed x.epoch else s
    let s := if x.split then s.setDigStatus p true (s.located p) else s
    match x.diag with
    | some d => s.setPreg p rDigDiag d
    | none => s

/-- A round with nothing left to locate ends. -/
def State.settleRound (s : State) (p r : Nat) : State :=
  match s.round p r with
  | some x => if x.todo.isEmpty && x.lines.isEmpty then s.endRound p r else s
  | none => s

/-- Record one location (R531): the first sixteen stand in DIGEST_LOCn.
Log entry 108, DEDUCED. -/
def State.locate (s : State) (p page line member : Nat) (a b : Bytes) : State :=
  let n := s.located p
  let w := ((List.range 8).find? (fun i => fieldLE a (8 * i) 8 != fieldLE b (8 * i) 8)).getD 0
  let s := s.setDigStatus p (s.diverged p) (n + 1)
  if n < 16 then (s.setPreg p (rDigLoc n) (page * 2 ^ 32 + line * 2 ^ 22 + member * 2 ^ 16)).setPreg p (rDigLoc n + 8) (fieldLE a (8 * w) 8 ^^^ fieldLE b (8 * w) 8)
  else s

/-! ### Messages of a group round (R529, R531) -/

/-- What an op 0 message holds, in its tree field: a list or a result, line digests, a request, or a line's bytes (log
entry 56). -/
def dmList : Nat := 0
/-- Digest message kind 1: line digests (R531).
Log entry 56, DESIGN CHOICE. -/
def dmLines : Nat := 1
/-- Digest message kind 2: a request for lines (R531).
Log entry 56, DESIGN CHOICE. -/
def dmAsk : Nat := 2
/-- Digest message kind 3: the lines' bytes (R531).
Log entry 56, DESIGN CHOICE. -/
def dmBytes : Nat := 3

/-- Cut data into op 0 messages: `total` in count, pieces of `size` bytes counted in elems and off. -/
def digMsgs (gi : Nat) (g : Group) (e type sender total size : Nat) (data : Bytes) : List GroupMsg :=
  let per := 8192 / size
  (List.range (ceilDiv data.length (size * per))).map (fun i =>
    let d := (data.drop (size * per * i)).take (size * per)
    mkMsg gi g.epoch (e % 2 ^ 32) 0 type sender (geWire g.entry) total (d.length / size) (per * i) 0 d)

/-- Start a group's round for a set: own digests are taken, and a member that is not the root of tree 0 sends its list. -/
def State.startGroupRound (s : State) (k gi : Nat) (u : USet) : State :=
  let p := k / 16
  let g := s.group gi
  match s.memberOf g p with
  | none => s
  | some me =>
    let own := s.groupDigests u g u.half u.epoch
    let s := s.spend (4 * p) (ceilDiv (segBytes u.segs) 4096)
    let list := (s.part p).led.writeDigests ++ own
    let old := s.round p (k % 16)
    let s := s.setRound p (k % 16) ⟨u.epoch, own, [(me, list)], [], [], [], false, u.fed, none, old.bind (fun r => r.diag), true, s.ts⟩
    let s := s.setDigStatus p (s.diverged p) 0
    if me = geRoot g.entry 0 then s
    else s.sendAll kUp me (geParent g.entry 0 me) (digMsgs gi g u.epoch dmList me list.length 16 (list.flatMap (leBytes 16)))

/-- Start a pair's round on the flyer: the list goes to the catcher as a journal record. -/
def State.startPairRound (s : State) (k : Nat) (u : USet) : State :=
  let p := k / 16
  let own := s.pairDigests p u.epoch
  let s := s.chargePair p
  let old := s.round p (pairRound (k % 16))
  let s := (s.flushJournal p).mirror p mkState (Config.journalBytes (.digest (k % 16) u.epoch own))
  let s := s.setRound p (pairRound (k % 16)) ⟨u.epoch, own, [], [], [], [], false, u.fed, some (s.net p).txSeq, old.bind (fun r => r.diag), true, s.ts⟩
  s.setDigStatus p (s.diverged p) 0

/-- Start the rounds of a commit (R524, R527). -/
def State.startRounds (s : State) (k : Nat) : State :=
  match s.usets.get k with
  | none => s
  | some u =>
    let p := k / 16
    let n := s.digInterval p
    if u.mode = 1 || n = 0 || u.epoch % n != 0 then s
    else
      let s := match u.group with
        | some gi => if (s.group gi).st == .active then s.startGroupRound k gi u else s
        | none => s
      if (s.net p).st == .paired && s.stepSet p == some k then s.startPairRound k u else s

/-! ### The comparison (R530) -/

/-- The value more than half of some digests hold.
Log entry 57, DEDUCED. -/
def majority (l : List Nat) : Option Nat := l.find? (fun v => l.length < 2 * (l.filter (fun w => w == v)).length)

/-- What a comparison finds of one page: the majority digest, if there is one, and the members that differ. -/
structure PageDiff where
  page : Nat
  maj : Option Nat
  out : List Nat
  deriving DecidableEq, Repr

/-- Compare the lists of all members, page by page; each list has its write digests first. -/
def compareLists (lists : Tbl (List Nat)) (pages : Nat) : List PageDiff :=
  (List.range pages).filterMap (fun j =>
    let ds := lists.map (fun (e : Nat × List Nat) => (e.1, nth0 e.2 (16 + j)))
    let m := majority (ds.map (fun e => e.2))
    if ds.all (fun e => some e.2 == (ds.head?.map (fun d => d.2))) then none
    else some ⟨j, m, (ds.filter (fun e => some e.2 != m)).map (fun e => e.1)⟩)

/-- A result on the wire: page, whether a majority stands, the members that differ, the digest. -/
def PageDiff.bytes (d : PageDiff) : Bytes :=
  leBytes 4 d.page ++ leBytes 4 (b2n d.maj.isSome) ++ leBytes 8 (d.out.map (fun m => 2 ^ m)).sum ++ leBytes 16 (d.maj.getD 0)
def PageDiff.read (b : Bytes) : PageDiff :=
  ⟨fieldLE b 0 4, if fieldLE b 4 4 = 1 then some (fieldLE b 16 16) else none, (List.range 64).filter (bitOf (fieldLE b 8 8))⟩

/-- The reference of an outlier (R531): the lowest member of the majority, or without one the lowest other member (log entry 57, DEDUCED). -/
def PageDiff.reference (d : PageDiff) (n o : Nat) : Nat :=
  ((List.range n).find? (fun m => m != o && (d.maj.isNone || !d.out.contains m))).getD o

/-- Take a result at a member: pages to locate, and line digests to send to the outliers it is the reference of. -/
def State.takeResult (s : State) (k gi total : Nat) (ds : List PageDiff) : State :=
  let p := k / 16
  let g := s.group gi
  match s.memberOf g p, s.round p (k % 16), s.usets.get k with
  | some me, some r, some u =>
    let ds := ds.filter (fun d => !r.found.contains d.page)
    let mine := ds.filter (fun d => d.out.contains me)
    let s := s.setRound p (k % 16) { r with todo := r.todo ++ mine.map (fun d => (d.page, d.maj.isSome)), found := r.found ++ ds.map (fun d => d.page),
                                                split := r.split || ds.any (fun d => d.maj.isNone) }
    let kd := digestKey g.digest
    let s := ds.foldl (fun s d => (d.out.filter (fun o => o != me && d.reference g.n o == me)).foldl (fun s o =>
      let n := ceilDiv (digPageLen (segBytes u.segs) d.page) 64
      let b := (List.range n).flatMap (fun m => lineDigest kd r.epoch d.page m (s.streamLine u u.half d.page m))
      s.sendAll kDown me o (digMsgs gi g r.epoch dmLines me d.page 8 b)) s) s
    if !r.running || r.found.length + ds.length < total then s else s.settleRound p (k % 16)
  | _, _, _ => s

/-- DIGEST_LIST_ARRIVE: lists reach DIGEST at the root of tree 0; with the last of them the outcomes are decided and go down
the tree. A list waits in staging until this member's own round has begun (R375). -/
def execDigestListArrive (p : Part) (set : BitVec 4) (lists : List (U8 × List U128)) (s : State) : Host.Outcome State Fault Refusal :=
  let k := setKey p.val set.toNat
  if !s.compUp cpDigest then .next s else
  match s.round p.val set.toNat, (s.usets.get k).bind (fun u => u.group) with
  | some r, some gi =>
    let g := s.group gi
    match s.memberOf g p.val with
    | none => .next s
    | some me =>
      if !r.running || me != geRoot g.entry 0 then .next s
      else
        let want := 16 + r.own.length
        if lists.any (fun l => l.2.length != want) then .next (s.abortGroup gi .mismatch)
        else
          let all := lists.foldl (fun (t : Tbl (List Nat)) l => t.set l.1.toNat (l.2.map BitVec.toNat)) r.lists
          let s := s.setRound p.val set.toNat { r with lists := all }
          if !(List.range g.n).all (fun m => all.has m) then .next s
          else
            let ds := compareLists all r.own.length
            let ms := digMsgs gi g r.epoch dmList me ds.length 32 (ds.flatMap PageDiff.bytes)
            let ms := if ms.isEmpty then [mkMsg gi g.epoch (r.epoch % 2 ^ 32) 0 dmList me (geWire g.entry) 0 0 0 0 []] else ms
            let s := (geChildren g.entry 0 me).foldl (fun s c => s.sendAll kDown me c ms) s
            .next (s.takeResult k gi ds.length ds)
  | _, _ => .next s

/-! ### Location and adoption (R531, R532) -/

/-- The bucket of a fed parameter: its first parameter and length; the tensor where none was fed. -/
def bucketOf (fed : List (Nat × Nat × Nat)) (di i params : Nat) : Nat × Nat :=
  match fed.find? (fun b => b.1 == di && b.2.1 ≤ i && i < b.2.1 + b.2.2) with
  | some b => b.2
  | none => (0, params)

/-- The parameter a byte of the stream belongs to, with its descriptor: element bytes and scales; a TS32 word belongs to
none. -/
def USet.paramAt (u : USet) (off : Nat) : Option (Nat × Nat) :=
  match streamCut u.segs 0 off 1 with
  | (i, _, a, _) :: _ =>
    (match u.descs[i / 3]? with
     | none => none
     | some d =>
       let blk (b : Nat) : Nat := b / d.nb * d.kLen + 16 * (b % d.nb)
       if i % 3 = 0 then some (i / 3, if d.f.blockScaled then blk ((a - d.wc) / blockBytes d.f 16) else (a - d.wc) * 8 / d.f.width)
       else if i % 3 = 1 then some (i / 3, blk (a - d.sc))
       else none)
  | [] => none

/-- Whether a member roots the shard of a byte of the stream (R376, R383).
Log entry 79, DEDUCED. -/
def USet.rootsByte (u : USet) (g : Group) (fed : List (Nat × Nat × Nat)) (me off : Nat) : Bool :=
  match u.paramAt off with
  | none => false
  | some (di, i) =>
    let b := bucketOf fed di i (match u.descs[di]? with
      | some d => d.params
      | none => 0)
    geRoot g.entry ((i - b.1) / max 1 (shardLen b.2 g.n)) == me

/-- Locate one line, and adopt it where a majority holds it and no differing byte lies in a shard this member roots. -/
def State.takeLine (s : State) (k gi me : Nat) (page m : Nat) (b : Bytes) : State :=
  let p := k / 16
  match s.round p (k % 16), s.usets.get k with
  | some r, some u =>
    match r.lines.find? (fun x => x.1 == page && x.2.1 == m) with
    | none => s
    | some (_, _, maj) =>
      let off := pageBytes * page + 64 * m
      let a := s.streamLine u u.half page m
      let b := b.take a.length
      let s := s.locate p page m me a b
      let rooted := (List.range a.length).any (fun i => a[i]? != b[i]? && u.rootsByte (s.group gi) r.fed me (off + i))
      let r := { r with lines := r.lines.filter (fun x => !(x.1 == page && x.2.1 == m)), split := r.split || (maj && rooted) }
      let s := s.setRound p (k % 16) r
      if maj && !rooted && s.streamOpen u u.half off a.length then (s.streamWrite u u.half off b).bumpPart p cDigAdopted 1 else s
  | _, _ => s

/-- LINE_DIGESTS_ARRIVE: an entry of 8 bytes is a line's digest, and one of 64 the line itself. The lines whose digests differ
are requested from the reference.
Log entry 97, DEDUCED. -/
def execLineDigestsArrive (p : Part) (set : BitVec 4) (page : U32) (lines : List (Nat × Bytes)) (s : State) : Host.Outcome State Fault Refusal :=
  let k := setKey p.val set.toNat
  if !s.compUp cpDigest then .next s else
  match s.round p.val set.toNat, s.usets.get k with
  | some r, some u =>
    (match u.group.bind (fun gi => (s.memberOf (s.group gi) p.val).map (fun m => (gi, m))) with
     | none => .next s
     | some (gi, me) =>
       if !r.running then .next s
       else
         let j := page.toNat
         let g := s.group gi
         let kd := digestKey g.digest
         let s := (match r.todo.find? (fun x => x.1 == j) with
           | none => s
           | some (_, maj) =>
             let ds := lines.filter (fun (l : Nat × Bytes) => l.2.length == 8)
             if ds.isEmpty then s
             else
               let bad := (ds.filter (fun (l : Nat × Bytes) => lineDigest kd r.epoch j l.1 (s.streamLine u u.half j l.1) != l.2)).map (fun (l : Nat × Bytes) => l.1)
               let s := s.setRound p.val set.toNat { r with todo := r.todo.filter (fun x => x.1 != j), lines := r.lines ++ bad.map (fun m => (j, m, maj)) }
               let d : PageDiff := ⟨j, if maj then some 0 else none, [me]⟩
               let ref := d.reference g.n me
               if bad.isEmpty then s
               else s.sendGroup kUp me ref (mkMsg gi g.epoch (r.epoch % 2 ^ 32) 0 dmAsk me (geWire g.entry) j bad.length ref 0 (bad.flatMap (leBytes 2))))
         let s := (lines.filter (fun (l : Nat × Bytes) => l.2.length != 8)).foldl (fun (s : State) (l : Nat × Bytes) => s.takeLine k gi me j l.1 l.2) s
         .next (s.settleRound p.val set.toNat))
  | _, _ => .next s

/-- The set of a partition that names a group. -/
def State.groupSet (s : State) (p gi : Nat) : Option (Nat × USet) :=
  s.usets.find? (fun (e : Nat × USet) => e.1 / 16 == p && e.2.group == some gi)

/-- The last of the local members a list from a member passes on its way up tree 0. -/
def State.lastLocal (s : State) (g : Group) : (fuel m : Nat) → (here : Option Nat) → Option Nat
  | 0, _, h => h
  | k + 1, m, h =>
    let inHere := s.rig.serves (gePos g.entry m)
    if !inHere && h.isSome then h
    else if m = geRoot g.entry 0 then (if inHere then some m else h)
    else s.lastLocal g k (geParent g.entry 0 m) (if inHere then some m else none)

/-- An op 0 UP: a list goes on to the parent unchanged (at the root its lists are DIGEST_LIST_ARRIVE's), and a request, whose off field
names the member asked, is answered with the lines' bytes while the epoch asked for is the committed one. -/
def State.digestUp (s : State) (gi : Nat) (m : GroupMsg) : State :=
  let g := s.group gi
  if m.tree.toNat = dmList then
    match s.lastLocal g 65 (geParent g.entry 0 m.sender.toNat) none with
    | none => s
    | some me => if me = geRoot g.entry 0 then s else s.sendGroup kUp me (geParent g.entry 0 me) m
  else
    let me := m.off.toNat
    match s.groupSet (gePart g.entry me) gi with
    | none => s
    | some (_, u) =>
      if m.tree.toNat != dmAsk || m.key.toNat != u.epoch % 2 ^ 32 || !(s.locals g).contains me then s
      else
        let j := m.count.toNat
        ((List.range m.elems.toNat).map (fun i => fieldLE m.data (2 * i) 2)).foldl (fun s l =>
          s.sendGroup kDown me m.sender.toNat (mkMsg gi g.epoch m.key.toNat 0 dmBytes me (geWire g.entry) j 1 l 0 (s.streamLine u u.half j l))) s

/-- An op 0 DOWN: a result is taken by every local member and passed on to children elsewhere; line digests and lines are
LINE_DIGESTS_ARRIVE's. -/
def State.digestDown (s : State) (gi : Nat) (m : GroupMsg) : State :=
  let g := s.group gi
  if m.tree.toNat != dmList then s
  else ((s.locals g).filter (fun me => me != geRoot g.entry 0)).foldl (fun s me =>
    let s := ((geChildren g.entry 0 me).filter (fun c => !s.rig.serves (gePos g.entry c))).foldl (fun s c => s.sendGroup kDown me c m) s
    match s.groupSet (gePart g.entry me) gi with
    | none => s
    | some (k, _) => s.takeResult k gi m.count.toNat ((List.range m.elems.toNat).map (fun i => PageDiff.read ((m.data.drop (32 * i)).take 32)))) s

/-! ### The diagnosis (R537, R538) -/

/-- The first step whose write digests two lists tell apart, as an index. -/
def firstDiffering (a b : List Nat) : Option Nat := (List.range 16).find? (fun i => nth0 a i != nth0 b i)

/-- The diagnosis of a round by a probe: the replica whose digests of the located pages alone differ from the probe's, and the
step. `probe` gives the probe's digests of the located pages, `n` the number of replicas and `other` the only other one of two. A
member that does not hold every list knows its own digests only (log entry 58, DEDUCED). -/
def State.diagnose (s : State) (p : Nat) (r : Round) (probe : List (Nat × Nat)) (n : Nat) (other : Option Nat) : Nat :=
  let differs (l : List Nat) : Bool := probe.any (fun x => nth0 l (16 + x.1) != x.2)
  let bad := (r.lists.filter (fun (e : Nat × List Nat) => differs e.2)).map (fun (e : Nat × List Nat) => e.1)
  let who := if r.lists.length = n then (match bad with
      | [m] => m
      | _ => 0xFF)
    else if bad.isEmpty then other.getD 0xFF else 0xFF
  let diffs := r.lists.flatMap (fun (a : Nat × List Nat) => (r.lists.filterMap (fun (b : Nat × List Nat) => firstDiffering a.2 b.2)))
  let agreed := s.preg p rDigAgreed 0
  let ref := (s.part p).led.ref
  let at_ := (diffs.foldl (fun (m : Option Nat) i => some (min i (m.getD i))) none).bind (fun i => if 16 ≤ i + ref.length then ref[i + ref.length - 16]? else none)
  let step := match at_ with
    | some e => if who = 0xFF then agreed else e.epoch
    | none => agreed
  who * 2 ^ 56 + step % 2 ^ 32

end Sys2Proof.Machine
end

