-- ==== Sys2Proof/Machine/Manifest.lean ====
section
/-! DEFINITION. The manifest of a snapshot as it lies in the SNAPSHOT region (R456, R511, R513). -/

namespace Sys2Proof.Machine

/-- Entries of the sections whose entries R513 names without laying them out: CONTEXTS, SETS, REGISTRY, IMAGES and GROUPS.
Log entry 49, DESIGN CHOICE. -/
opaque Config.manifestEntries : (type : Nat) → Snap → List Bytes

/-- The code of a slot's kind in a KEYS entry, which no rule states.
Log entry 49, DESIGN CHOICE. -/
opaque Config.keyKindCode : KeyKind → Nat

/-- A section: its header, and its entries. -/
def manifestSection (type : Nat) (entries : List Bytes) : Bytes :=
  leBytes 2 type ++ zeros 2 ++ leBytes 4 entries.length ++ leBytes 8 entries.flatten.length ++ entries.flatten

/-- KEYS: the snapshot key and each source slot's newest key, wrapped under the seal key. -/
def Snap.keyEntries (x : Snap) : List Bytes :=
  let kek : U256 := BitVec.ofNat 256 (leNat (sealKeyOf x.sealed))
  (leBytes 2 0xFFFF ++ zeros 2 ++ aesKwWrap kek x.key) ::
    x.keys.map (fun e => leBytes 2 e.1 ++ leBytes 1 (Config.keyKindCode e.2.kind) ++ leBytes 1 e.2.gen ++ aesKwWrap kek e.2.key)

/-- The objects a snapshot covers, in the order of their indices. -/
def Snap.objects (x : Snap) : List (Nat × Obj) := x.view.objs.filter (fun (e : Nat × Obj) => e.2.snapshot)

/-- OBJECTS: the fields of OBJECT_CREATE, the handle and the logical pages. -/
def Snap.objectEntries (x : Snap) : List Bytes :=
  x.objects.map (fun e =>
    let o := e.2
    let flags := b2n o.mirrored + 2 * b2n o.snapshot + 4 * b2n o.trainable + 8 * b2n o.paired
    leBytes 1 o.tier ++ leBytes 1 o.kind ++ leBytes 2 o.keySlot ++ leBytes 4 o.logPages ++ leBytes 2 flags ++ leBytes 4 (mkHandle e.1 o.gen).toNat ++ leBytes 4 o.logPages)

/-- PAGES: object index, logical page, SNAPSHOT frame, the snapshot that holds the copy, key slot, generation pair and boundary. -/
def Snap.pageEntries (x : Snap) : List Bytes :=
  x.pages.map (fun y => leBytes 4 (x.objects.findIdx (fun e => e.1 == y.obj)) ++ leBytes 4 y.logical ++ leBytes 4 y.frame ++ leBytes 4 y.holder ++
    leBytes 2 y.slot ++ leBytes 1 y.gens.1 ++ leBytes 1 y.gens.2 ++ leBytes 1 y.boundary ++ zeros 13)

/-- EVENTS: number, cookie, vector, flags and value. -/
def Snap.eventEntries (x : Snap) : List Bytes :=
  x.view.events.map (fun (e : Nat × Event) => leBytes 4 e.1 ++ leBytes 4 e.2.cookie.toNat ++ leBytes 2 e.2.vector.toNat ++ leBytes 2 (b2n e.2.shared) ++ leBytes 8 e.2.value.toNat)

/-- RECIPES: the entry's number, and the recipe as RECIPE_LOAD took it (R304). -/
def Snap.recipeEntries (x : Snap) : List Bytes :=
  x.view.recipes.map (fun (e : Nat × Recipe) => leBytes 1 (e.1 % 16) ++
    padTo 512 ([e.2.words.length, e.2.state, e.2.mfmt, e.2.rnd + 8 * e.2.srw].flatMap (leBytes 1) ++ zeros 60 ++ e.2.words.flatMap (leBytes 4)))

/-- GENERATORS: for each RUN that ran, its stream, and each generator's state and draw count. -/
def Snap.genEntries (x : Snap) : List Bytes :=
  ((x.gens.map (fun g => g.stream)).eraseDups).map (fun n => leBytes 4 n ++
    (x.gens.filter (fun g => g.stream == n)).flatMap (fun g => g.gens.flatMap (fun (e : Nat × U64) => leBytes 8 e.2.toNat ++ leBytes 8 (g.draws.getD e.1 0))))

/-- CORES: the CORE_START record. -/
def Snap.coreEntries (x : Snap) : List Bytes :=
  x.view.core.toList.map (fun a => leBytes 4 a.handle.toNat ++ leBytes 8 a.off.toNat ++ leBytes 8 a.len.toNat ++ leBytes 8 a.entry.toNat ++ leBytes 48 a.digest.toNat)

/-- The entries of a section. -/
def Snap.sectionOf (x : Snap) (type : Nat) : List Bytes :=
  if type = 1 then x.keyEntries
  else if type = 2 then x.objectEntries
  else if type = 3 then x.pageEntries
  else if type = 5 then x.eventEntries
  else if type = 7 then x.recipeEntries
  else if type = 11 then [x.view.cursors.flatMap (leBytes 8)]
  else if type = 12 then x.genEntries
  else if type = 13 then x.coreEntries
  else Config.manifestEntries type x

/-- The sections, one of each type. -/
def Snap.sections (x : Snap) : Bytes := (List.range 13).flatMap (fun i => manifestSection (i + 1) (x.sectionOf (i + 1)))

/-- The 64-byte header of a partition's manifest. -/
def Snap.header (x : Snap) (p : Nat) : Bytes :=
  [0x53, 0x4E, 0x50, 0x31] ++ leBytes 2 0x0100 ++ leBytes 1 p ++ leBytes 1 (b2n x.caught + 2 * b2n x.fromCatcher) ++ leBytes 4 x.number ++ leBytes 4 13 ++
    leBytes 8 x.ts ++ leBytes 8 (64 + x.sections.length + 32) ++ zeros 32

/-- The manifest: header, sections and MAC.
Log entry 49, DESIGN CHOICE. -/
def Snap.manifest (x : Snap) (p : Nat) : Bytes :=
  let b := x.header p ++ x.sections
  b ++ kmacBytes (sealKeyOf x.sealed) b 256 "FKL SNAPSHOT"

end Sys2Proof.Machine
end

