-- ==== Sys2Proof/Machine/Close.lean ====
section
/-! DEFINITION. The close of an attempt (R317 to R321, R384, R390, R501, R519, R533 to R536): when it may close, CLOSE and VERDICT
in a group, carry-forward, the flip, the loss scale, and the step ledger. -/

namespace Sys2Proof.Machine

/-! ### Working copies that come down (R383) -/

/-- The bytes of one block in a message, and where they go. -/
def Desc.blockHome (d : Desc) (row b : Nat) : Nat × Nat × Nat × Nat :=
  let p0 := row * d.kLen + 16 * b
  let n := min 16 (d.kLen - 16 * b)
  (d.wc + (if d.f.blockScaled then (row * d.nb + b) * blockBytes d.f 16 else p0 * d.f.width / 8),
   if d.f.blockScaled then blockBytes d.f 16 else n * d.f.width / 8, d.sc + row * d.nb + b, if d.f.blockScaled then 1 else 0)

/-- Write blocks of a working copy in turn. -/
def State.writeBlocks (s : State) (u : USet) (d : Desc) : (blocks : List (Nat × Nat)) → (data : Bytes) → State
  | [], _ => s
  | (row, b) :: r, data =>
    let (ea, en, sa, sn) := d.blockHome row b
    let s := if en = 0 then s else s.halfWrite d.obj u.pend ea (data.take en)
    let s := if sn = 0 then s else s.halfWrite d.obj u.pend sa ((data.drop en).take sn)
    s.writeBlocks u d r (data.drop (en + sn))

/-- Pages that a working copy's blocks reach, and what refuses them. -/
def State.copyStop (s : State) (k : Nat) (u : USet) (d : Desc) (blocks : List (Nat × Nat)) : UStop :=
  let r := (s.recipe (k / 16) d.recipe).getD (fykorRecipe 0)
  blocks.foldl (fun (a : UStop) b => if a != .go then a else s.blockStop (k / 16) u d r b.1 b.2) .go

/-- Messages of a shard in the order of their elements; none while some are missing. A message without elements says that the root
dropped the shard. -/
def orderShard (ms : List GroupMsg) (len : Nat) : (fuel pos : Nat) → Option (List GroupMsg)
  | 0, pos => if len ≤ pos then some [] else none
  | k + 1, pos =>
    if len ≤ pos then some []
    else
      match ms.find? (fun m => m.off.toNat == pos && m.elems.toNat != 0) with
      | none => none
      | some m => (orderShard ms len k (pos + m.elems.toNat)).map (fun l => m :: l)

/-- Take a shard of a bucket that has come down whole: its blocks are written, and it goes on to the children. -/
def State.takeCopy (s : State) (gi i t : Nat) : State :=
  match s.collAt gi i with
  | none => s
  | some c =>
    let g := s.group gi
    let (o, n) := shardOf c.count g.n t
    if c.op != 0xA8 || c.member = geRoot g.entry t || n = 0 || c.applied.contains t || !c.sent.contains t then s
    else if c.spoiled then s.collParity c
    else
      let ms := g.from_ c (geParent g.entry t c.member) t
      let pass (l : List GroupMsg) (s : State) : State :=
        (geChildren g.entry t c.member).foldl (fun s ch => s.sendAll kDown c.member ch (l.map (fun (m : GroupMsg) => { m with sender := BitVec.ofNat 8 c.member }))) s
      if ms.any (fun m => m.elems.toNat == 0) then (pass (ms.filter (fun m => m.elems.toNat == 0)) s).shardDone gi i t
      else
        match orderShard ms n (ms.length + 1) 0, s.groupSet (gePart g.entry c.member) gi with
        | some l, some (k, u) =>
          (match u.descs[c.hi]? with
           | none => s
           | some d =>
             let blocks := d.blocksIn (c.seq + o) n
             match s.copyStop k u d blocks with
             | .waits => s
             | .refused => (s.bumpPart (k / 16) cUpdRefused 1).unitFault k .tierFail .context
             | .unwritable => (s.bumpPart (k / 16) cWriteRefused 1).unitFault k .integrity .context
             | .bad st sc => s.unitFault k st sc
             | .go =>
               let s := s.writeBlocks u d blocks (l.flatMap (fun m => m.data))
               let s := match s.usets.get k with
                 | some u => s.setUset k { u with wcOnly := u.wcOnly ++ [(c.hi, c.seq + o, n)] }
                 | none => s
               (pass l s).shardDone gi i t)
        | _, _ => s

/-- Take every shard that has come down whole, for each bucket a member still holds. -/
def State.takeCopies (s : State) (gi : Nat) : State :=
  let g := s.group gi
  let keys := (g.colls.filter (fun c => c.op == 0xA8)).map (fun c => (c.member, c.key))
  keys.foldl (fun s mk => (List.range g.n).foldl (fun s t =>
    match (s.group gi).colls.findIdx? (fun c => c.op == 0xA8 && c.member == mk.1 && c.key == mk.2) with
    | some i => s.takeCopy gi i t
    | none => s) s) s

/-! ### When an attempt closes (R317) -/

/-- UPDATE_FEED tiles of a RUN. -/
def State.feedTiles (s : State) (r : Run) : List Nat :=
  match s.runImage r with
  | none => []
  | some im => (im.stages.filter (fun st => st.kind == 8)).flatMap (fun st => (im.tiles.drop st.firstTile).take st.tileCount)

/-- Buckets of a RUN's attempt of a grouped set that are not applied at a member. -/
def Group.bucketsLeft (g : Group) (me rid : Nat) : Bool := g.colls.any (fun c => c.member == me && c.op == 0xA8 && c.rid == rid)

/-- Whether this device's part of an attempt is done: tiles have executed UEND, buckets are applied or dropped. -/
def State.partDone (s : State) (k : Nat) (u : USet) : Bool :=
  match u.run.bind (fun rid => (s.runs.get rid).map (fun r => (rid, r))) with
  | none => false
  | some (rid, r) =>
    (s.feedTiles r).all (fun t => u.ended.contains t) && u.staging.isEmpty && u.writes.isEmpty &&
    (match u.group with
     | none => true
     | some gi => (match s.memberOf (s.group gi) (k / 16) with
       | some me => !(s.group gi).bucketsLeft me rid
       | none => false))

/-! ### Carry-forward (R318, R383) -/

/-- Blocks of a descriptor in ranges of parameters. -/
def Desc.blocksOf (d : Desc) (di : Nat) (l : List (Nat × Nat × Nat)) : List (Nat × Nat) :=
  (l.filter (fun x => x.1 == di)).flatMap (fun x => d.blocksIn x.2.1 x.2.2)

/-- Ranges a block carries from the committed half: all its state, or all but the working copy where that came down. -/
def Desc.carryRanges (d : Desc) (r : Recipe) (row b : Nat) (copy : Bool) : List (Nat × Nat) :=
  let p0 := row * d.kLen + 16 * b
  let n := min 16 (d.kLen - 16 * b)
  [(d.master + 6 * p0, 6 * n), (d.m1 + r.mBytes * p0, if r.keepsM1 then r.mBytes * n else 0), (d.m2 + r.mBytes * p0, if r.keepsM2 then r.mBytes * n else 0)] ++
  (if copy then [(d.wc + (if d.f.blockScaled then (row * d.nb + b) * blockBytes d.f 16 else p0 * d.f.width / 8), if d.f.blockScaled then blockBytes d.f 16 else n * d.f.width / 8),
                 (d.sc + row * d.nb + b, if d.f.blockScaled then 1 else 0)] else [])

/-- Factors no addition of the attempt has reached. -/
def Desc.factorRanges (d : Desc) (r : Recipe) (di : Nat) (begun : List (Nat × Bool × Nat)) : List (Nat × Nat) :=
  if r.factored then
    ((List.range d.rows).filter (fun i => !begun.contains (di, false, i))).map (fun i => (d.m2 + 4 * i, 4)) ++
    ((List.range d.kLen).filter (fun i => !begun.contains (di, true, i))).map (fun i => (d.m2 + 4 * d.rows + 4 * i, 4))
  else []

/-- What a paired set carries forward: blocks with their ranges, and factors. -/
def State.carryPlan (s : State) (k : Nat) (u : USet) : List (Nat × Nat × Nat × List (Nat × Nat)) × List (Nat × Nat × Nat) :=
  let ds := u.descs.zipIdx
  let rec_ (d : Desc) : Recipe := (s.recipe (k / 16) d.recipe).getD (fykorRecipe 0)
  (ds.flatMap (fun e =>
     let done := e.1.blocksOf e.2 u.written
     let came := e.1.blocksOf e.2 u.wcOnly
     ((e.1.blocksIn 0 e.1.params).filter (fun b => !done.contains b)).map (fun b => (e.2, b.1, b.2, e.1.carryRanges (rec_ e.1) b.1 b.2 (!came.contains b)))),
   ds.flatMap (fun e => (e.1.factorRanges (rec_ e.1) e.2 u.begun).map (fun x => (e.1.obj, x.1, x.2))))

def State.copyHalf (s : State) (u : USet) (key off len : Nat) : State :=
  if len = 0 then s else s.halfWrite key u.pend off (s.halfRead key u.half off len)

/-- What stands in the way of carry-forward: the first block whose pages or lines refuse it. -/
def State.carryStop (s : State) (k : Nat) (u : USet) : UStop :=
  let rec_ (d : Desc) : Recipe := (s.recipe (k / 16) d.recipe).getD (fykorRecipe 0)
  (s.carryPlan k u).1.foldl (fun (a : UStop) b => if a != .go then a else match u.descs[b.1]? with
    | some d => s.blockStop (k / 16) u d (rec_ d) b.2.1 b.2.2.1
    | none => a) .go

/-- Copy each block no bucket fed, counting it. -/
def State.carryForward (s : State) (k : Nat) (u : USet) : State :=
  let (bs, fs) := s.carryPlan k u
  let s := bs.foldl (fun s b => match u.descs[b.1]? with
    | some d => b.2.2.2.foldl (fun s r => s.copyHalf u d.obj r.1 r.2) s
    | none => s) s
  let s := fs.foldl (fun s f => s.copyHalf u f.1 f.2.1 f.2.2) s
  s.bumpPart (k / 16) cUpdCarry bs.length

/-- What carry-forward reads of the committed half and writes to the pending half, by object. -/
def State.carryAccesses (s : State) (k : Nat) (u : USet) : List (Nat × Nat × Nat) :=
  let (bs, fs) := s.carryPlan k u
  let l := bs.flatMap (fun b => match u.descs[b.1]? with
    | some d => b.2.2.2.map (fun r => (d.obj, r.1, r.2))
    | none => []) ++ fs
  ((l.map (fun x => x.1)).eraseDups).flatMap (fun o => (joinRanges ((l.filter (fun x => x.1 == o)).map (fun x => x.2))).map (fun x => (o, x.1, x.2)))

/-- The reads of carry-forward, those of ZERO pages apart, which need no access (R238, R241).
Log entry 195, DESIGN CHOICE. -/
def State.fetchCarry (s : State) (k : Nat) (u : USet) : List Nat × State :=
  let l := (s.carryAccesses k u).filter (fun x => (s.objs.get x.1).any (fun (o : Obj) => !o.allZero x.2.1 x.2.2))
  l.foldl (fun (a : List Nat × State) x => (a.1 ++ [a.2.accId], a.2.issueRead (.update (k / 16) (k % 16)) false x.1 x.2.1 x.2.2 0)) ([], s)

/-- Copy the blocks, and await the answers to their writes. -/
def State.carryNow (s : State) (k : Nat) (u : USet) : State :=
  let l := s.carryAccesses k u
  let s := (s.carryForward k u).issueUnitWrites k l
  match s.usets.get k with
  | some u => s.setUset k { u with fetch := none, carried := true }
  | none => s

/-- Carry forward: the reads, then the writes once the reads are in. The attempt can go on when no write is outstanding. -/
def State.carryOn (s : State) (k : Nat) (u : USet) : State :=
  if u.carried then s
  else
    match u.fetch with
    | some [] => s.carryNow k u
    | some _ => s
    | none =>
      let (ids, s) := s.fetchCarry k u
      if ids.isEmpty then s.carryNow k u else s.setUset k { u with fetch := some ids }

/-- Whether carry-forward has ended. -/
def USet.carryDone (u : USet) : Bool := u.carried && u.writes.isEmpty

/-! ### The decision (R316, R318, R319) -/

/-- Flags of a close: bit 0 nonfinite, bit 1 over, bit 2 dropped. -/
def closeFlags (nonfinite big dropped : Bool) : Nat := b2n nonfinite + 2 * b2n big + 4 * b2n dropped

/-- The over flag at a close: in paired mode the gradient norm is above abs_bound (R318); in bucket mode that of some bucket was, the only norm R319 compares with it.
Log entry 194, DEDUCED. -/
def USet.overAt (u : USet) (acc : Nat) : Bool := if u.mode = 1 then cmOver u.commit else normOver (normOf acc) u.absB

/-- The decision on a total accumulator and flags: status, accumulator, flags. -/
def USet.decide_ (u : USet) (acc : Nat) (nonfinite dropped : Bool) : Status × Nat × Nat :=
  let big := u.overAt acc
  let bad := nonfinite || (if u.mode = 1 then dropped else big)
  (if bad then .normReject else .ok, acc, closeFlags nonfinite big dropped)

/-! ### The loss scale (R321) -/

/-- The pages that take the scale word, each with the offset in it: both halves outside a set, the committed half in one (R321).
Log entry 96, DEDUCED. -/
def State.scalePages (s : State) (u : USet) : List (Pte × Nat × Nat) :=
  match s.objs.get (s.named u.scaleAt.1) with
  | none => []
  | some o => (cutPages u.scaleAt.2 4).flatMap (fun r =>
      (if o.paired && o.inSet.isSome then [o.halfPage o.half (r.1 / pageBytes)] else o.physW (r.1 / pageBytes)).map (fun i => (o.pte i, r.1 % pageBytes, r.2)))

/-- What stands in the way of the scale word: its object gone, a page that refuses the write (R238), a key, or a line whose partial write is refused
(R280).
Log entry 96, DEDUCED. -/
def State.scaleStop (s : State) (u : USet) : UStop :=
  if !s.objs.has (s.named u.scaleAt.1) then .bad .handle .context
  else if !s.keyServes (s.named u.scaleAt.1) then .bad .key .context
  else
    match (s.scalePages u).findSome? (fun x => match x.1.writeVerdict with
      | .bad st sc => some (st, sc)
      | _ => none) with
    | some e => .bad e.1 e.2
    | none => if (s.scalePages u).any (fun x => x.1.st != .zero && s.shroud.refusesWrite x.1.frameNo x.2.1 x.2.2) then .unwritable else .go

/-- The loss scale goes to its object; what refuses the write ends the set's context.
Log entry 96, DEDUCED. -/
def State.writeScale (s : State) (k : Nat) (u : USet) : State :=
  let b := leBytes 4 u.scale
  match s.scaleStop u with
  | .bad st sc => s.unitFault k st sc
  | .unwritable => (s.bumpPart (k / 16) cWriteRefused 1).unitFault k .integrity .context
  | _ =>
    match s.objs.get (s.named u.scaleAt.1) with
    | none => s
    | some o => if o.paired && o.inSet.isSome then s.halfWrite (s.named u.scaleAt.1) o.half u.scaleAt.2 b else s.objWrite (s.named u.scaleAt.1) u.scaleAt.2 b

/-- Whether a page of the scale word waits for a snapshot's copy. -/
def State.scaleWaits (s : State) (u : USet) : Bool := (s.scalePages u).any (fun x => x.1.writeVerdict == .waits)

/-- L and the streak after a close, and whether L was halved.
Log entry 217, DESIGN CHOICE. -/
def USet.nextScale (u : USet) (ok : Bool) : USet × Bool :=
  if ok then
    if u.streak + 1 = u.growth then ({ u with scale := min u.scaleMax (u.scale + 2 ^ 23), streak := 0 }, false)
    else ({ u with streak := (u.streak + 1) % 2 ^ 32 }, false)
  else
    let l := max u.scaleMin (u.scale - 2 ^ 23)
    ({ u with scale := l, streak := 0 }, l != u.scale)

/-! ### The step ledger (R533 to R536) -/

/-- The index in the reference ledger of the first replayed step. -/
def State.replayStart (s : State) (p : Nat) : Nat :=
  let l := (s.part p).led
  (l.ref.findIdx? (fun e => e.epoch % 2 ^ 32 == s.preg p rReplay 0 / 2 ^ 32)).getD l.ref.length

/-- Close the ledger entry of a step: its digests, their comparison with the reference of an armed replay, and the ring of
16. A probe leaves the replay at its step.
Log entry 88, DEDUCED. -/
def State.closeLedger (s : State) (p epoch : Nat) (st : Status) (probe : Bool) : State :=
  let l := (s.part p).led
  let tickets := leNat (kmacBytes [] l.cur.recs 128 "FKL TICKETS")
  let wrote := leNat (kmacBytes [] l.writes 128 "FKL WRITES")
  let e := { l.cur with epoch := epoch, tsClose := s.ts, status := statusCode st, ticketDigest := tickets, writeDigest := wrote }
  let ring := l.ring ++ [e]
  let l' := { l with cur := LedgerEntry.reset, writes := [], ring := ring.drop (ring.length - 16) }
  let start := s.replayStart p
  let reg := s.preg p rReplay 0
  let differs := l.armed && (match l.ref[l.stepAt]? with
    | some r => r.ticketDigest != e.ticketDigest || r.writeDigest != e.writeDigest
    | none => false)
  let s := if differs && bitsOf reg 16 16 = 0 then s.setPreg p rReplay (reg + (l.stepAt - start + 1) % 65536 * 65536) else s
  let l' := if l.armed && !probe then { l' with stepAt := l.stepAt + 1, runAt := 0, armed := decide (l.stepAt + 1 - start < reg % 32) }
    else { l' with runAt := 0 }
  s.setPart p { s.part p with led := l' }

/-- Whether the step that closes is a probe.
Log entry 95, DEDUCED. -/
def State.isProbe (s : State) (k : Nat) (u : USet) : Bool := u.mode == 0 && s.stepSet (k / 16) == some k && bitOf (s.preg (k / 16) rReplay 0) 6

/-- The diagnosis of a probe step, kept for the end of the next round (R537).
Log entry 95, DEDUCED. -/
def State.noteProbe (s : State) (k : Nat) (u : USet) : State :=
  let p := k / 16
  let s := (match s.round p (k % 16), u.group with
    | some r, some gi =>
      let g := s.group gi
      let kd := digestKey g.digest
      let me := (s.memberOf g p).getD 0
      let other := if g.n = 2 then some (1 - me) else none
      if r.found.isEmpty then s
      else s.setRound p (k % 16) { r with diag := some (s.diagnose p r (r.found.map (fun j => (j, pageDigest kd r.epoch j (s.streamPage u u.pend j)))) g.n other) }
    | _, _ => s)
  match s.round p (pairRound (k % 16)), s.pairOf with
  | some r, some (fl, ca) =>
    let kd := digestKey (s.sealKey p)
    let pages := s.pairPages p
    let half (x : Nat × Nat) : Bytes := match s.objs.get x.1 with
      | some o => s.pageRead (o.pte (o.halfPage (1 - o.half) x.2)) 0 pageBytes
      | none => []
    let r' := { r with lists := [(fl, List.replicate 16 0 ++ r.own)] }
    if r.found.isEmpty then s
    else s.setRound p (pairRound (k % 16)) { r with diag := some (s.diagnose p r' (r.found.filterMap (fun i => (pages[i]?).map (fun x => (i, pageDigest kd r.epoch x.2 (half x))))) 2 (some ca)) }
  | _, _ => s

/-! ### The end of a close -/

/-- Return a set to IDLE; `half` is its committed half. -/
def USet.toIdle (u : USet) (half flags : Nat) : USet :=
  let u := u.setCommit (mkCommit half 0 (bitOf flags 0) (bitOf flags 1) (bitOf flags 2) u.mode (cmTorn u.commit) (cmBuckets u.commit))
  { u with run := none, lastRun := u.run, staging := [], fed := [], ended := [], begun := [], written := [], wcOnly := [], acc := 0, closeSent := false, closeTs := 0, verdict := none, ackAt := none, fetch := none, carried := false, writes := [] }

/-- Give every object of a set its committed half (R302). -/
def State.flipObjs (s : State) (k half : Nat) : State :=
  (s.objs.filter (fun (e : Nat × Obj) => e.2.inSet == some k)).foldl (fun s e => s.setObj e.1 { e.2 with half := half }) s

/-- Note the status of a close in the RUN that opened the attempt (R320). -/
def State.noteClose (s : State) (u : USet) (st : Status) : State :=
  match u.run.bind (fun rid => (s.runs.get rid).map (fun r => (rid, r))) with
  | none => s
  | some (rid, r) => s.setRun rid { r with closeSt := if r.closeSt == some .normReject then r.closeSt else some st, lastMove := s.ts }

/-- Close an attempt on its outcome: half, epoch and state change in one write, then the loss scale, the ledger, the automatic
snapshot and the digest rounds. -/
def State.closeOut (s : State) (k : Nat) : State :=
  match s.usets.get k with
  | none => s
  | some u =>
    match u.verdict with
    | none => s
    | some (st, acc, flags) =>
      let p := k / 16
      let ok := st == .ok
      let flip := u.mode == 0 && ok
      let half := if flip then 1 - u.half else u.half
      let s := s.noteClose u st
      let (u', halved) := ((u.toIdle half flags).nextScale ok)
      let u' := { u' with norm := normOf acc, epoch := if flip || u.mode = 1 then u.epoch + 1 else u.epoch, fresh := flip }
      let s := (s.setUset k u').flipObjs k half
      let s := (s.bumpPart p (if ok then cUpdCommits else cUpdSkipped) 1).bumpPart p cUpdBackoff (b2n halved)
      let s := match u.group with
        | some _ => (s.bumpPart p cGrpOps 1).bumpPart p cGrpWait (if u.closeTs = 0 then 0 else s.ts - u.closeTs)
        | none => s
      let s := s.writeScale k u'
      let s := if s.stepSet p = some k then s.closeLedger p u'.epoch st false else s
      if ok then (s.autoSnap k u'.epoch).startRounds k else s

/-- The RUN's record as a COMMIT carries it: what is known of it at the close (log entry 59, DESIGN CHOICE). -/
def State.commitRecord (s : State) (u : USet) : Bytes :=
  match u.run.bind (fun rid => s.runs.get rid) with
  | none => zeros 32
  | some r => (match s.queues.get r.q with
    | none => zeros 32
    | some q =>
      let tag := ((q.fetched.find? (fun e => e.sub == r.sub)).map (fun e => e.tag)).getD 0
      recBytes ⟨r.sub, .ok, .request, 0, 0, tag, 0, s.ts, 0⟩ q.written q.cqSize)

def State.sendCommit (s : State) (k : Nat) (u : USet) : State :=
  let p := k / 16
  (s.flushJournal p).mirror p mkCommitMsg (leBytes 1 (k % 16) ++ leBytes 1 (1 - u.half) ++ zeros 6 ++ leBytes 8 (u.epoch + 1) ++ s.commitRecord u)

/-- A probe step closes: the pending half is abandoned, and nothing of the set changes (R536). -/
def State.closeProbe (s : State) (k : Nat) (u : USet) (flags : Nat) : State :=
  let p := k / 16
  let s := (s.noteProbe k u).noteClose u .ok
  let s := if u.group.isSome then s.bumpPart p cGrpOps 1 else s
  let s := s.setUset k (u.toIdle u.half flags)
  (s.setPreg p rReplay (s.preg p rReplay 0 - 64)).closeLedger p u.epoch .ok true

/-- Carry out a close whose outcome stands: carry-forward, then the flip; a PAIRED partition waits for the ACK of its COMMIT first.
Pages under a snapshot's copy hold it back. -/
def State.finishClose (s : State) (k : Nat) : State :=
  match s.usets.get k with
  | none => s
  | some u =>
    match u.verdict with
    | none => s
    | some (st, _, flags) =>
      if s.scaleWaits u then s
      else if u.mode = 1 then s.closeOut k
      else
        match (if u.carried then .go else s.carryStop k u) with
        | .waits => s
        | .refused => (s.bumpPart (k / 16) cUpdRefused 1).unitFault k .tierFail .context
        | .unwritable => (s.bumpPart (k / 16) cWriteRefused 1).unitFault k .integrity .context
        | .bad x sc => s.unitFault k x sc
        | .go =>
          let s := s.carryOn k u
          if !(s.usets.get k).any USet.carryDone then s
          else if s.isProbe k u then s.closeProbe k u flags
          else if st != .ok then s.closeOut k
          else
            match (s.net (k / 16)).st with
            | .paired =>
              let s := s.sendCommit k u
              s.setUset k ({ u with ackAt := some (s.net (k / 16)).txSeq }.withState 2)
            | .resync => (s.sendCommit k u).closeOut k
            | _ => s.closeOut k

/-- Sets whose COMMIT an ACK covers flip (R318, R501). -/
def State.flipAcked (s : State) (p upTo : Nat) : State :=
  (s.usets.filter (fun (e : Nat × USet) => e.1 / 16 == p && (match e.2.ackAt with
    | some m => m ≤ upTo
    | none => false))).foldl (fun s e => s.closeOut e.1) s

/-! ### CLOSE and VERDICT (R384, R390) -/

/-- The payload of a CLOSE message: the accumulator's 640 bits and the two flags (R384).
Log entry 80, DEDUCED. -/
def closeData (acc : Nat) (nonfinite dropped : Bool) : Bytes := leBytes 80 acc ++ leBytes 1 (b2n nonfinite + 2 * b2n dropped)
def verdictData (st : Status) (flags epoch acc : Nat) : Bytes :=
  leBytes 1 (statusCode st) ++ leBytes 1 flags ++ zeros 6 ++ leBytes 8 epoch ++ leBytes 80 acc

/-- CLOSEs staged at a member. -/
def Group.closesAt (g : Group) (me : Nat) : List GroupMsg := (g.closes.filter (fun e => e.1 == me)).map (fun e => e.2)

/-- Step a set back one committed epoch (R519). -/
def State.stepBack (s : State) (k : Nat) (u : USet) : State :=
  let h := 1 - u.half
  let c := mkCommit h 0 (cmNonfinite u.commit) (cmOver u.commit) (cmDropped u.commit) u.mode (cmTorn u.commit) (cmBuckets u.commit)
  let u := { u.setCommit c with epoch := u.epoch - 1, fresh := false }
  ((s.setUset k u).flipObjs k h).bumpPart (k / 16) cStepback 1

/-- Whether a set may be stepped back. -/
def USet.canStepBack (u : USet) : Bool := u.mode == 0 && u.fresh && !u.isOpen && u.epoch != 0

/-- A group abort with cause STALE at the root of tree 0: the RUNs of local members whose committed epoch differs end with STALE,
and a set one epoch ahead that has opened no attempt is stepped back (R390, R519). -/
def State.staleAbort (s : State) (gi epoch : Nat) : State :=
  let g := s.group gi
  let sets := (s.locals g).filterMap (fun m => s.groupSet (gePart g.entry m) gi)
  let s := (sets.filter (fun e => e.2.epoch != epoch)).foldl (fun s e => match e.2.run.bind (fun r => s.runs.get r) with
    | some r => (s.bumpPart r.part cGrpAborts 1).loseCtx r.ctx .stale .context (some (r.q, r.sub))
    | none => s) s
  let s := s.abortGroup gi .other
  sets.foldl (fun s e => match s.usets.get e.1 with
    | some u => if u.canStepBack && u.epoch == epoch + 1 then s.stepBack e.1 u else s
    | none => s) s

/-- A member's part of a grouped close: once its part and its children's CLOSEs are there, it sends CLOSE, or at the root of tree 0
decides and sends VERDICT.
Log entry 80, DEDUCED. -/
def State.groupClose (s : State) (k gi : Nat) (u : USet) : State :=
  let p := k / 16
  let g := s.group gi
  match s.memberOf g p with
  | none => s
  | some me =>
    let cs := g.closesAt me
    let kids := geChildren g.entry 0 me
    let since := if cmState u.commit = 2 then u.closeTs else s.ts
    if u.closeSent then s
    else if !kids.all (fun c => cs.any (fun m => m.sender.toNat == c)) then s.setUset k ({ u with closeTs := since }.withState 2)
    else
      let acc := u.acc + (cs.map (fun m => fieldLE m.data 0 80)).sum
      let nonfinite := cmNonfinite u.commit || cs.any (fun m => bitOf (fieldLE m.data 80 1) 0)
      let dropped := cmDropped u.commit || cs.any (fun m => bitOf (fieldLE m.data 80 1) 1)
      let e := u.epoch % 2 ^ 32
      let other := (cs.map (fun m => m.key.toNat)).find? (fun x => x != e)
      let s := s.setGroup gi { g with closes := g.closes.filter (fun x => x.1 != me) }
      let u := { u with closeSent := true, closeTs := since }.withState 2
      if me = geRoot g.entry 0 then
        if other.isSome then s.staleAbort gi u.epoch
        else
          let v := u.decide_ acc nonfinite dropped
          let ne := if v.1 == .ok || u.mode = 1 then u.epoch + 1 else u.epoch
          let m := mkMsg gi g.epoch e 0 0 me (geWire g.entry) 0 0 0 0 (verdictData v.1 v.2.2 ne acc)
          let s := kids.foldl (fun s c => s.sendGroup kVerdict me c m) (s.setUset k { u with verdict := some v })
          s.finishClose k
      else
        (s.setUset k u).sendGroup kClose me (geParent g.entry 0 me)
          (mkMsg gi g.epoch (other.getD e) 0 0 me (geWire g.entry) 0 0 0 0 (closeData acc nonfinite dropped))

/-- Try to close an attempt: a digest round on the set holds it back (R528). -/
def State.tryClose (s : State) (k : Nat) (u : USet) : State :=
  if !s.partDone k u || u.closeSent then s
  else if s.roundBusy (k / 16) (k % 16) then s.setUset k { u with closeTs := if u.closeTs = 0 then s.ts else u.closeTs }
  else
    let held := cmState u.commit = 1 && u.closeTs != 0
    let waited := if held then s.ts - u.closeTs else 0
    let noted := if held then { u with closeTs := 0 } else u
    match u.group with
    | some gi => ((s.setUset k noted).bumpPart (k / 16) cDigWait waited).groupClose k gi noted
    | none =>
      if s.scaleWaits u || (u.mode == 0 && s.carryStop k u == .waits) then s
      else
        let s := s.bumpPart (k / 16) cDigWait waited
        (s.setUset k { noted with verdict := some (u.decide_ u.acc (cmNonfinite u.commit) (cmDropped u.commit)) }).finishClose k

/-- UPD_ATTEMPT_CLOSE. -/
def execUpdAttemptClose (p : Part) (set : BitVec 4) (s : State) : Host.Outcome State Fault Refusal :=
  let k := setKey p.val set.toNat
  match s.usets.get k with
  | none => .next s
  | some u =>
    if !u.railOk then .next (s.partFault p.val .parity none)
    else if u.run.isNone || u.ackAt.isSome then .next s
    else if u.verdict.isSome then .next (s.finishClose k)
    else
      let s := match u.group with
        | some gi => s.takeCopies gi
        | none => s
      match s.usets.get k with
      | some u => .next (if u.run.isSome then s.tryClose k u else s)
      | none => .next s

end Sys2Proof.Machine
end

