-- ==== Sys2Proof/Machine/Arrivals.lean ====
section
/-! DEFINITION. Group messages as they arrive (R373 to R390): partial sums, results and working copies, CLOSE, VERDICT and ABORT,
dispatched rows and results, and the wait limit. -/

namespace Sys2Proof.Machine

/-! ### UP and DOWN (R375, R377, R380, R383) -/

/-- Whether a group takes a message: it is ACTIVE here at the message's epoch.
Log entry 98, DEDUCED. -/
def Group.takes (g : Group) (m : GroupMsg) : Bool := g.st == .active && m.epoch.toNat == g.epoch

/-- The time an operation has waited since it opened or last heard of another member, counted as a message of its key arrives (R394). -/
def State.heardOf (s : State) (gi : Nat) (e : Nat × GroupMsg) : State :=
  let g := s.group gi
  let mine := g.colls.filter (fun c => c.owns e)
  let s := s.setGroup gi { g with colls := g.colls.map (fun c => if c.owns e then { c with heard := s.ts } else c) }
  mine.foldl (fun s c => s.bumpPart (gePart g.entry c.member) cGrpWait (s.ts - c.heard)) s

/-- Stage a message for a local member; one that disagrees with the member's own operation starts an abort. -/
def State.stage (s : State) (gi dest : Nat) (m : GroupMsg) : State :=
  let s := s.heardOf gi (dest, m)
  let g := s.group gi
  let s := s.setGroup gi { g with staged := g.staged ++ [(dest, m)] }
  if m.wire.toNat != geWire g.entry || g.colls.any (fun c => c.owns (dest, m) && c.mismatch m) then s.abortGroup gi .mismatch
  else s

/-- COLLECTIVE_UP: a child's partial sum reaches its parent. While the engine's staging has no room, the message waits in the receive
buffer (R378). -/
def execCollectiveUp (m : GroupMsg) (s0 : State) : Host.Outcome State Fault Refusal :=
  let gi := m.group.toNat
  let s := s0.arrived kUp m
  let g := s.group gi
  if !g.takes m then .next (s.discardMsg g)
  else if m.op = 0 then
    if m.wire.toNat != geWire g.entry then .next (s.abortGroup gi .mismatch) else .next (s.digestUp gi m)
  else
    let dest := geParent g.entry m.tree.toNat m.sender.toNat
    if !(s.locals g).contains dest then .next (s.discardMsg g)
    else if !s.admits gi dest m then .next s0
    else
      let s := s.stage gi dest m
      let s := match s.groupSet (gePart g.entry dest) gi with
        | some (k, _) => if (s.group gi).st == GrpSt.active then s.openCommons gi dest k else s
        | none => s
      .next (s.progress gi)

/-- COLLECTIVE_DOWN: a result, a gathered piece or a working copy reaches the sender's children in the tree, once every one of them has
room for it (R378).
Log entry 188, DESIGN CHOICE. -/
def execCollectiveDown (m : GroupMsg) (s0 : State) : Host.Outcome State Fault Refusal :=
  let gi := m.group.toNat
  let s := s0.arrived kDown m
  let g := s.group gi
  if !g.takes m then .next (s.discardMsg g)
  else if m.op = 0 then
    if m.wire.toNat != geWire g.entry then .next (s.abortGroup gi .mismatch) else .next (s.digestDown gi m)
  else
    let kids := (geChildren g.entry m.tree.toNat m.sender.toNat).filter (fun c => (s.locals g).contains c)
    if !kids.all (fun c => s.admits gi c m) then .next s0
    else
      let s := kids.foldl (fun (s : State) c => if (s.group gi).st == GrpSt.active then s.stage gi c m else s) s
      .next ((s.progress gi).takeCopies gi)

/-! ### CLOSE and VERDICT (R384, R390) -/

/-- COLLECTIVE_CLOSE: a CLOSE reaches the sender's parent in tree 0; a root that finds another epoch in its key aborts with STALE. -/
def execCollectiveClose (m : GroupMsg) (s : State) : Host.Outcome State Fault Refusal :=
  let gi := m.group.toNat
  let s := s.arrived kClose m
  let g := s.group gi
  let dest := geParent g.entry 0 m.sender.toNat
  if !g.takes m || !(s.locals g).contains dest then .next (s.discardMsg g)
  else if m.wire.toNat != geWire g.entry then .next (s.abortGroup gi .mismatch)
  else
    match s.groupSet (gePart g.entry dest) gi with
    | none => .next (s.discardMsg g)
    | some (k, u) =>
      if dest = geRoot g.entry 0 && m.key.toNat != u.epoch % 2 ^ 32 then .next (s.staleAbort gi u.epoch)
      else
        let s := s.setGroup gi { g with closes := g.closes ++ [(dest, m)] }
        .next (if u.run.isSome then s.tryClose k u else s)

/-- The status a VERDICT carries. -/
def verdictStatus (d : Bytes) : Status := if fieldLE d 0 1 = statusCode .ok then .ok else .normReject

/-- A member takes the VERDICT of its attempt, and passes it on. -/
def State.takeVerdict (s : State) (gi me : Nat) (m : GroupMsg) : State :=
  let g := s.group gi
  match s.groupSet (gePart g.entry me) gi with
  | none => s
  | some (k, u) =>
    if u.run.isNone || !u.closeSent || u.verdict.isSome || m.key.toNat != u.epoch % 2 ^ 32 then s
    else
      let s := s.setUset k { u with verdict := some (verdictStatus m.data, fieldLE m.data 16 80, fieldLE m.data 1 1) }
      let s := (geChildren g.entry 0 me).foldl (fun s c => s.sendGroup kVerdict me c { m with sender := BitVec.ofNat 8 me }) s
      s.finishClose k

/-- COLLECTIVE_VERDICT. -/
def execCollectiveVerdict (m : GroupMsg) (s : State) : Host.Outcome State Fault Refusal :=
  let gi := m.group.toNat
  let s := s.arrived kVerdict m
  let g := s.group gi
  if !g.takes m then .next (s.discardMsg g)
  else .next (((geChildren g.entry 0 m.sender.toNat).filter (fun c => (s.locals g).contains c)).foldl (fun s c => s.takeVerdict gi c m) s)

/-! ### ABORT (R386 to R390, R519) -/

/-- COLLECTIVE_ABORT: an ABORT of the group's epoch carries out the same steps here. The message names no cause: whether it came of a
CLOSE that differed (R390) is a free value for a local attempt that waits for its VERDICT, and so is whether the sets here stand one
epoch ahead (log entry 61, DESIGN CHOICE). -/
def execCollectiveAbort (m : GroupMsg) (s : State) : Host.Outcome State Fault Refusal :=
  let gi := m.group.toNat
  let s := s.arrived kAbort m
  let g := s.group gi
  if m.epoch.toNat != g.epoch || g.st != .active then .next (s.discardMsg g)
  else
    let (i, s) := s.fresh
    let v := (Config.freeWord i).toNat
    let sets := (s.locals g).filterMap (fun me => s.groupSet (gePart g.entry me) gi)
    let s := if v % 2 = 0 then s
      else (sets.filter (fun e => e.2.closeSent && e.2.verdict.isNone)).foldl (fun s e => match e.2.run.bind (fun r => s.runs.get r) with
        | some r => (s.bumpPart r.part cGrpAborts 1).loseCtx r.ctx .stale .context (some (r.q, r.sub))
        | none => s) s
    let s := s.abortGroup gi .other
    .next (if v / 2 % 2 = 0 then s
      else sets.foldl (fun s e => match s.usets.get e.1 with
        | some u => if u.canStepBack then s.stepBack e.1 u else s
        | none => s) s)

/-! ### Dispatch and combine (R382) -/

/-- The shared course of DISPATCH and COMBINE: the message waits with every local member but its sender, and the windows it belongs to
take it. -/
def State.landRows (s : State) (kind : Nat) (m : GroupMsg) : State :=
  let gi := m.group.toNat
  let s := s.arrived kind m
  let g := s.group gi
  if !g.takes m then s.discardMsg g
  else if m.wire.toNat != geWire g.entry then s.abortGroup gi .mismatch
  else
    let to_ := (s.locals g).filter (fun c => c != m.sender.toNat)
    let s := s.setGroup gi { g with staged := g.staged ++ to_.map (fun c => (c, m)) }
    g.disps.foldl (fun s d => s.absorb gi d) s

/-- DISPATCH.
Log entry 82, DEDUCED. -/
def execDispatch (m : GroupMsg) (s : State) : Host.Outcome State Fault Refusal := .next (s.landRows kDispatch m)
/-- COMBINE. -/
def execCombine (m : GroupMsg) (s : State) : Host.Outcome State Fault Refusal := .next (s.landRows kCombine m)

/-! ### GROUP_WAIT_LIMIT (R385) -/

/-- Whether an operation of a local member awaits a message. -/
def Group.awaits (g : Group) (c : Coll) : Bool :=
  if c.op = 0xA8 then (List.range g.n).any (fun t => (shardOf c.count g.n t).2 != 0 && (if geRoot g.entry t = c.member then !c.results.has t else !c.applied.contains t))
  else !g.complete c

/-- Whether a message of a group has been awaited for longer than wait_limit. -/
def State.overdue (s : State) (gi : Nat) : Bool :=
  let g := s.group gi
  let late (t : Nat) : Bool := t + 1000 * geWait g.entry < s.ts
  g.colls.any (fun c => late c.since && g.awaits c) || g.disps.any (fun d => late d.since && g.dispAwaits d) ||
  (s.locals g).any (fun m => match s.groupSet (gePart g.entry m) gi with
    | some (_, u) => u.run.isSome && cmState u.commit == 2 && u.verdict.isNone && late u.closeTs
    | none => false)

/-- GROUP_WAIT_LIMIT: a group abort with cause TIMEOUT. -/
def execGroupWaitLimit (group : U8) (s : State) : Host.Outcome State Fault Refusal :=
  let gi := group.toNat
  if (s.group gi).st == .active && s.overdue gi then .next (s.abortGroup gi .timeout) else .next s

end Sys2Proof.Machine
end

