-- ==== Sys2Proof/Machine/Closing.lean ====
section
/-! DEFINITION. How a partition's session ends (R465, R470, R503, R560): the abort, keys, objects, the snapshot region, and the
zeroing of the partition's resources. -/

namespace Sys2Proof.Machine

/-! ### What a layout grants -/

def layTiles (l : Layout) : List Nat := (List.range 160).filter (fun t => bitOf l.columns.toNat (t / 8))
def laySlots (l : Layout) : List Nat := (List.range l.keyCount.toNat).map (fun i => l.keyBase.toNat + i)
/-- Key slots of a partition that hold anything. -/
def State.heldSlots (s : State) (p : Nat) : List Nat := match s.layout p with
  | some l => (s.keys.filter (fun (e : Nat × KeySlot) => l.keyBase.toNat ≤ e.1 && e.1 < l.keyBase.toNat + l.keyCount.toNat)).map (fun (e : Nat × KeySlot) => e.1)
  | none => []

/-! ### Step 2: keys (R459, R470) -/

/-- Destroy a slot's key: a sweep on it ends. -/
def State.destroySlot (s : State) (k : Nat) : State := let s := s.endSweep k; { s with keys := s.keys.erase k }

/-! ### Step 3: objects, images, adapters and sets -/

def State.freeHeld (s : State) (p : Nat) : State :=
  let s := (s.part p).slots.foldl (fun s (e : Nat × ImgSlot) => s.emptySlot p e.1) s
  let s := (s.usets.filter (fun (e : Nat × USet) => e.1 / 16 == p)).foldl (fun s (e : Nat × USet) => s.dropSet e.1) s
  let s := (s.adpt.cache.filter (fun (e : Nat × CacheEntry) => e.2.part == p)).foldl (fun s (e : Nat × CacheEntry) => s.wipeEntry e.1) s
  let s := (s.adpt.reg.filter (fun (e : Nat × RegEntry) => e.2.owner == p)).foldl (fun s (e : Nat × RegEntry) => s.dropReg e.1) s
  (s.objs.filter (fun (e : Nat × Obj) => e.2.part == some p && (match e.2.use with
    | .object => true
    | .image _ _ => true
    | _ => false))).foldl (fun s (e : Nat × Obj) => s.dropPages e.1) s

/-! ### Step 4: the SNAPSHOT region (R557) -/

/-- The mark of SNAPSHOT segments no session holds. -/
def heldTag : Nat := regionTag 5 none

/-- Segments of a partition's SNAPSHOT region that hold a copy. -/
def State.snapSegList (s : State) (p : Nat) : List Nat := (s.regionSegs p).filter (fun g => (segFrames g).any (fun f => s.flash.used.has f))

/-- Grant a region segments (R248, R257). -/
def State.grantRegion (s : State) (p : Nat) : (n : Nat) → State
  | 0 => s
  | k + 1 => match s.freeSegment with
    | some g => State.grantRegion { s with flash := { s.flash with owner := s.flash.owner.set g (regionTag 4 (some p)) } } p k
    | none => s

/-- Give back segments of a region: free ones at once, others when they have been erased.
Log entry 94, DEDUCED. -/
def State.giveSegs (s : State) (p : Nat) (segs : List Nat) : State :=
  segs.foldl (fun (s : State) g => { s with flash := { s.flash with
    owner := if s.segWritten g then s.flash.owner.set g (regionTag 6 (some p)) else s.flash.owner.erase g } }) s

/-- The owner tag of SNAPSHOT segments (R557). -/
def snapOwner (v : U256) : U256 := kmac256 (leBytes 32 v.toNat) [] 256 "FKL SNAP OWNER"

/-- Give up the running snapshot and every retained one, or keep the retained ones for the same seal value.
Log entry 94, DEDUCED. -/
def State.leaveSnaps (s : State) (p : Nat) (keep : Bool) : State :=
  let n := s.net p
  let s := (match n.running with
    | some x => s.freeSnap ((x.pages.filter (fun (y : SnapPage) => y.holder == x.number)).map (fun (y : SnapPage) => y.frame))
    | none => s)
  let s := s.setNet p { n with running := none, snaps := [] }
  if !keep || n.snaps.isEmpty then s.freeSnap (snapFrames n.snaps).eraseDups
  else
    let segs := s.snapSegList p
    let owner := segs.foldl (fun (o : Tbl Nat) g => o.set g heldTag) s.flash.owner
    let h : HeldRegion := ⟨some p, snapOwner (s.part p).sess.sealValue, segs, n.snaps, n.snapNo⟩
    { s with flash := { s.flash with owner := owner }, heldSnaps := s.heldSnaps ++ [h] }

/-- Attach the held segments whose owner tag is that of a session's seal value to its partition, where they take the place of as many free segments of the grant.
Log entry 94, DEDUCED. -/
def State.attachSnaps (s : State) (p : Nat) : State :=
  let v := snapOwner (s.part p).sess.sealValue
  (s.heldSnaps.filter (fun h => h.owner == v)).foldl (fun s h =>
    let owner := h.segs.foldl (fun (o : Tbl Nat) g => o.set g (regionTag 4 (some p))) s.flash.owner
    let n := s.net p
    let s := { s with flash := { s.flash with owner := owner }, heldSnaps := s.heldSnaps.erase h }
    let s := s.setNet p { n with snaps := n.snaps ++ h.snaps, snapNo := max n.snapNo h.last }
    let grant := match s.layout p with
      | some l => l.snapSegments.toNat
      | none => 0
    let segs := s.regionSegs p
    s.giveSegs p ((segs.filter (fun g => !s.segWritten g)).take (segs.length - grant))) s

/-! ### The partition reset (R560) -/

/-- Zero a partition's tiles, a failed tile's mark apart, and clear its registers.
Log entry 101, DEDUCED. Log entry 102, DEDUCED. -/
def State.zeroPart (s : State) (p : Nat) : State :=
  let s := (match s.layout p with
    | some l => (layTiles l).foldl (fun (s : State) t => s.setTile t { Tile.reset with failed := (s.tile t).failed }) s
    | none => s)
  s.setPart p { s.part p with regs := [], led := Ledger.reset, rounds := [] }

/-! ### The close (R470) -/

/-- End the mirroring of a partition: what it held for its catcher is shown, unless it stands FENCED (R503). -/
def State.endMirror (s : State) (p : Nat) : State :=
  let n := s.net p
  let s := s.setNet p { Net.reset with snaps := n.snaps, running := n.running, snapNo := n.snapNo, heard := n.heard, rxSeq := n.rxSeq }
  if n.st == .fenced then s else n.held.foldl (fun s h => s.show h.item) s

/-- Close a BOUND partition. `silent` is the reset of a flyer that yields, which writes no record; `clear` says that the close
came of LAYOUT_CLEAR. The partition stays CLOSING until its resources are zeroed.
Log entry 100, DEDUCED. Log entry 101, DEDUCED. Log entry 103, DEDUCED. Log entry 137, DEDUCED. -/
def State.closePart (s : State) (p : Nat) (silent clear : Bool) : State :=
  let s := if silent then (s.endMirror p) else s.abortPartition p .key
  let s := if silent then (s.ctxsOf (some p)).foldl State.destroyCtx s else s
  let s := (s.leaveGroups p).endMirror p
  let s := (s.heldSlots p).foldl State.destroySlot s
  let s := (s.freeHeld p).leaveSnaps p (!clear)
  let x := (s.part p).sess
  s.setSess p { Session.none with st := .closing, layout := x.layout, clearing := clear, closeTs := s.ts }

end Sys2Proof.Machine
end

