-- ==== Sys2Proof/Machine/Mirrored.lean ====
section
/-! DEFINITION. The catcher's copy of a partition (R495 to R501, R509, R529 to R531): pairing, mirror messages as they arrive and
are applied, and the flyer's answers to ACK and PAGE. -/

namespace Sys2Proof.Machine

/-! ### RESYNC (R496) -/

/-- Send the next page of a RESYNC. -/
def State.resyncPage (s : State) (p : Nat) : State :=
  let n := s.net p
  match n.resync with
  | [] => s
  | (k, j) :: r =>
    let s := s.setNet p { n with resync := r }
    match s.objs.get k with
    | some o => let y := o.pte (o.phys j); if y.st == .zero then s else s.mirrorLines p mkResync (mkHandle k o.gen) j y.frameNo 0 1024 (some (0, 0))
    | none => s

/-! ### Messages as they arrive (R499, R500) -/

/-- Whether this device's NET applies a partition's mirror messages. -/
def State.receives (s : State) (p : Nat) : Bool := s.isCatcher && s.caught p && ((s.net p).st == .unpaired || (s.net p).st == .catching)

/-- The whole message that carries a mirror message from the flyer, or from the catcher. -/
def State.mirrorRigIn (s : State) (kind : Nat) (p mseq : Nat) (body : Bytes) : RigIn :=
  let src := match s.pairOf with
    | some (f, c) => if s.isCatcher then f else c
    | none => 0
  ⟨2, src, kind * 256 + p * 16, leBytes 8 mseq ++ leBytes 4 body.length ++ zeros 4 ++ body⟩

def State.mirrorArrived (s : State) (kind : Nat) (m : MirrorMsg) : State := s.takeInbox (s.mirrorRigIn kind m.part.val m.mseq.toNat m.body)

def State.sendAck (s : State) (p : Nat) : State := s.mirror p mkAck (leBytes 8 (s.net p).rxSeq)

/-- The object page a LINE is written to: outside a set both halves of a pair; in a set the pending half for a command's write, and
the committed half for any other. -/
def State.linePages (s : State) (o : Obj) (j : Nat) (byCmd : Bool) : List Nat :=
  if !o.paired then [j]
  else
    match o.inSet.bind (fun k => s.usets.get k) with
    | none => o.physW j
    | some u => [o.halfPage (if byCmd then u.pend else o.half) j]

def lnWriter (b : Bytes) : Option (Nat × Nat) :=
  if fieldLE b 12 2 = 0xFFFF && fieldLE b 14 4 = 0xFFFFFFFF then none else some (fieldLE b 12 2, fieldLE b 14 4)

/-- The ring a LINE names (log entry 42, DESIGN CHOICE). -/
def State.ringNamed (s : State) (w : Nat × Nat) : Option Nat :=
  if w.2 = 2 ^ 31 then (s.ctxs.get w.1).map (fun x => x.ring) else (s.queues.get (w.2 * 65536 + w.1)).map (fun q => q.ring)

/-- Pages an object LINE reaches here; none where the object is not here. -/
def State.lineHome (s : State) (kind : Nat) (b : Bytes) : Option (Nat × List Nat) :=
  match s.objOf (u32At b 0) with
  | none => none
  | some (k, o) => some (k, s.linePages o (fieldLE b 4 4) (kind == mkLine && (lnWriter b).isSome))

/-- Whether a page's copy for a snapshot holds a LINE back (R500). -/
def State.lineWaits (s : State) (kind : Nat) (b : Bytes) : Bool := match s.lineHome kind b with
  | some (k, is) => (match s.objs.get k with
    | some o => is.any (fun i => (o.pte i).snap)
    | none => false)
  | none => false

/-! ### The pair's digest round on the catcher (R529 to R531) -/

/-- The pair round whose located page a LINE answers, with the page's place in the list.
Log entry 107, DEDUCED. -/
def State.answers (s : State) (p : Nat) (b : Bytes) : Option (Nat × Nat) :=
  match s.objOf (u32At b 0) with
  | none => none
  | some (k, _) =>
    if (lnWriter b).isSome || fieldLE b 10 2 != 128 then none
    else
      let i := (s.pairPages p).findIdx (fun x => x == (k, fieldLE b 4 4))
      ((s.part p).rounds.find? (fun (e : Nat × Round) => 16 ≤ e.1 && e.2.running && e.2.lines.any (fun l => l.1 == i && l.2.1 == fieldLE b 8 2))).map (fun (e : Nat × Round) => (e.1, i))

/-- Compare the lines of an answer with this copy.
Log entry 107, DEDUCED. -/
def State.takeAnswer (s : State) (p rn i : Nat) (b : Bytes) : State :=
  match s.round p rn, (s.pairPages p)[i]?, s.pairOf with
  | some r, some (k, j), some (_, c) =>
    let first := fieldLE b 8 2
    let mine := s.logPage k j
    let s := (List.range 128).foldl (fun s m =>
      let x := (mine.drop (64 * (first + m))).take 64
      let y := (b.drop (32 + 64 * m)).take 64
      if x == y then s else s.locate p j (first + m) c x y) s
    let lines := r.lines.filter (fun l => !(l.1 == i && l.2.1 == first))
    let todo := if lines.any (fun l => l.1 == i) then r.todo else r.todo.filter (fun t => t.1 != i)
    (s.setRound p rn { r with lines := lines, todo := todo }).settleRound p rn
  | _, _, _ => s

/-- Start the catcher's part of a pair round at a commit. -/
def State.catcherRound (s : State) (k : Nat) (u : USet) : State :=
  let p := k / 16
  let n := s.digInterval p
  if u.mode = 1 || n = 0 || u.epoch % n != 0 || s.stepSet p != some k then s
  else
    let s := s.endRound p (pairRound (k % 16))
    let old := s.round p (pairRound (k % 16))
    let s := s.setRound p (pairRound (k % 16)) ⟨u.epoch, s.pairDigests p u.epoch, [], [], [], [], false, [], none, old.bind (fun r => r.diag), true, s.ts⟩
    let s := s.chargePair p
    s.setDigStatus p (s.diverged p) 0

/-- The flyer's list has come: pages that differ are requested, and the partition will have to arbitrate.
Log entry 108, DEDUCED. -/
def State.compareDigests (s : State) (p set epoch : Nat) (l : List Nat) : State :=
  let rn := pairRound set
  match s.round p rn with
  | none => s
  | some r =>
    if !r.running || r.epoch != epoch then s
    else
      let pages := s.pairPages p
      let bad := (List.range pages.length).filter (fun i => nth0 r.own i != nth0 l i)
      let s := s.setRound p rn { r with todo := bad.map (fun i => (i, false)), found := bad, split := !bad.isEmpty,
                                        lines := bad.flatMap (fun i => (List.range 8).map (fun n => (i, 128 * n, false))) }
      let s := bad.foldl (fun s i => match pages[i]? with
        | some (k, j) => (match s.objs.get k with
          | some o => s.mirror p mkPage (leBytes 4 (mkHandle k o.gen).toNat ++ leBytes 4 j)
          | none => s)
        | none => s) s
      s.settleRound p rn

/-! ### Journal records (R498) -/

/-- An object as a record gives it, with this device's own frames. -/
def State.applyObj (s : State) (k : Nat) (x : Obj) : State :=
  let fresh := match s.objs.get k with
    | some o => o.gen != x.gen
    | none => true
  let s := if fresh then
      let s := s.dropPages k
      let o : Obj := { x with pages := [] }
      match (if x.tier = 1 then s.newHbm k o x.pages.length [] else s.newFlash k o x.pages.length []) with
      | some s => { s with objGens := s.objGens.set k x.gen }
      | none => s
    else s
  match s.objs.get k with
  | none => s
  | some o =>
    let half := if !fresh && o.inSet.isSome && x.inSet.isSome then o.half else x.half
    let pages := (o.pages.zipIdx).map (fun e => let y := x.pte e.2
      if y.st == .incomplete && e.1.st != .incomplete then { e.1.setSt .incomplete with covered := [] }
      else if y.st == .sealedPg then e.1.sealPage y.shared
      else if y.wp && !e.1.wp then e.1.withBit 12 true else e.1)
    s.setObj k { x with pages := pages, half := half, major := o.major, nextMajor := o.nextMajor }

/-- A set as a record gives it: half and epoch are moved by COMMIT alone. -/
def State.applySet (s : State) (k : Nat) (x : USet) : State :=
  let n := s.net (k / 16)
  let s := s.setNet (k / 16) { n with view := { n.view with sets := n.view.sets.set k x } }
  match s.usets.get k with
  | some u =>
    let half := if u.mode = 0 then u.half else cmHalf x.commit
    let c := mkCommit half 0 (cmNonfinite x.commit) (cmOver x.commit) (cmDropped x.commit) x.mode (cmTorn x.commit) (cmBuckets x.commit)
    s.setUset k { x.setCommit c with run := none, epoch := if u.mode = 0 then u.epoch else x.epoch }
  | none => s.setUset k ({ x with run := none }.withState 0)

/-- Apply a journal record to the copy.
Log entry 90, DEDUCED. -/
def State.applyRec (s : State) (p : Nat) : JRec → State
  | .ctx k (some x) => (match s.ctxs.get k with
    | some o => s.setCtx k { x with ring := o.ring, bar2 := o.bar2 }
    | none => (match s.newRing x.fn (some p) (32 * 2 ^ x.evLog) with
      | some (r, b, s) => s.setCtx k { x with ring := r, bar2 := b }
      | none => s))
  | .ctx k none => (match s.ctxs.get k with
    | some o => { s.dropRing o.fn o.ring with ctxs := s.ctxs.erase k }
    | none => s)
  | .queue k (some x) =>
    let s := (match s.queues.get k with
      | some o => s.setQueue k { x with ring := o.ring, bar2 := o.bar2 }
      | none => (match s.newRing (qFn k) (some p) (128 * 2 ^ x.sqLog + 32 * 2 ^ x.cqLog) with
        | some (r, b, s) => s.setQueue k { x with ring := r, bar2 := b }
        | none => s))
    let live (w : Nat × Nat × Nat × Nat) : Bool := w.2.2.1 != qIdx k || x.fetched.any (fun e => e.sub == w.2.2.2)
    s.setNet p { s.net p with writers := (s.net p).writers.filter live }
  | .queue k none => s.dropQueue k
  | .event k (some x) => { s with events := s.events.set k x }
  | .event k none => { s with events := s.events.erase k }
  | .obj k (some x) => s.applyObj k x
  | .obj k none => s.dropPages k
  | .slot k (some x) => s.setPart p { s.part p with slots := (s.part p).slots.set k { x with body := 0, unloadWait := [] } }
  | .slot k none => s.emptySlot p k
  | .reg k (some x) => s.setReg k { x with cacheIdx := none }
  | .reg k none => s.dropReg k
  | .set k (some x) => s.applySet k x
  | .set k none => let n := s.net p; (s.setNet p { n with view := { n.view with sets := n.view.sets.erase k } }).dropSet k
  | .recipe k (some x) => { s with recipes := s.recipes.set k x }
  | .recipe k none => { s with recipes := s.recipes.erase k }
  | .groups l => let n := s.net p; s.setNet p { n with view := { n.view with groups := l } }
  | .key k (some x) => if s.keys.has k then s.setKey k { s.key k with outCount := x } else s
  | .key _ none => s
  | .core a => let n := s.net p; s.setNet p { n with view := { n.view with core := a } }
  | .cursors l => (l.zipIdx).foldl (fun s e => s.setPreg p (netCursor e.2) e.1) s
  | .digest set epoch l => s.compareDigests p set epoch l

/-! ### Applying in mseq order (R500, R501) -/

/-- Note that a command wrote a page. -/
def State.noteWriter (s : State) (p k : Nat) (is : List Nat) (w : Option (Nat × Nat)) : State := match w with
  | none => s
  | some w => let n := s.net p; s.setNet p { n with writers := n.writers ++ (is.map (fun i => (k, i, w.1, w.2))).filter (fun x => !n.writers.contains x) }

/-- A COMMIT flips the copy's half. -/
def State.applyCommit (s : State) (p : Nat) (b : Bytes) : State :=
  let k := Sys2Proof.Machine.setKey p (fieldLE b 0 1)
  match s.usets.get k with
  | none => s
  | some u =>
    let half := fieldLE b 1 1
    let c := mkCommit half 0 (cmNonfinite u.commit) (cmOver u.commit) (cmDropped u.commit) u.mode (cmTorn u.commit) (cmBuckets u.commit)
    let s := if u.closeTs = 0 then s else s.bumpPart p cDigWait (s.ts - u.closeTs)
    let u := { u.setCommit c with epoch := fieldLE b 8 8, fresh := true, closeTs := 0 }
    ((s.setUset k u).flipObjs k half).catcherRound k u

def State.applyMirror (s : State) (p kind : Nat) (b : Bytes) : State :=
  if kind = mkLine || kind = mkResync then
    (if fieldLE b 0 4 = 0xFFFFFFFF then
      (match (lnWriter b).bind s.ringNamed with
       | some r => s.objWrite r (fieldLE b 4 4 * pageBytes + 64 * fieldLE b 8 2) (b.drop 32)
       | none => s)
    else
      match s.answers p b with
      | some (rn, i) => s.takeAnswer p rn i b
      | none => (match s.lineHome kind b with
        | some (k, is) =>
          let s := is.foldl (fun s i => s.pageWrite k i (64 * fieldLE b 8 2) (b.drop 32) none) s
          if kind = mkLine then s.noteWriter p k is (lnWriter b) else s
        | none => s))
  else if kind = mkState then
    (match Config.readJournal b with
     | some r => s.applyRec p r
     | none => s)
  else if kind = mkCommitMsg then s.applyCommit p b
  else if kind = mkFlash then
    (match s.objOf (u32At b 0) with
     | some (k, o) => if o.tier = 2 && !o.isSealed then s.pageWrite k (fieldLE b 4 4) (fieldLE b 8 4) (b.drop 16) none else s
     | none => s)
  else if kind = mkSnap then
    (if (s.net p).running.isSome then s.bumpPart p cSnapSkipped 1 else s.startSnap p none (some (fieldLE b 0 4, fieldLE b 8 8)))
  else s

/-- Whether the next message has to wait: for a snapshot's copy, or a COMMIT for the end of the pair's round (R528). -/
def State.mirrorWaits (s : State) (p kind : Nat) (b : Bytes) : Bool :=
  ((kind == mkLine || kind == mkResync) && fieldLE b 0 4 != 0xFFFFFFFF && (s.answers p b).isNone && s.lineWaits kind b) ||
  (kind == mkCommitMsg && (match s.round p (pairRound (fieldLE b 0 1)) with
    | some r => r.running && !r.todo.isEmpty
    | none => false))

/-- Note since when a COMMIT waits. -/
def State.noteWait (s : State) (p kind : Nat) (b : Bytes) : State :=
  let k := Sys2Proof.Machine.setKey p (fieldLE b 0 1)
  match (if kind = mkCommitMsg then s.usets.get k else none) with
  | some u => if u.closeTs = 0 then s.setUset k { u with closeTs := s.ts } else s
  | none => s

/-- Apply the messages whose turn it is; each is acknowledged unless a takeover has begun. -/
def State.drainMirror (s : State) (p : Nat) (ack : Bool) : (fuel : Nat) → State
  | 0 => s
  | f + 1 =>
    let n := s.net p
    match n.stash.get (n.rxSeq + 1) with
    | none => s
    | some (kind, b) =>
      if s.mirrorWaits p kind b then s.noteWait p kind b
      else
        let s := s.applyMirror p kind b
        let n := s.net p
        let s := s.setNet p { n with rxSeq := n.rxSeq + 1, stash := n.stash.erase (n.rxSeq + 1) }
        State.drainMirror (if ack then s.sendAck p else s) p ack f

/-- A message for the catcher's copy: applied in its turn; one applied already is acknowledged again.
Log entry 81, DESIGN CHOICE. -/
def State.mirrorIn (s : State) (p kind mseq : Nat) (b : Bytes) (ack : Bool) : State :=
  let n := s.net p
  if mseq ≤ n.rxSeq then (if ack then s.sendAck p else s)
  else (s.setNet p { n with stash := n.stash.set mseq (kind, b) }).drainMirror p ack (n.stash.length + 2)

def State.mirrorStep (s : State) (kind : Nat) (m : MirrorMsg) : State :=
  let s := s.mirrorArrived kind m
  let p := m.part.val
  if s.receives p then s.mirrorIn p kind m.mseq.toNat m.body true else s

/-- MIRROR_LINE. -/
def execMirrorLine (m : MirrorMsg) (s : State) : Host.Outcome State Fault Refusal := .next (s.mirrorStep mkLine m)
/-- MIRROR_STATE. -/
def execMirrorState (m : MirrorMsg) (s : State) : Host.Outcome State Fault Refusal := .next (s.mirrorStep mkState m)
/-- MIRROR_COMMIT. -/
def execMirrorCommit (m : MirrorMsg) (s : State) : Host.Outcome State Fault Refusal := .next (s.mirrorStep mkCommitMsg m)
/-- MIRROR_FLASH. -/
def execMirrorFlash (m : MirrorMsg) (s : State) : Host.Outcome State Fault Refusal := .next (s.mirrorStep mkFlash m)
/-- MIRROR_SNAP. -/
def execMirrorSnap (m : MirrorMsg) (s : State) : Host.Outcome State Fault Refusal := .next (s.mirrorStep mkSnap m)
/-- MIRROR_RESYNC. -/
def execMirrorResync (m : MirrorMsg) (s : State) : Host.Outcome State Fault Refusal := .next (s.mirrorStep mkResync m)

/-! ### RESYNC_DONE, ACK, PAGE and PAIR -/

/-- Whether an update attempt of a partition is open. -/
def State.attemptOpen (s : State) (p : Nat) : Bool := s.usets.any (fun (e : Nat × USet) => e.1 / 16 == p && e.2.isOpen)

/-- RESYNC_DONE: on the flyer once every page has been sent and acknowledged and no attempt is open, on the catcher when its copy is
full. -/
def execResyncDone (p : Part) (s : State) : Host.Outcome State Fault Refusal :=
  let p := p.val
  if (s.net p).st == .resync then
    let s := s.flushJournal p
    let n := s.net p
    .next (if n.resync.isEmpty && n.out.isEmpty && n.unacked.isEmpty && !s.attemptOpen p then s.setNet p { n with st := .paired } else s)
  else if (s.net p).st == .unpaired && s.receives p then .next (s.setNet p { s.net p with st := .catching })
  else .next s

/-- A flyer's pair rounds whose list the catcher has applied end.
Log entry 99, DEDUCED. -/
def State.endPairRounds (s : State) (p upTo : Nat) : State :=
  ((s.part p).rounds.filter (fun (e : Nat × Round) => 16 ≤ e.1 && e.2.running && (match e.2.sentAt with
    | some m => m ≤ upTo
    | none => false))).foldl (fun s (e : Nat × Round) => s.endRound p e.1) s

/-- MIRROR_ACK: held items are released in order, and sets whose COMMIT it covers flip. -/
def execMirrorAck (m : MirrorMsg) (s : State) : Host.Outcome State Fault Refusal :=
  let s := s.mirrorArrived mkAck m
  let p := m.part.val
  let n := s.net p
  if n.st != .paired && n.st != .resync then .next s
  else
    let a := min n.txSeq (max n.acked (fieldLE m.body 0 8))
    let s := s.setNet p { n with acked := a, unacked := n.unacked.filter (fun x => a < x.1) }
    .next (((s.releaseHeld p a).flipAcked p a).endPairRounds p a)

/-- MIRROR_PAGE: the page's lines go back as LINE messages; on a flyer whose pair round runs, the page is one that differs. -/
def execMirrorPage (m : MirrorMsg) (s : State) : Host.Outcome State Fault Refusal :=
  let s := s.mirrorArrived mkPage m
  let p := m.part.val
  if !s.caught p then .next s
  else
    match s.objOf (u32At m.body 0) with
    | none => .next s
    | some (k, o) =>
      let j := fieldLE m.body 4 4
      if o.part != some p || o.tier != 1 || o.logPages ≤ j then .next s
      else
        let i := (s.pairPages p).findIdx (fun x => x == (k, j))
        let s := ((s.part p).rounds.filter (fun (e : Nat × Round) => 16 ≤ e.1 && e.2.running && e.2.sentAt.isSome)).foldl
          (fun s (e : Nat × Round) => s.setRound p e.1 { e.2 with split := true, found := e.2.found ++ [i] }) s
        .next (s.mirrorLines p mkLine (u32At m.body 0) j (o.pte (o.phys j)).frameNo 0 1024 none)

/-- MIRROR_PAIR: a BOUND partition takes the peer's PAIR. The first of the peer's session is answered; a catcher drops what it
held when a pair forms afresh.
Log entry 104, DEDUCED. -/
def execMirrorPair (m : MirrorMsg) (s : State) : Host.Outcome State Fault Refusal :=
  let s := s.mirrorArrived mkPair m
  let p := m.part.val
  if !s.bound p || s.pairOf.isNone then .next s
  else
    let again := m.mseq == 1
    let n := s.net p
    let fresh := again || !s.caught p
    let s := s.setNet p { n with heard := some m.body, rxSeq := m.mseq.toNat, stash := [] }
    let s := if fresh && s.isCatcher then
        let s := (s.ctxsOf (some p)).foldl State.destroyCtx s
        s.setNet p { s.net p with st := .unpaired, view := JView.empty, writers := [] }
      else s
    let s := if again then s.sendPair p else s
    .next (s.tryPair p again)

end Sys2Proof.Machine
end

