-- ==== Sys2Proof/Machine/Takeover.lean ====
section
/-! DEFINITION. The loss of a device (R351, R370, R385) and what the safety net does of it (R502 to R508): the catcher's takeover,
the flyer's fence, and the takeover notice. -/

namespace Sys2Proof.Machine

/-! ### Groups lose a device (R370, R385) -/

/-- Members at some positions are no longer joined: an ACTIVE group is aborted. -/
def State.groupsLose (s : State) (lost : Nat → Bool) : State :=
  (s.groups.filter (fun (e : Nat × Group) => (List.range e.2.n).any (fun m => lost (gePos e.2.entry m)))).foldl (fun s e =>
    let x := s.group e.1
    let owners := x.owners.filter (fun (o : Nat × Nat) => !lost (gePos x.entry o.1))
    if x.st == .active then (s.setGroup e.1 { x with st := .aborting, cause := some .other, owners := owners }).settleGroups
    else s.setGroup e.1 { x with owners := owners }) s

/-! ### Partition cores (R469, R505) -/

/-- The range of a CORE_START, when the object is the partition's and the range lies in it: its key, offset and length. -/
def State.coreRange (s : State) (p : Nat) (a : CoreStartArgs) : Option (Nat × Nat × Nat) :=
  match s.objOf a.handle with
  | some (k, o) => if o.part == some p && a.off.toNat + a.len.toNat ≤ o.bytes then some (k, a.off.toNat, a.len.toNat) else none
  | none => none

/-- Reset and start a partition's cores on a range that has been verified: its pages are write-protected, and the start is recorded. -/
def State.startCores (s : State) (p : Nat) (a : CoreStartArgs) (a0 : Nat) : State :=
  match s.coreRange p a with
  | none => s
  | some (k, off, len) =>
    let s := (cutPages off len).foldl (fun s r => match s.objs.get k with
      | some o => (o.physW (r.1 / pageBytes)).foldl (fun (s : State) i => match s.objs.get k with
        | some o => s.setObj k (o.setPte i ((o.pte i).withBit 12 true))
        | none => s) s
      | none => s) s
    s.setSess p { (s.part p).sess with core := some a, coreDigest := a.digest, coreTs := s.ts, coreA0 := a0 }

/-! ### Takeover (R502 to R507) -/

/-- The placed position of the pair peer. -/
def State.peerAt (s : State) : Option Nat := s.rig.placed.map (tbPair s.rig.troupe)

/-- Whether a port to a device other than the pair peer is UP. -/
def State.thirdPort (s : State) : Bool :=
  match s.rig.placed with
  | none => false
  | some here => (List.range 12).any (fun p =>
      let q := tbWire s.rig.troupe here p
      (s.port p).st == .up && q != 0xFF && some q != s.peerAt && q != here)

/-- The bytes of a takeover notice (R499). -/
def noticeBytes (flyer : Nat) (identity : Bytes) (ts : Nat) : Bytes := leBytes 1 flyer ++ zeros 7 ++ identity ++ leBytes 8 ts

/-- Step 1: the notice goes to every position this device does not serve. -/
def State.sendNotice (s : State) (flyer ts : Nat) : State :=
  ((tbPositions s.rig.troupe).filter (fun q => !s.rig.serves q)).foldl (fun s q => s.sendMsg 2 q flyer 0xFFF none (noticeBytes flyer ownIdentity ts)) s

/-- Step 2: apply every whole message of a partition that has come, and discard partial ones.
Log entry 106, DEDUCED. -/
def State.applyWhole (s : State) (p : Nat) : State :=
  let src := match s.pairOf with
    | some (f, _) => f
    | none => 0
  let mine (m : RigIn) : Bool := m.cls == 2 && m.src == src && m.flow != 0xFFF && m.flow / 16 % 16 == p && m.flow / 256 < 6
  let ms := (s.rig.inbox.map (fun w => w.msg)).filter mine
  let s := (s.dropInbox mine).dropPartials mine
  ms.foldl (fun s m => s.mirrorIn p (m.flow / 256) (fieldLE m.data 0 8) ((m.data.drop 16).take (fieldLE m.data 8 4)) false) s

/-- Step 3: pending halves are abandoned; a bucket-mode set whose attempt was open is torn. -/
def State.abandonSets (s : State) (p : Nat) : State :=
  (s.usets.filter (fun (e : Nat × USet) => e.1 / 16 == p)).foldl (fun s e =>
    let torn := e.2.mode == 1 && (((s.net p).view.sets.get e.1).bind (fun u => u.run)).isSome
    let c := mkCommit e.2.half 0 (cmNonfinite e.2.commit) (cmOver e.2.commit) (cmDropped e.2.commit) e.2.mode (cmTorn e.2.commit || torn) (cmBuckets e.2.commit)
    s.setUset e.1 { e.2.setCommit c with run := none }) s

/-- Completion records that stand in a mirrored ring past the last one known, by their phase bit. -/
def State.adoptRecs (s : State) (qk : Nat) : (fuel : Nat) → State
  | 0 => s
  | f + 1 =>
    match s.queues.get qk with
    | none => s
    | some q =>
      let r := s.objRead q.ring (q.recOff q.written) 32
      if bitOf (fieldLE r 5 1) 7 == decide (q.written / q.cqSize % 2 = 0) && diff32 q.written q.cqHead < q.cqSize then
        State.adoptRecs (s.setQueue qk { q with written := (q.written + 1) % w32, fetched := q.fetched.filter (fun e => e.sub != fieldLE r 0 4) }) qk f
      else s

/-- Event records that stand in a mirrored ring past the last one known. -/
def State.adoptEvents (s : State) (c : Nat) : (fuel : Nat) → State
  | 0 => s
  | f + 1 =>
    match s.ctxs.get c with
    | none => s
    | some x =>
      let size := 2 ^ x.evLog
      let r := s.objRead x.ring (x.evWritten % size * 32) 32
      if bitOf (fieldLE r 25 1) 7 == decide (x.evWritten / size % 2 = 0) then State.adoptEvents (s.setCtx c { x with evWritten := x.evWritten + 1 }) c f else s

/-- What becomes of an unfinished command on the catcher (R506): whether it is run again. -/
def State.reruns (s : State) (p qk : Nat) (sub : Nat) (cmd : HostCmd) : Bool :=
  match cmd with
  | .run a =>
    (s.net p).view.sets.any (fun (e : Nat × USet) => e.2.run == some (qk * w32 + sub)) &&
      (s.runHandles p a).all (fun h => match s.objOf h with
        | some (_, o) => o.mirrored || o.isSealed
        | none => false)
  | .copy a => a.src != 0xFFFFFFFF && a.dst != 0xFFFFFFFF
  | _ => true

/-- Pages an ABORTED command wrote become INCOMPLETE, those of pending halves apart. -/
def State.spoilWritten (s : State) (p qk sub : Nat) : State :=
  ((s.net p).writers.filter (fun w => w.2.2.1 == qIdx qk && w.2.2.2 == sub)).foldl (fun s w => match s.objs.get w.1 with
    | some o => if o.paired && o.inSet.isSome && w.2.1 % 2 != o.half then s else s.markIncomplete w.1 w.2.1
    | none => s) s

/-- End an unfinished command, or set it to start again.
Log entry 106, DEDUCED. -/
def State.classify (s : State) (p qk ts : Nat) (e : Entry) : State :=
  if s.reruns p qk e.sub e.cmd then
    (match s.queues.get qk with
     | some q => s.setQueue qk { q with fetched := q.fetched.map (fun x => if x.sub == e.sub then { x with st := .waiting, startTs := 0 } else x) }
     | none => s)
  else (s.spoilWritten p qk e.sub).complete qk e.sub ⟨.aborted, .request, 0, ts, 0, 0, none⟩

/-- Ready entries are unfinished too: each for which a completion slot is free is taken and classified.
Log entry 106, DEDUCED. -/
def State.classifyReady (s : State) (p qk ts : Nat) : (fuel : Nat) → State
  | 0 => s
  | f + 1 =>
    match s.queues.get qk with
    | none => s
    | some q =>
      if q.ready = 0 || q.cqSize ≤ s.slotsUsed qk q then s
      else
        match readEntry (s.readyBytes q 5) with
        | none => s
        | some e =>
          let s := s.setQueue qk (q.take e)
          let s := if s.reruns p qk q.head e.cmd then s.takeEntry qk q.head (q.stamp q.head) q e
            else s.complete qk q.head ⟨.aborted, .request, 0, ts, 0, 0, none⟩
          State.classifyReady s p qk ts f

/-- Step 4: each queue is rebuilt from its rings.
Log entry 90, DEDUCED. -/
def State.rebuildQueue (s : State) (p qk ts : Nat) : State :=
  match s.queues.get qk with
  | none => s
  | some q =>
    let s := s.adoptRecs qk q.cqSize
    match s.queues.get qk with
    | none => s
    | some q => (q.fetched.foldl (fun s e => s.classify p qk ts e) s).classifyReady p qk ts (q.ready + 1)

/-- The functions of a partition: its virtual function and those its contexts were created through. -/
def State.partFns (s : State) (p : Nat) : List Nat :=
  ((p + 1) :: (s.ctxs.filter (fun (e : Nat × Ctx) => e.2.part == some p)).map (fun (e : Nat × Ctx) => e.2.fn)).eraseDups

/-- Rejoin the groups the partition was joined to (R507).
Log entry 109, DEDUCED. -/
def State.rejoin (s : State) (p : Nat) : State :=
  (s.net p).view.groups.foldl (fun s (m : Member) => match s.tryJoin p m.group m.member (s.group m.group).gen m.owner m.digest with
    | .ok s => s
    | .error _ => s) s

/-- Take over one partition: steps 2 to 6, and the groups it had joined. -/
def State.takePart (s : State) (ts p : Nat) : State :=
  let s := (s.applyWhole p).abandonSets p
  let n := s.net p
  let s := s.setNet p { n with st := .solo, takeAt := none, stash := [], waitGroups := true, heard := none }
  let s := ((s.part p).slots.filter (fun (e : Nat × ImgSlot) => e.2.st == .loading)).foldl (fun (s : State) (e : Nat × ImgSlot) => s.emptySlot p e.1) s
  let s := { s with events := s.events.map (fun (e : Nat × Event) => if s.ctxPart (some e.2.owner) == some p then (e.1, { e.2 with shown := e.2.value }) else e) }
  let s := (s.ctxsOf (some p)).foldl (fun s c => match s.ctxs.get c with
    | some x => s.adoptEvents c (2 ^ x.evLog)
    | none => s) s
  let s := ((s.queues.filter (fun (e : Nat × Queue) => s.ctxPart e.2.ctx == some p)).map (fun (e : Nat × Queue) => e.1)).foldl (fun s k => s.rebuildQueue p k ts) s
  let s := match n.view.core with
    | some a => (match s.coreRange p a with
      | some (k, off, len) => if sha384 (s.objRead k off len) == leBytes 48 a.digest.toNat then s.startCores p a 1 else s
      | none => s)
    | none => s
  let s := s.setPreg p 0x6000 ((s.preg p 0x6000 0 + 2 ^ 32) % 2 ^ 48)
  let s := s.rejoin p
  s.setNet p { s.net p with view := JView.empty, writers := [] }

/-- The takeover record, to the functions of the partitions taken over and to the physical function (R507).
Log entry 214, DEDUCED. -/
def State.noteTakeover (s : State) (flyer ts : Nat) (ps : List Nat) : State :=
  ((ps.flatMap s.partFns ++ [0]).eraseDups).foldl (fun s f => s.show (.rcd (adminKey f) ⟨0xFFFFFFFE, .ok, .device, 0, 0, 0, flyer, ts, 0⟩)) s

/-- The partitions this device holds as a catcher. -/
def State.catching (s : State) : List Nat := (List.range 16).filter (fun p => (s.net p).st == .catching)

/-- Set the serving map of a pair: a placed position serves the flyer's, the other one the catcher's. -/
def State.setServing (s : State) (f c flyerAt : Nat) : State :=
  s.setRig { s.rig with serving := (s.rig.serving.set f flyerAt).set c (if flyerAt = f then c else f) }

/-- Start the takeover of every partition caught from the flyer; without a port to a third device it waits for one (R502).
Log entry 106, DEDUCED. -/
def State.takeover (s : State) (ts : Nat) : State :=
  match s.rig.placed, s.pairOf with
  | some here, some (f, c) =>
    let ps := s.catching
    if ps.isEmpty then s
    else if !s.thirdPort || !s.compUp cpNet then ps.foldl (fun s p => s.setNet p { s.net p with takeAt := some ((s.net p).takeAt.getD ts) }) s
    else
      let s := ps.foldl (fun s p => s.applyWhole p) s
      let s := (s.setServing f c here).sendNotice f ts
      (ps.foldl (fun s p => s.takePart ts p) s).noteTakeover f ts ps
  | _, _ => s

/-- A takeover that waits for a port or for NET starts once one has come UP and NET is back. -/
def State.resumeTakeover (s : State) : State :=
  match (s.catching.filterMap (fun p => (s.net p).takeAt)).head? with
  | some ts => s.takeover ts
  | none => s

/-! ### A device declares its peer lost (R351, R503) -/

/-- A flyer fences its PAIRED partitions; one in RESYNC goes on alone. -/
def State.fence (s : State) : State :=
  (List.range 16).foldl (fun s p =>
    let n := s.net p
    if n.st == .paired then s.setNet p { n with st := .fenced, fencedAt := some s.ts, out := [], unacked := [] }
    else if n.st == .resync then s.setNet p { n with st := .solo, resync := [], out := [], unacked := [] }
    else s) s

/-- A device at a placed position is lost: groups lose its members, and its pair peer's safety net acts. -/
def State.loseDevice (s : State) (d : Nat) : State :=
  if s.rig.lost.contains d then s
  else
    let s := (s.setRig { s.rig with lost := insertNat d s.rig.lost }).logRec (.lost d)
    let s := s.groupsLose (fun q => s.rig.server q == d)
    if s.peerAt == some d then (if s.isFlyer then s.fence else s.takeover s.ts) else s

/-! ### TAKEOVER_NOTICE and FENCE_NOTICE_TIMEOUT (R503, R504) -/

/-- TAKEOVER_NOTICE: the named device serves the flyer's position. A flyer that has fenced partitions less than 20 us ago yields
them.
Log entry 100, DEDUCED. -/
def execTakeoverNotice (flyer : Pos) (identity : U128) (ts : U64) (s : State) : Host.Outcome State Fault Refusal :=
  let b := s.rig.troupe
  let f := flyer.val
  let c := tbPair b f
  let s := s.dropInbox (fun m => m.cls == 2 && m.flow == 0xFFF && m.data == noticeBytes f (leBytes 16 identity.toNat) ts.toNat)
  match ((tbUsed b).find? (fun e => (e.drop 16).take 16 == leBytes 16 identity.toNat)).map tbPos with
  | none => .next s
  | some d =>
    if c = 0xFF || (d != f && d != c) || s.rig.server f == d then .next s
    else
      let old := s.rig.server f
      let s := if s.rig.lost.contains old then s else s.groupsLose (fun q => q == f)
      let s := s.setServing f c d
      .next (if s.rig.placed == some old then
          (List.range 16).foldl (fun s p => match (s.net p).st, (s.net p).fencedAt with
            | .fenced, some t => if s.ts ≤ t + 20000 then s.closePart p true false else s
            | _, _ => s) s
        else s)

/-- Work resumes on a flyer alone: what was held becomes visible, and sets whose COMMIT was sent flip. -/
def State.resumeSolo (s : State) (p : Nat) : State :=
  let n := s.net p
  ((s.setNet p { n with st := .solo, fencedAt := none }).releaseAll p).flipAcked p n.txSeq

/-- FENCE_NOTICE_TIMEOUT: with a port to a third device UP the partition goes SOLO, and otherwise it stays FENCED until a reset, whatever comes later. -/
def execFenceNoticeTimeout (p : Part) (s : State) : Host.Outcome State Fault Refusal :=
  let n := s.net p.val
  match n.st, n.fencedAt with
  | .fenced, some t => .next (if s.ts < t + 20000 then s else if s.thirdPort then s.resumeSolo p.val else s.setNet p.val { n with fencedAt := none })
  | _, _ => .next s

end Sys2Proof.Machine
end

