-- ==== Sys2Proof/Machine/Ports.lean ====
section
/-! DEFINITION. Rigging ports (R328 to R362, R472): frames and flits as they come and go, link replay and credits, port states, heartbeats
and troupe time, link authentication, and forwarded commands. -/

namespace Sys2Proof.Machine

/-! ### The link word (R332) -/

def lwSeq (w : U32) : Nat := bitsOf w.toNat 20 12
def lwAck (w : U32) : Nat := bitsOf w.toNat 8 12
def lwNak (w : U32) : Bool := bitOf w.toNat 7
def lwCls (w : U32) : Nat := bitsOf w.toNat 5 2
def lwCredits (w : U32) : Nat := bitsOf w.toNat 0 5
def mkLink (seq ack : Nat) (nak : Bool) (cls credits : Nat) : U32 :=
  BitVec.ofNat 32 (seq % 4096 * 2 ^ 20 + ack % 4096 * 256 + b2n nak * 128 + cls % 4 * 32 + credits % 32)

/-- Receive buffers by class (R334). -/
def clsBuf : Nat → Nat
  | 0 => 1024
  | 1 => 512
  | 2 => 512
  | _ => 64

def flowNull : Nat := 0x7FE
def flowBeat : Nat := 0x7FF

/-! ### Flit protection (R335, R336) -/

/-- The position wired to a port of this device. -/
def State.wired (s : State) (p : Nat) : Nat := match s.rig.placed with
  | some here => tbWire s.rig.troupe here p
  | none => 0xFF
def State.here (s : State) : Nat := s.rig.placed.getD 0xFF
/-- The direction byte of flits this end sends. -/
def State.txDir (s : State) (p : Nat) : Nat := if s.here < s.wired p then 0 else 1

def flitKey (secret : U256) (dir epoch : Nat) : U256 := kmac256 (leBytes 32 secret.toNat) (leBytes 1 dir ++ leBytes 4 epoch) 256 "FKL RIGGING"

/-- The nonce of the flit with a number: key epoch and extended sequence number. -/
def flitNonce (n : Nat) : Bytes := leBytes 4 (n / 2 ^ 32) ++ leBytes 4 (n % 2 ^ 32) ++ zeros 4

/-- The tag of the flit with a number, all flits since UP counted; the key epoch is its quotient by 2^32. -/
def flitTag (secret : U256) (dir n : Nat) (link route : U32) (payload : Bytes) : U64 :=
  (gcmTag (flitKey secret dir (n / 2 ^ 32)) (flitNonce n) (leBytes 4 link.toNat) (leBytes 4 route.toNat ++ payload)).setWidth 64

/-- A flit as it leaves the die: the link word in clear, the route word and payload encrypted, and the tag (R23, R331, R335). -/
def flitWire (secret : U256) (dir n : Nat) (link route : U32) (payload : Bytes) : Bytes :=
  leBytes 4 link.toNat ++ gcmCrypt (flitKey secret dir (n / 2 ^ 32)) (flitNonce n) (leBytes 4 route.toNat ++ payload) ++
    leBytes 8 (flitTag secret dir n link route payload).toNat

/-- The FEC frame that carries a flit: frame byte 2j + c is position j of codeword c, whose positions 0 to 127 hold flit bytes c, c + 2, ... and
whose positions 128 to 135 hold parity (R329). The code's field and generator are not given: parity bytes are free values.
Log entry 213, DESIGN CHOICE. -/
def fecFrame (flit : Bytes) : Bytes :=
  let word (c : Nat) : Bytes := (List.range 128).map (fun j => flit.getD (2 * j + c) 0)
  (List.range 272).map (fun i => if i < 256 then (word (i % 2)).getD (i / 2) 0 else Config.fecParity (word (i % 2)) (i / 2 - 128))

/-- The lane of a device that sends byte `i` of a frame of port `p` (R328, R329). -/
def frameLane (p i : Nat) : Nat := 4 * p + i % 4

/-- The flit number nearest the expected one with given low 12 bits.
Log entry 111, DEDUCED. -/
def nearSeq (expect low : Nat) : Nat :=
  let d := (low + 4096 - expect % 4096) % 4096
  if d < 2048 || expect + d < 4096 then expect + d else expect + d - 4096

/-! ### Routes that come and go -/

/-- Note since when no UP route to a position remains (R357). -/
def State.noteRoutes (s : State) : State :=
  let t := (tbPositions s.rig.troupe).foldl (fun (t : Tbl Nat) q =>
    if s.rig.serves q || (s.outPort q).isSome then t.erase q else t.set q (t.getD q s.ts)) s.rig.noRoute
  s.setRig { s.rig with noRoute := t }

/-- Whether a placed position is reachable. -/
def State.reaches (s : State) (q : Nat) : Bool :=
  some q == s.rig.placed || (!s.rig.lost.contains q && (List.range 12).any (fun p => (s.port p).st == .up) && (match s.rig.placed with
    | none => false
    | some here =>
      let r := tbRoute s.rig.troupe here q
      let up (p : Nat) : Bool := p < 12 && (s.port p).st == .up
      rtValid r && (up (rtPrimary r) || up (rtAlternate r))))

/-- The time master: the reachable member with the lowest position (R358, R362). -/
def State.timeMaster (s : State) : Nat := (tbPositions s.rig.troupe).find? s.reaches |>.getD s.here

/-- Choose master and parent afresh. -/
def State.retime (s : State) : State :=
  match s.rig.placed with
  | none => s
  | some here =>
    let m := s.timeMaster
    if m = here then s.setRig { s.rig with master := m, parent := none, depth := 0, theta := 0, unsync := false, orphan := none, steer := 0 }
    else
      let q := rtPrimary (tbRoute s.rig.troupe here m)
      let up := q < 12 && (s.port q).st == .up
      s.setRig { s.rig with master := m, parent := some q, orphan := if up then none else some (s.rig.orphan.getD s.ts) }

/-! ### A port leaves UP (R348 to R352) -/

/-- Mirror messages that may have been lost with a port to the pair peer are sent again.
Log entry 105, DEDUCED. -/
def State.requeueMirror (s : State) : State :=
  (List.range 16).foldl (fun s p =>
    let n := s.net p
    if n.unacked.isEmpty then s else s.setNet p { n with out := n.unacked ++ n.out, unacked := [] }) s

/-- Declare the device wired to a port lost, where every port joined to it is down and one went by loss (R351).
Log entry 113, DEDUCED. -/
def State.checkLost (s : State) (p : Nat) : State :=
  let q := s.wired p
  let ps := (List.range 12).filter (fun x => s.wired x == q)
  let down (x : Nat) : Bool := let st := (s.port x).st; st == .down || st == .masked || st == .authFail || st == .joinRefused
  if q < 64 && some q != s.rig.placed && ps.all down && ps.any (fun x => (s.port x).byLoss) then s.loseDevice q else s

/-- A port's power domain. -/
def State.portPower (s : State) (p : Nat) (on : Bool) : State := s.setDom (52 + p) { s.dom (52 + p) with on := on, waking := none, idleSince := s.ts }

/-- A port goes DOWN, or MASKED the third time within a second. What waits for it is discarded. -/
def State.portDown (s : State) (p : Nat) (byLoss : Bool) : State :=
  let x := s.port p
  if x.st != .up then s
  else
    let falls := (x.falls.filter (fun t => s.ts < t + 1000000000)) ++ [s.ts]
    let st : PortSt := if 3 ≤ falls.length then .masked else .down
    let y : RPort := { RPort.reset with st := st, since := s.ts, falls := falls, byLoss := byLoss, retrain := some (s.ts + 1000000) }
    let s := (s.setPort p y).portPower p false
    let s := if s.peerAt == some (s.wired p) then s.requeueMirror else s
    let s := if s.rig.parent == some p then s.setRig { s.rig with orphan := some (s.rig.orphan.getD s.ts) } else s
    s.noteRoutes.checkLost p

/-- A port enters UP with a secret (R339, R472).
Log entry 115, DEDUCED. -/
def State.enterUp (s : State) (p : Nat) (secret : U256) : State :=
  let x := s.port p
  let q := s.wired p
  let k := s.ts / 1000 + 1
  let y : RPort := { RPort.reset with st := .up, since := s.ts, falls := x.falls, secret := secret, credits := [(0, 1024), (1, 512), (2, 512), (3, 64)],
                                      ackTs := s.ts, hbNext := k, hbGot := k, peer := q }
  let s := (s.setPort p y).forgetPort p
  let s := s.setRig { s.rig with lost := removeNat q s.rig.lost }
  s.noteRoutes.resumeTakeover

/-! ### What a port sends (R341, R342) -/

/-- A heartbeat's payload (R349). -/
def State.beatBytes (s : State) (x : RPort) (k : Nat) : Bytes :=
  leBytes 8 k ++ leBytes 8 (16 * s.ts) ++ leBytes 8 x.echo.1 ++ leBytes 8 x.echo.2 ++ leBytes 1 (b2n s.dev.fault.isSome) ++ leBytes 1 s.rig.master ++
    leBytes 1 (if s.rig.unsync then 0xFF else s.rig.depth) ++ zeros 13

/-- Put a flit on the wire: its link word is written afresh, with the credits it has always carried. -/
def State.emitFlit (s : State) (p : Nat) (f : TxFlit) (again : Bool) : State :=
  let x := s.port p
  let link := mkLink f.seq (x.rxSeq + 4095) (x.nak || (again && x.failed.isSome)) f.cred.1 f.cred.2
  let w := flitWire x.secret (s.txDir p) f.seq link f.route f.payload
  let s := s.setPort p { x with nak := false }
  s.setRig { s.rig with wire := s.rig.wire ++ [(p, fecFrame w)] }

/-- The credits the next new flit returns.
Log entry 112, DEDUCED. -/
def RPort.returns (x : RPort) : Nat × Nat :=
  match x.owed.find? (fun (e : Nat × Nat) => e.2 != 0) with
  | some (c, n) => (c, min 31 n)
  | none => (0, 0)

/-- Send a new flit: it takes the next number, returns credits, and stays in the replay buffer until acknowledged (R337). -/
def State.sendNew (s : State) (p : Nat) (route : U32) (payload : Bytes) (part : Option Nat) : State :=
  let x := s.port p
  let c := x.returns
  let f : TxFlit := ⟨x.txSeq, route, payload, part, s.ts, c, none⟩
  let x := { x with txSeq := x.txSeq + 1, sent := x.sent ++ [f], owed := if c.2 = 0 then x.owed else x.owed.set c.1 (x.owed.getD c.1 0 - c.2) }
  let x := if x.sent.length = 1024 then { x with ackTs := s.ts } else x
  (s.setPort p x).emitFlit p f false

/-- The first flit of a class that its partition's budget lets go, with those it passes (R342). -/
def State.pickFlit (s : State) (x : RPort) (c : Nat) : Option (List TxFlit × TxFlit × List TxFlit) :=
  let ok (f : TxFlit) : Bool := match f.part with
    | some q => s.budgetLeft (4 * q + 2)
    | none => true
  match (x.queue.getD c []).span (fun f => !ok f) with
  | (held, f :: rest) => some (held, f, rest)
  | (_, []) => none

/-- Whether a class has a flit and a credit. -/
def State.clsReady (s : State) (x : RPort) (c : Nat) : Bool := x.credits.getD c 0 != 0 && (s.pickFlit x c).isSome

/-- Note the flits that wait for budget, and the classes that wait for credit. -/
def State.noteWaits (s : State) (p : Nat) : State :=
  let x := s.port p
  let hold (f : TxFlit) : TxFlit := match f.part with
    | some q => if s.budgetLeft (4 * q + 2) then f else { f with held := some (f.held.getD s.ts) }
    | none => f
  let stall := x.queue.foldl (fun (t : Tbl Nat) (e : Nat × List TxFlit) =>
    if !e.2.isEmpty && x.credits.getD e.1 0 = 0 then t.set e.1 (t.getD e.1 s.ts) else t) x.stall
  s.setPort p { x with queue := x.queue.map (fun (e : Nat × List TxFlit) => (e.1, e.2.map hold)), stall := stall }

/-- Send the next flit of a class: it spends a credit and is charged to its partition. -/
def State.sendClass (s : State) (p c : Nat) : State :=
  let x := s.port p
  match s.pickFlit x c with
  | none => s
  | some (held, f, rest) =>
    let y := { x with queue := x.queue.set c (held ++ rest), credits := x.credits.set c (x.credits.getD c 0 - 1), stall := x.stall.erase c }
    let s := s.setPort p y
    let s := match x.stall.get c with
      | some t => s.bumpPort p cCreditWait (s.ts - t)
      | none => s
    let s := match f.part with
      | some q =>
        let s := (s.spend (4 * q + 2) 1).bumpPart q cPartFlits 1
        (match f.held with
         | some t => s.bumpPart q cBudgetStall (s.ts - t)
         | none => s)
      | none => s
    s.sendNew p f.route f.payload f.part

/-- The class of a turn of the weighted round: 4 collective, 2 dispatch, 2 mirror. -/
def turnCls (t : Nat) : Nat := if t % 8 < 4 then 0 else if t % 8 < 6 then 1 else 2
def nextTurn (t : Nat) : Nat := if t % 8 < 4 then 4 else if t % 8 < 6 then 6 else 0

/-- The next turn whose class may send; a class with no flit or no credit passes. -/
def State.findTurn (s : State) (x : RPort) : (fuel t : Nat) → Option Nat
  | 0, _ => none
  | k + 1, t => if s.clsReady x (turnCls t) then some (t % 8) else State.findTurn s x k (nextTurn t)

/-- Check the Rigging budget word of every partition that has a flit queued at a port (R449). -/
def State.flitRails (s : State) (p : Nat) : State :=
  (((s.port p).queue.flatMap (fun (e : Nat × List TxFlit) => e.2.filterMap (fun f => f.part))).eraseDups).foldl (fun s q =>
    if s.budgetRailOk (4 * q + 2) then s else s.partFault q .parity none) s

/-- The frame slot of a port (R341).
Log entry 221, DEDUCED. -/
def State.slot (s : State) (p : Nat) : State :=
  let s := (s.flitRails p).noteWaits p
  let x := s.port p
  let s := s.setPort p { x with ctlGap := x.ctlGap - 1 }
  if x.resend != 0 then
    (match x.sent[x.sent.length - x.resend]? with
     | some f => let y := s.port p; (s.setPort p { y with resend := x.resend - 1 }).emitFlit p f true
     | none => let y := s.port p; s.setPort p { y with resend := 0 })
  else if 1024 ≤ x.sent.length then s
  else
    let turn := s.findTurn x 4 x.turn
    match x.hbDue with
    | some k =>
      let y := s.port p
      (s.setPort p { y with hbDue := none }).sendNew p (mkRoute 3 (s.wired p) s.here true true flowBeat 3) (padTo 240 (s.beatBytes x k)) none
    | none =>
      if s.clsReady x 3 && (x.ctlGap = 0 || turn.isNone) then
        let y := s.port p
        (s.setPort p { y with ctlGap := 7 }).sendClass p 3
      else
        match turn with
        | some t =>
          let y := s.port p
          (s.setPort p { y with turn := (t + 1) % 8 }).sendClass p (turnCls t)
        | none => s.sendNew p (mkRoute 3 (s.wired p) s.here true true flowNull 0) (zeros 240) none

/-- A mirror message in flits (R499). -/
def mirrorData (mseq : Nat) (body : Bytes) : Bytes := leBytes 8 mseq ++ leBytes 4 body.length ++ zeros 4 ++ body

/-- Hand the pair's next mirror messages to the port of their route. -/
def State.pumpMirror (s : State) (port : Nat) : State :=
  match s.pairOf with
  | none => s
  | some (f, c) =>
    let me := if s.isCatcher then c else f
    let dst := if me = f then c else f
    if s.outPort dst != some port || s.rig.serves dst then s
    else
      (List.range 16).foldl (fun s p =>
        let s := if s.isCatcher then s.drainMirror p (!(s.net p).takeAt.isSome) ((s.net p).stash.length + 1) else s
        let s := if s.mirrors p then s.flushJournal p else s
        let s := if (s.net p).out.isEmpty then s.resyncPage p else s
        let n := s.net p
        match n.out with
        | [] => s
        | (mseq, kind, body) :: rest =>
          let keep := if s.isCatcher || kind = mkPair then n.unacked else n.unacked ++ [(mseq, kind, body)]
          (s.setNet p { n with out := rest, unacked := keep }).sendMsg 2 dst me (kind * 256 + p * 16) (some p) (mirrorData mseq body)) s

/-- RIG_FRAME_SLOT. -/
def execRigFrameSlot (port : PortNo) (s : State) : Host.Outcome State Fault Refusal :=
  if (s.port port.val).st != .up then .next s else .next ((s.pumpMirror port.val).slot port.val)

/-! ### What a port receives (R330, R337, R344 to R346) -/

/-- A frame or flit failed. The first failure asks for a resend; when the same number fails again the port goes DOWN (R338).
Log entry 111, DEDUCED. -/
def State.flitFails (s : State) (p : Nat) (link : U32) : State :=
  let x := s.port p
  match x.failed with
  | none => s.setPort p { x with failed := some x.rxSeq, nak := true }
  | some n => if nearSeq x.rxSeq (lwSeq link) = n then s.portDown p false else s

/-- RIG_FRAME_RECEIVE. -/
def execRigFrameReceive (port : PortNo) (o : FrameOutcome) (flit : Flit) (s : State) : Host.Outcome State Fault Refusal :=
  let p := port.val
  if (s.port p).st != .up then .next s
  else
    let up (s : State) : State := s.setRig { s.rig with rx := s.rig.rx ++ [(p, flit)] }
    match o with
    | .clean => .next (up s)
    | .corrected => .next (up (s.bumpPort p cFecCorr 1))
    | .uncorrectable => .next ((s.bumpPort p cFecUncorr 1).flitFails p flit.link)

/-- Flows that a class uses (R356, R373, R499). Every collective and dispatch flow names a group; a message of a reserved kind is discarded by its
receiver. -/
def flowOk (cls flow : Nat) : Bool :=
  match cls with
  | 0 | 1 => true
  | 2 => flow == 0xFFF || (flow % 16 == 0 && (flow / 256 ≤ 5 || (8 ≤ flow / 256 && flow / 256 ≤ 10)))
  | _ => flow ≤ 4 || flow == flowNull || flow == flowBeat

/-- Whether a message of a class is of a kind that R373 reserves. -/
def kindReserved (cls flow : Nat) : Bool := (cls == 0 && 4 < flow % 16) || (cls == 1 && flow % 16 != 8 && flow % 16 != 9)

/-- A flit for this device: messages are delivered whole; one that starts afresh discards the part before it. The flits stay in the
receive buffer of their port until the class's consumer takes the message (R339, R344, R345).
Log entry 112, DEDUCED. -/
def State.takeFlit (s : State) (p : Nat) (f : Flit) : State :=
  let r := f.route
  let d := f.payload.take (16 * roUnits r)
  let same (w : RigWait) : Bool := w.msg.cls == roCls r && w.msg.src == roSrc r && w.msg.flow == roFlow r
  let old := s.rig.partials.find? same
  let rest := s.rig.partials.filter (fun w => !same w)
  let go (w : RigWait) (s : State) : State :=
    if roLast r && kindReserved (roCls r) (roFlow r) then
      ((s.setRig { s.rig with partials := rest }).giveBack (roCls r) w.ports).discardMsg (s.group (roFlow r / 16))
    else if roLast r then s.setRig { s.rig with partials := rest, inbox := s.rig.inbox ++ [w] } else s.setRig { s.rig with partials := rest ++ [w] }
  let new : RigWait := ⟨⟨roCls r, roSrc r, roFlow r, d⟩, [p]⟩
  match roFirst r, old with
  | true, some w => go new ((s.giveBack (roCls r) w.ports).bumpPort p cRigDrop 1)
  | true, none => go new s
  | false, some w => go { w with msg := { w.msg with data := w.msg.data ++ d }, ports := w.ports ++ [p] } s
  | false, none => (s.giveBack (roCls r) [p]).bumpPort p cRigDrop 1

/-- Route an accepted flit: to this device, onward, or dropped. -/
def State.routeFlit (s : State) (p : Nat) (f : Flit) : State :=
  let r := f.route
  if roCls r = 3 && (roFlow r = flowBeat || (roFlow r = flowNull && roUnits r = 0)) then s
  else if roUnits r = 0 || !flowOk (roCls r) (roFlow r) || roFlow r = flowNull && roCls r = 3 then (s.giveBack (roCls r) [p]).bumpPort p cRigDrop 1
  else if s.rig.serves (roDst r) then s.takeFlit p f
  else
    let s := s.giveBack (roCls r) [p]
    match s.outPort (roDst r) with
    | some q => s.setPort q ((s.port q).enqueue ⟨0, r, f.payload, none, s.ts, (0, 0), none⟩)
    | none => s.bumpPort p cRigDrop 1

/-- Acks, naks and credits that a flit carries. -/
def State.applyLink (s : State) (p : Nat) (link : U32) : State :=
  let x := s.port p
  let x := match x.sent.findIdx? (fun f => f.seq % 4096 == lwAck link) with
    | some i => { x with sent := x.sent.drop (i + 1), ackTs := s.ts, resend := min x.resend (x.sent.length - (i + 1)) }
    | none => x
  let c := lwCls link
  let x := { x with credits := x.credits.set c (min (clsBuf c) (x.credits.getD c 0 + lwCredits link)) }
  if lwNak link && !x.sent.isEmpty then (s.setPort p { x with resend := x.sent.length }).bumpPort p cReplay 1 else s.setPort p x

/-- FLIT_RECEIVE: flits are taken in order alone; after one that failed, later ones are discarded until it comes again.
Log entry 110, DEDUCED. -/
def execFlitReceive (port : PortNo) (flit : Flit) (s : State) : Host.Outcome State Fault Refusal :=
  let p := port.val
  let s := s.setRig { s.rig with rx := s.rig.rx.erase (p, flit) }
  let x := s.port p
  if x.st != .up then .next s
  else
    let n := nearSeq x.rxSeq (lwSeq flit.link)
    if flitTag x.secret (1 - s.txDir p) n flit.link flit.route flit.payload != flit.tag then .next ((s.bumpPort p cRigTagFail 1).flitFails p flit.link)
    else if n < x.rxSeq then .next s
    else if x.rxSeq < n then .next (if x.failed.isSome then s else s.setPort p { x with failed := some x.rxSeq, nak := true })
    else .next (((s.setPort p { x with rxSeq := x.rxSeq + 1, failed := none, nak := false }).applyLink p flit.link).routeFlit p flit)

/-- RIG_ACK_TIMEOUT (R338). -/
def execRigAckTimeout (port : PortNo) (s : State) : Host.Outcome State Fault Refusal :=
  let x := s.port port.val
  if x.st == .up && 1024 ≤ x.sent.length && x.ackTs + 2000 ≤ s.ts then .next (s.portDown port.val false) else .next s

/-! ### Heartbeats and time (R349, R350, R358 to R361) -/

/-- RIG_HEARTBEAT_SEND: heartbeat k is due when TS reaches k times 1,000 ns. -/
def execRigHeartbeatSend (port : PortNo) (s : State) : Host.Outcome State Fault Refusal :=
  let x := s.port port.val
  if x.st == .up && x.hbNext * 1000 ≤ s.ts then
    .next (s.setPort port.val { x with hbDue := some (s.ts / 1000), hbNext := s.ts / 1000 + 1 })
  else .next s

/-- The offset of the sender from this end, in sixteenths of a nanosecond (R359). -/
def thetaOf (hb : Heartbeat) (tArrive : U64) : Int :=
  ((Int.ofNat hb.tRx.toNat - Int.ofNat hb.tEcho.toNat) + (Int.ofNat hb.tSend.toNat - Int.ofNat tArrive.toNat)) / 2

/-- Time from the parent port: the offset, the depth, and a steering rate of at most 200 ppm toward the parent. How large the rate is,
is a free value.
Log entry 117, DESIGN CHOICE. -/
def State.takeTime (s : State) (hb : Heartbeat) (tArrive : U64) : State :=
  if hb.tEcho = 0 then s
  else
    let t := thetaOf hb tArrive
    let (i, s) := s.fresh
    let n := Int.ofNat ((Config.freeWord i).toNat % 201)
    let rate := if t = 0 then 0 else if 0 < t then n else -n
    s.setRig { s.rig with theta := t, steer := rate, unsync := 80 < t.natAbs, depth := if hb.depth = 0xFF then s.rig.depth else hb.depth.toNat + 1 }

/-- RIG_HEARTBEAT_RECEIVE. -/
def execRigHeartbeatReceive (port : PortNo) (hb : Heartbeat) (tArrive : U64) (s : State) : Host.Outcome State Fault Refusal :=
  let p := port.val
  let x := s.port p
  if x.st != .up then .next s
  else if hb.state = 1 then .next (s.portDown p true)
  else
    let k := hb.k.toNat
    let late := 16 * (k * 1000 + 250) < tArrive.toNat
    let s := s.setPort p { x with echo := (hb.tSend.toNat, tArrive.toNat), hbMiss := if late then x.hbMiss else 0, hbGot := if late then x.hbGot else max x.hbGot (k + 1) }
    let s := s.retime
    .next (if s.rig.parent == some p then s.takeTime hb tArrive else s)

/-- RIG_HEARTBEAT_MISS: the deadline of heartbeat k has passed without it; the third miss in a row takes the port DOWN. -/
def execRigHeartbeatMiss (port : PortNo) (k : U64) (s : State) : Host.Outcome State Fault Refusal :=
  let p := port.val
  let x := s.port p
  if x.st != .up || k.toNat < x.hbGot || s.ts < k.toNat * 1000 + 250 then .next s
  else
    let s := (s.setPort p { x with hbGot := k.toNat + 1, hbMiss := x.hbMiss + 1 }).bumpPort p cHbMiss 1
    .next (if 3 ≤ x.hbMiss + 1 then s.portDown p true else s)

/-- TIME_PARENT_TIMEOUT: a member that has had no parent for more than 10 us is unsynchronised. -/
def execTimeParentTimeout (s : State) : Host.Outcome State Fault Refusal :=
  match s.rig.orphan with
  | some t => if t + 10000 < s.ts then .next (s.setRig { s.rig with unsync := true }) else .next s
  | none => .next s

/-! ### Training (R348) -/

/-- A port that LINK may train: wired to another device of the troupe. -/
def State.trainable (s : State) (p : Nat) : Bool := !s.dev.closedPorts.contains p && s.wired p < 64 && some (s.wired p) != s.rig.placed && !s.pwr.asleep && !s.pwr.off

def State.startTraining (s : State) (p : Nat) : State :=
  let x := s.port p
  (s.setPort p { x with st := .training, since := s.ts, retrain := none, auth := none }).portPower p true

/-- PORT_TRAIN_START. -/
def execPortTrainStart (port : PortNo) (s : State) : Host.Outcome State Fault Refusal :=
  let p := port.val
  if (s.port p).st == .down && s.trainable p && s.compUp cpLink then .next (s.startTraining p) else .next s

/-- PORT_RETRAIN_TIMER: 1 ms after a loss. -/
def execPortRetrainTimer (port : PortNo) (s : State) : Host.Outcome State Fault Refusal :=
  let p := port.val
  match (s.port p).st, (s.port p).retrain with
  | .down, some t => if t ≤ s.ts && s.trainable p then .next (s.startTraining p) else .next s
  | _, _ => .next s

/-- A port that has not come UP goes DOWN. -/
def State.trainFails (s : State) (p : Nat) : State :=
  let x := s.port p
  ((s.setPort p { x with st := .down, since := s.ts, auth := none }).portPower p false).checkLost p

/-- PORT_TRAIN_TIMEOUT: not locked within 10 ms. -/
def execPortTrainTimeout (port : PortNo) (s : State) : Host.Outcome State Fault Refusal :=
  let x := s.port port.val
  if x.st == .training && x.since + 10000000 ≤ s.ts then .next (s.trainFails port.val) else .next s

/-- PORT_LOCK_LOST. -/
def execPortLockLost (port : PortNo) (s : State) : Host.Outcome State Fault Refusal := .next (s.portDown port.val false)

/-! ### Link authentication (R336, R361, R472) -/

def tbGen (b : Bytes) : Nat := fieldLE b 4 4

/-- The fields of an AUTH message that a signature covers, in the order the table names them.
Log entry 116, DEDUCED. -/
def authBytes (m : AuthMsg) : Bytes :=
  leBytes 1 m.position.toNat ++ leBytes 4 m.generation.toNat ++ leBytes 8 m.ts.toNat ++ leBytes 32 m.nonce.toNat ++ m.leaf ++ m.kem

def State.sendAuth (s : State) (p : Nat) (m : AuthMsg) : State := s.setRig { s.rig with authOut := s.rig.authOut ++ [(p, m)] }
def State.setAuth (s : State) (p : Nat) (a : AuthSt) : State := let x := s.port p; s.setPort p { x with auth := some a }

/-- PORT_LANE_LOCK: the port enters AUTH, and the lower end sends HELLO. -/
def execPortLaneLock (port : PortNo) (s : State) : Host.Outcome State Fault Refusal :=
  let p := port.val
  let x := s.port p
  if x.st != .training || x.since + 10000000 < s.ts then .next s
  else
    let s := s.setPort p { x with st := .auth, since := s.ts, auth := none }
    if s.txDir p = 1 then .next s
    else
      let (i, s) := s.fresh
      let (j, s) := s.fresh
      let kp := Config.trng j
      let m : AuthMsg := ⟨BitVec.ofNat 8 s.here, BitVec.ofNat 32 (tbGen s.rig.troupe), BitVec.ofNat 64 s.ts, Config.trng i, Config.rsaLeaf, Config.mlkemPublic kp, []⟩
      .next ((s.setAuth p ⟨authBytes m, Config.trng i, kp, 0, []⟩).sendAuth p m)

/-- Whether an end's identity is the one the troupe table names for the position wired to a port. -/
def State.identityOk (s : State) (p : Nat) (m : AuthMsg) : Bool :=
  m.position.toNat == s.wired p && Config.certOk m.leaf &&
    (match tbAt s.rig.troupe (s.wired p) with
     | some e => (e.drop 16).take 16 == (sha384 m.leaf).take 16
     | none => false)

/-- Whether any port is UP: this device stands in a running troupe. -/
def State.inTroupe (s : State) : Bool := (List.range 12).any (fun p => (s.port p).st == .up)

/-- Whether the peer's TS is refused: it is ahead of a running troupe's by more than members differ (R15, R361).
Log entry 114, DEDUCED. -/
def State.tsRefused (s : State) (m : AuthMsg) : Bool := s.inTroupe && s.ts + 10 < m.ts.toNat

/-- A device that is not in a running troupe steps its TS forward to its peer's.
Log entry 114, DEDUCED. -/
def State.stepTs (s : State) (m : AuthMsg) : State := if s.inTroupe then s else { s with ts := max s.ts m.ts.toNat }

def State.authEnds (s : State) (p : Nat) (st : PortSt) : State :=
  let x := s.port p
  (s.setPort p { x with st := st, since := s.ts, auth := none }).checkLost p

/-- AUTH_HELLO: the higher end checks it and sends REPLY. -/
def execAuthHello (port : PortNo) (m : AuthMsg) (s : State) : Host.Outcome State Fault Refusal :=
  let p := port.val
  let x := s.port p
  if x.st != .auth || s.txDir p = 0 || x.auth.isSome then .next s
  else if !s.identityOk p m then .next (s.authEnds p .authFail)
  else if s.tsRefused m then .next (s.authEnds p .joinRefused)
  else
    let s := s.stepTs m
    let (i, s) := s.fresh
    let (j, s) := s.fresh
    let r : AuthMsg := ⟨BitVec.ofNat 8 s.here, BitVec.ofNat 32 (tbGen s.rig.troupe), BitVec.ofNat 64 s.ts, Config.trng i, Config.rsaLeaf, Config.mlkemCipher m.kem (Config.trng j), []⟩
    let t := authBytes m ++ authBytes r
    .next ((s.setAuth p ⟨t, Config.trng i, 0, Config.mlkemShared m.kem (Config.trng j), m.leaf⟩).sendAuth p { r with signature := Config.rsaSign t })

/-- AUTH_REPLY: the lower end checks it, sends FINISH, and its port enters UP.
Log entry 115, DEDUCED. -/
def execAuthReply (port : PortNo) (m : AuthMsg) (s : State) : Host.Outcome State Fault Refusal :=
  let p := port.val
  let x := s.port p
  match x.st, x.auth with
  | .auth, some a =>
    if s.txDir p = 1 then .next s
    else
      let t := a.transcript ++ authBytes m
      if !s.identityOk p m || !Config.rsaVerify m.leaf t m.signature then .next (s.authEnds p .authFail)
      else if s.tsRefused m then .next (s.authEnds p .joinRefused)
      else
        let s := s.stepTs m
        let f : AuthMsg := ⟨BitVec.ofNat 8 s.here, BitVec.ofNat 32 (tbGen s.rig.troupe), BitVec.ofNat 64 s.ts, a.nonce, [], [], Config.rsaSign t⟩
        .next ((s.sendAuth p f).enterUp p (Config.mlkemDecaps a.keyPair m.kem))
  | _, _ => .next s

/-- AUTH_FINISH: the higher end checks it, and its port enters UP. -/
def execAuthFinish (port : PortNo) (m : AuthMsg) (s : State) : Host.Outcome State Fault Refusal :=
  let p := port.val
  let x := s.port p
  match x.st, x.auth with
  | .auth, some a =>
    if s.txDir p = 0 then .next s
    else if Config.rsaVerify a.leaf a.transcript m.signature then .next (s.enterUp p a.secret)
    else .next (s.authEnds p .authFail)
  | _, _ => .next s

/-- AUTH_TIMEOUT: unfinished after 2 ms. -/
def execAuthTimeout (port : PortNo) (s : State) : Host.Outcome State Fault Refusal :=
  let x := s.port port.val
  if x.st == .auth && x.since + 2000000 ≤ s.ts then .next (s.trainFails port.val) else .next s

/-! ### Forwarding (R356, R357) -/

/-- The queue of a forwarded message: the queue number is a local queue index of the lowest function that has it.
Log entry 118, DEDUCED. -/
def State.fwdQueue (s : State) (n : Nat) : Option Nat := (s.queues.find? (fun (e : Nat × Queue) => qIdx e.1 == n)).map (fun (e : Nat × Queue) => e.1)

/-- FWD_SUBMISSION: the entry goes into its ring with its doorbell TS; an index already held is ignored.
Log entry 118, DEDUCED. Log entry 119, DESIGN CHOICE. -/
def execFwdSubmission (queue : U16) (index : U32) (ts : U64) (entry : Bytes) (s : State) : Host.Outcome State Fault Refusal :=
  let data := leBytes 2 queue.toNat ++ zeros 2 ++ leBytes 4 index.toNat ++ leBytes 8 ts.toNat ++ padTo 128 entry
  let s := (match s.farHead with
    | some h => s.takeInbox ⟨3, h, 0, data⟩
    | none => s)
  match s.fwdQueue queue.toNat with
  | none => .next s
  | some qk =>
    match s.queues.get qk with
    | none => .next s
    | some q =>
      if index.toNat != q.tail || q.sqSize ≤ q.ready then .next s
      else
        let off := q.tail % q.sqSize * 128
        let s := (s.objWrite q.ring off (padTo 128 entry)).mirrorHostWrite q.ring off 128
        let t := (q.tail + 1) % w32
        let q := { q with tail := t, stamps := q.stamps ++ [(t, ts.toNat)] }
        .next ((s.setQueue qk q).lookAhead q)

/-- FWD_COMPLETION: a completion whose index the head already holds is ignored. -/
def execFwdCompletion (pos : Pos) (queue : U16) (index : U32) (record : Bytes) (s : State) : Host.Outcome State Fault Refusal :=
  let r := padTo 32 record
  let s := s.takeInbox ⟨3, pos.val, 1, leBytes 2 queue.toNat ++ zeros 2 ++ leBytes 4 index.toNat ++ zeros 8 ++ r⟩
  let k := (pos.val, queue.toNat, index.toNat)
  if s.rig.fwdDone.contains k then .next s
  else
    let fwd := s.rig.fwd.filter (fun e => e != (pos.val, queue.toNat, fieldLE r 0 4))
    .next (s.setRig { s.rig with fwdDone := s.rig.fwdDone ++ [k], fwd := fwd, fwdRecs := s.rig.fwdRecs ++ [(pos.val, queue.toNat, index.toNat, r)] })

/-- FWD_EVENT. -/
def execFwdEvent (pos : Pos) (event : U32) (record : Bytes) (s : State) : Host.Outcome State Fault Refusal :=
  let r := padTo 32 record
  let s := s.takeInbox ⟨3, pos.val, 2, leBytes 4 event.toNat ++ zeros 12 ++ r⟩
  .next (s.setRig { s.rig with fwdRecs := s.rig.fwdRecs ++ [(pos.val, 2 ^ 20 + event.toNat, 0, r)] })

/-- FWD_REG_RESPONSE. -/
def execFwdRegResponse (pos : Pos) (off value : U64) (s : State) : Host.Outcome State Fault Refusal :=
  let s := s.takeInbox ⟨3, pos.val, 4, leBytes 8 off.toNat ++ leBytes 8 value.toNat⟩
  .next (s.setRig { s.rig with regReq := s.rig.regReq.erase (pos.val, off.toNat), fwdRegs := s.rig.fwdRegs ++ [(pos.val, off.toNat, value.toNat)] })

/-- MEMBER_UNREACHABLE: a member declared lost, or with no UP route for 100 us, leaves its groups, and its outstanding forwarded
submissions complete CONTEXT_LOST at device scope.
Log entry 121, DESIGN CHOICE. -/
def execMemberUnreachable (pos : Pos) (s : State) : Host.Outcome State Fault Refusal :=
  let q := pos.val
  let lost := s.rig.lost.contains (s.rig.server q) || (match s.rig.noRoute.get q with
    | some t => t + 100000 ≤ s.ts
    | none => false)
  if !lost || s.rig.serves q then .next s
  else
    let s := s.groupsLose (fun x => x == q)
    let mine := s.rig.fwd.filter (fun e => e.1 == q)
    let rcds := mine.map (fun e => (q, e.2.1, e.2.2, recBytes ⟨e.2.2, .contextLost, .device, 0, 0, 0, 0, s.ts, 0⟩ 0 1))
    .next (s.setRig { s.rig with fwd := s.rig.fwd.filter (fun e => e.1 != q), fwdRecs := s.rig.fwdRecs ++ rcds })

end Sys2Proof.Machine
end

