-- ==== Sys2Proof/Machine/Regs.lean ====
section
/-! DEFINITION. BAR0 (R589 to R596 and the register tables of every chapter): what a register reads, which accesses are
served, and what a write changes. -/

namespace Sys2Proof.Machine

/-! ### Consent (R485, R486) -/

/-- Whether consent is in effect for a partition: bit 0 profile, bit 1 debug. -/
def State.consent (s : State) (p bit : Nat) : Bool :=
  let x := (s.part p).sess
  x.st == .bound && bitOf x.consentFlags bit && x.consentFrom ≤ s.ts && (x.consentTo == 0 || s.ts ≤ x.consentTo)

/-- The partition that owns a tile's column. -/
def State.tilePart (s : State) (t : Nat) : Option Nat :=
  (List.range 16).find? (fun p => (s.part p).sess.st != .free && (match s.layout p with
    | some l => bitOf l.columns.toNat (t / 8)
    | none => false))

/-! ### The registry as others read it (R214, R216) -/

/-- A registry entry as it stands in its page. -/
def RegEntry.bytes (e : RegEntry) : Bytes :=
  leBytes 4 e.ctl.toNat ++ leBytes 4 e.ctlN.toNat ++ padTo 16 e.base ++ leBytes 4 e.object.toNat ++ leBytes 2 (e.cacheIdx.getD 0xFFFF) ++ leBytes 2 e.layers ++
    leBytes 4 e.probeLoss.toNat ++ leBytes 4 e.lossBound.toNat ++ leBytes 8 e.publishTs ++ leBytes 8 e.carryTs ++ zeros 8

/-- The page of the registry, of its 64, and the offset in it that hold a slot's entry. -/
def regPlace (slot : Nat) : Nat × Nat := (slot / 1024, 64 * (slot % 1024))

/-- A FREE entry: no object, not resident, no probe. -/
def RegEntry.free : RegEntry := ⟨0, 0xFFFFFFFF, List.replicate 16 0, 0, none, 0, 0, 0, 0, 0, 0, false⟩

/-- A page of the registry. -/
def State.registryPage (s : State) (page : Nat) : Bytes :=
  (List.range 1024).flatMap (fun i => if 1024 * page + i < registrySlots then (s.adpt.reg.getD (1024 * page + i) RegEntry.free).bytes else zeros 64)

/-- What ADPT answers a context that reads a registry entry: an entry of its own partition, whose ctl word passes its check.
Log entry 206, DESIGN CHOICE. -/
def State.contextReads (s : State) (c slot : Nat) : Option Bytes :=
  match s.adpt.reg.get slot, s.ctxPart (some c) with
  | some r, some p => if r.owner = p && r.railOk then some r.bytes else none
  | _, _ => none

/-- What the physical function reads of the registry: how many entries of a partition stand in a state, or zero without the tenant's consent.
Log entry 206, DESIGN CHOICE. -/
def State.regCount (s : State) (p st : Nat) : Nat :=
  if s.consent p 0 then (s.adpt.reg.filter (fun (e : Nat × RegEntry) => e.2.owner == p && e.2.regState == st)).length else 0

/-! ### ONLYN_IDENT (R434) -/

def imgVersion : BootImg → Nat
  | .factory => Config.fwVersion.toNat
  | .written b => (Config.fwVersionOf b).toNat
  | .broken => 0
def imgDigest : BootImg → Bytes
  | .factory => leBytes 48 Config.fwDigest.toNat
  | .written b => sha384 b
  | .broken => zeros 48

def State.ident (s : State) (f : Nat) : Bytes :=
  [0x01, 0x07, 0x4C, 0xA1, 4, 0, 3, 0] ++ leBytes 1 f ++ leBytes 1 (if f = 0 then 0xFF else f - 1) ++ leBytes 1 s.sec.life.toNat ++
    leBytes 1 (b2n s.onlyn.recovery) ++
    (if s.onlyn.recovery then zeros 52 else leBytes 4 (imgVersion s.onlyn.running) ++ imgDigest s.onlyn.running)

/-! ### Tile control blocks and partition windows (R595, R596) -/

def natMax (l : List Nat) : Nat := l.foldl max 0

/-- TILE_PROG (R154): a tile's place in its current image. -/
def State.tileProg (s : State) (t : Nat) : Nat :=
  let x := s.tile t
  let place := match x.current with
    | none => 0
    | some b => (match (s.imgSlot b.part b.slot).bind (fun y => y.image) with
      | none => b.slot % 256
      | some im => (match (im.tiles.findIdx? (fun n => n == t)).bind (fun i => stageOf 0 im.stages i) with
        | some (n, k) => k % 16 * 2 ^ 18 + n % 64 * 2 ^ 12 + (im.stageAt n).kind % 16 * 2 ^ 8 + b.slot % 256
        | none => b.slot % 256))
  b2n x.run.isSome * 2 ^ 25 + b2n (!x.loading.isEmpty) * 2 ^ 24 + b2n x.shadow.isSome * 2 ^ 23 + b2n x.cur1 * 2 ^ 22 + place

/-- The word of a tile control block at an offset.
Log entry 181, DESIGN CHOICE. -/
def State.tileWord (s : State) (t off : Nat) : Nat :=
  let x := s.tile t
  if x.failed then 0
  else if off = 0x40 then x.flags.toNat
  else if off = 0x48 then s.tileProg t
  else if 0x200 ≤ off && off < 0x280 then
    leNat ((List.range 4).flatMap (fun i => leBytes 2 (x.tkt.voids.getD ((off - 0x200) / 2 + i) 0xFFFF)))
  else if off = cRunCycles then (match x.run.bind s.runs.get, x.regs.get off with
    | some r, none => if r.st == .running then s.runCycles r else 0
    | _, v => v.getD 0)
  else x.regs.getD off 0

/-- Session and pair state codes (R465, R496). -/
def sessCode : Sess → Nat
  | .free => 0 | .assigned => 1 | .bound => 2 | .closing => 3
def pairCode : PairSt → Nat
  | .unpaired => 0 | .resync => 1 | .paired => 2 | .catching => 3 | .solo => 4 | .fenced => 5
def groupCode : GrpSt → Nat
  | .empty => 0 | .joining => 1 | .active => 2 | .aborting => 3

/-- GRP_MEMBj (R394): the partition's memberships in rising group number.
Log entry 127, DEDUCED. -/
def State.memberWord (s : State) (p j : Nat) : Nat :=
  let mine := s.groups.filterMap (fun (e : Nat × Group) => (s.memberOf e.2 p).map (fun m => e.1 * 2 ^ 56 + m * 2 ^ 50 + groupCode e.2.st * 2 ^ 47 + e.2.epoch % 2 ^ 32))
  mine.getD j 0

/-- ADPT_OCCUPANCY (R234). -/
def State.occupancy (s : State) (p : Nat) : Nat :=
  let mine := s.adpt.cache.filter (fun (e : Nat × CacheEntry) => e.2.part == p)
  let pinned := mine.filter (fun (e : Nat × CacheEntry) => e.2.pins.any (fun (n : Nat × Nat) => n.2 != 0))
  let pages := (mine.map (fun (e : Nat × CacheEntry) => match e.2.pages.bind (fun k => s.objs.get k) with
    | some o => o.pages.length
    | none => 0)).sum
  mine.length * 2 ^ 32 + pinned.length * 2 ^ 16 + pages / 16 % 65536

/-- The word of a partition window at an offset.
Log entry 181, DESIGN CHOICE. -/
def State.partWord (s : State) (p off : Nat) : Nat :=
  if off = 0x30 then s.occupancy p
  else if 0x3100 ≤ off && off < 0x3500 then
    (match s.usets.get (16 * p + (off - 0x3100) / 64) with
     | none => if off % 64 = 0 then (2 ^ 32 - 1) * 2 ^ 32 else 0
     | some u =>
       if off % 64 = 0 then u.commit.toNat + u.commitN.toNat * 2 ^ 32
       else if off % 64 = 8 then u.epoch
       else if off % 64 = 0x10 then u.norm
       else if off % 64 = 0x18 then u.scale % 2 ^ 32 + u.streak % 2 ^ 32 * 2 ^ 32 else 0)
  else if 0x5100 ≤ off && off < 0x5180 then s.memberWord p ((off - 0x5100) / 8)
  else if off = 0x6000 then s.preg p 0x6000 0 / 2 ^ 32 * 2 ^ 32 + (s.peerAt.getD 0) % 64 * 256 + pairCode (s.net p).st
  else if off = rSnapCtrl then s.snapCtrl p % 2 ^ 20
  else if off = rDigCtrl then s.digInterval p
  else if off = rReplay then s.preg p rReplay 0 + b2n (s.part p).led.armed * 32
  else (s.part p).regs.getD off 0

/-! ### Health blocks (R260, R296, R364, R492) -/

def portCode : PortSt → Nat
  | .down => 0 | .training => 1 | .auth => 2 | .up => 3 | .authFail => 4 | .joinRefused => 5 | .masked => 6

/-- Slots of a partition's session that are ACTIVE or HELD. -/
def State.liveSlots (s : State) (p : Nat) : Nat := ((s.heldSlots p).filter (fun k => (s.key k).st != .empty)).length

/-- SEC_PARTp of a partition: its ACTIVE and HELD slots, its consents and its session's state (R492). -/
def State.secWord (s : State) (p : Nat) : Nat :=
  s.liveSlots p % 2 ^ 13 * 2 ^ 32 + b2n (s.consent p 1) * 32 + b2n (s.consent p 0) * 16 + sessCode (s.part p).sess.st

/-- Segments of a partition's SNAPSHOT region, or of every one. -/
def State.snapRegion (s : State) (p : Option Nat) : List Nat :=
  (s.flash.owner.filter (fun (e : Nat × Nat) => (match p with
    | some p => e.2 == regionTag 4 (some p)
    | none => e.2 / 32 == 4 || e.2 == heldTag) && !s.flash.retired.contains e.1)).map (fun (e : Nat × Nat) => e.1)

def State.flashWord (s : State) (off : Nat) : Nat :=
  let er (l : List Nat) : List Nat := l.map s.flash.eraseCount
  if off < 0x10 then ((List.range 64).map (fun i => b2n (s.flash.down.contains (8 * off + i)) * 2 ^ i)).sum
  else if off = 0x10 then
    s.flash.retired.length * 2 ^ 32 + natMax (er (s.snapRegion none)) % 65536 * 65536 + (natMax (s.flash.erases.map (fun (e : Nat × Nat) => e.2)) + s.flash.wipes) % 65536
  else if 0x100 ≤ off && off < 0x180 then
    let l := er (s.snapRegion (some ((off - 0x100) / 8)))
    l.length * 2 ^ 32 + natMax l % 65536 * 65536 + l.sum / max 1 l.length % 65536
  else 0

def State.sweepWord (s : State) (n : Nat) : Nat :=
  match s.shroud.sweeps.get n with
  | none => 0
  | some x => (if x.paused then 3 else x.kind) * 2 ^ 61 + x.slot % 2 ^ 13 * 2 ^ 48 + x.boundary % 2 ^ 32

def State.troupeTime (s : State) : Nat :=
  let r := s.rig
  (r.theta % 65536).toNat * 65536 + r.master % 64 * 1024 + (r.parent.getD 0xF) % 16 * 64 + r.depth % 8 * 8 + b2n r.unsync

def State.rigWord (s : State) (off : Nat) : Nat :=
  if off < 0x300 && off % 64 = 0 then
    let x := s.port (off / 64)
    x.txSeq / 2 ^ 32 % 65536 * 2 ^ 20 + x.peer % 64 * 2 ^ 14 + portCode x.st
  else if off = 0x300 then s.troupeTime
  else s.dev.regs.getD (0x104000 + off) 0

/-! ### The physical function's registers -/

/-- Domains powered, by bit. -/
def State.domBits (s : State) (n : Nat) : Nat := ((List.range 64).map (fun i => b2n (64 * n + i < 96 && (s.dom (64 * n + i)).on) * 2 ^ i)).sum

/-- Whether a fast clock runs: a column, a partition core cluster or an update unit is on, or an access is in flight (R544).
Log entry 128, DEDUCED. -/
def State.activeClock (s : State) : Bool :=
  (List.range 96).any (fun d => (d < 20 || (89 ≤ d && d < 93) ||
    (65 ≤ d && d < 73 && (List.range 4).any (fun i => !s.pwr.wfi.contains (4 * (d - 65) + i)))) && (s.dom d).on) || !s.accs.isEmpty || s.ringDepth != 0

/-! ### Clocks (R541, R548) -/

/-- The clocks of the T7, by what each drives. -/
inductive Clock
  | alwaysOn | array (column : Nat) | mesh (die : Nat) | cluster (j : Nat) | ringmaster | hbm (stack : Nat) | serdes (port : Nat) | pcie
  deriving DecidableEq, Repr

/-- Domains of a die that its mesh clock drives: columns, Rigging ports with their reduction engines, update unit groups and the bridge units.
Log entry 215, DEDUCED. -/
def meshDomains (die : Nat) : List Nat :=
  (List.range 20).filter (fun c => c / 10 == die) ++ ((List.range 12).filter (fun p => p / 6 == die)).map (fun p => 52 + p) ++
    ((List.range 4).filter (fun g => g / 2 == die)).map (fun g => 89 + g) ++ [93 + die]

/-- Whether a clock runs. -/
def State.clockRuns (s : State) (c : Clock) : Bool :=
  match c with
  | .alwaysOn => true
  | .array k => (s.dom k).on
  | .mesh d => (meshDomains d).any (fun k => (s.dom k).on)
  | .cluster j => (s.dom (65 + j)).on && (List.range 4).any (fun i => !s.pwr.wfi.contains (4 * j + i))
  | .ringmaster => !s.pwr.off && !s.pwr.asleep
  | .hbm h => (s.dom (40 + h)).on
  | .serdes p => (s.port p).st != .down && (s.port p).st != .masked
  | .pcie => (s.dom 64).on

/-- The frequency of a clock in MHz, where the T7 and not a standard fixes it; the Ringmaster's is 50 in IDLE. -/
def State.clockMhz (s : State) (c : Clock) : Option Nat :=
  if !s.clockRuns c then none
  else match c with
    | .alwaysOn => some 50
    | .array _ => some 700
    | .mesh _ => some 1400
    | .cluster _ => some 3200
    | .ringmaster => some (if s.activeClock then 1200 else 50)
    | .hbm _ | .serdes _ | .pcie => none

/-- Array cycles in eight in which every MXU and VXU may issue, at the reef level applied (R548). -/
def State.issueDuty (s : State) : Nat := 8 - s.pwr.reef

/-- Reference power of a matrix-bound 8-bit pipeline on all 160 tiles at a reef level, in watts (R548). -/
def reefWatts (level : Nat) : Nat := [1650, 1500, 1360, 1220, 1080, 940, 800, 660].getD level 660

def State.dreg (s : State) (off d : Nat) : Nat := s.dev.regs.getD off d
def State.setDreg (s : State) (off v : Nat) : State := { s with dev := { s.dev with regs := s.dev.regs.set off v } }

/-- Register offsets of the physical function (R440, R445, R565, R594). -/
def rFwStatus : Nat := 0x104
def rFwAddr : Nat := 0x108
def rFwLen : Nat := 0x110
def rPwrCap : Nat := 0x200
def rRstCtrl : Nat := 0x600
def rRstCause : Nat := 0x608
def rRstTs : Nat := 0x610
def rStartup : Nat := 0x618
def rPwrHold : Nat := 0x638
def rPwrBrake : Nat := 0x640
def rTherm : Nat := 0x648
def rLink : Nat := 0x680
def rDbgSel : Nat := 0x3000000

/-- The cap in force, between 400 and 1,650 W (R445). -/
def State.capWatts (s : State) : Nat := max 400 (min 1650 (s.dreg rPwrCap 1650 % 2048))

/-- RING_CTL.full_ns, the time it still counts included (R452). -/
def State.fullNs (s : State) : Nat := match s.onlyn.fullSince with
  | some t => min (2 ^ 32 - 1) (s.dreg 0x500 0 % 2 ^ 32 + (s.ts - t) / 1000)
  | none => s.dreg 0x500 0

/-- Words of BAR0 that only the physical function has: power, resets, Rigging, load and sweep registers (R452, R596).
Log entry 124, DESIGN CHOICE. -/
def State.pfWord (s : State) (off : Nat) : Nat :=
  if off = 0x100 then s.dreg rFwStatus 0 * 2 ^ 32
  else if off = rFwLen then s.dreg rFwLen 0
  else if off = rPwrCap then s.pwr.reef % 8 * 2 ^ 24 + s.dreg 0x204 0 % 256 * 2 ^ 16 + s.dreg rPwrCap 1650 % 2048
  else if off = 0x500 then s.ringDepth % 512 * 2 ^ 32 + s.fullNs
  else if off = rRstCtrl then s.dreg rRstCtrl 0x20
  else if off = rRstCause then s.dreg rRstCause 1
  else if off = 0x620 then b2n (!s.activeClock)
  else if off = 0x628 then s.domBits 0
  else if off = 0x630 then s.domBits 1
  else if off = rPwrHold then s.dreg rPwrHold 100
  else if off = rPwrBrake then b2n s.pwr.brake * 8 + s.dreg rPwrBrake 7 % 8
  else if off = rTherm then s.dreg rTherm 0 * 2 ^ 32 + b2n s.pwr.trip
  else if 0x100000 ≤ off && off < 0x100290 then
    let k := (off - 0x100000) / 8
    (if k < 73 || 80 ≤ k then s.budgetWord k + (s.dreg (off + 4) (2 ^ 32 - 1 - budgetDefault k)) * 2 ^ 32 else 0)
  else if 0x101000 ≤ off && off < 0x101100 then (if off % 16 = 0 then s.secWord ((off - 0x101000) / 16) else s.dreg off 0)
  else if 0x102000 ≤ off && off < 0x103000 then s.flashWord (off - 0x102000)
  else if off = 0x103018 then s.shroud.hwm
  else if 0x103100 ≤ off && off < 0x103140 then s.sweepWord ((off - 0x103100) / 8)
  else if 0x104000 ≤ off && off < 0x105000 then s.rigWord (off - 0x104000)
  else if (0x100 ≤ off && off < 0x1000) || (0x103000 ≤ off && off < 0x104000) || off = rDbgSel then s.dreg off 0
  else 0

/-! ### A function's BAR0 -/

/-- Features offered: bits 0 to 12 alone (R437). -/
def State.featOffer (f : Nat) : Nat := (Config.featOffer f).toNat % 2 ^ 13

/-- A word of the MSI-X table, with the mask bit as PCI Express has it (log entry 6, PRESUMED). -/
def State.msixWord (s : State) (f off : Nat) : Nat :=
  let v := leNat ((s.fn f).msix.reads off 8)
  if off % 16 = 8 then v ^^^ 2 ^ 32 else v

/-- HQ_BACKPRESSURE: the waits that have ended and those that still last (R400, R424). -/
def State.backpressure (s : State) (f : Nat) : Nat :=
  (s.fn f).regs.getD hqBackpressure 0 + (s.queues.map (fun (e : Nat × Queue) => match e.2.blockedSince with
    | some t => if qFn e.1 = f then s.ts - t else 0
    | none => 0)).sum

/-- The 64-bit word of BAR0 at an offset, consent and power apart; a range that is absent reads zero.
Log entry 181, DESIGN CHOICE. -/
def State.bar0Word (s : State) (f off : Nat) : Nat :=
  let r (o : Nat) : Nat := (s.fn f).regs.getD o 0
  if off < 0x40 then fieldLE (s.ident f) off 8
  else if off = 0x40 then r 0x40 + r 0x44 * 2 ^ 32
  else if off = 0x48 then s.ts
  else if off = 0x60 then State.featOffer f
  else if 0x80 ≤ off && off < 0xC0 then r off + r (off + 4) * 2 ^ 32
  else if off = hqBackpressure then s.backpressure f
  else if 0x1000 ≤ off && off < 0x2000 then r off
  else if 0x10000 ≤ off && off < 0x18000 then s.msixWord f (off - 0x10000)
  else if 0x18000 ≤ off && off < 0x18100 then ((List.range 64).map (fun i => b2n ((s.fn f).pba.contains (8 * (off - 0x18000) + i)) * 2 ^ i)).sum
  else if 0x1000000 ≤ off && off < 0x10A0000 then s.tileWord ((off - 0x1000000) / 4096) (off % 4096)
  else if 0x2000000 ≤ off && off < 0x2100000 then s.partWord ((off - 0x2000000) / 65536) (off % 65536)
  else if f = 0 then s.pfWord off else 0

/-- Words of BAR0 that hold two registers of 32 bits, or none of 64. -/
def halves (off : Nat) : Bool :=
  off < 0x48 || (0x60 ≤ off && off < 0xC0) || off = 0x100 || off = rFwLen || off = rPwrCap || off = rRstCtrl || off = rRstCause || off = rStartup ||
  off = 0x620 || off = rPwrHold || off = rPwrBrake || off = rLink || (0x10000 ≤ off && off < 0x18100) || (0x100000 ≤ off && off < 0x101000) ||
  (0x102000 ≤ off && off < 0x102010) || off = rDbgSel ||
  (0x1000000 ≤ off && off < 0x10A0000 && (off % 4096 = 0x40 || off % 4096 = 0x48 || (0x200 ≤ off % 4096 && off % 4096 < 0x280))) ||
  (0x2000000 ≤ off && off < 0x2100000 &&
    (let o := off % 65536; (0x3100 ≤ o && o < 0x3500 && (o % 64 = 0 || o % 64 = 0x18)) || o = rSnapCtrl || o = rRestoreMap || o = rDigCtrl))

/-- What answers in BAR0 now: nothing in deep sleep or without power; the shadow during start-up and resets; the life cycle's and the recovery
loader's own part; and under state recovery only, what R439 names.
Log entry 222, DESIGN CHOICE. -/
def State.bar0Open (s : State) (f off : Nat) : Bool :=
  let fw := f = 0 && 0x100 ≤ off && off < 0x118
  if s.pwr.asleep || s.pwr.off then false
  else if s.sec.life = 5 then off < 0x40
  else if s.onlyn.recovery then f = 0 && (off < 0x48 || (0x60 ≤ off && off < 0xC0) || fw)
  else if !bitOf (s.dreg rStartup 0) 31 then off < 0x40 || off = 0x48
  else if s.negState f = 4 then off < 0x40 || fw
  else true

/-- Whether an access is served: consent for tiles and windows, ownership in a virtual function, and no consent asked of a partition's own
cores (R591, R595, R596). -/
def State.served (s : State) (core : Bool) (f off : Nat) : Bool :=
  let mine (p : Nat) : Bool := if core then f = p + 1 else (f = 0 || f = p + 1) && s.consent p 0
  if !core && !s.fnOpen f then false
  else if 0x1000000 ≤ off && off < 0x10A0000 then
    !s.tileCut ((off - 0x1000000) / 4096) && (match s.tilePart ((off - 0x1000000) / 4096) with
     | some p => mine p
     | none => false)
  else if 0x2000000 ≤ off && off < 0x2100000 then mine ((off - 0x2000000) / 65536)
  else true

/-- The word an access reads. -/
def State.readWord (s : State) (core : Bool) (f off : Nat) : Nat :=
  let o := off / 8 * 8
  if s.bar0Open f o && s.served core f o then s.bar0Word f o else 0

/-! ### Reads (R589, R590) -/

def State.latchOf (s : State) (core : Bool) (f : Nat) : Option (Nat × Nat) := if core then (s.part (f - 1)).latch else (s.fn f).latch
def State.setLatch (s : State) (core : Bool) (f : Nat) (v : Option (Nat × Nat)) : State :=
  if core then s.setPart (f - 1) { s.part (f - 1) with latch := v } else s.setFn f { s.fn f with latch := v }

/-- Answer a read: the reader, the offset and the value; a partition's cores answer as 32 plus their function, and reads of BAR4 as 128 more.
Log entry 126, DESIGN CHOICE. -/
def State.answerAt (s : State) (core bar4 : Bool) (f off v : Nat) : State :=
  { s with pins := { s.pins with regOut := s.pins.regOut ++ [((if core then 32 + f else f) + (if bar4 then 128 else 0), off, v)] } }
/-- Answer a read of BAR0.
Log entry 126, DESIGN CHOICE. -/
def State.answer (s : State) (core : Bool) (f off v : Nat) : State := s.answerAt core false f off v

/-- A read of TS_NOW between ticks: TS advances with the mesh cycles elapsed, to at most 19 ns past the last tick's value, and never back (R15,
R542); how many have elapsed, is a free value.
Log entry 122, DESIGN CHOICE. -/
def State.tsNow (s : State) (off v : Nat) : Nat × State :=
  if off / 8 * 8 = 0x48 && s.activeClock && v != 0 then
    let (i, s) := s.fresh
    let d := max s.pwr.sub ((Config.freeWord i).toNat % 20) - s.pwr.sub
    (v + d, { s with ts := s.ts + d, pwr := { s.pwr with sub := s.pwr.sub + d } })
  else (v, s)

/-! ### Writes (R11, R12, R590) -/

/-- Replace one half of a 64-bit value. -/
def setHalf (v : Nat) (high : Bool) (x : Nat) : Nat := if high then v % 2 ^ 32 + x % 2 ^ 32 * 2 ^ 32 else v / 2 ^ 32 * 2 ^ 32 + x % 2 ^ 32

/-- Send the messages of vectors that are pending and no longer masked. -/
def State.flushPba (s : State) (f : Nat) : State :=
  ((s.fn f).pba.filter (fun v => bitOf ((s.fn f).msix.read (16 * v + 12)).toNat 0)).foldl (fun s v =>
    let s := s.setFn f { s.fn f with pba := removeNat v (s.fn f).pba }
    { s with msix := s.msix ++ [(f, v)] }) s

/-- A write of 32 bits into a tile control block or a partition window, with the fields of the register tables alone. -/
def State.writePart (s : State) (p off v : Nat) : State :=
  let o := off / 8 * 8
  let high := off % 8 = 4
  let old := s.preg p o 0
  if off = rSnapCtrl then s.setPreg p off (v % 2 ^ 20)
  else if off = rRestore + 4 then s.setPreg p o (setHalf old true v)
  else if off = rRestoreMap then s.setPreg p off (v % 2 ^ 32)
  else if 0x6100 ≤ off && off < 0x6180 then s.setPreg p o (setHalf old high v)
  else if off = rDigCtrl then s.setPreg p off (v % 65536)
  else if off = rDigStatus + 4 && bitOf v 0 then s.setDigStatus p false (s.located p)
  else if off = rReplay then s.setPreg p o (setHalf old false (old % 2 ^ 32 / 65536 * 65536 + b2n (bitOf v 6) * 64 + v % 32))
  else if off = rReplay + 4 then s.setPreg p o (setHalf old true v)
  else s

/-- A write of 32 bits at an offset of a function's BAR0. Registers that have a command of their own are changed by it alone. -/
def State.writeHalf (s : State) (f off v : Nat) : State :=
  let fset (m : Nat) : State := s.setFn f { s.fn f with regs := (s.fn f).regs.set off (v % m) }
  if off = 0x40 then fset 65536
  else if 0x80 ≤ off && off < 0xA0 then fset (2 ^ 32)
  else if 0x10000 ≤ off && off < 0x18000 then
    let w := if off % 16 = 12 then (v % 2) ^^^ 1 else v
    let x := s.fn f
    (s.setFn f { x with msix := x.msix.writes (off - 0x10000) (leBytes 4 w) }).flushPba f
  else if 0x1000000 ≤ off && off < 0x10A0000 then
    let t := (off - 0x1000000) / 4096
    if off % 4096 = 0x40 then s.setTile t { s.tile t with flags := (s.tile t).flags &&& ~~~(BitVec.ofNat _ v) } else s
  else if 0x2000000 ≤ off && off < 0x2100000 then s.writePart ((off - 0x2000000) / 65536) (off % 65536) v
  else if f != 0 then s
  else if off = rFwAddr || off = rFwAddr + 4 then s.setDreg rFwAddr (setHalf (s.dreg rFwAddr 0) (off % 8 = 4) v)
  else if off = rFwLen then s.setDreg off (v % 2 ^ 32)
  else if off = rPwrCap then s.setDreg off (v % 2048)
  else if off = rRstCtrl then s.setDreg off (v % 256 / 32 * 32)
  else if off = rPwrHold then s.setDreg off (v % 65536)
  else if off = rPwrBrake then
    let s := s.setDreg off (v % 8)
    if s.pwr.brake then { s with pwr := { s.pwr with brakeDemand := max s.pwr.brakeDemand (v % 8) } }.avsSet else s
  else if off = rDbgSel then s.setDreg off (v % 65536 / 8 * 8)
  else s

/-- A write of 4 or 8 bytes, naturally aligned; any other access is dropped (R589). -/
def State.writeReg (s : State) (core : Bool) (f off size v : Nat) : State :=
  if !(size = 4 || size = 8) || off % size != 0 then s
  else if !(s.bar0Open f (off / 8 * 8) && s.served core f (off / 8 * 8)) then s
  else if size = 4 then s.writeHalf f off (v % 2 ^ 32)
  else (s.writeHalf f off (v % 2 ^ 32)).writeHalf f (off + 4) (v / 2 ^ 32)

/-- REG_WRITE.
Log entry 125, DEDUCED. -/
def execRegWrite (core : Bool) (fn : Fn) (off : U32) (size : Nat) (value : U64) (s : State) : Host.Outcome State Fault Refusal :=
  if core && fn.val = 0 then .next s
  else .next ((s.setLatch core fn.val none).writeReg core fn.val off.toNat size value.toNat)

/-! ### NEG_GO (R436, R439, R555) -/

/-- NEG_GO: ignored before STARTUP.ready, and in state recovery only.
Log entry 125, DEDUCED. -/
def execNegGo (fn : Fn) (s : State) : Host.Outcome State Fault Refusal :=
  let f := fn.val
  let set (s : State) (st mask : Nat) : State :=
    s.setFn f { s.fn f with regs := ((s.fn f).regs.set 0x44 (2 * st)).set 0xA0 mask }
  let old := (s.fn f).regs.getD 0xA0 0
  let req := (s.fn f).regs.getD 0x80 0
  if !s.bar0Open f 0x40 then .next s
  else if s.ctxs.any (fun (e : Nat × Ctx) => e.2.fn == f) then .next (set s 5 old)
  else
    match bitsOf ((s.fn f).regs.getD 0x40 0) 8 8 with
    | 4 => .next (set s 2 ((req &&& State.featOffer f) ||| 1))
    | 3 => .next (set s 3 ((req &&& 0x1083) ||| 0x1001))
    | _ => .next (set s 4 0)

/-! ### The DBG window (R597, R598) -/

/-- Count a refused debug access of a partition (R492). -/
def State.dbgRefused (s : State) (p : Option Nat) : State := match p with
  | some p => s.bumpDev (0x101008 + 16 * p) 1
  | none => s

/-- The word of a bank of a tile at an index: what was written over it, else its image's program for the tile's stage, constant pool and ticket table (R166). -/
def State.bankWord (s : State) (t : Nat) (bank1 : Bool) (i : Nat) : Nat :=
  let x := s.tile t
  match (if bank1 then x.patch1 else x.patch0).get i with
  | some w => w
  | none =>
    match (if bank1 then x.bank1 else x.bank0) with
    | none => 0
    | some b => (match (s.imgSlot b.part b.slot).bind (fun y => y.image) with
      | none => 0
      | some im => (match (im.tiles.findIdx? (fun n => n == t)).bind (fun i => stageOf 0 im.stages i) with
        | some (n, _) => nth0 (im.bank n) i
        | none => 0))

/-- Sizes of the regions a tile selector reaches. -/
def regionSize : Nat → Nat
  | 0 => 2097152
  | 1 => 65536
  | 2 => 512
  | 3 => 256
  | _ => 131072

/-- Bytes of a tile's region.
Log entry 129, DESIGN CHOICE. -/
def State.dbgRead (s : State) (t region off n : Nat) : Nat :=
  let x := s.tile t
  match region with
  | 0 => leNat (x.mem.reads off n)
  | 1 => leNat ((((x.v.getD (off / 1024) []).drop (off % 1024 / 4)).take (n / 4)).flatMap (fun w => leBytes 4 w.toNat)) 
  | 2 => (x.g.getD (off / 64) 0).toNat / 256 ^ (off % 64) % 256 ^ n
  | 3 => (x.x.getD (off / 8) 0).toNat / 256 ^ (off % 8) % 256 ^ n
  | _ => s.bankWord t (region == 5) (off / 8) / 256 ^ (off % 8) % 256 ^ n

/-- Replace `n` bytes of a number from byte `i` on. -/
def putBytes (v i n x : Nat) : Nat := v - v / 256 ^ i % 256 ^ n * 256 ^ i + x % 256 ^ n * 256 ^ i

def State.dbgWrite (s : State) (t region off n v : Nat) : State :=
  let x := s.tile t
  match region with
  | 0 => s.setTile t { x with mem := x.mem.writes off (leBytes n v) }
  | 1 =>
    let old := padV (x.v.getD (off / 1024) [])
    let l := off % 1024 / 4
    let new := (List.range (n / 4)).foldl (fun (a : List U32) i => lset a (l + i) (BitVec.ofNat 32 (v / 2 ^ (32 * i)))) old
    s.setTile t { x with v := x.v.set (off / 1024) new }
  | 2 => s.setTile t { x with g := x.g.set (off / 64) (BitVec.ofNat 512 (putBytes (x.g.getD (off / 64) 0).toNat (off % 64) n v)) }
  | 3 => s.setTile t { x with x := x.x.set (off / 8) (BitVec.ofNat 64 (putBytes (x.x.getD (off / 8) 0).toNat (off % 8) n v)) }
  | _ =>
    let w := putBytes (s.bankWord t (region == 5) (off / 8)) (off % 8) n v
    s.setTile t (if region = 5 then { x with patch1 := x.patch1.set (off / 8) w } else { x with patch0 := x.patch0.set (off / 8) w })
where
  padV (l : List U32) : List U32 := l ++ List.replicate (256 - l.length) 0

/-- The partition that owns a cluster of cores. -/
def State.clusterPart (s : State) (j : Nat) : Option Nat :=
  (List.range 16).find? (fun p => (s.part p).sess.st != .free && (match s.layout p with
    | some l => bitsOf l.cores.toNat (4 * j) 4 != 0
    | none => false))

/-- DBG_ACCESS at a BAR0 offset of the window, by the physical function. What a core's debug module answers belongs to RISC-V External Debug Support,
and is a free value; a write to it has no effect the manual gives. -/
def execDbgAccess (off : U32) (write : Bool) (size : Nat) (value : U64) (s : State) : Host.Outcome State Fault Refusal :=
  let o := off.toNat
  let sel := s.dreg rDbgSel 0
  let idx := bitsOf sel 8 8
  let kind := bitsOf sel 6 2
  let region := bitsOf sel 3 3
  let s := s.setLatch false 0 none
  let reply (s : State) (v : Nat) : State := if write then s else s.answer false 0 o v
  if !(size = 4 || size = 8) || o % size != 0 || !s.bar0Open 0 0x3000000 then .next (reply s 0)
  else if 0x3100000 ≤ o && o < 0x3100400 then
    let p := if kind = 1 && idx < 8 then s.clusterPart idx else none
    if kind = 1 && idx < 8 && !(s.dev.closedBridge && 4 ≤ idx) && (match p with
      | some p => s.consent p 1
      | none => false) then
      let (i, s) := s.fresh
      .next (reply s ((leNat (Config.stdAnswer (leBytes 4 o) i)) % 256 ^ size))
    else .next (reply (s.dbgRefused p) 0)
  else if 0x3200000 ≤ o && o < 0x3400000 then
    let a := o - 0x3200000
    let p := if kind = 0 && idx < 160 then s.tilePart idx else if kind = 1 && idx < 8 then s.clusterPart idx else none
    let x := s.tile idx
    let current := (region == 4 && !x.cur1) || (region == 5 && x.cur1)
    let ok := kind = 0 && idx < 160 && !s.tileCut idx && region < 6 && a + size ≤ regionSize region && !x.failed && (match p with
      | some p => s.consent p 1
      | none => false) && !(write && current && x.run.isSome)
    if !ok then .next (reply (s.dbgRefused p) 0)
    else if write then .next (s.dbgWrite idx region a size value.toNat)
    else .next (reply s (s.dbgRead idx region a size))
  else .next (reply s 0)

end Sys2Proof.Machine
end

