-- ==== Sys2Proof/Machine/Sec.lean ====
section
/-! DEFINITION. SEC (R453 to R492): messages to it and its answers, layouts, sessions, key slots, consent, the start of partition cores, the
life cycle, the attestation report, and SEC's faults. -/

namespace Sys2Proof.Machine

/-! ### Messages (R462 to R464) -/

def State.giveDoe (s : State) (b : Bytes) : State := { s with sec := { s.sec with doe := s.sec.doe ++ [b] } }

/-- Whether the reserved bytes of a message are zero (R11). -/
def secClean (h : SecHdr) : Bool := h.rsv == 0 && h.pad == 0

/-- The 16-byte header: bytes 2 and 3 hold the status of a response, and are reserved in a message.
Log entry 132, DESIGN CHOICE. -/
def secHeader (type part status len seq : Nat) : Bytes :=
  leBytes 1 type ++ leBytes 1 part ++ leBytes 2 status ++ leBytes 4 len ++ leBytes 8 seq

/-- The tag that ends a tenant's message. -/
def tenantTag (kc : U256) (type : Nat) (h : SecHdr) (body : Bytes) : U256 :=
  kmac256 (leBytes 32 kc.toNat) (secHeader type h.part.toNat h.rsv.toNat body.length h.seq.toNat ++ body) 256 "FKL TENANT MSG"

/-- A response, with its tag when it answers a tenant whose session has a channel key.
Log entry 132, DESIGN CHOICE. -/
def secResponse (type part seq : Nat) (kc : Option U256) (accepted : Nat) (st : Status) (body : Bytes) : Bytes :=
  let b := secHeader (type + 0x80) part (statusCode st) body.length seq ++ leBytes 8 accepted ++ body
  match kc with
  | some k => b ++ kmacBytes (leBytes 32 k.toNat) b 256 "FKL SEC RESP"
  | none => b

def State.reply (s : State) (type : Nat) (h : SecHdr) (kc : Option U256) (st : Status) (body : Bytes) : State :=
  s.giveDoe (secResponse type h.part.toNat h.seq.toNat kc s.ts st body)

/-- Answer an operator's message: a refused one changes nothing. -/
def State.answerOp (s : State) (type : Nat) (h : SecHdr) (r : Except Status State) : State :=
  if !secClean h then s.reply type h none .malformed []
  else
    match r with
    | .ok t => t.reply type h none .ok []
    | .error st => s.reply type h none st []

/-- Why a tenant's message is refused before its type is looked at.
Log entry 134, DEDUCED. -/
def State.tenantFails (s : State) (type : Nat) (h : SecHdr) (body : Bytes) : Option Status :=
  let x := (s.part h.part.toNat).sess
  match x.st, x.channel with
  | .bound, some kc =>
    if h.tag != tenantTag kc type h body then some .integrity
    else if h.seq.toNat ≤ x.lastSeq then some .stale else none
  | _, _ => some .key

/-- Answer a tenant's message: refused under R464, or by its own type; an accepted one sets the last sequence number first. -/
def State.answerTenant (s : State) (type : Nat) (h : SecHdr) (body : Bytes) (f : Nat → State → Except Status State) : State :=
  let p := h.part.toNat
  let kc := (s.part p).sess.channel
  if 16 ≤ p then s.reply type h none .malformed []
  else
    match s.tenantFails type h body with
    | some st => s.reply type h kc st []
    | none =>
      if !secClean h then s.reply type h kc .malformed [] else
      match f p (s.setSess p { (s.part p).sess with lastSeq := h.seq.toNat }) with
      | .ok t => t.reply type h kc .ok []
      | .error st => s.reply type h kc st []

/-! ### Layouts (R460, R461, R603) -/

/-- Every field within its range, and reserved fields and the fields SEC fills in zero. -/
def layoutInRange (l : Layout) : Bool :=
  l.reservedZero && l.bridgeAB.toNat ≤ 80 && l.bridgeBA.toNat ≤ 80 && l.columns.toNat < 2 ^ 20 && l.adapterQuota.toNat ≤ 4096 &&
  l.adapterPages.toNat ≤ l.hbmPages.toNat && 64 ≤ l.keyBase.toNat && l.keyBase.toNat ≤ 8191 && 2 ≤ l.keyCount.toNat &&
  l.keyBase.toNat + l.keyCount.toNat ≤ 8192 && l.budgets.length == 4 && l.budgets.all (fun b => b.toNat < 2 ^ 20)

/-- Layouts of every other partition that is not FREE. -/
def State.layoutsBut (s : State) (p : Nat) : List Layout :=
  (List.range 16).filterMap (fun q => if q = p || (s.part q).sess.st == .free then none else s.layout q)

/-- Columns, cores, LLC ways or key ranges overlap. -/
def layoutsMeet (l m : Layout) : Bool :=
  l.columns &&& m.columns != 0 || l.cores &&& m.cores != 0 || l.llcWays &&& m.llcWays != 0 ||
  (decide (l.keyBase.toNat < m.keyBase.toNat + m.keyCount.toNat) && decide (m.keyBase.toNat < l.keyBase.toNat + l.keyCount.toNat))

/-- HBM pages left for layouts. -/
def State.hbmForLayouts (s : State) : Nat :=
  let held := s.objs.foldl (fun n (e : Nat × Obj) => if e.2.part == none && e.2.tier == 1 && e.2.use == .object then n + e.2.pages.length else n) 0
  hbmFrames - 28672 * s.dev.closedPairs.length - 16384 - held

/-- Flash segments left for layouts: operator objects' segments and held ones are those whose region no partition has.
Log entry 136, DEDUCED. -/
def State.flashForLayouts (s : State) : Nat :=
  let held := (s.flash.owner.filter (fun (e : Nat × Nat) => e.2 % 32 == 16 && !s.flash.retired.contains e.1)).length
  flashSegments - 64 - 16384 * s.dev.closedFlash.length - s.flash.retired.length - held

/-- Whether a layout for a partition fits beside every other one. -/
def State.layoutFits (s : State) (p : Nat) (l : Layout) : Bool :=
  let ms := s.layoutsBut p
  let total (f : Layout → Nat) : Nat := ((l :: ms).map f).sum
  !ms.any (layoutsMeet l) && total (fun m => m.bridgeAB.toNat) ≤ 80 && total (fun m => m.bridgeBA.toNat) ≤ 80 &&
  total (fun m => m.adapterQuota.toNat) ≤ 4096 && total (fun m => m.hbmPages.toNat) ≤ s.hbmForLayouts &&
  total (fun m => m.flashSegments.toNat + m.snapSegments.toNat) ≤ s.flashForLayouts

/-- Why a LAYOUT_SET is refused.
Log entry 134, DEDUCED.
Log entry 222, DESIGN CHOICE. -/
def State.layoutFails (s : State) (h : SecHdr) (l : Layout) : Option Status :=
  let p := h.part.toNat
  if 16 ≤ p then some .malformed
  else if (s.part p).sess.st == .bound || (s.part p).sess.st == .closing then some .bounds
  else if !layoutInRange l then some .malformed
  else if !s.layoutFits p l then some .bounds
  else none

/-- Whether a layout grants columns, LLC ways or cores whose zeroing has not ended (R560).
Log entry 164, DEDUCED. -/
def State.zeroing (s : State) (l : Layout) : Bool :=
  (List.range 16).any (fun q => (s.part q).sess.st == .free && (s.part q).sess.clearing && (match s.layout q with
    | some m => l.columns &&& m.columns != 0 || l.cores &&& m.cores != 0 || l.llcWays &&& m.llcWays != 0
    | none => false))

/-- The 1,568-byte encapsulation key of a key pair, and bytes 0 to 15 of its digest. -/
def kemKey (pair : U256) : Bytes := padTo 1568 (Config.mlkemPublic pair)
def kemId (pair : U256) : U128 := BitVec.ofNat 128 (leNat ((sha384 (kemKey pair)).take 16))

/-- A partition in ASSIGNED with a layout and a fresh key pair. -/
def State.assign (s : State) (p : Nat) (l : Layout) : State :=
  let (i, s) := s.fresh
  let pair := Config.trng i
  s.setSess p { Session.none with st := .assigned, layout := some l, keyPair := pair, sessionId := kemId pair }

/-- A partition's SNAPSHOT region and its page table go back to Onlyn. -/
def State.returnRegion (s : State) (p : Nat) : State := (s.giveSegs p (s.regionSegs p)).dropPages (tableKey p)

/-- The segments a layout grants a SNAPSHOT region, those held in it apart, and its page table (R235).
Log entry 94, DEDUCED. -/
def State.grantLayout (s : State) (p : Nat) (l : Layout) : State :=
  let held := ((s.heldSnaps.filter (fun h => h.part == some p)).map (fun h => h.segs.length)).sum
  ((s.returnRegion p).grantRegion p (l.snapSegments.toNat - held)).newTable (tableKey p) (some p) (tablePages l)

/-- Release what a partition's SNAPSHOT region keeps for a later session, and the region. -/
def State.releaseRegion (s : State) (p : Nat) : State :=
  let mine := s.heldSnaps.filter (fun h => h.part == some p)
  let s := mine.foldl (fun s h => s.freeSnap (snapFrames h.snaps).eraseDups) s
  let gone := mine.flatMap (fun h => h.segs)
  let owner := s.flash.owner.map (fun (e : Nat × Nat) => if gone.contains e.1 then (e.1, regionTag 4 (some p)) else e)
  { s with heldSnaps := s.heldSnaps.filter (fun h => h.part != some p), flash := { s.flash with owner := owner } }.returnRegion p

/-- LAYOUT_SET: partition table entry, key pair, budget words, and the columns' retention domains. -/
def State.doLayoutSet (s : State) (h : SecHdr) (l : Layout) : State :=
  s.answerOp 0x01 h (match s.layoutFails h l with
    | some st => .error st
    | none =>
      let p := h.part.toNat
      let s := s.assign p l
      let s := s.setPart p { s.part p with table := 1, tableN := 0xFFFFFFFE }
      let s := s.grantLayout p l
      let s := (List.range 4).foldl (fun s i => (s.endDry (4 * p + i)).setBudget (4 * p + i) (l.budgets.getD i 0).toNat) s
      .ok (s.wakeAll (((List.range 20).filter (fun c => bitOf l.columns.toNat c)).map (fun c => 20 + c))))

/-- LAYOUT_CLEAR. The resources of an ASSIGNED partition are zeroed before they are granted again. -/
def State.doLayoutClear (s : State) (h : SecHdr) : State :=
  let p := h.part.toNat
  if 16 ≤ p || !secClean h then s.reply 0x02 h none .malformed []
  else
    let x := (s.part p).sess
    match x.st with
    | .free => s.reply 0x02 h none .ok []
    | .assigned =>
      ((s.releaseRegion p).setSess p { Session.none with layout := x.layout, clearing := true, closeTs := s.ts }).reply 0x02 h none .ok []
    | .bound => ((s.closePart p false true).releaseRegion p).reply 0x02 h none .ok []
    | .closing => s.reply 0x02 h none .key []

/-! ### Sessions (R463 to R466) -/

/-- SESSION_KEY. -/
def State.doSessionKey (s : State) (h : SecHdr) : State :=
  let p := h.part.toNat
  if !secClean h then s.reply 0x03 h none .malformed []
  else if p = 0xFF then s.reply 0x03 h none .ok (kemKey s.sec.opPair)
  else if 16 ≤ p then s.reply 0x03 h none .malformed []
  else
    match (s.part p).sess.st with
    | .assigned | .bound => s.reply 0x03 h none .ok (kemKey (s.part p).sess.keyPair)
    | _ => s.reply 0x03 h none .key []

/-- The channel key and the seal value of a bind. -/
def bindKey (pair : U256) (ct : Bytes) (report : U384) : U256 :=
  kmac256 (leBytes 32 (Config.mlkemDecaps pair ct).toNat) (leBytes 48 report.toNat) 256 "FKL CHANNEL"
def bindSeal (pair : U256) (ct : Bytes) (report : U384) (masked : U256) : U256 :=
  masked ^^^ kmac256 (leBytes 32 (Config.mlkemDecaps pair ct).toNat) (leBytes 48 report.toNat) 256 "FKL SEAL PAD"

/-- Whether the life-cycle word passes its dual-rail check (R488). -/
def State.lifeOk (s : State) : Bool := s.sec.lifeN == ~~~s.sec.life

/-- Why a SESSION_BIND is refused. Sessions exist in FIELD alone.
Log entry 133, DEDUCED. -/
def State.bindFails (s : State) (h : SecHdr) (ct : Bytes) (report : U384) (masked : U256) : Option Status :=
  let p := h.part.toNat
  let x := (s.part p).sess
  if 16 ≤ p || h.seq != 0 || !secClean h then some .malformed
  else if x.st != .assigned || s.sec.life != 3 then some .key
  else if !x.reports.any (fun r => r.1 == report && decide (s.ts ≤ r.2 + 60000000000)) then some .digestMismatch
  else if h.tag != tenantTag (bindKey x.keyPair ct report) 0x04 h (ct ++ leBytes 48 report.toNat ++ leBytes 32 masked.toNat) then some .integrity
  else none

/-- A filled slot. -/
def filledSlot (kind : KeyKind) (key : U256) : KeySlot := ⟨.active, 1, 0xFFFFFFFE, kind, 0, key, none, 0, none⟩

/-- SESSION_BIND: the channel key, the seal value, the MEMORY slot, the clusters of its cores, the held SNAPSHOT segments of the seal value, and PAIR. -/
def State.doBind (s : State) (h : SecHdr) (ct : Bytes) (report : U384) (masked : U256) : State :=
  if !s.lifeOk then s.devFault .parity none
  else
    match s.bindFails h ct report masked with
    | some st => s.reply 0x04 h none st []
    | none =>
      let p := h.part.toNat
      let x := (s.part p).sess
      let kc := bindKey x.keyPair ct report
      let s := s.setSess p { x with st := .bound, channel := some kc, lastSeq := 0, sealValue := bindSeal x.keyPair ct report masked, bindTs := s.ts }
      let (i, s) := s.fresh
      let s := (match x.layout with
        | some l => (s.setKey l.keyBase.toNat (filledSlot .memory (Config.trng i))).wakeAll (((List.range 8).filter (fun j => bitsOf l.cores.toNat (4 * j) 4 != 0)).map (fun j => 65 + j))
        | none => s)
      (((s.setNet p Net.reset).attachSnaps p).sendPair p).reply 0x04 h (some kc) .ok []

/-- SESSION_CLOSE. -/
def State.doSessionClose (s : State) (h : SecHdr) : State :=
  s.answerTenant 0x0A h [] (fun p s => .ok (s.closePart p false false))

/-! ### Key slots (R457 to R459, R468) -/

def State.slotGranted (s : State) (h : SecHdr) (k : Nat) : Bool :=
  if h.part = 0xFF then decide (1 ≤ k) && decide (k ≤ 63) else s.granted h.part.toNat k
def State.isMemorySlot (s : State) (h : SecHdr) (k : Nat) : Bool := h.part != 0xFF && (match s.layout h.part.toNat with
  | some l => l.keyBase.toNat == k
  | none => false)
/-- Whether a page table entry names a slot. -/
def State.slotNamed (s : State) (k : Nat) : Bool := s.objs.any (fun (e : Nat × Obj) => e.2.pages.any (fun p => p.keySlot == k))

/-- Why a slot may not be filled. -/
def State.slotFails (s : State) (h : SecHdr) (k : Nat) : Option Status :=
  if !s.slotGranted h k then some .key
  else if s.isMemorySlot h k || (s.key k).st != .empty || s.slotNamed k then some .bounds
  else none

/-- Answer a key message: the operator's is untagged. -/
def State.answerKey (s : State) (type : Nat) (h : SecHdr) (body : Bytes) (f : State → Except Status State) : State :=
  if h.part = 0xFF then s.answerOp type h (f s) else s.answerTenant type h body (fun _ s => f s)

/-- KEY_GENERATE: a TIER slot. -/
def State.doKeyGenerate (s : State) (h : SecHdr) (slot : U16) : State :=
  s.answerKey 0x05 h (leBytes 2 slot.toNat) (fun s =>
    let k := slot.toNat
    match s.slotFails h k with
    | some st => .error st
    | none => let (i, s) := s.fresh; .ok (s.setKey k (filledSlot .tier (Config.trng i))))

/-- The key a KEY_IMPORT unwraps. -/
def State.importedKey (s : State) (h : SecHdr) (slot : U16) (ct wrapped : Bytes) : Option U256 :=
  let pair := if h.part = 0xFF then s.sec.opPair else (s.part h.part.toNat).sess.keyPair
  let kek := kmac256 (leBytes 32 (Config.mlkemDecaps pair ct).toNat) (leBytes 16 (kemId pair).toNat ++ leBytes 2 slot.toNat) 256 "FKL IMPORT"
  aesKwUnwrap kek wrapped

/-- KEY_IMPORT: a TRANSPORT slot. -/
def State.doKeyImport (s : State) (h : SecHdr) (slot : U16) (ct wrapped : Bytes) : State :=
  s.answerKey 0x06 h (leBytes 2 slot.toNat ++ leBytes 6 h.pad.toNat ++ ct ++ wrapped) (fun s =>
    let k := slot.toNat
    match s.slotFails h k, s.importedKey h slot ct wrapped with
    | some st, _ => .error st
    | none, none => .error .integrity
    | none, some x => .ok (s.setKey k (filledSlot .transport x)))

/-- Withdraw an ACTIVE slot: HELD while a registry entry names it, else EMPTY. -/
def State.withdraw (s : State) (k : Nat) : State :=
  let s := s.endSweep k
  let held := !(s.protectedBy k).isEmpty
  if !s.regRails then s.devFault .integrity none
  else if held then (s.setKey k { s.key k with st := .held, next := none, gone := some s.ts }).revokeAdapters k
  else s.setKey k { KeySlot.reset with gone := some s.ts }

/-- KEY_WITHDRAW. -/
def State.doKeyWithdraw (s : State) (h : SecHdr) (slot : U16) : State :=
  s.answerKey 0x07 h (leBytes 2 slot.toNat) (fun s =>
    let k := slot.toNat
    if !s.slotGranted h k then .error .key
    else if s.isMemorySlot h k then .error .bounds
    else if (s.key k).st != .active then .ok s
    else .ok (s.withdraw k))

/-! ### Consent (R484, R485) -/

/-- Bytes 0x00 to 0x3F of a token. -/
def tokenBytes (t : ConsentToken) : Bytes :=
  leBytes 4 t.magic.toNat ++ leBytes 1 t.part.toNat ++ leBytes 1 t.flags.toNat ++ leBytes 2 t.rsv1.toNat ++ leBytes 8 t.seq.toNat ++
  leBytes 8 t.notBefore.toNat ++ leBytes 8 t.notAfter.toNat ++ leBytes 16 t.sessionId.toNat ++ leBytes 16 t.rsv2.toNat

/-- Why a token is refused. `consentSeq` is one more than the last token's seq, and 0 before the first.
Log entry 134, DEDUCED. -/
def State.tokenFails (s : State) (p : Nat) (t : ConsentToken) : Option Status :=
  let x := (s.part p).sess
  if t.tag != kmac256 (leBytes 32 (x.channel.getD 0).toNat) (tokenBytes t) 256 "FKL CONSENT" then some .integrity
  else if t.seq.toNat < x.consentSeq then some .stale
  else if t.sessionId != x.sessionId then some .key
  else if t.magic != 0x31534E43 || t.part.toNat != p || 4 ≤ t.flags.toNat || t.rsv1 != 0 || t.rsv2 != 0 ||
      (t.notAfter != 0 && decide (t.notAfter.toNat ≤ t.notBefore.toNat)) then some .malformed
  else none

/-- CONSENT_SET. -/
def State.doConsentSet (s : State) (h : SecHdr) (t : ConsentToken) : State :=
  s.answerTenant 0x08 h (tokenBytes t ++ leBytes 32 t.tag.toNat) (fun p s =>
    match s.tokenFails p t with
    | some st => .error st
    | none => .ok (s.setSess p { (s.part p).sess with consentFlags := t.flags.toNat, consentSeq := t.seq.toNat + 1, consentFrom := max t.notBefore.toNat s.ts, consentTo := t.notAfter.toNat }))

/-! ### Partition cores (R469) -/

/-- Why a CORE_START is refused; a catcher starts no cores (R494), and the management DMA's read may fail.
Log entry 135, DEDUCED. -/
def State.coreFails (s : State) (p : Nat) (a : CoreStartArgs) : Option Status :=
  match s.objOf a.handle with
  | none => some .handle
  | some (k, o) =>
    if o.part != some p then some .handle
    else if s.isCatcher || (match s.layout p with
        | some l => l.cores == 0
        | none => true) || o.bytes < a.off.toNat + a.len.toNat then some .bounds
    else if !s.keyServes k then some .key
    else
      match o.readVerdict a.off.toNat a.len.toNat with
      | .bad st _ => some st
      | _ =>
        if s.rangeBad k a.off.toNat a.len.toNat != 0 then some .integrity
        else if sha384 (s.objRead k a.off.toNat a.len.toNat) != leBytes 48 a.digest.toNat then some .digestMismatch
        else none

/-- CORE_START.
Log entry 135, DEDUCED. -/
def State.doCoreStart (s : State) (h : SecHdr) (a : CoreStartArgs) : State :=
  s.answerTenant 0x09 h (leBytes 4 a.handle.toNat ++ leBytes 4 h.pad.toNat ++ leBytes 8 a.off.toNat ++ leBytes 8 a.len.toNat ++ leBytes 8 a.entry.toNat ++ leBytes 48 a.digest.toNat)
    (fun p s => match s.coreFails p a with
      | some st => .error st
      | none => .ok (s.startCores p a 0))

/-! ### The life cycle (R488 to R490) -/

/-- The full wipe: SRAM, every key but the identity's, HBM and flash. Functions, ports' settings, the troupe table, power and Onlyn's code stay.
Log entry 141, DEDUCED. -/
def State.fullWipe (s : State) : State :=
  let s := (List.range 12).foldl (fun s p => if (s.port p).st == .up || (s.port p).st == .auth then s.portDown p false else s) s
  let r := State.reset
  let tiles := (s.failedTiles).foldl (fun (t : Tbl Tile) i => t.set i { Tile.reset with failed := true }) []
  let s := { s with parts := r.parts, keys := r.keys, ctxs := r.ctxs, queues := r.queues, objs := r.objs, objGens := r.objGens, events := r.events, waits := r.waits }
  let s := { s with accs := r.accs, works := r.works, runs := r.runs, tiles := tiles, hbm := r.hbm, hbmUsed := r.hbmUsed, wiping := r.wiping, flash := s.flash.eraseAll, shroud := r.shroud }
  { s with adpt := r.adpt, usets := r.usets, recipes := r.recipes, unitGens := r.unitGens, groups := r.groups, heldSnaps := r.heldSnaps, onlyn := { s.onlyn with replays := [] } }

/-- Fresh keys for the bridge's 112 lanes in both directions (R293). -/
def State.drawBridge (s : State) : State :=
  { s with free := s.free + 224, dev := { s.dev with bridge := (List.range 224).map (fun n => (n, ⟨Config.trng (s.free + n), 0, 0⟩)) } }

/-- Keys drawn at every reset and after a full wipe: slot 0, the tree key, the operator's pair (R454, R457), and at a reset the bridge's. -/
def State.drawKeys (s : State) : State :=
  let (i, s) := s.fresh
  let (j, s) := s.fresh
  let (k, s) := s.fresh
  let s := s.setKey 0 (filledSlot .memory (Config.trng i))
  { s with shroud := { s.shroud with treeKey := Config.trng j }, sec := { s.sec with opPair := Config.trng k } }

/-- Why a LIFECYCLE is refused. -/
def State.lifeFails (s : State) (target : Nat) (token : Bytes) : Option Status :=
  let busy := (List.range 16).any (fun p => (s.part p).sess.st != .free)
  match s.sec.life.toNat, target with
  | 1, 2 => if Config.fykorTokenOk token then none else some .integrity
  | 2, 3 => none
  | 3, 4 | 3, 5 | 4, 5 => if busy then some .bounds else none
  | _, _ => some .malformed

/-- LIFECYCLE: the new state's fuses, then the wipe; the response follows it. -/
def State.doLifecycle (s : State) (h : SecHdr) (target : U8) (token : Bytes) : State :=
  if !s.lifeOk then s.devFault .parity none
  else
    match (if secClean h then s.lifeFails target.toNat token else some .malformed) with
    | some st => s.reply 0x0B h none st []
    | none =>
      let life : U32 := target.setWidth 32
      let sec := { s.sec with life := life, lifeN := ~~~life, wiping := some ⟨target.toNat, h.seq.toNat, s.ts, true⟩, secretGone := s.sec.secretGone || target == 5 }
      { s with sec := sec }.fullWipe

/-! ### The attestation report (R473 to R480) -/

/-- Bits of a list of places, in bytes. -/
def bitBytes (l : List Nat) (n : Nat) : Bytes := leBytes n ((l.eraseDups.map (fun i => 2 ^ i)).sum)

/-- The layout entry of a partition as a report shows it.
Log entry 137, DEDUCED. -/
def State.reportLayout (s : State) (p : Nat) : Bytes :=
  let x := (s.part p).sess
  match x.st, x.layout with
  | .free, _ | _, none => zeros 128
  | st, some l => layoutBytes l (sessCode st) (b2n (s.consent p 0) + 2 * b2n (s.consent p 1)) (if st == .bound then x.bindTs else 0) x.sessionId.toNat

/-- Images of a subject: LOADED and DRAINING slots. -/
def State.reportImages (s : State) (p : Nat) : List Bytes :=
  ((s.part p).slots.filter (fun (e : Nat × ImgSlot) => e.2.st == .loaded || e.2.st == .draining)).map (fun (e : Nat × ImgSlot) =>
    leBytes 1 e.1 ++ leBytes 1 (if e.2.st == .loaded then 1 else 2) ++ zeros 6 ++ leBytes 8 e.2.loadTs ++ padTo 48 e.2.digest)

/-- Groups of a subject: ACTIVE ones in which it is a member. -/
def State.reportGroups (s : State) (p : Nat) : List Bytes :=
  (s.groups.filter (fun (e : Nat × Group) => e.2.st == .active)).filterMap (fun (e : Nat × Group) => (s.memberOf e.2 p).map (fun m =>
    leBytes 1 e.1 ++ leBytes 1 m ++ leBytes 1 (b2n (geIsCommons e.2.entry)) ++ leBytes 1 (geMin e.2.entry) ++ leBytes 4 (geGen e.2.entry) ++ zeros 8 ++
      padTo 48 (sha384 e.2.filled)))

/-- The report of a subject, none for the device, before its signatures. -/
def State.reportBody (s : State) (subject : Option Nat) (nonce : U256) : Bytes :=
  let imgs := (match subject with
    | some p => s.reportImages p
    | none => [])
  let grps := (match subject with
    | some p => s.reportGroups p
    | none => [])
  let sig := 3200 + 64 * (imgs.length + grps.length)
  let debugFuse := b2n (s.sec.life != 1)
  let fw := (if s.onlyn.recovery then zeros 4 else leBytes 4 (imgVersion s.onlyn.running))
  let header := [0x46, 0x41, 0x52, 0x31] ++ leBytes 2 0x0100 ++ leBytes 2 128 ++ leBytes 4 (sig + 16608) ++ leBytes 4 sig ++ [0xA1] ++ leBytes 1 s.sec.life.toNat ++
    leBytes 1 debugFuse ++ leBytes 1 (subject.getD 0xFF) ++ leBytes 1 imgs.length ++ leBytes 1 grps.length ++ zeros 2 ++ leBytes 8 s.ts ++ leBytes 32 nonce.toNat ++ fw ++ zeros 60
  let ident := sha384 Config.rsaLeaf ++ sha384 Config.slhLeaf ++ sha384 Config.rsaChain ++ sha384 Config.slhChain ++
    leBytes 1 s.sec.life.toNat ++ leBytes 1 debugFuse ++ leBytes 2 Config.rollbackFuse.toNat ++ leBytes 1 (b2n s.sec.secretGone) ++ zeros 11 ++ sha384 (kemKey s.sec.opPair)
  let image := imgDigest s.onlyn.running
  let comps := (List.range 9).flatMap (fun c => leBytes 1 c ++ zeros 3 ++ leBytes 4 (Config.componentVersion image c).toNat ++ zeros 8 ++ leBytes 48 (Config.componentDigest image c).toNat)
  let layouts := (List.range 16).flatMap (fun p => padTo 128 (s.reportLayout p))
  let health := bitBytes s.failedTiles 20 ++ bitBytes s.dev.closedUnits 4 ++ bitBytes s.dev.closedPorts 2 ++
    leBytes 1 (b2n s.dev.closedBridge + 2 * b2n s.dev.closedPcie) ++ zeros 5 ++ bitBytes s.dev.closedPairs 32
  let session := (match subject with
    | some p =>
      let x := (s.part p).sess
      (if x.st == .assigned || x.st == .bound then sha384 (kemKey x.keyPair) else zeros 48) ++ leBytes 48 x.coreDigest.toNat ++ leBytes 8 x.coreTs ++ zeros 24
    | none => zeros 128)
  header ++ ident ++ comps ++ layouts ++ health ++ session ++ imgs.flatten ++ grps.flatten

/-- The whole report: both signatures cover everything before them. -/
def State.report (s : State) (subject : Option Nat) (nonce : U256) : Bytes :=
  let b := s.reportBody subject nonce
  b ++ padTo 384 (Config.rsaSign b) ++ padTo 16224 (Config.slhSign b)

/-! ### SPDM (R473) -/

/-- An SPDM message with its content: the form is DSP0274's, a free value.
Log entry 130, PRESUMED. -/
def State.spdmAnswer (s : State) (code : U8) (content : Bytes) : State :=
  let (i, s) := s.fresh
  s.giveDoe (Config.stdAnswer (code :: content) i)
/-- The ERROR response.
Log entry 138, DEDUCED. -/
def State.spdmError (s : State) (request : U8) : State := s.spdmAnswer 0x7F [request]
def State.setSpdm (s : State) (x : SpdmSt) : State := { s with sec := { s.sec with spdm := x } }

/-- Answer a request that the connection has come far enough for.
Log entry 138, DEDUCED. -/
def State.negotiated (s : State) (code : U8) (f : State → State) : State := if s.sec.spdm == .negotiated then f s else s.spdmError code

def State.doGetVersion (s : State) : State := (s.setSpdm .version).spdmAnswer 0x04 [0x13, 0x12]
def State.doGetCapabilities (s : State) : State :=
  if s.sec.spdm == .version then (s.setSpdm .capabilities).spdmAnswer 0x61 (leBytes 1 16 ++ leBytes 4 4096 ++ leBytes 4 65536) else s.spdmError 0xE1
def State.doNegotiate (s : State) (request : Bytes) : State :=
  if s.sec.spdm == .capabilities then (s.setSpdm .negotiated).spdmAnswer 0x63 request else s.spdmError 0xE3
def State.doGetDigests (s : State) : State := s.negotiated 0x81 (fun s => s.spdmAnswer 0x01 (sha384 Config.rsaChain ++ sha384 Config.slhChain))
def State.doGetCertificate (s : State) (slot : U8) (off len : U16) : State :=
  s.negotiated 0x82 (fun s => if 2 ≤ slot.toNat then s.spdmError 0x82
    else s.spdmAnswer 0x02 (slot :: (((if slot = 0 then Config.rsaChain else Config.slhChain).drop off.toNat).take len.toNat)))
/-- CHALLENGE: only the RSA-3072 key of slot 0 signs SPDM messages. -/
def State.doChallenge (s : State) (slot : U8) (nonce : U256) : State :=
  s.negotiated 0x83 (fun s => if slot != 0 then s.spdmError 0x83 else s.spdmAnswer 0x03 (slot :: leBytes 32 nonce.toNat))

/-- The subject a measurement index names. -/
def subjectOf (index : U8) : Option (Option Nat) :=
  let n := index.toNat
  if 0x40 ≤ n && n < 0x50 then some (some (n - 0x40)) else if n = 0x50 then some none else none

/-- GET_MEASUREMENTS: the report is taken now and fetched in chunks, for it is longer than a transfer. -/
def State.doGetMeasurements (s : State) (index : U8) (nonce : U256) (signed : Bool) : State :=
  s.negotiated 0xE0 (fun s =>
    if !s.lifeOk then s.devFault .parity none
    else
      match subjectOf index, signed with
      | some sub, true =>
        let r := s.report sub nonce
        let (i, s) := s.fresh
        let (j, s) := s.fresh
        let whole := Config.stdAnswer (0x60 :: index :: leBytes 32 nonce.toNat) i ++ r ++ Config.stdAnswer (0x60 :: r) j
        let handle := (s.sec.handle + 1) % 256
        let s := { s with sec := { s.sec with large := some (handle, whole, 0), handle := handle } }
        let s := (match sub with
          | some p =>
            let x := (s.part p).sess
            s.setSess p { x with reports := ((BitVec.ofNat 384 (leNat (sha384 r)), s.ts) :: x.reports).take 4 }
          | none => s)
        s.spdmAnswer 0x7F (0x0F :: leBytes 1 handle)
      | _, _ => s.spdmError 0xE0)

/-- Bytes of a large response that one chunk carries: the transfer size less the chunk's own fields.
Log entry 139, PRESUMED. -/
def chunkBytes : Nat := 4096 - 16

/-- CHUNK_GET: the next piece of the large response. -/
def State.doChunkGet (s : State) (handle : U8) (seqNo : U16) : State :=
  s.negotiated 0x86 (fun s =>
    match s.sec.large with
    | some (h, b, n) =>
      if h = handle.toNat && n = seqNo.toNat then
        let last := decide (b.length ≤ (n + 1) * chunkBytes)
        let s := { s with sec := { s.sec with large := if last then none else some (h, b, n + 1) } }
        s.spdmAnswer 0x06 (leBytes 1 (b2n last) ++ leBytes 1 h ++ leBytes 2 n ++ (b.drop (n * chunkBytes)).take chunkBytes)
      else s.spdmError 0x86
    | none => s.spdmError 0x86)

/-! ### IDE and TDISP messages (R578) -/

/-- A function takes the actions of a function-level reset (R561): its contexts and queues go, its admin queue is made afresh, its
negotiation and its HOSTQ block are cleared.
Log entry 144, DEDUCED. -/
def State.resetFn (s : State) (f : Nat) : State :=
  let s := (s.ctxs.filter (fun (e : Nat × Ctx) => e.2.fn == f)).foldl (fun s (e : Nat × Ctx) => s.destroyCtx e.1) s
  let s := (s.queues.filter (fun (e : Nat × Queue) => qFn e.1 == f)).foldl (fun s (e : Nat × Queue) => { s.dropRing f e.2.ring with queues := s.queues.erase e.1 }) s
  let x := s.fn f
  let s := s.setFn f { x with regs := x.regs.filter (fun (r : Nat × Nat) => !(r.1 == 0x44 || (0xA0 ≤ r.1 && r.1 < 0xC0) || (0x1000 ≤ r.1 && r.1 < 0x2000))), latch := none }
  s.makeAdmin f

/-- A virtual function leaves TDISP RUN. -/
def State.leaveRun (s : State) (f : Nat) (st : TdispSt) : State := (s.setFn f { s.fn f with tdisp := st }).resetFn f

/-- IDE_KM: a stream is keyed, then started; a stop, or a new key before its start, takes its interface out of RUN, which requires its stream.
Log entry 146, PRESUMED. -/
def State.doIde (s : State) (f : Nat) (c : IdeReq) : State :=
  let x := s.fn f
  match c with
  | .keyProg key =>
    let s := s.setFn f { x with ide := .keyed, ideKey := some key }
    (if x.tdisp == .run then s.leaveRun f .error else s).spdmAnswer 0xFE [0x01, 0x03]
  | .setGo => if x.ideKey.isSome && x.ide != .insecure then (s.setFn f { x with ide := .secure }).spdmAnswer 0xFE [0x01, 0x05] else s.spdmError 0xFE
  | .setStop =>
    let s := s.setFn f { x with ide := .none, ideKey := none }
    (if x.tdisp == .run then s.leaveRun f .error else s).spdmAnswer 0xFE [0x01, 0x05]

/-- TDISP of a virtual function: RUN requires its stream.
Log entry 146, PRESUMED. -/
def State.doTdisp (s : State) (f : Nat) (c : TdispReq) : State :=
  let x := s.fn f
  let set (st : TdispSt) : State := (s.setFn f { x with tdisp := st }).spdmAnswer 0xFE [0x04]
  if f = 0 then s.spdmError 0xFE
  else
    match c, x.tdisp with
    | .lock, .configUnlocked => set .configLocked
    | .startInterface, .configLocked => if x.ide == .secure then set .run else s.spdmError 0xFE
    | .stopInterface, .run => (s.leaveRun f .configUnlocked).spdmAnswer 0xFE [0x04]
    | .stopInterface, _ => set .configUnlocked
    | _, _ => s.spdmError 0xFE

/-! ### The mailbox (R464, R471, R489, R560) -/

/-- What SEC does of a message it accepts. -/
def State.secEffect (s : State) (i : Instr) : State :=
  match i with
  | .layoutSet h l => s.doLayoutSet h l
  | .layoutClear h => s.doLayoutClear h
  | .sessionKey h => s.doSessionKey h
  | .sessionBind h ct r m => s.doBind h ct r m
  | .keyGenerate h k => s.doKeyGenerate h k
  | .keyImport h k ct w => s.doKeyImport h k ct w
  | .keyWithdraw h k => s.doKeyWithdraw h k
  | .consentSet h t => s.doConsentSet h t
  | .coreStart h a => s.doCoreStart h a
  | .sessionClose h => s.doSessionClose h
  | .lifecycle h t k => s.doLifecycle h t k
  | .getVersion => s.doGetVersion
  | .getCapabilities => s.doGetCapabilities
  | .negotiateAlgorithms b => s.doNegotiate b
  | .getDigests => s.doGetDigests
  | .getCertificate n o l => s.doGetCertificate n o l
  | .getMeasurements n x b => s.doGetMeasurements n x b
  | .challenge n x => s.doChallenge n x
  | .chunkGet h n => s.doChunkGet h n
  | .ideKmRequest f c => s.doIde f.val c
  | .tdispRequest f c => s.doTdisp f.val c
  | _ => s

/-- The partition a session message names. -/
def msgPart : Instr → Option Nat
  | .layoutSet h _ | .layoutClear h | .sessionKey h | .sessionBind h _ _ _ | .keyGenerate h _ | .keyImport h _ _ _ | .keyWithdraw h _
  | .consentSet h _ | .coreStart h _ | .sessionClose h => some h.part.toNat
  | _ => none

/-- Whether a message waits in the DOE mailbox: SEC restarts, a full wipe or start-up runs, an earlier message of its partition waits, or it is a
LAYOUT_SET for resources still being zeroed.
Log entry 164, DEDUCED. -/
def State.mailWaits (s : State) (i : Instr) : Bool :=
  s.sec.down.isSome || s.sec.wiping.isSome || s.boot.run.isSome ||
  ((msgPart i).isSome && s.sec.mailbox.any (fun m => msgPart m == msgPart i)) ||
  (match i with
   | .layoutSet h l => secClean h && (s.layoutFails h l).isNone && s.zeroing l
   | _ => false)

/-- Whether the DOE mailbox answers at all: not across a closed PCIe crossing (R25).
Log entry 142, DEDUCED. -/
def State.doeOpen (s : State) : Bool := !s.dev.closedPcie && !s.pwr.off && !s.pwr.asleep && !s.onlyn.recovery && s.sec.life != 5

/-- A message reaches SEC. -/
def State.mail (s : State) (i : Instr) : State :=
  if !s.doeOpen then s
  else if s.mailWaits i then { s with sec := { s.sec with mailbox := s.sec.mailbox ++ [i] } }
  else s.secEffect i

/-- Serve the messages that waited, in arrival order. -/
def State.serveMail (s : State) : State := s.sec.mailbox.foldl State.mail { s with sec := { s.sec with mailbox := [] } }

def execLayoutSet (h : SecHdr) (l : Layout) (s : State) : Host.Outcome State Fault Refusal := .next (s.mail (.layoutSet h l))
def execLayoutClear (h : SecHdr) (s : State) : Host.Outcome State Fault Refusal := .next (s.mail (.layoutClear h))
def execSessionKey (h : SecHdr) (s : State) : Host.Outcome State Fault Refusal := .next (s.mail (.sessionKey h))
def execSessionBind (h : SecHdr) (ct : Bytes) (report : U384) (maskedSeal : U256) (s : State) : Host.Outcome State Fault Refusal :=
  .next (s.mail (.sessionBind h ct report maskedSeal))
def execKeyGenerate (h : SecHdr) (slot : U16) (s : State) : Host.Outcome State Fault Refusal := .next (s.mail (.keyGenerate h slot))
def execKeyImport (h : SecHdr) (slot : U16) (ct wrapped : Bytes) (s : State) : Host.Outcome State Fault Refusal := .next (s.mail (.keyImport h slot ct wrapped))
def execKeyWithdraw (h : SecHdr) (slot : U16) (s : State) : Host.Outcome State Fault Refusal := .next (s.mail (.keyWithdraw h slot))
def execConsentSet (h : SecHdr) (tok : ConsentToken) (s : State) : Host.Outcome State Fault Refusal := .next (s.mail (.consentSet h tok))
def execCoreStart (h : SecHdr) (a : CoreStartArgs) (s : State) : Host.Outcome State Fault Refusal := .next (s.mail (.coreStart h a))
def execSessionClose (h : SecHdr) (s : State) : Host.Outcome State Fault Refusal := .next (s.mail (.sessionClose h))
def execLifecycle (h : SecHdr) (target : U8) (token : Bytes) (s : State) : Host.Outcome State Fault Refusal := .next (s.mail (.lifecycle h target token))
def execGetVersion (s : State) : Host.Outcome State Fault Refusal := .next (s.mail .getVersion)
def execGetCapabilities (s : State) : Host.Outcome State Fault Refusal := .next (s.mail .getCapabilities)
def execNegotiateAlgorithms (request : Bytes) (s : State) : Host.Outcome State Fault Refusal := .next (s.mail (.negotiateAlgorithms request))
def execGetDigests (s : State) : Host.Outcome State Fault Refusal := .next (s.mail .getDigests)
def execGetCertificate (slot : U8) (off len : U16) (s : State) : Host.Outcome State Fault Refusal := .next (s.mail (.getCertificate slot off len))
def execGetMeasurements (index : U8) (nonce : U256) (signed : Bool) (s : State) : Host.Outcome State Fault Refusal :=
  .next (s.mail (.getMeasurements index nonce signed))
def execChallenge (slot : U8) (nonce : U256) (s : State) : Host.Outcome State Fault Refusal := .next (s.mail (.challenge slot nonce))
def execChunkGet (handle : U8) (seqNo : U16) (s : State) : Host.Outcome State Fault Refusal := .next (s.mail (.chunkGet handle seqNo))
def execIdeKmRequest (fn : Fn) (c : IdeReq) (s : State) : Host.Outcome State Fault Refusal := .next (s.mail (.ideKmRequest fn c))
def execTdispRequest (fn : Fn) (c : TdispReq) (s : State) : Host.Outcome State Fault Refusal := .next (s.mail (.tdispRequest fn c))

/-! ### The ends of what SEC starts -/

/-- LIFECYCLE_WIPE_DONE: the wipe-complete record is written, keys are drawn, and the response is sent.
Log entry 141, DEDUCED. -/
def execLifecycleWipeDone (s : State) : Host.Outcome State Fault Refusal :=
  match s.sec.wiping with
  | none => .next s
  | some w =>
    let s := { s with sec := { s.sec with wiping := none, record := some w.target } }.drawKeys
    let s := (List.range 17).foldl State.makeAdmin (s.newTable registryKey none 64)
    let s := if w.answer then s.giveDoe (secResponse 0x0B 0xFF w.seq none w.accepted .ok []) else s
    .next s.serveMail

/-- PARTITION_RESET_DONE: the resources of a close or a clear are zero. -/
def execPartitionResetDone (p : Part) (s : State) : Host.Outcome State Fault Refusal :=
  let p := p.val
  let x := (s.part p).sess
  match x.st, x.layout with
  | .closing, some l =>
    let s := s.zeroPart p
    .next (if x.clearing then s.setSess p Session.none else s.assign p l).serveMail
  | .free, some _ => if x.clearing then .next ((s.zeroPart p).setSess p Session.none).serveMail else .next s
  | _, _ => .next s

/-! ### Faults of SEC and of Onlyn's components (R427 to R433, R471) -/

/-- Count a fault of a component: whether it is the fourth within a second. -/
def State.fourthFall (s : State) (c : Nat) : Bool := match s.onlyn.comps.get c with
  | some x => 3 ≤ (x.falls.filter (fun t => s.ts ≤ t + 1000000000)).length
  | none => false
def State.setComp (s : State) (c : Nat) (x : CompSt) : State := { s with onlyn := { s.onlyn with comps := s.onlyn.comps.set c x } }
def State.falls (s : State) (c : Nat) : List Nat := match s.onlyn.comps.get c with
  | some x => x.falls.filter (fun t => s.ts ≤ t + 1000000000)
  | none => []

/-- A SEC fault.
Log entry 143, DEDUCED. -/
def State.secFault (s : State) (cause : Status) : State :=
  if s.sec.down.isSome then s.devFault .key none
  else if s.fourthFall cpSec then s.devFault cause none
  else
    let s := s.setComp cpSec ⟨some (cause, s.ts), s.falls cpSec ++ [s.ts]⟩
    let s := (List.range 16).foldl (fun s p =>
      let x := (s.part p).sess
      match x.st with
      | .bound => s.closePart p false false
      | .assigned => s.setSess p { x with keyPair := 0, sessionId := 0, reports := [] }
      | _ => s) s
    let s := (s.keys.filter (fun (e : Nat × KeySlot) => e.1 != 0)).foldl (fun s (e : Nat × KeySlot) => s.destroySlot e.1) s
    let s := (s.objs.filter (fun (e : Nat × Obj) => e.2.part == none && e.2.use == .object && e.2.keySlot != 0)).foldl (fun s (e : Nat × Obj) => s.dropPages e.1) s
    let wiping := s.sec.wiping.map (fun w => { w with answer := false })
    { s with sec := { s.sec with opPair := 0, down := some s.ts, mailbox := [], spdm := .start, large := none, wiping := wiping } }

def execSecFault (s : State) : Host.Outcome State Fault Refusal := .next (s.secFault .key)

/-- Count a restart (R452). -/
def State.countRestart (s : State) (c : Nat) : State := s.bumpDev (0x400 + 16 * c) (2 ^ 48)

/-- FW_STATUS (R440): phase and status.
Log entry 147, DEDUCED. -/
def State.setFw (s : State) (phase : Nat) (st : Status) : State := s.setDreg rFwStatus (phase * 256 + statusCode st)
def State.fwPhase (s : State) : Nat := s.dreg rFwStatus 0 / 256

/-- Phases 3 and 4 (R441): both signatures, then the security version; then the slot is erased and written. It waits while SEC restarts. -/
def State.verifyStaged (s : State) : State :=
  match s.onlyn.staged with
  | none => s
  | some img =>
    if s.fwPhase != 2 || s.sec.down.isSome then s
    else
      let drop (st : Status) : State := { s.setFw 0 st with onlyn := { s.onlyn with staged := none } }
      if !(img.rsaOk && img.slhOk) then drop .integrity
      else if img.securityVersion.toNat < Config.rollbackFuse.toNat then drop .key
      else s.setFw 3 .ok

/-- SEC_RESTART_DONE: fresh key pairs, and the messages that waited.
Log entry 143, DEDUCED. -/
def execSecRestartDone (s : State) : Host.Outcome State Fault Refusal :=
  if s.sec.down.isNone then .next s
  else
    let s := (s.setComp cpSec ⟨none, s.falls cpSec⟩).countRestart cpSec
    let (i, s) := s.fresh
    let s := { s with sec := { s.sec with down := none, opPair := Config.trng i } }
    let s := (List.range 16).foldl (fun s p =>
      let x := (s.part p).sess
      if x.st == .assigned || x.st == .closing then let (i, s) := s.fresh; s.setSess p { x with keyPair := Config.trng i, sessionId := kemId (Config.trng i) } else s) s
    .next s.verifyStaged.serveMail

/-- BOOT's fault ends an update: while it writes the slot, the slot is left unverifiable (R432). -/
def State.endUpdate (s : State) (st : Status) : State :=
  let ph := s.fwPhase
  if ph = 1 || ph = 2 || ph = 3 then
    let s := s.dropAccs (fun a => a.owner == .none && a.kind == .hostRead)
    { s.setFw 0 st with onlyn := { s.onlyn with staged := none, slot := if ph = 3 then .broken else s.onlyn.slot } }
  else s

/-- A component faults (R427, R429, R430, R432).
Log entry 131, DEDUCED. -/
def State.compFault (s : State) (c : Nat) (cause : Status) : State :=
  if c = cpSec then s.secFault cause
  else if !s.compUp c then s
  else if s.fourthFall c then (s.setComp c ⟨some (cause, s.ts), s.falls c⟩).devFault cause none
  else
    let s := (s.setComp c ⟨some (cause, s.ts), s.falls c ++ [s.ts]⟩).logRec (.restart c cause)
    if c = cpBoot then s.endUpdate cause else s

/-- COMPONENT_WATCHDOG. -/
def execComponentWatchdog (c : Comp) (s : State) : Host.Outcome State Fault Refusal := .next (s.compFault c.val .timeout)

/-- Nanoseconds that control commands have waited for a component since it went down (R452). -/
def State.waitedFor (s : State) (c since : Nat) : Nat :=
  (s.queues.map (fun (e : Nat × Queue) =>
    ((e.2.fetched.filter (fun x => x.st == .waiting && (compsOf x.cmd).contains c)).map (fun x => s.ts - max x.ts since)).sum)).sum

/-- COMPONENT_RESTART_DONE: the component is back; one other than BOOT waits for BOOT.
Log entry 131, DEDUCED. -/
def execComponentRestartDone (c : Comp) (codeOk : Bool) (s : State) : Host.Outcome State Fault Refusal :=
  let c := c.val
  match (s.onlyn.comps.get c).bind (fun x => x.down) with
  | none => .next s
  | some (_, since) =>
    if c = cpSec || (c != cpBoot && !s.compUp cpBoot) then .next s
    else if !codeOk then .next (s.devFault .digestMismatch none)
    else
      let s := ((s.setComp c ⟨none, s.falls c⟩).countRestart c).bumpDev (0x408 + 16 * c) (s.waitedFor c since)
      let s := if c = cpLog then { s with onlyn := { s.onlyn with log := s.onlyn.log ++ s.onlyn.logHeld, logHeld := [] } } else s
      let s := if c = cpDigest then s.onlyn.replays.foldl (fun s (e : Nat × U64) => s.armReplay e.1 e.2) { s with onlyn := { s.onlyn with replays := [] } } else s
      .next (if c = cpNet then s.resumeTakeover else s)

/-- CIPHER_UNIT_FAIL: a cipher unit that fails in service is a device fault (R25).
Log entry 163, DEDUCED. -/
def execCipherUnitFail (_unit : Nat) (s : State) : Host.Outcome State Fault Refusal :=
  .next (s.devFault .integrity none)

/-- PARTITION_CORE_WFI: a core enters or leaves WFI; its cluster's clock stops while all four wait (R545). -/
def execPartitionCoreWfi (core : Fin 32) (enter : Bool) (s : State) : Host.Outcome State Fault Refusal :=
  let w := if enter then insertNat core.val s.pwr.wfi else removeNat core.val s.pwr.wfi
  .next { s with pwr := { s.pwr with wfi := w } }

end Sys2Proof.Machine
end

