-- ==== Sys2Proof/Machine/Reads.lean ====
section
/-! DEFINITION. Reads of registers (R13, R356, R449, R589, R590): what a read answers, the latch of a high word, and the faults that the dual-rail words
raise when they are read. -/

namespace Sys2Proof.Machine

/-- A budget word that fails its dual-rail check.
Log entry 202, DEDUCED. -/
def State.budgetFault (s : State) (k : Nat) : State :=
  if s.budgetRailOk k then s
  else if k < 64 then s.partFault (k / 4) .parity none
  else if k < 80 then s.compFault (k - 64) .parity
  else s.devFault .parity none

/-- What a read of BAR0 finds when it reads a dual-rail word whose rails differ (R13, R449): the high-water mark, a budget word, or the commit word of
an update set. None where it reads no such word, or the rails agree.
Log entry 216, DESIGN CHOICE. -/
def State.readFault (s : State) (core : Bool) (f off : Nat) : Option State :=
  let o := off / 8 * 8
  if !(s.bar0Open f o && s.served core f o) then none
  else if f = 0 && o = 0x103018 then (if s.shroud.railsOk then none else some (s.devFault .parity none))
  else if f = 0 && 0x100000 ≤ o && o < 0x100290 then
    (if s.budgetRailOk ((o - 0x100000) / 8) then none else some (s.budgetFault ((o - 0x100000) / 8)))
  else if 0x2000000 ≤ o && o < 0x2100000 && 0x3100 ≤ o % 65536 && o % 65536 < 0x3500 && o % 64 = 0 then
    (match s.usets.get (16 * ((o - 0x2000000) / 65536) + (o % 65536 - 0x3100) / 64) with
     | some u => if u.railOk then none else some (s.partFault ((o - 0x2000000) / 65536) .parity none)
     | none => none)
  else none

/-- A read of a register, and the state after it: a dual-rail word whose rails differ is a fault, and reads zero.
Log entry 216, DESIGN CHOICE. -/
def State.readReg (s : State) (core : Bool) (f off : Nat) : Nat × State :=
  match s.readFault core f off with
  | some u => (0, u)
  | none => s.tsNow off (s.readWord core f off)

/-- The word of a queue's doorbell page in BAR4 (R398): the tail is write-only, and a page without a queue is not mapped (R408). -/
def State.doorbellWord (s : State) (f off : Nat) : Nat :=
  match (if s.fnOpen f then s.queues.get (65536 * f + off / 4096) else none) with
  | none => 0
  | some q => match off % 4096 with
    | 4 => q.cqHead
    | 8 => q.head
    | 12 => if q.st == .active then 1 else 2
    | _ => 0

/-- REG_HIGH_WORD_LATCH: a 32-bit read of BAR0, or of a doorbell page in BAR4, whose registers have 32 bits. The low word of a 64-bit register latches its high word, which the next 32-bit read of it by
the same reader returns; any other access discards the latch. -/
def execRegHighWordLatch (core : Bool) (fn : Fn) (place : ReadAt) (s : State) : Host.Outcome State Fault Refusal :=
  let f := fn.val
  let o := place.off.toNat
  if core && f = 0 then .next s
  else if place.bar4 then .next ((s.setLatch core f none).answerAt core true f o (s.doorbellWord f o))
  else if o % 4 != 0 then .next ((s.setLatch core f none).answer core f o 0)
  else
    match s.latchOf core f with
    | some (a, v) =>
      if a = o then .next ((s.setLatch core f none).answer core f o v)
      else
        let (w, s) := (s.setLatch core f none).readReg core f o
        if o % 8 = 0 then .next ((s.setLatch core f (if halves o then none else some (o + 4, w / 2 ^ 32))).answer core f o (w % 2 ^ 32))
        else .next (s.answer core f o (w / 2 ^ 32))
    | none =>
      let (w, s) := s.readReg core f o
      if o % 8 = 0 then .next ((s.setLatch core f (if halves o then none else some (o + 4, w / 2 ^ 32))).answer core f o (w % 2 ^ 32))
      else .next (s.answer core f o (w / 2 ^ 32))

/-! ### FWD_REG_REQUEST (R356) -/

/-- FWD_REG_REQUEST: the message does not say whether it reads or writes; that is a free value. The response carries the value read, or the one
written.
Log entry 120, DESIGN CHOICE. -/
def execFwdRegRequest (head : Pos) (off value : U64) (s : State) : Host.Outcome State Fault Refusal :=
  let s := s.takeInbox ⟨3, head.val, 3, leBytes 8 off.toNat ++ leBytes 8 value.toNat⟩
  let (i, s) := s.fresh
  let o := off.toNat
  if (Config.freeWord i).toNat % 2 = 0 then
    let (v, s) := if o % 8 = 0 then s.readReg false 0 o else (0, s)
    .next (s.sendControl head.val 4 (leBytes 8 o ++ leBytes 8 v))
  else .next ((s.writeReg false 0 o 8 value.toNat).sendControl head.val 4 (leBytes 8 o ++ leBytes 8 value.toNat))

end Sys2Proof.Machine
end

