-- ==== Sys2Proof/Machine/Reset.lean ====
section
/-! DEFINITION. Start-up and the resets of the device (R541 to R561, R573): what each keeps, the steps of start-up and their outcomes, power
good and its loss, deep sleep, thermal shutdown, and the physical wipe. -/

namespace Sys2Proof.Machine

/-! ### What a reset leaves (R454, R543, R556, R557, R592) -/

/-- Device registers that a reset other than power-on leaves: settings, and the counters and causes of R565. The PCIe link's stays while the link does.
Log entry 149, DEDUCED. -/
def keptReg (fresh : Bool) (off : Nat) : Bool :=
  off == rFwAddr || off == rFwLen || off == rPwrCap || (0x600 ≤ off && off < 0x618) || (0x638 ≤ off && off < 0x660) || off == rDbgSel || (!fresh && off == rLink)

/-- A function after a reset: its settings stay, except at power-on, and what configuration gave it while the link is kept.
Log entry 149, DEDUCED. -/
def FnSt.afterReset (x : FnSt) (power fresh : Bool) : FnSt :=
  let regs := if power then [] else x.regs.filter (fun (r : Nat × Nat) => r.1 == 0x40 || (0x80 ≤ r.1 && r.1 < 0xA0))
  if fresh then { FnSt.reset with regs := regs } else { FnSt.reset with regs := regs, msix := x.msix, ide := x.ide, ideKey := x.ideKey, d3hot := x.d3hot }

/-- Flash after a reset: segments keep their counts and regions; of the frames in use those of held snapshots alone stay, and the rest wait
for their segments' erases. A channel-down state does not survive. -/
def State.flashAfter (s : State) (frames : List Nat) : Flash :=
  let f := s.flash
  let gone := f.used.filter (fun (e : Nat × Nat) => !frames.contains e.1)
  { f with used := f.used.filter (fun (e : Nat × Nat) => frames.contains e.1), dead := gone.foldl (fun d (e : Nat × Nat) => insertNat e.1 d) f.dead, down := [], lateRun := [], leaving := [] }

/-- Everything a device-level reset destroys is gone: sessions, keys, contexts, objects and what runs. Retained snapshots stay held, with the
fuses, the boot flash, the flash map, the last troupe table and the pins. `power` is a power-on reset, or a loss of power, and `fresh` one that takes the PCIe link down.
Log entry 148, DEDUCED. Log entry 149, DEDUCED. -/
def State.collapse (s : State) (power fresh : Bool) : State :=
  let r := State.reset
  let slot := if s.fwPhase = 3 then .broken else s.onlyn.slot
  let s := (List.range 16).foldl (fun s p => let s := s.leaveSnaps p true; s.giveSegs p (s.regionSegs p)) s
  let held := s.heldSnaps.map (fun h => { h with part := none })
  let flash := s.flashAfter (held.flatMap (fun h => snapFrames h.snaps))
  let dev := { r.dev with regs := if power then [] else s.dev.regs.filter (fun (e : Nat × Nat) => keptReg fresh e.1) }
  let fns := s.fns.map (fun (e : Nat × FnSt) => (e.1, e.2.afterReset power fresh))
  let hot := s.pwr.trip && !power
  let pwr := { r.pwr with off := false, brake := s.pwr.brake, brakeDemand := if s.pwr.brake then s.dreg rPwrBrake 7 % 8 else 0, trip := hot, thermDemand := if hot then 7 else 0 }
  let pwr := { pwr with tripAt := s.pwr.tripAt, hotSince := if power then none else s.pwr.hotSince, frac := if power then 0 else s.pwr.frac, shut := s.pwr.shut }
  let ports := if power then [] else (s.rig.ports.filter (fun (e : Nat × RPort) => e.2.st == .joinRefused)).map (fun (e : Nat × RPort) => (e.1, { RPort.reset with st := .joinRefused }))
  let rig := { r.rig with troupe := s.rig.troupe, ports := ports, wire := s.rig.wire, authOut := s.rig.authOut, fwdRecs := s.rig.fwdRecs, fwdRegs := s.rig.fwdRegs }
  let sec := { r.sec with doe := s.sec.doe, life := s.sec.life, lifeN := s.sec.lifeN, secretGone := s.sec.secretGone, record := s.sec.record }
  let pins := if fresh then { s.pins with vfEnable := false, ctoUs := 50, config := [] } else s.pins
  { r with pending := s.pending, ts := if power then 0 else s.ts, free := s.free, dev := dev, fns := fns, flash := flash, msix := s.msix, hostOut := s.hostOut, pwr := pwr, rig := rig, heldSnaps := held, onlyn := { r.onlyn with slot := slot, running := slot }, sec := sec, pins := pins }

/-! ### Start-up (R553 to R555) -/

/-- STARTUP.step: the latest step started. -/
def State.atStep (s : State) (n : Nat) : State := s.setDreg rStartup (n * 2 ^ 24)

/-- Start-up past its first look at the rails: the life-cycle word and the slot's signatures are checked; which step it has come to before it
ends is a free value.
Log entry 150, DESIGN CHOICE. -/
def State.bootOn (s : State) (o : StartupOutcome) : State :=
  let s := { s with boot := { s.boot with held := false } }
  if !(s.lifeOk && o.lifecycleRailsOk) then (s.atStep 1).devFault .parity none
  else if s.onlyn.slot == .broken || !o.slotSignaturesOk then
    { s.atStep 2 with boot := { s.boot with run := none }, onlyn := { s.onlyn with recovery := true, running := .broken } }
  else
    let (i, s) := s.fresh
    let s := s.atStep (2 + (Config.freeWord i).toNat % 8)
    if s.rig.troupe.isEmpty then s else s.installTroupe s.rig.troupe

/-- Start-up begins, with a cause and a fault's status for RST_CAUSE; the PCIe link is trained afresh where `fresh` says so. -/
def State.startUp (s : State) (cause status : Nat) (o : StartupOutcome) (fresh : Bool) : State :=
  let s := (s.setDreg rRstCause (status * 256 + cause)).setDreg rRstTs s.ts
  let s := { s with boot := ⟨some o, !o.railsOk, fresh, !fresh || !s.pins.perst⟩, pwr := { s.pwr with shut := false } }
  if o.railsOk then s.bootOn o else s.atStep 1

/-- A reset of the device. -/
def State.deviceReset (s : State) (cause status : Nat) (o : StartupOutcome) (fresh : Bool) : State := (s.collapse false fresh).startUp cause status o fresh

/-- The four channels of a closed flash unit.
Log entry 153, DEDUCED. -/
def unitChannels (u : Nat) : List Nat := [4 * u, 4 * u + 1, 4 * u + 2, 4 * u + 3]

/-- Outcomes of the self-tests and of training (R25, R554).
Log entry 152, DEDUCED. -/
def State.bootOutcomes (s : State) (o : StartupOutcome) : State :=
  let pairs := (o.hbmPairsClosed ++ o.stacksFailed.flatMap (fun h => (List.range 32).map (fun i => 32 * h + i))).filter (fun j => j < 256)
  let down := ((o.channelsDown ++ o.flashUnitsClosed.flatMap unitChannels).filter (fun c => c < 128)).foldl (fun l c => insertNat c l) []
  let groups := (List.range 8).filter (fun g => 3 ≤ (down.filter (fun c => c / 16 == g)).length)
  let s := (o.tilesFailed.filter (fun t => t < 160)).foldl (fun (s : State) t => s.setTile t { Tile.reset with failed := true }) s
  let dev := { s.dev with closedPairs := pairs.foldl (fun l j => insertNat j l) [], closedFlash := groups, closedUnits := o.flashUnitsClosed.filter (fun u => u < 32) }
  let dev := { dev with closedPorts := o.portsClosed.filter (fun p => p < 12), closedBridge := o.bridgeClosed, closedPcie := o.pcieClosed }
  { s with dev := dev, flash := { s.flash with down := down } }

/-- Domains that start-up leaves on: HBM and flash PHYs, PCIe, Shroud groups, and the LLC halves (R545).
Log entry 151, DEDUCED. -/
def bootDomains : List Nat := (List.range 96).filter (fun d => (40 ≤ d && d < 52) || d == 64 || (73 ≤ d && d < 89) || 93 ≤ d)

/-- The physical wipe that RST_CTRL.wipe asked for; the field clears (R558). HBM holds nothing after any reset.
Log entry 154, DEDUCED. -/
def State.physicalWipe (s : State) : State :=
  let w := bitsOf (s.dreg rRstCtrl 0x20) 6 2
  let s := s.setDreg rRstCtrl (s.dreg rRstCtrl 0x20 % 64)
  if w != 2 then s
  else { s with flash := s.flash.eraseAll, heldSnaps := [] }

/-- STARTUP_READY: start-up ends once the rails are good, no fault is held and the link has come up. A full wipe that is owed runs before SEC accepts
messages (R490). -/
def execStartupReady (s : State) : Host.Outcome State Fault Refusal :=
  match s.boot.run with
  | none => .next s
  | some o =>
    if s.boot.held || s.dev.fault.isSome || !s.boot.linked then .next s
    else
      let s := (s.bootOutcomes o).physicalWipe.drawKeys.drawBridge
      let s := bootDomains.foldl (fun s d => s.setDom d ⟨true, none, s.ts⟩) s
      let s := (s.setDreg rStartup (2 ^ 31 + 10 * 2 ^ 24 + s.failedTiles.length % 256 * 65536))
      let s := { s with boot := { s.boot with run := none }, pins := { s.pins with drs := s.pins.drs + 1 } }
      let s := { s with pwr := { s.pwr with rails := [(0, 750), (1, 950), (2, 750), (3, 950)] } }.avsSet
      let life := s.sec.life.toNat
      if life != 1 && s.sec.record != some life then .next { s with sec := { s.sec with wiping := some ⟨life, 0, s.ts, false⟩ } }.fullWipe
      else .next ((List.range 17).foldl State.makeAdmin (s.newTable registryKey none 64)).serveMail

/-! ### Power good (R543, R553, R573) -/

/-- POWER_GOOD: a power-on reset. -/
def execPowerGood (o : StartupOutcome) (s : State) : Host.Outcome State Fault Refusal :=
  if s.pins.pwrGood then .next s
  else
    let cause := if s.pwr.shut then 6 else 1
    let s := s.collapse true true
    .next ({ s with pins := { s.pins with pwrGood := true, i3c := none, eid := 0 } }.startUp cause 0 o true)

/-- Every domain loses power. -/
def State.losePower (s : State) : State :=
  let s := s.collapse true true
  { s with pins := { s.pins with pwrGood := false, i3c := none, eid := 0 }, pwr := { s.pwr with off := true } }

/-- POWER_GOOD_LOSS. -/
def execPowerGoodLoss (s : State) : Host.Outcome State Fault Refusal := if s.pins.pwrGood then .next s.losePower else .next s

/-- ROM_RAIL_RECHECK: start-up held at step 1 goes on once the rails are within tolerance. -/
def execRomRailRecheck (railsOk : Bool) (s : State) : Host.Outcome State Fault Refusal :=
  match s.boot.run with
  | some o => if s.boot.held && railsOk then .next (s.bootOn o) else .next s
  | none => .next s

/-- RAIL_OUT_OF_TOLERANCE: rails 0 and 1 in the order of R570 feed the always-on domain. -/
def execRailOutOfTolerance (rail : Fin 19) (s : State) : Host.Outcome State Fault Refusal :=
  if !s.pins.pwrGood || s.boot.held then .next s
  else if rail.val < 2 then .next s.losePower
  else .next (s.devFault .parity none)

/-! ### Resets of the device (R544, R556, R559) -/

/-- PERST_ASSERT: a cold reset, which replaces a warm one under way; in DEEP_SLEEP, its end. -/
def execPerstAssert (o : StartupOutcome) (s : State) : Host.Outcome State Fault Refusal :=
  let cause := if s.pwr.shut then 6 else if s.pwr.asleep then 7 else 2
  let s := { s with pins := { s.pins with perst := true } }
  if s.pins.pwrGood then .next (s.deviceReset cause 0 o true) else .next s

/-- PERST_RELEASE: the PCIe link is trained. -/
def execPerstRelease (s : State) : Host.Outcome State Fault Refusal :=
  .next { s with pins := { s.pins with perst := false }, boot := { s.boot with linked := true } }

/-- WAKE_N ends DEEP_SLEEP. -/
def execWakeN (o : StartupOutcome) (s : State) : Host.Outcome State Fault Refusal := if s.pwr.asleep then .next (s.deviceReset 7 0 o true) else .next s

/-- WARM_RESET: a write of RST_CTRL.warm.
Log entry 125, DEDUCED. -/
def execWarmReset (o : StartupOutcome) (s : State) : Host.Outcome State Fault Refusal :=
  if s.bar0Open 0 rRstCtrl then .next (s.deviceReset 3 0 o false) else .next s

/-- FAULT_AUTO_RESET: 10 ms after a device fault, while RST_CTRL.auto is 1. -/
def execFaultAutoReset (o : StartupOutcome) (s : State) : Host.Outcome State Fault Refusal :=
  match s.dev.fault with
  | some (st, t) => if bitOf (s.dreg rRstCtrl 0x20) 5 && t + 10000000 ≤ s.ts then .next (s.deviceReset 5 (statusCode st) o false) else .next s
  | none => .next s

/-- PWR_STATE_SLEEP: DEEP_SLEEP with every partition FREE; otherwise the write is ignored. Everything but the always-on domain goes off, and every
port DOWN. -/
def execPwrStateSleep (s : State) : Host.Outcome State Fault Refusal :=
  if !s.bar0Open 0 0x620 || (List.range 16).any (fun p => (s.part p).sess.st != .free) then .next s
  else let s := s.collapse false true; .next { s with pwr := { s.pwr with asleep := true } }

/-- THERMAL_SHUTDOWN: a diode at 115 C or more, or at 110 C or more for 1 ms, removes power from all but the always-on domain (R551).
Log entry 159, DEDUCED. -/
def execThermalShutdown (celsius : Nat) (s : State) : Host.Outcome State Fault Refusal :=
  let long := match s.pwr.hotSince with
    | some t => 110 ≤ celsius && t + 1000000 ≤ s.ts
    | none => false
  if s.pwr.off || !(115 ≤ celsius || long) then .next s
  else let s := s.collapse false true; .next { s with pwr := { s.pwr with off := true, shut := true } }

end Sys2Proof.Machine
end

