-- ==== Sys2Proof/Machine/Loops.lean ====
section
/-! DEFINITION. Time, budgets and power (R444 to R449, R541 to R552): the always-on tick, the budget period, PWR's loops, domains that wake
and sleep, the power brake, and the thermal trip. -/

namespace Sys2Proof.Machine

/-! ### The time base (R360, R542) -/

/-- What a tick adds to TS, in units of 2^-32 ns: 20 ns, steered by so many parts per million. -/
def tickStep (ppm : Int) : Nat := (20 * 2 ^ 32 + 20 * 2 ^ 32 * ppm / 1000000).toNat

/-- AON_TICK: the fraction is kept for the ticks that follow.
Log entry 10, DESIGN CHOICE. -/
def execAonTick (s : State) : Host.Outcome State Fault Refusal :=
  if s.pwr.off && !s.pwr.shut then .next s
  else
    let n := s.pwr.frac + tickStep s.rig.steer
    .next { s with ts := max s.ts (s.ts - s.pwr.sub + n / 2 ^ 32) % 2 ^ 64, pwr := { s.pwr with frac := n % 2 ^ 32, sub := 0 } }

/-! ### Budgets (R446 to R449) -/

/-- Refill an activity: what it overspent is deducted, and what it left does not carry over. -/
def State.refill (s : State) (k : Nat) : State :=
  if !s.budgetRailOk k then s
  else
  let l := s.budgetWord k % 2 ^ 20
  let left := if l = 0xFFFFF then 0 else s.dev.used.getD k 0 - l
  let s := { s with dev := { s.dev with used := if left = 0 then s.dev.used.erase k else s.dev.used.set k left } }
  if s.budgetLeft k then s.endDry k else s

/-- ONLYN_LOAD of a component (R452): the cycles its code used, and whether they were its whole budget, are free values. -/
def State.loadOf (s : State) (c : Nat) : State :=
  let (i, s) := s.fresh
  let v := (Config.freeWord i).toNat
  let l := min 12288 (s.budgetWord (64 + c) % 2 ^ 20)
  let used := if s.compUp c then v % (l + 1) else 0
  let w := s.dreg (0x400 + 16 * c) 0
  let ex := min (2 ^ 32 - 1) (w % 2 ^ 32 + (if s.compUp c && l != 0 && used = l then 1 else 0))
  s.setDreg (0x400 + 16 * c) (w / 2 ^ 48 * 2 ^ 48 + used * 2 ^ 32 + ex)

/-- The activities that have a budget word. -/
def activities : List Nat := List.range 73 ++ [80, 81]

/-- BUDGET_PERIOD. -/
def execBudgetPeriod (s : State) : Host.Outcome State Fault Refusal :=
  if s.pwr.off || s.pwr.asleep then .next s
  else
    let s := activities.foldl State.budgetFault s
    let s := activities.foldl State.refill s
    let s := (List.range 9).foldl State.loadOf s
    .next s.admitWaiting.tallyFull

/-! ### PWR's loops (R444, R548 to R550) -/

/-- Whether PWR runs: start-up has ended and PWR does not restart. -/
def State.pwrRuns (s : State) : Bool := bitOf (s.dreg rStartup 0) 31 && !s.pwr.off && !s.pwr.asleep && s.compUp cpPwr

/-- The voltage of a rail at REEF0, within its range (R570).
Log entry 212, DESIGN CHOICE. -/
def railChoice (k iter : Nat) : Nat :=
  let v := (Config.railVoltage (k / 2) (k % 2) iter).toNat
  if k % 2 = 0 then 600 + v % 201 else 700 + v % 251

/-- PWR_DOMAIN_LOOP: a voltage and frequency for each domain, and the voltage of the four rails that feed the columns and the core clusters; which ones PWR
chooses, the manual leaves open. -/
def execPwrDomainLoop (s : State) : Host.Outcome State Fault Refusal :=
  if !s.pwrRuns then .next s
  else
    let pts := (List.range 96).map (fun d => (d, (Config.domainOperatingPoint d s.pwr.iters).toNat))
    let rails := (List.range 4).map (fun k => (k, railChoice k s.pwr.iters))
    .next { s with pwr := { s.pwr with points := pts, iters := s.pwr.iters + 1, rails := rails } }.avsSet

/-- RUNs that could start now but for the cap. -/
def State.heldRuns (s : State) : List Run :=
  ((s.runs.filter (fun (e : Nat × Run) => e.2.st == .queued && (match s.runImage e.2 with
    | some im => !s.runBlocked e.1 e.2 im && s.allAwake (s.runDomains im e.2.args)
    | none => false))).map (fun (e : Nat × Run) => e.2))

/-- Hold RUN starts, or let them go and count what they waited (R549).
Log entry 157, DEDUCED. -/
def State.holdStarts (s : State) (hold : Bool) : State :=
  match hold, s.pwr.holdSince with
  | true, none => { s with pwr := { s.pwr with holdSince := some s.ts } }
  | false, some t =>
    let n := (s.heldRuns.map (fun r => s.ts - max t r.issueTs)).sum
    { s.bumpDev cRunHold n with pwr := { s.pwr with holdSince := none } }
  | _, _ => s

/-- PWR_CAP_LOOP: above the cap the demand rises one level; below it, whether it falls by one or holds is a free value. The brake's demand falls one level
toward its floor.
Log entry 155, DESIGN CHOICE. Log entry 156, DEDUCED. -/
def execPwrCapLoop (watts : Nat) (s : State) : Host.Outcome State Fault Refusal :=
  if !s.pwrRuns then .next s
  else
    let (i, s) := s.fresh
    let cap := s.capWatts
    let old := s.pwr.capDemand
    let demand := if cap < watts then min 7 (old + 1) else if watts < cap then old - (Config.freeWord i).toNat % 2 else old
    let floor := if s.pwr.brake then s.dreg rPwrBrake 7 % 8 else 0
    let brake := if floor < s.pwr.brakeDemand then s.pwr.brakeDemand - 1 else floor
    let s := { s with pwr := { s.pwr with capDemand := demand, brakeDemand := brake, watts := watts } }.avsSet
    .next (s.holdStarts (if watts < cap then false else s.pwr.holdSince.isSome || (s.pwr.reef == 7 && decide (cap < watts))))

/-- PWR_THERMAL_LOOP: above 95 C the demand rises one level, below 90 C it falls one, and between it holds; while a trip is in force it stays at 7. -/
def execPwrThermalLoop (celsius : Nat) (s : State) : Host.Outcome State Fault Refusal :=
  if !s.pwrRuns then .next s
  else
    let old := s.pwr.thermDemand
    let demand := if s.pwr.trip then 7 else if 95 < celsius then min 7 (old + 1) else if celsius < 90 then old - 1 else old
    let s := s.setDreg 0x204 (min 255 celsius)
    .next { s with pwr := { s.pwr with thermDemand := demand, hotSince := if celsius < 110 then none else s.pwr.hotSince } }.avsSet

/-- POWER_BRAKE_ASSERT: the level is at least PWR_BRAKE.level, without firmware. -/
def execPowerBrakeAssert (s : State) : Host.Outcome State Fault Refusal :=
  .next { s with pwr := { s.pwr with brake := true, brakeDemand := max s.pwr.brakeDemand (s.dreg rPwrBrake 7 % 8) } }.avsSet

/-- POWER_BRAKE_RELEASE. -/
def execPowerBrakeRelease (s : State) : Host.Outcome State Fault Refusal := .next { s with pwr := { s.pwr with brake := false } }

/-! ### The thermal trip (R551, R552) -/

/-- THERMAL_TRIP: issue stops, REEF7 applies, and THERMTRIP_N asserts. -/
def execThermalTrip (celsius : Nat) (s : State) : Host.Outcome State Fault Refusal :=
  if celsius < 110 || s.pwr.off then .next s
  else
    let s := if s.pwr.trip then s else { (s.setDreg rTherm ((s.dreg rTherm 0 + 1) % 2 ^ 32)) with pwr := { s.pwr with trip := true, tripAt := s.ts } }
    .next { s with pwr := { s.pwr with thermDemand := 7, hotSince := some (s.pwr.hotSince.getD s.ts) } }.avsSet

/-- What a flash read is excused at the end of a trip: the time since it, or since the partition's flash read budget ran out before it (R252). -/
def State.tripExcuse (s : State) (a : Access) : Nat :=
  let t := max a.born s.pwr.tripAt
  s.ts - (match (s.accPart a).bind (fun p => s.dev.dry.get (4 * p + 1)) with
    | some d => min t (max a.born d)
    | none => t)

/-- THERMAL_TRIP_CLEAR: issue resumes at REEF7. The watchdog and the tier stall rule go on from where the trip stopped them.
Log entry 158, DEDUCED. -/
def execThermalTripClear (celsius : Nat) (s : State) : Host.Outcome State Fault Refusal :=
  if !s.pwr.trip || 100 ≤ celsius then .next s
  else
    let t := s.pwr.tripAt
    let later (x : Nat) : Nat := x + (s.ts - max x t)
    let runs := s.runs.map (fun (e : Nat × Run) => (e.1, { e.2 with lastMove := later e.2.lastMove }))
    let accs := s.accs.map (fun (e : Nat × Access) => (e.1, if e.2.kind == .flashRead then { e.2 with excused := e.2.excused + s.tripExcuse e.2 } else e.2))
    let dry := s.dev.dry.map (fun (e : Nat × Nat) => (e.1, if e.1 < 64 && e.1 % 4 = 1 then s.ts else e.2))
    .next { s with runs := runs, accs := accs, dev := { s.dev with dry := dry }, pwr := { s.pwr with trip := false, hotSince := none } }

/-! ### Domains (R545 to R547) -/

/-- RUNs that have waited for a domain alone and can start now that it is awake: nanoseconds since each was handed over (R546).
Log entry 157, DEDUCED. -/
def State.wakeWaits (s : State) (d : Nat) : Nat :=
  ((s.runs.filter (fun (e : Nat × Run) => e.2.st == .queued && (match s.runImage e.2 with
    | some im => !s.runBlocked e.1 e.2 im && (s.runDomains im e.2.args).contains d && s.allAwake (s.runDomains im e.2.args)
    | none => false))).map (fun (e : Nat × Run) => s.ts - e.2.issueTs)).sum

/-- A column's tile memory and banks are zero when its retention domain comes on. -/
def State.zeroColumn (s : State) (c : Nat) : State :=
  (List.range 8).foldl (fun s i =>
    let t := 8 * c + i
    let x := s.tile t
    s.setTile t { x with mem := [], bank0 := none, bank1 := none, patch0 := [], patch1 := [] }) s

/-- DOMAIN_AWAKE. -/
def execDomainAwake (d : Domain) (s : State) : Host.Outcome State Fault Refusal :=
  let x := s.dom d.val
  match x.waking with
  | none => .next s
  | some _ =>
    let s := s.setDom d.val ⟨true, none, s.ts⟩
    let s := if 20 ≤ d.val && d.val < 40 then s.zeroColumn (d.val - 20) else s
    .next (s.bumpDev cWakeWait (s.wakeWaits d.val))

/-- DOMAIN_WAKE_TIMEOUT: ten times the wake latency has passed. -/
def execDomainWakeTimeout (d : Domain) (s : State) : Host.Outcome State Fault Refusal :=
  match (s.dom d.val).waking with
  | some t => if t + 10 * wakeLatency d.val ≤ s.ts then .next (s.devFault .timeout none) else .next s
  | none => .next s

/-- Domains an access uses. -/
def State.accDomains (s : State) (a : Access) : List Nat := match s.objs.get a.obj with
  | some o => if a.kind == .hostRead then [] else o.rangeDomains a.off a.len
  | none => []

/-- Whether the rule of a domain's row switches it off now. -/
def State.mayOff (s : State) (d : Nat) : Bool :=
  let x := s.dom d
  let idle := x.idleSince + 1000 * s.dreg rPwrHold 100 ≤ s.ts
  let tilesUsed (c : Nat) : Bool := s.runs.any (fun (e : Nat × Run) => match s.runImage e.2 with
    | some im => im.tiles.any (fun t => t / 8 == c)
    | none => e.2.tiles.any (fun t => t / 8 == c))
  let accUsed := s.accs.any (fun (e : Nat × Access) => (s.accDomains e.2).contains d)
  let granted (f : Layout → Bool) (bound : Bool) : Bool := (List.range 16).any (fun p =>
    let st := (s.part p).sess.st
    (if bound then st == .bound else st != .free) && (match s.layout p with
      | some l => f l
      | none => false))
  if !x.on then false
  else if d < 20 then idle && !tilesUsed d
  else if d < 40 then !granted (fun l => bitOf l.columns.toNat (d - 20)) false
  else if d < 52 then idle && !accUsed
  else if d < 64 then (s.port (d - 52)).st == .down || (s.port (d - 52)).st == .masked
  else if d < 65 then false
  else if d < 73 then !granted (fun l => bitsOf l.cores.toNat (4 * (d - 65)) 4 != 0) true
  else if d < 89 then !(s.dom (40 + (d - 73) / 2)).on
  else if d < 93 then !s.usets.any (fun (e : Nat × USet) => e.2.run.isSome) && !s.parts.any (fun (e : Nat × PartSt) => e.2.rounds.any (fun (r : Nat × Round) => r.2.running))
  else false

/-- DOMAIN_IDLE: hardware switches the domain off, or puts the stack into self-refresh. -/
def execDomainIdle (d : Domain) (s : State) : Host.Outcome State Fault Refusal :=
  let d := d.val
  if !s.mayOff d then .next s
  else
    let s := s.setDom d { s.dom d with on := false, waking := none }
    let s := if 20 ≤ d && d < 40 then s.zeroColumn (d - 20) else s
    .next (if 65 ≤ d && d < 73 then { s with pwr := { s.pwr with wfi := s.pwr.wfi.filter (fun i => i / 4 != d - 65) } } else s)

end Sys2Proof.Machine
end

