-- ==== Sys2Proof/Machine/Firmware.lean ====
section
/-! DEFINITION. Firmware update (R440 to R443) and what comes back from host memory (R482, R483, R563): image bytes and the blocks of a COPY. -/

namespace Sys2Proof.Machine

/-! ### Update -/

/-- FW_START: phase 1, then the image is read. The recovery loader has no phase 1. A write while an update runs, or while BOOT restarts, does nothing.
Log entry 147, DEDUCED. -/
def execFwStart (s : State) : Host.Outcome State Fault Refusal :=
  let ph := s.fwPhase
  let len := s.dreg rFwLen 0
  if !s.bar0Open 0 0x100 || !s.compUp cpBoot || ph = 1 || ph = 2 || ph = 3 then .next s
  else if !s.onlyn.recovery && (s.ctxs.any (fun (e : Nat × Ctx) => e.2.part.isSome) || len < 4096 || 33554432 < len) then .next (s.setFw 0 .bounds)
  else .next ((s.setFw 1 .ok).addAcc ⟨.hostRead, .none, true, 0, 0, len, [], 0, s.ts, [], 0, false, s.ts, 0⟩)

/-- The read of an image that is under way. -/
def fwAccess (a : Access) : Bool := a.kind == .hostRead && a.owner == .none

/-- FW_ACTIVATE: after phase written, a warm reset into the new image. -/
def execFwActivate (o : StartupOutcome) (s : State) : Host.Outcome State Fault Refusal :=
  if s.bar0Open 0 0x100 && s.fwPhase = 4 then .next (s.deviceReset 4 0 o false) else .next s

/-- BOOT_FLASH_WRITE_DONE: the read-back decides; the recovery loader then resets the device. -/
def execBootFlashWriteDone (readBack : Bytes) (o : StartupOutcome) (s : State) : Host.Outcome State Fault Refusal :=
  match s.onlyn.staged with
  | none => .next s
  | some img =>
    if s.fwPhase != 3 || !s.compUp cpBoot then .next s
    else
      let done := { s with onlyn := { s.onlyn with staged := none } }
      if sha384 readBack != sha384 img.bytes then .next { done.setFw 0 .digestMismatch with onlyn := { done.onlyn with slot := .broken } }
      else
        let t := { done.setFw 4 .ok with onlyn := { done.onlyn with slot := .written img.bytes } }
        .next (if s.onlyn.recovery then t.deviceReset 4 0 o false else t)

/-! ### Host memory -/

/-- The key of a COPY's wrap slot. -/
def wrapOf (w : Work) : Option Nat := match w.kind with
  | .copy a => some a.wrap.toNat
  | _ => none
/-- The stream offset of a COPY's first block. -/
def hostBase (w : Work) : Nat := match w.kind with
  | .copy a => a.srcOff.toNat
  | _ => 0

/-- Whether a block is the one expected and its tag verifies; the counter is not checked (R483). -/
def blockOk (key : U256) (base : Nat) (c : Chunk) (b : HostBlock) : Bool :=
  let h := blockHeader b.direction.toNat b.counter.toNat b.offset.toNat b.data.length
  b.direction == 0 && b.offset.toNat == base + c.off && b.data.length == c.len && b.tag == gcmTag key (h.take 12) h b.data

/-- HOST_READ_COMPLETION: image bytes go to the check of their signatures; a block that verifies goes to its pages, and one that fails ends its part.
Log entry 162, DEDUCED. -/
def execHostReadCompletion (acc : Nat) (blocks : List HostBlock) (fw : Option FwImage) (s : State) : Host.Outcome State Fault Refusal :=
  match s.acc? acc with
  | none => .next s
  | some a =>
    if a.kind != .hostRead then .next s
    else
      match a.owner, fw with
      | .none, some img => .next ({ (s.dropAcc acc).setFw 2 .ok with onlyn := { s.onlyn with staged := some img } }.verifyStaged)
      | .work id, _ =>
        (match s.works.get id with
         | none => .next (s.dropAcc acc)
         | some w =>
           match w.chunks[a.chunk]?, wrapOf w with
           | some c, some k =>
             let s := s.dropAcc acc
             if (s.key k).st != .active then .next ((s.failChunk id a.chunk .key false).settleWork id)
             else
               (match blocks with
                | [b] =>
                  if blockOk (s.key k).key (hostBase w) c b then .next ((s.chunkData id a.chunk b.data).settleWork id)
                  else .next ((s.failChunk id a.chunk .integrity true).settleWork id)
                | _ => .next ((s.failChunk id a.chunk .integrity true).settleWork id))
           | _, _ => .next s)
      | _, _ => .next s

/-- HOST_COMPLETION_TIMEOUT: the programmed range has passed: a context fault for a COPY, the end of the request for the management DMA. -/
def execHostCompletionTimeout (acc : Nat) (s : State) : Host.Outcome State Fault Refusal :=
  match s.acc? acc with
  | none => .next s
  | some a =>
    if a.kind != .hostRead || s.ts < a.since + 1000 * s.pins.ctoUs then .next s
    else
      match a.owner with
      | .work id =>
        let s := s.dropAcc acc
        (match s.works.get id with
         | some w => (match w.ctx, w.q with
           | some c, some q => .next (s.ctxFault c .tierFail (some (q, w.sub)))
           | _, _ => .next s)
         | none => .next s)
      | _ => .next ((s.dropAcc acc).setFw 0 .tierFail)

end Sys2Proof.Machine
end

