-- ==== Sys2Proof/Machine/Package.lean ====
section
/-! DEFINITION. The package (R566 to R571, R579, R581, R587): ball sites and signal groups, rails and their order, the lanes of a port, the output pins of the
sideband, and the junction temperature. Lengths are in tenths of a millimetre. -/

namespace Sys2Proof.Machine

/-! ### Ball sites (R566 to R569) -/

def rowLetters : List Char := ['A', 'B', 'C', 'D', 'E', 'F', 'G', 'H', 'J', 'K', 'L', 'M', 'N', 'P', 'T', 'U', 'V', 'W', 'Y']

/-- The name of a row, and the row of a name. -/
def rowName (i : Nat) : List Char := [rowLetters.getD (i / 19) 'A', rowLetters.getD (i % 19) 'A']
def rowIndex (first second : Char) : Nat := 19 * rowLetters.idxOf first + rowLetters.idxOf second

/-- Whether a row index and a column, counted from 1, name a site. -/
def isSite (i c : Nat) : Bool := i < 95 && 1 ≤ c && c ≤ 120
/-- The centre of a site: east of the west edge, and south of the north edge. -/
def siteEast (c : Nat) : Nat := 74 + 8 * (c - 1)
def siteSouth (i : Nat) : Nat := 104 + 8 * i

/-- Whether a site holds a ball: none beneath the die bridge or in the corner blocks. -/
def holdsBall (i c : Nat) : Bool :=
  isSite i c && !(57 ≤ c && c ≤ 64) && !((c ≤ 20 || 101 ≤ c) && (i ≤ 24 || 70 ≤ i))

/-- A range of sites that holds a group's signal balls: rows, columns, and the signal balls among its sites. -/
structure BallRange where
  rows : Nat × Nat
  cols : Nat × Nat
  signals : Nat
  deriving DecidableEq, Repr

inductive SignalGroup
  | pcie | rigL0 | rigL3 | rigL6 | rigL9 | sideband
  deriving DecidableEq, Repr

def SignalGroup.balls : SignalGroup → BallRange
  | .pcie => ⟨(rowIndex 'B' 'G', rowIndex 'C' 'F'), (1, 8), 66⟩
  | .rigL0 => ⟨(rowIndex 'A' 'A', rowIndex 'A' 'K'), (21, 56), 50⟩
  | .rigL3 => ⟨(rowIndex 'E' 'K', rowIndex 'E' 'Y'), (21, 56), 48⟩
  | .rigL6 => ⟨(rowIndex 'A' 'A', rowIndex 'A' 'K'), (65, 100), 50⟩
  | .rigL9 => ⟨(rowIndex 'E' 'K', rowIndex 'E' 'Y'), (65, 100), 48⟩
  | .sideband => ⟨(rowIndex 'C' 'G', rowIndex 'D' 'C'), (1, 8), 33⟩

def BallRange.sites (r : BallRange) : Nat := (r.rows.2 + 1 - r.rows.1) * (r.cols.2 + 1 - r.cols.1)
def BallRange.has (r : BallRange) (i c : Nat) : Bool := r.rows.1 ≤ i && i ≤ r.rows.2 && r.cols.1 ≤ c && c ≤ r.cols.2

/-- The group whose range a site lies in; every other populated site is a supply or ground ball. -/
def siteGroup (i c : Nat) : Option SignalGroup :=
  [SignalGroup.pcie, .rigL0, .rigL3, .rigL6, .rigL9, .sideband].find? (fun g => g.balls.has i c)

/-! ### Rails (R570, R571) -/

/-- A rail: nominal millivolts, tolerance in tenths of a percent, maximum amperes, watts at TDP, balls, and sequence group. -/
structure Rail where
  mv : Nat
  tol : Nat
  amps : Nat
  watts : Nat
  balls : Nat
  group : Nat
  deriving DecidableEq, Repr

/-- The rails in the order of R570, each of a pair by itself; VDD_COL and VDD_CPU stand with their nominal values. -/
def rails : List Rail :=
  [⟨800, 30, 12, 8, 16, 1⟩, ⟨1800, 50, 4, 6, 8, 1⟩, ⟨750, 20, 700, 460, 760, 2⟩, ⟨750, 20, 700, 460, 760, 2⟩, ⟨800, 30, 30, 20, 40, 2⟩, ⟨800, 30, 30, 20, 40, 2⟩,
   ⟨800, 20, 160, 105, 180, 2⟩, ⟨800, 20, 160, 105, 160, 2⟩, ⟨950, 20, 30, 20, 40, 2⟩, ⟨950, 20, 30, 20, 40, 2⟩] ++
  [⟨850, 20, 115, 85, 150, 2⟩, ⟨850, 20, 11, 8, 16, 2⟩, ⟨1800, 30, 11, 16, 16, 3⟩, ⟨1000, 30, 210, 180, 240, 3⟩, ⟨500, 30, 140, 60, 160, 3⟩, ⟨2500, 50, 14, 30, 20, 3⟩,
   ⟨1200, 50, 18, 18, 24, 3⟩, ⟨1200, 30, 24, 25, 32, 3⟩, ⟨1200, 30, 4, 4, 8, 3⟩]

/-- Balls of VSS. -/
def groundBalls : Nat := 4210

/-- Whether a voltage in microvolts lies within a rail's tolerance of a set value in millivolts. -/
def Rail.within (r : Rail) (set uv : Nat) : Bool := set * (1000 - r.tol) ≤ uv && uv ≤ set * (1000 + r.tol)

/-- Whether a board brings the rails up as it must: `start` and `good` give the microseconds at which each begins to ramp and is within tolerance, and `pwrgood` those
at which PWRGOOD asserts. -/
def rampsOk (start good : Nat → Nat) (pwrgood : Nat) : Bool :=
  let group (k : Nat) : Nat := ((rails[k]?).map (fun r => r.group)).getD 0
  (List.range 19).all (fun k => good k ≤ pwrgood && 1000 ≤ pwrgood - good k && start k + 100 ≤ good k && good k ≤ start k + 5000 &&
    (List.range 19).all (fun j => group j + 1 != group k || good j ≤ start k)) &&
  good 12 ≤ start 13 && good 13 ≤ start 14 && good 15 ≤ start 16

/-! ### Lanes (R579) -/

/-- Whether a port trains on a wiring: its lanes in the same or in fully reversed order, with P and N as they may be. -/
def lanesTrain (order : List Nat) : Bool := order == [0, 1, 2, 3] || order == [3, 2, 1, 0]

/-! ### Output pins (R551, R559, R581) -/

/-- Whether FAULT_N is asserted: while a device fault is held. -/
def State.faultPin (s : State) : Bool := s.dev.fault.isSome
/-- Whether THERMTRIP_N is asserted: during a thermal trip. -/
def State.thermtripPin (s : State) : Bool := s.pwr.trip

/-! ### Cooling (R587) -/

/-- The bound on the junction under the conditions of R587, in thousandths of a degree: the coolant's temperature and 0.032 degrees per watt. -/
def junctionBound (inletMilli watts : Nat) : Nat := inletMilli + 32 * watts

end Sys2Proof.Machine
end

