-- ==== Sys2Proof/Machine/Pcie.lean ====
section
/-! DEFINITION. PCIe functions and the sideband (R561 to R563, R574 to R588, R594): function resets, IDE and TDISP events, the link, configuration
requests, I3C and MCTP, PLDM, and sensors. -/

namespace Sys2Proof.Machine

/-! ### Functions (R561, R578) -/

/-- Whether functions have their queues: start-up has ended. -/
def State.ready (s : State) : Bool := bitOf (s.dreg rStartup 0) 31 && !s.pwr.off && !s.pwr.asleep

/-- FUNCTION_LEVEL_RESET. Before start-up has ended a function holds nothing but its negotiation. -/
def execFunctionLevelReset (fn : Fn) (s : State) : Host.Outcome State Fault Refusal :=
  if s.pwr.off || s.pwr.asleep then .next s
  else if s.ready then .next (s.resetFn fn.val)
  else
    let x := s.fn fn.val
    .next (s.setFn fn.val { x with regs := x.regs.filter (fun (r : Nat × Nat) => !(r.1 == 0x44 || (0xA0 ≤ r.1 && r.1 < 0xC0) || (0x1000 ≤ r.1 && r.1 < 0x2000))), latch := none })

/-- IDE_CHECK_FAIL: the stream goes Insecure, the TLP is dropped, and the function is reset; a virtual function in RUN goes to ERROR. -/
def execIdeCheckFail (fn : Fn) (s : State) : Host.Outcome State Fault Refusal :=
  let x := s.fn fn.val
  if x.ide != .secure then .next s
  else .next ((s.setFn fn.val { x with ide := .insecure, tdisp := if x.tdisp == .run then .error else x.tdisp }).resetFn fn.val)

/-- TDISP_LEAVE_RUN: to ERROR or to CONFIG_UNLOCKED, a free value.
Log entry 146, PRESUMED. -/
def execTdispLeaveRun (fn : Fn) (s : State) : Host.Outcome State Fault Refusal :=
  if fn.val = 0 || (s.fn fn.val).tdisp != .run then .next s
  else
    let (i, s) := s.fresh
    .next (s.leaveRun fn.val (if (Config.freeWord i).toNat % 2 = 0 then .error else .configUnlocked))

/-! ### The link and configuration space (R562, R563, R574, R575, R594) -/

/-- PCIE_LINK_CHANGE: LINK_STATUS; a link of four lanes or fewer is degraded, and logged. -/
def execPcieLinkChange (rate : BitVec 3) (width : BitVec 5) (flit : Bool) (s : State) : Host.Outcome State Fault Refusal :=
  if s.pwr.off || s.pwr.asleep then .next s
  else
    let degraded := width.toNat ≤ 4
    let s := s.setDreg rLink (b2n degraded * 2048 + rate.toNat * 256 + width.toNat * 8 + b2n flit * 4)
    .next (if degraded then s.logRec .degraded else s)

/-- A configuration space answer.
Log entry 126, DESIGN CHOICE. Log entry 161, DESIGN CHOICE. -/
def State.configAnswer (s : State) (f off v : Nat) : State :=
  let (i, s) := s.fresh
  { s with pins := { s.pins with regOut := s.pins.regOut ++ [(64 + f, off, leNat (Config.stdAnswer (leBytes 2 off ++ leBytes 4 v) i) % 2 ^ 32)] } }

/-- PCIE_CONFIG_REQUEST. Completion timeouts are 50 us to 64 ms: 64 ms stands for the 65 to 210 ms subrange. -/
def execPcieConfigRequest (fn : Fn) (c : CfgReq) (s : State) : Host.Outcome State Fault Refusal :=
  let f := fn.val
  if s.pwr.off || s.pwr.asleep || s.pins.perst || s.dev.closedPcie then .next s
  else
    match c with
    | .read off => .next (s.configAnswer f off.toNat (s.pins.config.getD (65536 * f + off.toNat) 0))
    | .write off v => .next { s with pins := { s.pins with config := s.pins.config.set (65536 * f + off.toNat) v.toNat } }
    | .vfEnable on => .next (if f = 0 && !s.onlyn.recovery then { s with pins := { s.pins with vfEnable := on } } else s)
    | .dState h => .next (s.setFn f { s.fn f with d3hot := h })
    | .ctoRange us => .next { s with pins := { s.pins with ctoUs := max 50 (min 64000 us.toNat) } }

/-! ### I3C, MCTP and PLDM (R582 to R585) -/

/-- Whether the always-on domain is powered. -/
def State.aonOn (s : State) : Bool := !s.pwr.off || s.pwr.shut
/-- Send a sideband message with its content: its form belongs to DMTF's standards, a free value. -/
def State.sendSide (s : State) (content : Bytes) : State :=
  let (i, s) := s.fresh
  { s with pins := { s.pins with out := s.pins.out ++ [Config.stdAnswer content i] } }

/-- I3C_DAA. -/
def execI3cDaa (addr : BitVec 7) (s : State) : Host.Outcome State Fault Refusal :=
  if s.aonOn then .next { s with pins := { s.pins with i3c := some addr.toNat } } else .next s

/-- MCTP_CONTROL: Set Endpoint ID assigns the endpoint; every request is answered.
Log entry 130, PRESUMED. -/
def execMctpControl (request : Bytes) (s : State) : Host.Outcome State Fault Refusal :=
  if !s.aonOn then .next s
  else
    let set := fieldLE request 2 1 == 1 && fieldLE request 3 1 < 2
    let s := if set then { s with pins := { s.pins with eid := fieldLE request 4 1 } } else s
    .next (s.sendSide (0 :: leBytes 1 s.pins.eid ++ request))

/-- The domain of a sensor, where it has one that can be off. -/
def sensorDomain (id : Nat) : Option Nat := if 3 ≤ id && id ≤ 10 then some (37 + id) else if 11 ≤ id && id ≤ 14 then some (37 + id) else none

/-- A sensor's reading, none where it is unavailable. Sensors 35 and 36 are the reef level and the trips.
Log entry 160, DEDUCED. -/
def State.sensor (s : State) (id : Nat) : Option Int :=
  if (match sensorDomain id with
    | some d => !(s.dom d).on
    | none => false) then none
  else if id = 35 then some s.pwr.reef
  else if id = 36 then some (s.dreg rTherm 0)
  else some (s.pins.sensors.getD id 0)

/-- A number as the four bytes of two's complement. -/
def intBytes (v : Int) : Bytes := leBytes 4 (v % 2 ^ 32).toNat

/-- The FRU record (R585). -/
def State.fru (s : State) : Bytes :=
  [0x46, 0x4B, 0x4C, 0x2D, 0x54, 0x37, 0x41, 0x31] ++ ownIdentity ++ leBytes 4 (if s.onlyn.recovery then 0 else imgVersion s.onlyn.running)

/-- Effecter commands of platform monitoring and control. -/
def effecterCmd (c : Nat) : Bool := 0x30 ≤ c && c ≤ 0x3B

/-- PLDM_REQUEST: type, command and completion code lead the answer; GetSensorReading carries the reading, and FRU requests the record.
Log entry 130, PRESUMED. -/
def execPldmRequest (type command : U8) (arg : Bytes) (s : State) : Host.Outcome State Fault Refusal :=
  let head (code : U8) : Bytes := [type, command, code]
  if !s.aonOn then .next s
  else if !(type == 0 || type == 2 || type == 4) then .next (s.sendSide (head 0x20))
  else if type == 2 && effecterCmd command.toNat then .next (s.sendSide (head 0x05))
  else if type == 2 && command == 0x11 then
    let id := fieldLE arg 0 2
    (match (if 1 ≤ id && id ≤ 36 then some (s.sensor id) else none) with
     | some (some v) => .next (s.sendSide (head 0 ++ [0] ++ intBytes v))
     | some none => .next (s.sendSide (head 0 ++ [2]))
     | none => .next (s.sendSide (head 0x80)))
  else if type == 4 then .next (s.sendSide (head 0 ++ s.fru))
  else .next (s.sendSide (head 0 ++ arg))

/-- Warning and critical thresholds of a sensor, in tenths of its unit (R584).
Log entry 160, DEDUCED. -/
def State.thresholds (s : State) (id : Nat) : Option (Int × Int) :=
  if id = 1 || id = 2 then some (1000, 1100)
  else if 3 ≤ id && id ≤ 10 then some (950, 1050)
  else if 11 ≤ id && id ≤ 14 then some (800, 900)
  else if id = 15 then some (10 * (s.dreg rPwrCap 1650 % 2048 : Nat), 16500)
  else if 16 ≤ id && id ≤ 34 then let m : Int := (rails[id - 16]?).elim 0 (fun r => (r.amps : Int)); some (9 * m, 10 * m)
  else if id = 35 then some (40, 70)
  else none

/-- SENSOR_UPDATE: crossing a threshold either way sends a platform event. A sensor whose domain is off has no value. -/
def execSensorUpdate (id : Nat) (value : Int) (s : State) : Host.Outcome State Fault Refusal :=
  if id = 0 || 36 < id || !s.aonOn || (sensorDomain id).any (fun d => !(s.dom d).on) then .next s
  else
    let old := s.pins.sensors.getD id 0
    let new := if id = 35 then Int.ofNat s.pwr.reef else if id = 36 then Int.ofNat (s.dreg rTherm 0) else value
    let s' := { s with pins := { s.pins with sensors := s.pins.sensors.set id new } }
    let crossed (t : Int) : Bool := decide (t ≤ 10 * old) != decide (t ≤ 10 * new)
    let event (level : U8) (s : State) : State := s.sendSide ([2, 0x0A] ++ leBytes 2 id ++ [level] ++ intBytes new)
    match s.thresholds id with
    | some (w, c) =>
      let s' := if crossed w then event 1 s' else s'
      .next (if crossed c then event 2 s' else s')
    | none => .next s'

end Sys2Proof.Machine
end

