-- ==== Sys2Proof/Machine/Dispatch.lean ====
section
/-! DEFINITION. The meaning of every command: one arm per constructor. -/

namespace Sys2Proof.Machine

def exec (i : Instr) (s : State) : Host.Outcome State Fault Refusal :=
  match i with
  | .run q a pick => Sys2Proof.Machine.execRun q a pick s
  | .copy q a => Sys2Proof.Machine.execCopy q a s
  | .fill q a => Sys2Proof.Machine.execFill q a s
  | .wait q a => Sys2Proof.Machine.execWait q a s
  | .signal q a => Sys2Proof.Machine.execSignal q a s
  | .objectCreate q a pick => Sys2Proof.Machine.execObjectCreate q a pick s
  | .objectFree q handle => Sys2Proof.Machine.execObjectFree q handle s
  | .eventCreate q a pick => Sys2Proof.Machine.execEventCreate q a pick s
  | .eventDestroy q event => Sys2Proof.Machine.execEventDestroy q event s
  | .seedSet q seed => Sys2Proof.Machine.execSeedSet q seed s
  | .eventQuery q event => Sys2Proof.Machine.execEventQuery q event s
  | .loadImage q a => Sys2Proof.Machine.execLoadImage q a s
  | .unloadImage q slot => Sys2Proof.Machine.execUnloadImage q slot s
  | .sealObject q handle => Sys2Proof.Machine.execSeal q handle s
  | .publish q a => Sys2Proof.Machine.execPublish q a s
  | .pinAdapter q a => Sys2Proof.Machine.execPinAdapter q a s
  | .unpinAdapter q slot => Sys2Proof.Machine.execUnpinAdapter q slot s
  | .evictAdapter q slot => Sys2Proof.Machine.execEvictAdapter q slot s
  | .probeReport q a => Sys2Proof.Machine.execProbeReport q a s
  | .snapshot q => Sys2Proof.Machine.execSnapshot q s
  | .rekey q slot => Sys2Proof.Machine.execRekey q slot s
  | .recipeLoad q a => Sys2Proof.Machine.execRecipeLoad q a s
  | .updateSetCreate q a => Sys2Proof.Machine.execUpdateSetCreate q a s
  | .updateSetDestroy q set => Sys2Proof.Machine.execUpdateSetDestroy q set s
  | .groupJoin q a => Sys2Proof.Machine.execGroupJoin q a s
  | .contextCreate q a pick => Sys2Proof.Machine.execContextCreate q a pick s
  | .contextDestroy q ctx => Sys2Proof.Machine.execContextDestroy q ctx s
  | .queueCreate q a pick => Sys2Proof.Machine.execQueueCreate q a pick s
  | .queueDestroy q a => Sys2Proof.Machine.execQueueDestroy q a s
  | .queueAbort q a => Sys2Proof.Machine.execQueueAbort q a s
  | .partitionAbort q part => Sys2Proof.Machine.execPartitionAbort q part s
  | .troupeSet q a => Sys2Proof.Machine.execTroupeSet q a s
  | .groupSet q a => Sys2Proof.Machine.execGroupSet q a s
  | .groupClear q a => Sys2Proof.Machine.execGroupClear q a s
  | .basePropose q handle => Sys2Proof.Machine.execBasePropose q handle s
  | .baseCommit q => Sys2Proof.Machine.execBaseCommit q s
  | .baseAbandon q => Sys2Proof.Machine.execBaseAbandon q s
  | .doorbell q value => Sys2Proof.Machine.execDoorbell q value s
  | .cqHeadWrite q value => Sys2Proof.Machine.execCqHeadWrite q value s
  | .entryFetch q => Sys2Proof.Machine.execEntryFetch q s
  | .runStart r => Sys2Proof.Machine.execRunStart r s
  | .runComplete r => Sys2Proof.Machine.execRunComplete r s
  | .loadImageDone p slot => Sys2Proof.Machine.execLoadImageDone p slot s
  | .pipelineWatchdog r => Sys2Proof.Machine.execPipelineWatchdog r s
  | .vadd t w => Sys2Proof.Machine.execVadd t w s
  | .vsub t w => Sys2Proof.Machine.execVsub t w s
  | .vmul t w => Sys2Proof.Machine.execVmul t w s
  | .vfma t w => Sys2Proof.Machine.execVfma t w s
  | .vfms t w => Sys2Proof.Machine.execVfms t w s
  | .vfnma t w => Sys2Proof.Machine.execVfnma t w s
  | .vdiv t w => Sys2Proof.Machine.execVdiv t w s
  | .vsqrt t w => Sys2Proof.Machine.execVsqrt t w s
  | .vmin t w => Sys2Proof.Machine.execVmin t w s
  | .vmax t w => Sys2Proof.Machine.execVmax t w s
  | .vabs t w => Sys2Proof.Machine.execVabs t w s
  | .vneg t w => Sys2Proof.Machine.execVneg t w s
  | .vcpysgn t w => Sys2Proof.Machine.execVcpysgn t w s
  | .vcmpeq t w => Sys2Proof.Machine.execVcmpeq t w s
  | .vcmplt t w => Sys2Proof.Machine.execVcmplt t w s
  | .vcmple t w => Sys2Proof.Machine.execVcmple t w s
  | .vcmpun t w => Sys2Proof.Machine.execVcmpun t w s
  | .gand t w => Sys2Proof.Machine.execGand t w s
  | .gor t w => Sys2Proof.Machine.execGor t w s
  | .gnot t w => Sys2Proof.Machine.execGnot t w s
  | .vsel t w => Sys2Proof.Machine.execVsel t w s
  | .vexp t w => Sys2Proof.Machine.execVexp t w s
  | .vexp2 t w => Sys2Proof.Machine.execVexp2 t w s
  | .vexpm1 t w => Sys2Proof.Machine.execVexpm1 t w s
  | .vlog t w => Sys2Proof.Machine.execVlog t w s
  | .vlog2 t w => Sys2Proof.Machine.execVlog2 t w s
  | .vrcp t w => Sys2Proof.Machine.execVrcp t w s
  | .vrsqrt t w => Sys2Proof.Machine.execVrsqrt t w s
  | .vsinpi t w => Sys2Proof.Machine.execVsinpi t w s
  | .vcospi t w => Sys2Proof.Machine.execVcospi t w s
  | .vsigm t w => Sys2Proof.Machine.execVsigm t w s
  | .vtanh t w => Sys2Proof.Machine.execVtanh t w s
  | .vsilu t w => Sys2Proof.Machine.execVsilu t w s
  | .cvt t w => Sys2Proof.Machine.execCvt t w s
  | .vhi t w => Sys2Proof.Machine.execVhi t w s
  | .vlo t w => Sys2Proof.Machine.execVlo t w s
  | .vrsum t w => Sys2Proof.Machine.execVrsum t w s
  | .vrmax t w => Sys2Proof.Machine.execVrmax t w s
  | .vrmin t w => Sys2Proof.Machine.execVrmin t w s
  | .vrsum16 t w => Sys2Proof.Machine.execVrsum16 t w s
  | .vrmax16 t w => Sys2Proof.Machine.execVrmax16 t w s
  | .rld t w => Sys2Proof.Machine.execRld t w s
  | .radd t w => Sys2Proof.Machine.execRadd t w s
  | .rst t w => Sys2Proof.Machine.execRst t w s
  | .ld t w => Sys2Proof.Machine.execLd t w s
  | .st t w => Sys2Proof.Machine.execSt t w s
  | .sin t w => Sys2Proof.Machine.execSin t w s
  | .sout t w => Sys2Proof.Machine.execSout t w s
  | .sinq t w => Sys2Proof.Machine.execSinq t w s
  | .soutq t w => Sys2Proof.Machine.execSoutq t w s
  | .vrand t w => Sys2Proof.Machine.execVrand t w s
  | .vand t w => Sys2Proof.Machine.execVand t w s
  | .vor t w => Sys2Proof.Machine.execVor t w s
  | .vxor t w => Sys2Proof.Machine.execVxor t w s
  | .vmov t w => Sys2Proof.Machine.execVmov t w s
  | .vrot t w => Sys2Proof.Machine.execVrot t w s
  | .vsync t w => Sys2Proof.Machine.execVsync t w s
  | .loop t useReg reg count => Sys2Proof.Machine.execLoop t useReg reg count s
  | .endloop t => Sys2Proof.Machine.execEndloop t s
  | .sets t reg imm => Sys2Proof.Machine.execSets t reg imm s
  | .adds t reg imm => Sys2Proof.Machine.execAdds t reg imm s
  | .args t reg slot => Sys2Proof.Machine.execArgs t reg slot s
  | .mrd t tensor port rows => Sys2Proof.Machine.execMrd t tensor port rows s
  | .mwr t tensor port rows => Sys2Proof.Machine.execMwr t tensor port rows s
  | .endProgram t => Sys2Proof.Machine.execEndProgram t s
  | .mxuOp t a => Sys2Proof.Machine.execMxuOp t a s
  | .mxuTileStart t => Sys2Proof.Machine.execMxuTileStart t s
  | .mxuDrain t => Sys2Proof.Machine.execMxuDrain t s
  | .tatt t slot port reg rows => Sys2Proof.Machine.execTatt t slot port reg rows s
  | .tsrc t port => Sys2Proof.Machine.execTsrc t port s
  | .troute t port reg => Sys2Proof.Machine.execTroute t port reg s
  | .tsort t inp outp plan => Sys2Proof.Machine.execTsort t inp outp plan s
  | .tgath t plan restore pack => Sys2Proof.Machine.execTgath t plan restore pack s
  | .temit t outp => Sys2Proof.Machine.execTemit t outp s
  | .adapterWaitTimeout t => Sys2Proof.Machine.execAdapterWaitTimeout t s
  | .xallred t wire inp outp group count => Sys2Proof.Machine.execXallred t wire inp outp group count s
  | .xredsc t wire inp outp group count => Sys2Proof.Machine.execXredsc t wire inp outp group count s
  | .xallga t wire inp outp group count => Sys2Proof.Machine.execXallga t wire inp outp group count s
  | .xdisp t inp outp group => Sys2Proof.Machine.execXdisp t inp outp group s
  | .xcomb t inp outp group => Sys2Proof.Machine.execXcomb t inp outp group s
  | .ufeed t fmt port set reg count => Sys2Proof.Machine.execUfeed t fmt port set reg count s
  | .uend t set => Sys2Proof.Machine.execUend t set s
  | .updBucketApply p set => Sys2Proof.Machine.execUpdBucketApply p set s
  | .updAttemptClose p set => Sys2Proof.Machine.execUpdAttemptClose p set s
  | .beatSend r strm route => Sys2Proof.Machine.execBeatSend r strm route s
  | .beatArrive r strm route first again => Sys2Proof.Machine.execBeatArrive r strm route first again s
  | .creditReturn r strm route => Sys2Proof.Machine.execCreditReturn r strm route s
  | .hbmReadReturn acc v => Sys2Proof.Machine.execHbmReadReturn acc v s
  | .hbmAccessTimeout acc => Sys2Proof.Machine.execHbmAccessTimeout acc s
  | .subtreeRebuild height node fromCatcher => Sys2Proof.Machine.execSubtreeRebuild height node fromCatcher s
  | .flashPartReturn acc part v => Sys2Proof.Machine.execFlashPartReturn acc part v s
  | .flashPartLate acc part => Sys2Proof.Machine.execFlashPartLate acc part s
  | .tierStallTimeout acc => Sys2Proof.Machine.execTierStallTimeout acc s
  | .segmentErase seg => Sys2Proof.Machine.execSegmentErase seg s
  | .segmentRelocate seg pick failed => Sys2Proof.Machine.execSegmentRelocate seg pick failed s
  | .pageWipeDone frame => Sys2Proof.Machine.execPageWipeDone frame s
  | .adapterLoadDone entry status => Sys2Proof.Machine.execAdapterLoadDone entry status s
  | .adapterWipeDone entry => Sys2Proof.Machine.execAdapterWipeDone entry s
  | .carouselBlock sweep badLines unverifiable => Sys2Proof.Machine.execCarouselBlock sweep badLines unverifiable s
  | .carouselFlashPage sweep pick failed => Sys2Proof.Machine.execCarouselFlashPage sweep pick failed s
  | .snapPageCopy p failed => Sys2Proof.Machine.execSnapPageCopy p failed s
  | .snapshotSeal p failed => Sys2Proof.Machine.execSnapshotSeal p failed s
  | .restoreGo p => Sys2Proof.Machine.execRestoreGo p s
  | .restoreDone p failed => Sys2Proof.Machine.execRestoreDone p failed s
  | .replayArm p value => Sys2Proof.Machine.execReplayArm p value s
  | .negGo fn => Sys2Proof.Machine.execNegGo fn s
  | .fwStart => Sys2Proof.Machine.execFwStart s
  | .fwActivate o => Sys2Proof.Machine.execFwActivate o s
  | .warmReset o => Sys2Proof.Machine.execWarmReset o s
  | .pwrStateSleep => Sys2Proof.Machine.execPwrStateSleep s
  | .dbgAccess off write size value => Sys2Proof.Machine.execDbgAccess off write size value s
  | .regHighWordLatch core fn place => Sys2Proof.Machine.execRegHighWordLatch core fn place s
  | .regWrite core fn off size value => Sys2Proof.Machine.execRegWrite core fn off size value s
  | .layoutSet h l => Sys2Proof.Machine.execLayoutSet h l s
  | .layoutClear h => Sys2Proof.Machine.execLayoutClear h s
  | .sessionKey h => Sys2Proof.Machine.execSessionKey h s
  | .sessionBind h ct report maskedSeal => Sys2Proof.Machine.execSessionBind h ct report maskedSeal s
  | .keyGenerate h slot => Sys2Proof.Machine.execKeyGenerate h slot s
  | .keyImport h slot ct wrapped => Sys2Proof.Machine.execKeyImport h slot ct wrapped s
  | .keyWithdraw h slot => Sys2Proof.Machine.execKeyWithdraw h slot s
  | .consentSet h tok => Sys2Proof.Machine.execConsentSet h tok s
  | .coreStart h a => Sys2Proof.Machine.execCoreStart h a s
  | .sessionClose h => Sys2Proof.Machine.execSessionClose h s
  | .lifecycle h target token => Sys2Proof.Machine.execLifecycle h target token s
  | .lifecycleWipeDone => Sys2Proof.Machine.execLifecycleWipeDone s
  | .getVersion => Sys2Proof.Machine.execGetVersion s
  | .getCapabilities => Sys2Proof.Machine.execGetCapabilities s
  | .negotiateAlgorithms request => Sys2Proof.Machine.execNegotiateAlgorithms request s
  | .getDigests => Sys2Proof.Machine.execGetDigests s
  | .getCertificate slot off len => Sys2Proof.Machine.execGetCertificate slot off len s
  | .getMeasurements index nonce signed => Sys2Proof.Machine.execGetMeasurements index nonce signed s
  | .challenge slot nonce => Sys2Proof.Machine.execChallenge slot nonce s
  | .chunkGet handle seqNo => Sys2Proof.Machine.execChunkGet handle seqNo s
  | .ideKmRequest fn c => Sys2Proof.Machine.execIdeKmRequest fn c s
  | .tdispRequest fn c => Sys2Proof.Machine.execTdispRequest fn c s
  | .secFault => Sys2Proof.Machine.execSecFault s
  | .secRestartDone => Sys2Proof.Machine.execSecRestartDone s
  | .componentWatchdog c => Sys2Proof.Machine.execComponentWatchdog c s
  | .componentRestartDone c codeOk => Sys2Proof.Machine.execComponentRestartDone c codeOk s
  | .rigFrameReceive port o flit => Sys2Proof.Machine.execRigFrameReceive port o flit s
  | .flitReceive port flit => Sys2Proof.Machine.execFlitReceive port flit s
  | .rigFrameSlot port => Sys2Proof.Machine.execRigFrameSlot port s
  | .rigAckTimeout port => Sys2Proof.Machine.execRigAckTimeout port s
  | .rigHeartbeatSend port => Sys2Proof.Machine.execRigHeartbeatSend port s
  | .rigHeartbeatReceive port hb tArrive => Sys2Proof.Machine.execRigHeartbeatReceive port hb tArrive s
  | .rigHeartbeatMiss port k => Sys2Proof.Machine.execRigHeartbeatMiss port k s
  | .fenceNoticeTimeout p => Sys2Proof.Machine.execFenceNoticeTimeout p s
  | .portTrainStart port => Sys2Proof.Machine.execPortTrainStart port s
  | .portRetrainTimer port => Sys2Proof.Machine.execPortRetrainTimer port s
  | .portLaneLock port => Sys2Proof.Machine.execPortLaneLock port s
  | .portTrainTimeout port => Sys2Proof.Machine.execPortTrainTimeout port s
  | .portLockLost port => Sys2Proof.Machine.execPortLockLost port s
  | .authHello port m => Sys2Proof.Machine.execAuthHello port m s
  | .authReply port m => Sys2Proof.Machine.execAuthReply port m s
  | .authFinish port m => Sys2Proof.Machine.execAuthFinish port m s
  | .authTimeout port => Sys2Proof.Machine.execAuthTimeout port s
  | .memberUnreachable pos => Sys2Proof.Machine.execMemberUnreachable pos s
  | .timeParentTimeout => Sys2Proof.Machine.execTimeParentTimeout s
  | .fwdSubmission queue index ts entry => Sys2Proof.Machine.execFwdSubmission queue index ts entry s
  | .fwdCompletion pos queue index record => Sys2Proof.Machine.execFwdCompletion pos queue index record s
  | .fwdEvent pos event record => Sys2Proof.Machine.execFwdEvent pos event record s
  | .fwdRegRequest head off value => Sys2Proof.Machine.execFwdRegRequest head off value s
  | .fwdRegResponse pos off value => Sys2Proof.Machine.execFwdRegResponse pos off value s
  | .collectiveUp m => Sys2Proof.Machine.execCollectiveUp m s
  | .collectiveDown m => Sys2Proof.Machine.execCollectiveDown m s
  | .collectiveClose m => Sys2Proof.Machine.execCollectiveClose m s
  | .collectiveVerdict m => Sys2Proof.Machine.execCollectiveVerdict m s
  | .collectiveAbort m => Sys2Proof.Machine.execCollectiveAbort m s
  | .dispatch m => Sys2Proof.Machine.execDispatch m s
  | .combine m => Sys2Proof.Machine.execCombine m s
  | .groupWaitLimit group => Sys2Proof.Machine.execGroupWaitLimit group s
  | .digestListArrive p set lists => Sys2Proof.Machine.execDigestListArrive p set lists s
  | .lineDigestsArrive p set page lines => Sys2Proof.Machine.execLineDigestsArrive p set page lines s
  | .mirrorLine m => Sys2Proof.Machine.execMirrorLine m s
  | .mirrorState m => Sys2Proof.Machine.execMirrorState m s
  | .mirrorCommit m => Sys2Proof.Machine.execMirrorCommit m s
  | .mirrorFlash m => Sys2Proof.Machine.execMirrorFlash m s
  | .mirrorSnap m => Sys2Proof.Machine.execMirrorSnap m s
  | .mirrorResync m => Sys2Proof.Machine.execMirrorResync m s
  | .resyncDone p => Sys2Proof.Machine.execResyncDone p s
  | .mirrorAck m => Sys2Proof.Machine.execMirrorAck m s
  | .mirrorPage m => Sys2Proof.Machine.execMirrorPage m s
  | .mirrorPair m => Sys2Proof.Machine.execMirrorPair m s
  | .takeoverNotice flyer identity ts => Sys2Proof.Machine.execTakeoverNotice flyer identity ts s
  | .aonTick => Sys2Proof.Machine.execAonTick s
  | .budgetPeriod => Sys2Proof.Machine.execBudgetPeriod s
  | .waitDeadline index => Sys2Proof.Machine.execWaitDeadline index s
  | .pwrDomainLoop => Sys2Proof.Machine.execPwrDomainLoop s
  | .pwrCapLoop watts => Sys2Proof.Machine.execPwrCapLoop watts s
  | .pwrThermalLoop celsius => Sys2Proof.Machine.execPwrThermalLoop celsius s
  | .domainAwake d => Sys2Proof.Machine.execDomainAwake d s
  | .domainWakeTimeout d => Sys2Proof.Machine.execDomainWakeTimeout d s
  | .faultAutoReset o => Sys2Proof.Machine.execFaultAutoReset o s
  | .domainIdle d => Sys2Proof.Machine.execDomainIdle d s
  | .powerBrakeAssert => Sys2Proof.Machine.execPowerBrakeAssert s
  | .powerBrakeRelease => Sys2Proof.Machine.execPowerBrakeRelease s
  | .thermalTrip celsius => Sys2Proof.Machine.execThermalTrip celsius s
  | .thermalTripClear celsius => Sys2Proof.Machine.execThermalTripClear celsius s
  | .thermalShutdown celsius => Sys2Proof.Machine.execThermalShutdown celsius s
  | .powerGood o => Sys2Proof.Machine.execPowerGood o s
  | .powerGoodLoss => Sys2Proof.Machine.execPowerGoodLoss s
  | .romRailRecheck railsOk => Sys2Proof.Machine.execRomRailRecheck railsOk s
  | .railOutOfTolerance rail => Sys2Proof.Machine.execRailOutOfTolerance rail s
  | .startupReady => Sys2Proof.Machine.execStartupReady s
  | .perstAssert o => Sys2Proof.Machine.execPerstAssert o s
  | .perstRelease => Sys2Proof.Machine.execPerstRelease s
  | .wakeN o => Sys2Proof.Machine.execWakeN o s
  | .functionLevelReset fn => Sys2Proof.Machine.execFunctionLevelReset fn s
  | .ideCheckFail fn => Sys2Proof.Machine.execIdeCheckFail fn s
  | .tdispLeaveRun fn => Sys2Proof.Machine.execTdispLeaveRun fn s
  | .hostCompletionTimeout acc => Sys2Proof.Machine.execHostCompletionTimeout acc s
  | .pcieLinkChange rate width flit => Sys2Proof.Machine.execPcieLinkChange rate width flit s
  | .i3cDaa addr => Sys2Proof.Machine.execI3cDaa addr s
  | .mctpControl request => Sys2Proof.Machine.execMctpControl request s
  | .pldmRequest type command arg => Sys2Proof.Machine.execPldmRequest type command arg s
  | .sensorUpdate id value => Sys2Proof.Machine.execSensorUpdate id value s
  | .hostReadCompletion acc blocks fw => Sys2Proof.Machine.execHostReadCompletion acc blocks fw s
  | .hbmWriteAnswer acc v => Sys2Proof.Machine.execHbmWriteAnswer acc v s
  | .flashWriteDone acc okWrite => Sys2Proof.Machine.execFlashWriteDone acc okWrite s
  | .bootFlashWriteDone readBack o => Sys2Proof.Machine.execBootFlashWriteDone readBack o s
  | .partitionResetDone p => Sys2Proof.Machine.execPartitionResetDone p s
  | .runGroupWaitLimit r => Sys2Proof.Machine.execRunGroupWaitLimit r s
  | .ringWindowWrite fn off data => Sys2Proof.Machine.execRingWindowWrite fn off data s
  | .pcieConfigRequest fn c => Sys2Proof.Machine.execPcieConfigRequest fn c s
  | .partitionCoreWfi core enter => Sys2Proof.Machine.execPartitionCoreWfi core enter s
  | .cipherUnitFail unit => Sys2Proof.Machine.execCipherUnitFail unit s

end Sys2Proof.Machine
end

