-- ==== Sys2Proof/Machine/Step.lean ====
section
/-! DEFINITION. One step of the block: the command at the front of the queue runs on the state with the
queue's rest. -/

namespace Sys2Proof.Machine

/-- Take the command at the front of the queue and run it; an empty queue leaves the block idle (log
entry 1, DESIGN CHOICE).
Log entry 1, DESIGN CHOICE. -/
def step (s : State) : Host.Outcome State Fault Refusal :=
  match s.pending with
  | [] => .next s
  | i :: rest => exec i { s with pending := rest }

/-- Put the command a word spells at the front of the queue.
Log entry 4, DESIGN CHOICE. -/
def State.withFetchWord (s : State) (nbits w : Nat) : State :=
  match decodeTableWord nbits w with
  | some i => { s with pending := i :: s.pending }
  | none => s

end Sys2Proof.Machine
end

