-- ==== Sys2Proof/Safety.lean ====
section
/-! DEFINITION. The words that claims about the FKL-T7 are stated in: when it is a command's turn, the state a command starts from, what a
reader of a ring or of a memory sees, and the invariants of the machine. -/

namespace Sys2Proof.Machine

/-! ### Turns -/

/-- It is the turn of a command on a context queue (R401, R408): the queue and its context are ACTIVE, no device fault is held, entry `e`
of the queue may start and carries the command, and the components it waits for run. `c` and `x` are the context. -/
def HostTurn (s : State) (q : QId) (cmd : HostCmd) (e : Entry) (c : Nat) (x : Ctx) : Prop :=
  ∃ qu, s.queues.get (qKey q) = some qu ∧ s.queueRuns qu = true ∧ qu.startable = some e ∧ e.cmd = cmd ∧
    (compsOf cmd).all s.compUp = true ∧ qu.ctx = some c ∧ s.ctxs.get c = some x

/-- The same of a command on an admin queue (R397, R401). -/
def AdminTurn (s : State) (q : QId) (cmd : HostCmd) (e : Entry) : Prop :=
  q.idx = 0 ∧ ∃ qu, s.queues.get (qKey q) = some qu ∧ s.queueRuns qu = true ∧ qu.startable = some e ∧ e.cmd = cmd ∧
    (compsOf cmd).all s.compUp = true

/-- The state in which an entry of a queue has started and done nothing yet. -/
def State.started (s : State) (q : QId) (sub : Nat) : State :=
  match s.queues.get (qKey q) with
  | none => s
  | some qu => s.setQueue (qKey q) { qu with fetched := qu.fetched.map (fun (x : Entry) => if x.sub = sub then { x with st := .started, startTs := s.ts } else x) }

/-- An instruction word stands at the position of a tile that runs a program, waits for nothing and has sent what its earlier instructions send (R114, R148, R171). -/
def TileHere (s : State) (t w : Nat) (x : Site) : Prop :=
  s.site t = some x ∧ x.run.st = .running ∧ (s.tile t).ended = false ∧ (s.tile t).wait = none ∧ x.slotFree (s.tile t) = true ∧ x.word (s.tile t).pos = some w

/-- The same of a tile whose reads for that word have all come back. -/
def TileReady (s : State) (t w : Nat) (x : Site) (a : After) : Prop :=
  s.site t = some x ∧ x.run.st = .running ∧ (s.tile t).ended = false ∧ (∃ n, (s.tile t).wait = some ⟨[], a, n⟩) ∧ x.word (s.tile t).pos = some w

/-- It is the turn of an instruction on a tile none of whose storage has a parity error (R105, R129, R207). -/
def TileTurn (s : State) (t w : Nat) (x : Site) : Prop := TileHere s t w x ∧ (s.tile t).upsets = []

/-- The same of a tile whose reads for that word have all come back. -/
def TileBack (s : State) (t w : Nat) (x : Site) (a : After) : Prop := TileReady s t w x a ∧ (s.tile t).upsets = []

/-- What a vector instruction does whose result is the tile `tl` with flags `fl`: the tile takes the result, its flags stick, its busy counter grows by the cycles the instruction holds the
issue slot, and its program goes on by one word (R68, R114, R130); registers written whole hold good parity. -/
def vxNext (s : State) (t op : Nat) (w : Vx) (tl : Tile) (fl : Flags) : State :=
  ((s.setTile t ({ tl with flags := tl.flags ||| fl }.cleaned (vxWrites op w (s.tile t)))).bumpTile t cVxuBusy (vxCycles op w)).advance t 1

/-- The receive buffers of an in port hold the next `n` beats that its consumer reads, those of each route on that route, each with its padding beat where rows are
one beat long (R135, R136, R144, R187). -/
def Site.arrived (x : Site) (port n : Nat) : Prop :=
  ∃ si d, x.inStream port = some (si, d) ∧ ∀ j,
    ((List.range n).filter (fun i => inRoute d (x.stageTiles d.producer) x.k (x.run.inPos.getD (laneKey si x.k) 0 + 64 * i) == j)).length *
        (if d.ticketed && rowOr (laneRow d (x.stageTiles d.producer) (x.stageTiles d.consumer)) 64 == 64 then 2 else 1) ≤ (x.run.lane (laneKey si j)).buf.length

/-- An out port takes `n` beats: no beat of an earlier send is held, and the ticket of every row that the send carries is at hand (R144, R191). -/
def Site.canSend (x : Site) (tl : Tile) (port n : Nat) : Prop :=
  ∃ si d pos R, x.outStream port = some (si, d) ∧ x.portHeld x.run port = false ∧ pos = x.run.outPos.getD (laneKey si x.k) 0 ∧
    R = rowOr (producerRow d (x.stageTiles d.producer)) (64 * n) ∧
    (d.ticketed = true → ∀ row, pos / R ≤ row → row * R < pos + 64 * n →
      (row * R < pos → (tl.tkt.cur.get port).isSome = true) ∧ (pos ≤ row * R → (tl.tkt.ticketFor port row (row * R < pos + R)).isSome = true))

/-- What a stream instruction does that has moved its beats in `s2`: registers written whole hold good parity, its busy counter grows by the transfer's cycles, and its program goes on
by one word (R114, R130). -/
def streamNext (s s2 : State) (t op : Nat) (w : Vx) (bytes links : Nat) : State :=
  ((s2.setTile t ((s2.tile t).cleaned (vxWrites op w (s.tile t)))).bumpTile t cVxuBusy (ceilDiv bytes (128 * max 1 links))).advance t 1

/-! ### What a command may read -/

/-- A range of an object can be read by a privileged unit: it lies in the object, its key serves, no page of it answers with a fault, and every line verifies
(R238, R278, R459). -/
def State.readable (s : State) (key off len : Nat) : Prop :=
  ∃ o, s.objs.get key = some o ∧ off + len ≤ o.bytes ∧ s.keyServes key = true ∧ (∀ st sc, o.readVerdict off len ≠ .bad st sc) ∧ s.rangeBad key off len = 0

/-- The same of a table the operator's admin commands name, which lies in an object of the operator (R354). -/
def State.tableAt (s : State) (a : TableArgs) (key len : Nat) : Prop :=
  (∃ o, s.objOf a.handle = some (key, o) ∧ o.part = none ∧ a.off.toNat + len ≤ o.bytes ∧ (∀ st sc, o.readVerdict a.off.toNat len ≠ .bad st sc)) ∧
    s.keyServes key = true ∧ s.rangeBad key a.off.toNat len = 0

/-- A registry slot holds an entry of a partition, with its rails whole (R214). -/
def State.regOf (s : State) (p slot : Nat) (r : RegEntry) : Prop :=
  s.adpt.reg.get slot = some r ∧ r.railOk = true ∧ r.regState ≠ 0 ∧ r.owner = p

/-! ### What a safe state is -/

/-- No device fault is held, and the control unit of SEC and BOOT are up: the machine serves commands (R5, R427). -/
def State.serves (s : State) : Bool := s.dev.fault.isNone && s.compUp cpSec && s.compUp cpBoot

/-- The dual-rail values of SEC and the Shroud agree with their complements (R272, R284, R488). -/
def State.railsWhole (s : State) : Bool :=
  s.lifeOk && s.shroud.hwm + s.shroud.hwmN == 2 ^ 56 - 1 && s.shroud.root.length == 8 && s.shroud.rootN.length == 8 &&
    (List.range 8).all (fun i => nth0 s.shroud.root i + nth0 s.shroud.rootN i == 2 ^ 56 - 1)

/-- Every finite map of the state is in its canonical form. -/
def State.mapsWf (s : State) : Bool :=
  Tbl.wf s.fns && Tbl.wf s.parts && Tbl.wf s.keys && Tbl.wf s.ctxs && Tbl.wf s.queues && Tbl.wf s.objs && Tbl.wf s.objGens && Tbl.wf s.events && Tbl.wf s.accs &&
    Tbl.wf s.works && Tbl.wf s.runs && Tbl.wf s.tiles && Tbl.wf s.hbmUsed && Tbl.wf s.wiping && Tbl.wf s.usets && Tbl.wf s.recipes && Tbl.wf s.unitGens && Tbl.wf s.groups &&
    Tbl.wf s.dev.regs && Tbl.wf s.shroud.blocks && Tbl.wf s.flash.used && Tbl.wf s.flash.owner && Tbl.wf s.adpt.reg && Tbl.wf s.adpt.cache && Tbl.wf s.rig.ports &&
    Tbl.wf s.shroud.nodes && Tbl.wf s.shroud.cache && Tbl.wf s.shroud.sweeps && Tbl.wf s.flash.erases && Tbl.wf s.dev.used && Tbl.wf s.dev.dry && Tbl.wf s.dev.bridge

end Sys2Proof.Machine
end

