-- ==== Sys2Proof/WellFormed.lean ====
section
/-! DEFINITION. Which commands are well formed: operands within the ranges that the manual's formats give them. Types bound most operands; these
checks bound the rest. -/

namespace Sys2Proof

/-- A local queue index is at most 4,096 (R398). -/
def QId.wf (q : QId) : Bool := q.idx ≤ 4096

/-- A RUN supplies at most 64 argument slots (R176, R403). -/
def RunArgs.wf (a : RunArgs) : Bool := a.slots.length ≤ 64

/-- A layout has four budget words (R460). -/
def Layout.wf (l : Layout) : Bool := l.budgets.length == 4

/-- Outcomes of start-up name parts that the device has (R16 to R25, R554). -/
def StartupOutcome.wf (o : StartupOutcome) : Bool :=
  o.tilesFailed.all (fun t => t < 160) && o.hbmPairsClosed.all (fun j => j < 256) && o.flashUnitsClosed.all (fun u => u < 32) &&
  o.portsClosed.all (fun p => p < 12) && o.stacksFailed.all (fun h => h < 8) && o.channelsDown.all (fun c => c < 128)

/-- A flit's payload is 240 bytes (R331). -/
def Flit.wf (f : Flit) : Bool := f.payload.length == 240

/-- A block of a COPY's host side carries at most 4,096 bytes (R482). -/
def HostBlock.wf (b : HostBlock) : Bool := b.data.length ≤ 4096

/-- A mirror message's body is at most 8,224 bytes (R499). -/
def MirrorMsg.wf (m : MirrorMsg) : Bool := m.body.length ≤ 8224

/-- Whether a command is well formed: `pad` holds reserved bytes of the three messages that have some (R463). -/
def Instr.wf : Instr → Bool
  | .run q a _ => q.wf && a.wf
  | .copy q _ | .fill q _ | .wait q _ | .signal q _ | .objectCreate q _ _ | .objectFree q _ | .eventCreate q _ _ | .eventDestroy q _ | .seedSet q _
  | .eventQuery q _ | .loadImage q _ | .unloadImage q _ | .sealObject q _ | .publish q _ | .pinAdapter q _ | .unpinAdapter q _ | .evictAdapter q _
  | .probeReport q _ | .snapshot q | .rekey q _ | .recipeLoad q _ | .updateSetCreate q _ | .updateSetDestroy q _ | .groupJoin q _ | .contextCreate q _ _
  | .contextDestroy q _ | .queueCreate q _ _ | .queueDestroy q _ | .queueAbort q _ | .partitionAbort q _ | .troupeSet q _ | .groupSet q _ | .groupClear q _
  | .basePropose q _ | .baseCommit q | .baseAbandon q | .doorbell q _ | .cqHeadWrite q _ | .entryFetch q => q.wf
  | .layoutSet h l => h.pad == 0 && l.wf
  | .layoutClear h | .sessionKey h | .keyGenerate h _ | .keyWithdraw h _ | .consentSet h _ | .sessionClose h => h.pad == 0
  | .sessionBind h ct _ _ => h.pad == 0 && ct.length == 1568
  | .keyImport h _ ct w => h.pad.toNat < 2 ^ 48 && ct.length == 1568 && w.length == 40
  | .coreStart h _ => h.pad.toNat < 2 ^ 32
  | .lifecycle h _ _ => h.pad.toNat < 2 ^ 56
  | .fwdSubmission _ _ _ e => e.length == 128
  | .fwdCompletion _ _ _ r | .fwdEvent _ _ r => r.length == 32
  | .rigFrameReceive _ _ f | .flitReceive _ f => f.wf
  | .mirrorLine m | .mirrorState m | .mirrorCommit m | .mirrorFlash m | .mirrorSnap m | .mirrorResync m | .mirrorAck m | .mirrorPage m | .mirrorPair m => m.wf
  | .powerGood o | .perstAssert o | .wakeN o | .warmReset o | .fwActivate o | .faultAutoReset o => o.wf
  | .bootFlashWriteDone _ o => o.wf
  | .hostReadCompletion _ bs _ => bs.all HostBlock.wf
  | .sensorUpdate id _ => 1 ≤ id && id ≤ 36
  | .regWrite _ _ _ n _ | .dbgAccess _ _ n _ => n ≤ 512
  | _ => true

end Sys2Proof
end

