-- ==== Sys2Proof/Certificates/Slice0/Obligations.lean ====
section
/-! DEFINITION. The statements for the provers. Where a command acts for a host command, its turn is `HostTurn` or `AdminTurn`, and the state it
acts on is `State.started`; where it is an instruction of a tile, its turn is `TileTurn`. -/

open Sys2Proof Sys2Proof.Machine

/-! ### The machine -/

/-- A step runs the command at the front of the queue on the state with the rest of the queue; with no command waiting the block idles
(log entry 1). -/
def Obligations.StepRunsTheFrontCommand : Prop :=
  (∀ (s : State) (c : Instr) (r : List Instr), s.pending = c :: r → step s = exec c { s with pending := r }) ∧
  (∀ s : State, s.pending = [] → step s = .next s)

/-- R401: a command starts exactly when its queue and context run, the components it needs run, and it is the first entry of the queue that has not started, with
no WAIT outstanding before it and, when it is a barrier, nothing outstanding before it. -/
def Obligations.CommandsStartInRingOrder : Prop :=
  ∀ (s : State) (q : QId) (cmd : HostCmd) (k : Nat) (e : Entry) (t : State),
    s.start q cmd = some (k, e, t) ↔
      k = qKey q ∧ e.cmd = cmd ∧ t = s.started q e.sub ∧ (compsOf cmd).all s.compUp = true ∧
      ∃ qu before after, s.queues.get (qKey q) = some qu ∧ s.queueRuns qu = true ∧ qu.fetched = before ++ e :: after ∧
        (∀ x ∈ before, x.st = .started) ∧ e.st = .waiting ∧ (∀ x ∈ before, ∀ a, x.cmd ≠ .wait a) ∧ (e.barrier = true → before = [])

/-- R405: completing a fetched entry of a queue whose context has no partition writes its record into the next place of the completion ring, with the
phase bit inverted on each pass and the flag of an event ring overflow (log entry 52, DESIGN CHOICE), and takes the entry off the queue.
R405: the bytes of a record lie where the table puts them, and the phase bit of byte 5 is 1 on a ring's first pass and alternates. -/
def Obligations.RecordsAndLayout : Prop :=
  (∀ (s : State) (qk sub : Nat) (d : Done) (q : Queue) (e : Entry),
     s.queues.get qk = some q → q.fetched.find? (fun (x : Entry) => x.sub == sub) = some e → s.ctxPart q.ctx = none → s.farHead = none →
       s.complete qk sub d =
         ((({ s.objWrite q.ring (q.sqSize * 128 + q.written % q.cqSize * 32)
               (recBytes ⟨sub, d.st, d.sc, d.flags ||| s.overflowFlag qk, d.stage, e.tag, d.result, d.ts.getD s.ts, d.detail⟩ q.written q.cqSize) with
             queues := (s.objWrite q.ring (q.sqSize * 128 + q.written % q.cqSize * 32)
               (recBytes ⟨sub, d.st, d.sc, d.flags ||| s.overflowFlag qk, d.stage, e.tag, d.result, d.ts.getD s.ts, d.detail⟩ q.written q.cqSize)).queues.set qk
                 { q with written := (q.written + 1) % w32 } } : State).dropEntry qk sub).settle).tallyFull) ∧
  (∀ (r : Rec) (i size : Nat), 0 < size → r.flags < 128 → r.stage < 256 → r.sub < 2 ^ 32 → r.result < 2 ^ 32 → r.ts < 2 ^ 64 → r.detail < 2 ^ 64 →
     let b := recBytes r i size
     b.length = 32 ∧ fieldLE b 0 4 = r.sub ∧ fieldLE b 4 1 = statusCode r.st ∧ fieldLE b 5 1 = r.flags + (if i / size % 2 = 0 then 128 else 0) ∧
     fieldLE b 6 1 = scopeCode r.sc ∧ fieldLE b 7 1 = r.stage ∧ fieldLE b 8 4 = r.tag.toNat ∧ fieldLE b 12 4 = r.result ∧ fieldLE b 16 8 = r.ts ∧
     fieldLE b 24 8 = r.detail)

/-! ### Rings and the queue engine -/

/-- R399: an equal tail does nothing; a tail past the ring size faults the context with MALFORMED; a tail behind the current one is ignored and counted;
any other one makes entries ready, stamped with the TS. A doorbell of a function that does not answer, or of no queue, changes nothing.
R400: a consumer index ahead of the last record written is ignored and counted; any other is taken, and a wait for a slot that it ends is
counted in nanoseconds, while one that leaves no slot free goes on.
R397: what the host writes into the window of a mapped ring goes into the ring's pages, and to the catcher of a caught partition; a write that no ring
of an answering function takes changes nothing. -/
def Obligations.RingWrites : Prop :=
  (∀ (s : State) (q : QId) (v : U32),
     ((s.fnOpen q.fn.val = false ∨ s.queues.get (qKey q) = none) → exec (.doorbell q v) s = .next s) ∧
     (∀ qu, s.fnOpen q.fn.val = true → s.queues.get (qKey q) = some qu →
       (v.toNat = qu.tail → exec (.doorbell q v) s = .next s) ∧
       (∀ c, v.toNat ≠ qu.tail → qu.sqSize < diff32 v.toNat qu.head → qu.ctx = some c →
         exec (.doorbell q v) s = .next (s.ctxFault c .malformed none)) ∧
       (v.toNat ≠ qu.tail → diff32 v.toNat qu.head ≤ qu.sqSize → diff32 v.toNat qu.head < diff32 qu.tail qu.head →
         exec (.doorbell q v) s = .next (s.bumpFn q.fn.val hqBadHead 1)) ∧
       (v.toNat ≠ qu.tail → diff32 v.toNat qu.head ≤ qu.sqSize → diff32 qu.tail qu.head ≤ diff32 v.toNat qu.head →
         exec (.doorbell q v) s = .next ((s.setQueue (qKey q) { qu with tail := v.toNat, stamps := qu.stamps ++ [(v.toNat, s.ts)] }).lookAhead
           { qu with tail := v.toNat, stamps := qu.stamps ++ [(v.toNat, s.ts)] })))) ∧
  (∀ (s : State) (q : QId) (v : U32) (qu : Queue), s.fnOpen q.fn.val = true → s.queues.get (qKey q) = some qu →
     (diff32 qu.written qu.cqHead < diff32 v.toNat qu.cqHead → exec (.cqHeadWrite q v) s = .next (s.bumpFn q.fn.val hqBadHead 1)) ∧
     (diff32 v.toNat qu.cqHead ≤ diff32 qu.written qu.cqHead → qu.blockedSince = none →
       exec (.cqHeadWrite q v) s = .next (s.setQueue (qKey q) { qu with cqHead := v.toNat })) ∧
     (∀ t, diff32 v.toNat qu.cqHead ≤ diff32 qu.written qu.cqHead → qu.blockedSince = some t → qu.cqSize ≤ s.slotsUsed (qKey q) { qu with cqHead := v.toNat } →
       exec (.cqHeadWrite q v) s = .next (s.setQueue (qKey q) { qu with cqHead := v.toNat })) ∧
     (∀ t, diff32 v.toNat qu.cqHead ≤ diff32 qu.written qu.cqHead → qu.blockedSince = some t → s.slotsUsed (qKey q) { qu with cqHead := v.toNat } < qu.cqSize →
       exec (.cqHeadWrite q v) s = .next ((s.setQueue (qKey q) { qu with cqHead := v.toNat, blockedSince := none }).bumpFn q.fn.val hqBackpressure (s.ts - t)))) ∧
  (∀ (s : State) (fn : Fn) (off : U64) (data : Bytes),
     (∀ m, s.fnOpen fn.val = true →
       (s.fn fn.val).maps.find? (fun (m : Nat × Nat × Nat) => m.1 ≤ off.toNat && off.toNat + data.length ≤ m.1 + m.2.1) = some m →
         exec (.ringWindowWrite fn off data) s = .next ((s.objWrite m.2.2 (off.toNat - m.1) data).mirrorHostWrite m.2.2 (off.toNat - m.1) data.length)) ∧
     ((s.fnOpen fn.val = false ∨ (s.fn fn.val).maps.find? (fun (m : Nat × Nat × Nat) => m.1 ≤ off.toNat && off.toNat + data.length ≤ m.1 + m.2.1) = none) →
         exec (.ringWindowWrite fn off data) s = .next s))

/-- R400, R409, R418, R419: with a ready entry, a free completion slot and room in RING, the entry is taken off the ring; it waits when every check
passes, and otherwise completes with the refusal the rules name: CONTEXT_LOST under a device fault or in a LOST context, FEATURE where the feature was not
agreed, and the lowest failing check's status as a context fault. A ring page whose entry fails its dual-rail check is a device fault with PARITY, lines of the
entry that do not verify are the context's INTEGRITY, and a partition's own words that fail are its PARITY (R13, R237, R278, R449).
A command that names what a command before it will make is checked when it starts (log entry 196, DEDUCED). -/
def Obligations.EntryFetchAdmits : Prop :=
  ∀ (s : State) (q : QId) (qu : Queue) (c : Nat) (x : Ctx) (r : RawEntry),
    s.queues.get (qKey q) = some qu → qu.st = .active → qu.ctx = some c → s.ctxs.get c = some x → x.st ≠ .draining → x.restoring = false →
    s.fencedCtx x = false → qu.ready ≠ 0 → s.slotsUsed (qKey q) qu < qu.cqSize → readEntry (s.readyBytes qu 5) = some r →
    (s.ringRails qu = false → exec (.entryFetch q) s = .next (s.devFault .parity none)) ∧
    (s.ringRails qu = true → s.entryLines qu r.span = false → exec (.entryFetch q) s = .next (s.ctxFault c .integrity none)) ∧
    (s.ringRails qu = true → s.entryLines qu r.span = true → (isControl r.cmd = false ∨ s.ringDepth < 256) →
      (s.dev.fault.isSome = true → exec (.entryFetch q) s =
        .next (((s.setQueue (qKey q) (qu.take r)).complete (qKey q) qu.head (Done.of .contextLost .device)).tallyFull)) ∧
      (s.dev.fault = none → x.st = .lost → exec (.entryFetch q) s =
        .next (((s.setQueue (qKey q) (qu.take r)).complete (qKey q) qu.head (Done.of .contextLost .context)).tallyFull)) ∧
      (s.dev.fault = none → x.st = .active → x.part.all s.partRails = false → exec (.entryFetch q) s =
        .next (((s.setQueue (qKey q) (qu.take r)).faultAt (qKey q) qu.head .parity .partition).tallyFull)) ∧
      (s.dev.fault = none → x.st = .active → x.part.all s.partRails = true →
        (s.agreement (qFn (qKey q)) = false ∨ (r.cmd ≠ .bad ∧ queueKind r.cmd = .ctx ∧ s.featureOk (qFn (qKey q)) r.cmd = false)) →
        exec (.entryFetch q) s = .next (((s.setQueue (qKey q) (qu.take r)).complete (qKey q) qu.head (Done.req .feature)).tallyFull)) ∧
      (s.dev.fault = none → x.st = .active → x.part.all s.partRails = true → s.agreement (qFn (qKey q)) = true →
        (r.cmd = .bad ∨ queueKind r.cmd ≠ .ctx ∨ s.featureOk (qFn (qKey q)) r.cmd = true) →
        (∀ st, qu.loadsFirst r.cmd = false → govern ((s.setQueue (qKey q) (qu.take r)).ctxFails c (qu.stamp qu.head) x.part r.cmd) = some st → exec (.entryFetch q) s =
          .next ((((s.setQueue (qKey q) (qu.take r)).bumpFn (qFn (qKey q)) hqFetchFault 1).ctxFault c st (some (qKey q, qu.head))).tallyFull)) ∧
        (qu.loadsFirst r.cmd = false → govern ((s.setQueue (qKey q) (qu.take r)).ctxFails c (qu.stamp qu.head) x.part r.cmd) = none → exec (.entryFetch q) s =
          .next ((s.setQueue (qKey q) (qu.take r)).tallyFull)) ∧
        (qu.loadsFirst r.cmd = true → exec (.entryFetch q) s = .next ((s.setQueue (qKey q) (qu.take r)).tallyFull))))

/-! ### Commands of a context queue -/

/-- R61, R404, R414 to R416: EVENT_CREATE takes a free event number and starts the fence at the given value; EVENT_DESTROY destroys an event of the context;
EVENT_QUERY answers the visible value; SEED_SET changes the context's seed alone.
R416: a WAIT whose target lies 2^62 + 1 to 2^63 - 1 ahead is MALFORMED, one whose fence has arrived completes OK, one whose deadline has passed
completes TIMEOUT, and any other one stays outstanding, changing nothing else; a fence that satisfies one completes it OK, or TIMEOUT after its deadline; a WAIT whose deadline passes while it is outstanding completes TIMEOUT
with the deadline as its TS.
R415: a SIGNAL that does not advance the fence is STALE and counted, one more than 2^62 ahead is MALFORMED, and neither changes the fence; any other advances it
and resolves the WAITs it satisfies. -/
def Obligations.EventsAndWaits : Prop :=
  (∀ (s : State) (q : QId) (e : Entry) (c : Nat) (x : Ctx),
     (∀ a pick n, HostTurn s q (.eventCreate a) e c x → s.events.pickFree 65536 pick = some n →
       exec (.eventCreate q a pick) s = .next (({ s.started q e.sub with
         events := s.events.set n ⟨c, bitOf a.flags.toNat 0, a.initial, a.initial, a.cookie, a.vector, s.ts⟩ } : State).complete (qKey q) e.sub (Done.okay n 0))) ∧
     (∀ ev : U32, HostTurn s q (.eventDestroy ev) e c x → s.eventUsable c ev.toNat true = true →
       exec (.eventDestroy q ev) s = .next (((s.started q e.sub).destroyEvent ev.toNat).complete (qKey q) e.sub (Done.okay 0 0))) ∧
     (∀ (ev : U32) v, HostTurn s q (.eventQuery ev) e c x → s.events.get ev.toNat = some v →
       exec (.eventQuery q ev) s = .next ((s.started q e.sub).complete (qKey q) e.sub (Done.okay 0 v.shown.toNat))) ∧
     (∀ seed, HostTurn s q (.seedSet seed) e c x →
       exec (.seedSet q seed) s = .next (((s.started q e.sub).setCtx c { x with seed := seed }).complete (qKey q) e.sub (Done.okay 0 0)))) ∧
  ((∀ (s : State) (q : QId) (a : WaitArgs) (e : Entry) (c : Nat) (x : Ctx) (v : Event),
     HostTurn s q (.wait a) e c x → s.events.get a.event.toNat = some v →
     (2 ^ 62 < (a.target - v.value).toNat → (a.target - v.value).toNat < 2 ^ 63 →
       exec (.wait q a) s = .next ((s.started q e.sub).complete (qKey q) e.sub (Done.req .malformed))) ∧
     ((v.value - a.target).toNat < 2 ^ 63 → exec (.wait q a) s = .next ((s.started q e.sub).complete (qKey q) e.sub (Done.req .ok))) ∧
     (((a.target - v.value).toNat ≤ 2 ^ 62 ∨ (a.target - v.value).toNat = 2 ^ 63) → 0 < (a.target - v.value).toNat → a.deadline ≠ 0 → a.deadline.toNat < s.ts →
       exec (.wait q a) s = .next ((s.started q e.sub).complete (qKey q) e.sub (Done.req .timeout))) ∧
     (((a.target - v.value).toNat ≤ 2 ^ 62 ∨ (a.target - v.value).toNat = 2 ^ 63) → 0 < (a.target - v.value).toNat → (a.deadline = 0 ∨ s.ts ≤ a.deadline.toNat) →
       exec (.wait q a) s = .next ({ s.started q e.sub with
         waits := s.waits ++ [⟨qKey q, e.sub, a.event.toNat, a.target, a.deadline.toNat⟩] } : State))) ∧
   (∀ (s : State) (ev : Nat) (value : U64),
     (s.waits.filter (fun w => w.event == ev && satisfied value w.target) = [] → s.resolveWaits ev value = s) ∧
     (∀ w, s.waits.filter (fun w => w.event == ev && satisfied value w.target) = [w] → s.resolveWaits ev value =
       ({ s with waits := s.waits.filter (fun x => x != w) } : State).complete w.q w.sub (Done.req (if w.deadline = 0 ∨ s.ts ≤ w.deadline then .ok else .timeout)))) ∧
   (∀ (s : State) (i : Nat) (w : Wait), s.waits[i]? = some w → w.deadline ≠ 0 → w.deadline < s.ts →
     exec (.waitDeadline i) s = .next (({ s with waits := s.waits.eraseIdx i } : State).complete w.q w.sub ⟨.timeout, .request, 0, 0, 0, 0, some w.deadline⟩))) ∧
  (∀ (s : State) (q : QId) (a : SignalArgs) (e : Entry) (c : Nat) (x : Ctx) (v : Event),
     HostTurn s q (.signal a) e c x → s.events.get a.event.toNat = some v →
     (((a.value - v.value).toNat = 0 ∨ 2 ^ 63 ≤ (a.value - v.value).toNat) →
       exec (.signal q a) s = .next (((s.started q e.sub).bumpFn x.fn hqStale 1).complete (qKey q) e.sub (Done.req .stale))) ∧
     (2 ^ 62 < (a.value - v.value).toNat → (a.value - v.value).toNat < 2 ^ 63 →
       exec (.signal q a) s = .next ((s.started q e.sub).complete (qKey q) e.sub (Done.req .malformed))) ∧
     (0 < (a.value - v.value).toNat → (a.value - v.value).toNat ≤ 2 ^ 62 →
       exec (.signal q a) s = .next ((((s.started q e.sub).applySignal a.event.toNat a.value).2).complete (qKey q) e.sub (Done.req .ok))))

/-- R254, R404, R482, R483: COPY and FILL become requests of chunks; a COPY to the host counts under its wrap slot, and at a count of 2^24 it is refused with KEY. -/
def Obligations.TransfersStart : Prop :=
  ∀ (s : State) (q : QId) (e : Entry) (c : Nat) (x : Ctx),
    (∀ a : FillArgs, HostTurn s q (.fill a) e c x → exec (.fill q a) s =
      .next (((s.started q e.sub).startWork (mkWork (qKey q) e (some c) x.part (.fill a) (pageChunks a.off.toNat a.len.toNat) s.ts 0)).2.settleTransfer
        (s.started q e.sub).workId)) ∧
    (∀ a : CopyArgs, HostTurn s q (.copy a) e c x → a.dst ≠ 0xFFFFFFFF → exec (.copy q a) s =
      .next (((s.started q e.sub).startWork (mkWork (qKey q) e (some c) x.part (.copy a) (copyChunks a) s.ts (s.key a.wrap.toNat).outCount)).2.settleTransfer
        (s.started q e.sub).workId)) ∧
    (∀ a : CopyArgs, HostTurn s q (.copy a) e c x → a.dst = 0xFFFFFFFF → (s.key a.wrap.toNat).outCount < 2 ^ 24 → exec (.copy q a) s =
      .next ((((s.started q e.sub).setKey a.wrap.toNat { s.key a.wrap.toNat with outCount := (s.key a.wrap.toNat).outCount + 1 }).startWork
        (mkWork (qKey q) e (some c) x.part (.copy a) (copyChunks a) s.ts (s.key a.wrap.toNat).outCount)).2.settleTransfer (s.started q e.sub).workId)) ∧
    (∀ a : CopyArgs, HostTurn s q (.copy a) e c x → a.dst = 0xFFFFFFFF → 2 ^ 24 ≤ (s.key a.wrap.toNat).outCount → exec (.copy q a) s =
      .next ((s.started q e.sub).complete (qKey q) e.sub (Done.req .key)))
/-- R242, R395, R396, R410 to R412, R602: OBJECT_CREATE of an HBM object takes the lowest free index with its next generation, its pages start ZERO, and the record
carries the handle; OBJECT_FREE lets an object that a queued command still names drain, drops the pages of one that none names, and refuses with BOUNDS one that is
in an update set, holds a training pin, or is the current or the proposed base.
R244: SEAL of a sealed object completes at once; of an unsealed one with a page that is not WRITTEN it completes with BOUNDS; else it reads the whole object, and once
every line has verified the pages become SEALED and write-protected and the object's digest is the SHA-384 of its bytes. -/
def Obligations.ObjectsAndSeals : Prop :=
  (∀ (s s1 : State) (q : QId) (e : Entry) (c : Nat) (x : Ctx), s1 = s.started q e.sub →
     (∀ (a : ObjectArgs) pick p i g s2, HostTurn s q (.objectCreate a) e c x → x.part = some p → govern (s1.objectFails x.part a) = none → a.tier = 1 →
       bitOf a.flags.toNat 0 = false → bitOf a.flags.toNat 3 = false → a.pages.toNat ≤ s1.hbmRoom p →
       i = s1.objs.lowestFree (s1.objs.length + 1) 0 → i < 2 ^ 20 → g = s1.nextGen i →
       s1.newHbm i ⟨g, .object, some c, x.part, a.tier.toNat, a.kind.toNat, a.keySlot.toNat, false, bitOf a.flags.toNat 1, bitOf a.flags.toNat 2, false,
         none, [], false, [], 0, none, 0, none⟩ a.pages.toNat pick = some s2 →
       exec (.objectCreate q a pick) s =
         .next (({ s2 with objGens := s2.objGens.set i g } : State).complete (qKey q) e.sub (Done.okay (mkHandle i g).toNat 0))) ∧
     (∀ (h : U32) key o, HostTurn s q (.objectFree h) e c x → s1.ownObj c e.ts h = some (key, o) →
       ((o.inSet.isSome = true ∨ s1.trainPinned key = true ∨ s1.isBase o = true) →
         exec (.objectFree q h) s = .next (s1.complete (qKey q) e.sub (Done.req .bounds))) ∧
       (o.inSet = none → s1.trainPinned key = false → s1.isBase o = false → o.draining = none →
         (s1.namedBefore c s1.ts key = true → exec (.objectFree q h) s =
           .next ((s1.setObj key { o with draining := some s1.ts }).complete (qKey q) e.sub (Done.okay 0 0))) ∧
         (s1.namedBefore c s1.ts key = false → exec (.objectFree q h) s =
           .next ((s1.dropPages key).complete (qKey q) e.sub (Done.okay 0 0)))))) ∧
  (∀ (s s1 : State) (q : QId) (e : Entry) (c : Nat) (x : Ctx) (h : U32) (key : Nat) (o : Obj), s1 = s.started q e.sub → HostTurn s q (.seal h) e c x →
     s1.ownObj c e.ts h = some (key, o) → o.tier ≠ 1 →
     (o.isSealed = true → exec (.sealObject q h) s = .next (s1.complete (qKey q) e.sub (Done.okay 0 0))) ∧
     (o.isSealed = false → (∃ p ∈ o.pages, p.st ≠ .written) → exec (.sealObject q h) s = .next (s1.complete (qKey q) e.sub (Done.req .bounds))) ∧
     (∀ id s2, o.isSealed = false → (∀ p ∈ o.pages, p.st = .written) →
       s1.startWork (mkWork (qKey q) e (some c) x.part (.sealing key) (pageChunks 0 o.bytes) s1.ts 0) = (id, s2) →
       (s2.workBusy id = true → exec (.sealObject q h) s = .next s2) ∧
       (∀ w, s2.workBusy id = false → s2.works.get id = some w → exec (.sealObject q h) s = .next (s2.finishSeal id w key))) ∧
     (∀ (s2 : State) (id : Nat) (w : Work) qk o2, w.q = some qk → s2.objs.get key = some o2 → w.failed = [] → (∀ p, w.part = some p → s2.mirrors p = false) →
       (o2.kind = 1 → modelHeaderOk w.bytes = true ∧ modelTableOk w.bytes = true) →
       s2.finishSeal id w key = ((({ s2 with works := s2.works.erase id } : State).fresh.2).setObj key
         { o2 with pages := o2.pages.map (fun p => p.sealPage (o2.kind == 1)), isSealed := true, digest := sha384 w.bytes }).complete qk w.sub (Done.okay 0 0)))

/-- R151, R177, R178, R180, R181, R185, R403: LOAD_IMAGE puts an EMPTY slot into LOADING under a fresh load number and reads the container's header, then its body; UNLOAD_IMAGE of a LOADED slot of the context
drains it while a RUN queued before it runs, and empties it otherwise; a RUN whose arguments pass is handed over queued, and its domains are asked to wake. -/
def Obligations.ImageCommands : Prop :=
  ∀ (s s1 : State) (q : QId) (e : Entry) (c : Nat) (x : Ctx) (p : Nat), s1 = s.started q e.sub → x.part = some p →
    (∀ (a : LoadArgs) key o id s2, HostTurn s q (.loadImage a) e c x → s1.ownObj c e.ts a.handle = some (key, o) → a.slot.toNat < 64 →
      s1.imgSlot p a.slot.toNat = none → s1.containerFits key a.off.toNat 128 = true →
      (({ s1 with free := s1.free + 1 } : State).setPart p
          { s1.part p with slots := (s1.part p).slots.set a.slot.toNat ⟨.loading, c, s1.free, none, [], 0, 0, [], 0⟩ }).startWork
        (mkWork (qKey q) e (some c) x.part (.loadImage a a.slot.toNat) (pageChunks a.off.toNat 128) s1.ts 0) = (id, s2) →
      exec (.loadImage q a) s = .next (s2.readBody id)) ∧
    (∀ (slot : U8) y, HostTurn s q (.unloadImage slot) e c x → s.imgSlot p slot.toNat = some y → y.owner = c → y.st = .loaded →
      (s1.slotRunBefore c s1.ts slot.toNat = true → exec (.unloadImage q slot) s = .next ((s1.setPart p
        { s1.part p with slots := (s1.part p).slots.set slot.toNat { y with st := .draining, unloadTs := s1.ts } }).complete (qKey q) e.sub (Done.okay 0 0))) ∧
      (s1.slotRunBefore c s1.ts slot.toNat = false → exec (.unloadImage q slot) s = .next ((s1.emptySlot p slot.toNat).complete (qKey q) e.sub (Done.okay 0 0)))) ∧
    (∀ (a : RunArgs) pick y (r : Run), HostTurn s q (.run a) e c x → govern (s1.runFails c e.ts p a) = none → s1.imgSlot p a.imageSlot.toNat = some y →
      r = ⟨qKey q, e.sub, c, p, a.imageSlot.toNat, y.load, a.strict, a.stream.toNat, a.slots, .queued, none, [], x.seed, 0, s1.ts, s1.ts,
        [], [], [], [], [], 0, [], [], none, none, 0, 0, [], []⟩ →
      exec (.run q a pick) s = .next (({ s1 with runs := s1.runs.set (s1.runs.pickAny pick) r } : State).wakeAll (s1.cmdDomains c (.run a))))
/-- R213, R218 to R222, R225: PUBLISH reads its object. A serve-form PIN of a resident adapter counts a hit and completes; of a loading one it waits for the load; UNPIN gives a
pin back; EVICT of an adapter in use leaves a mark and counts a deferral, and of one not in use wipes it. -/
def Obligations.AdapterCommands : Prop :=
  ∀ (s s1 : State) (q : QId) (e : Entry) (c : Nat) (x : Ctx) (p : Nat), s1 = s.started q e.sub → x.part = some p →
    (∀ (a : PublishArgs) key o id s2, HostTurn s q (.publish a) e c x → s1.ownObj c e.ts a.handle = some (key, o) →
      s1.startWork (mkWork (qKey q) e (some c) x.part (.publish key a.keySlot.toNat none) (pageChunks 0 o.bytes) s1.ts 0) = (id, s2) →
      (s2.workBusy id = true → exec (.publish q a) s = .next s2) ∧
      (∀ w, s2.workBusy id = false → s2.works.get id = some w → exec (.publish q a) s = .next (s2.publishRead id w key a.keySlot.toNat))) ∧
    (∀ (a : PinArgs) r i en, HostTurn s q (.pinAdapter a) e c x → a.form = 0 → s1.regOf p a.slot.toNat r → r.regState = regPublished →
      serveOk r.carry r.allowDrifted = true → s1.entryOf a.slot.toNat = some (i, en) → en.total < 65535 →
      (en.st = .resident → exec (.pinAdapter q a) s = .next (((s1.setCache i (en.pin c)).bumpPart p cAdHits 1).complete (qKey q) e.sub (Done.okay a.slot.toNat 0))) ∧
      (en.st = .loading → exec (.pinAdapter q a) s = .next (s1.setCache i { en.pin c with waiters := en.waiters ++ [(qKey q, e.sub, c)] }))) ∧
    (∀ (slot : U16) r i en, HostTurn s q (.unpinAdapter slot) e c x → s1.regOf p slot.toNat r → r.regState ≠ regRevoked → s1.entryOf slot.toNat = some (i, en) →
      en.st ≠ .void → en.pins.getD c 0 ≠ 0 →
      exec (.unpinAdapter q slot) s = .next (((s1.setCache i (en.unpin c)).afterUnpin i).complete (qKey q) e.sub (Done.okay 0 0))) ∧
    (∀ (slot : U16) r i en, HostTurn s q (.evictAdapter slot) e c x → s1.regOf p slot.toNat r → r.regState = regPublished → s1.entryOf slot.toNat = some (i, en) →
      en.st = .resident →
      (en.total ≠ 0 → exec (.evictAdapter q slot) s =
        .next (((s1.setCache i { en with evict := true, byCommand := true }).bumpPart p cAdDefer (b2n (!en.evict))).complete (qKey q) e.sub (Done.okay 0 0))) ∧
      (en.total = 0 → exec (.evictAdapter q slot) s = .next (((s1.wipeEntry i).bumpPart p cAdEvict 1).complete (qKey q) e.sub (Done.okay 0 0))))

/-- R227 to R232: a sealed MODEL object becomes the proposed base while no base is proposed: every next carry of a live entry becomes PENDING and the adapters' headers are read, each for
its layer check; a commit makes the proposal the base and every next carry the carry; an abandon puts every next carry back; a probe report reads its block, and the mean loss is recorded and
judged against the bound: it sets the next carry while a proposal stands, and the carry and the base otherwise. -/
def Obligations.BaseCommands : Prop :=
  ∀ (s s1 : State) (q : QId) (e : Entry), s1 = s.started q e.sub →
    (∀ (h : U32) key o live ads s2 id s3, AdminTurn s q (.basePropose h) e → s1.objOf h = some (key, o) → o.kind = 1 → o.isSealed = true → s1.adpt.proposal = none →
      s1.regRails = true → live = s1.adpt.reg.filter (fun (x : Nat × RegEntry) => x.2.regState == regPublished || x.2.regState == regTraining) →
      ads = live.map (fun (x : Nat × RegEntry) => (x.1, x.2.object.toNat % 2 ^ 20)) →
      s2 = ({ mapReg s1 (fun r => r.withCarry r.carry caPending) with adpt := { (mapReg s1 (fun r => r.withCarry r.carry caPending)).adpt with
        proposal := some (o.digest.take 16, s1.objRead key 0 (0x40 + 16 * fieldLE (s1.objRead key 0 64) 6 2)) } } : State) →
      s2.startWork (mkWork (qKey q) e none none (.headers key ads) (live.zipIdx.map (fun x => ⟨0, headLen x.1.2.layers, x.2⟩)) s1.ts 0) = (id, s3) →
      (s3.workBusy id = true → exec (.basePropose q h) s = .next s3) ∧
      (∀ w, s3.workBusy id = false → s3.works.get id = some w → exec (.basePropose q h) s = .next (s3.headersRead id w key ads))) ∧
    (∀ (s2 : State) id (w : Work) qk key o table slot (r : RegEntry), w.q = some qk → w.failed = [] → s2.objs.get key = some o →
      s2.adpt.proposal = some (o.digest.take 16, table) → s2.regRails = true → s2.adpt.reg.get slot = some r → (r.regState = regPublished ∨ r.regState = regTraining) →
      s2.headersRead id w key [(slot, r.object.toNat % 2 ^ 20)] =
        ((({ s2 with works := s2.works.erase id } : State).setReg slot (r.withCarry r.carry (proposedCarry r (w.got.getD 0 []) table))).complete qk w.sub (Done.okay 0 0))) ∧
    (∀ dig table, AdminTurn s q .baseCommit e → s1.adpt.proposal = some (dig, table) → s1.regRails = true →
      ∃ t, exec (.baseCommit q) s = .next (State.complete (State.repair t) (qKey q) e.sub (Done.okay 0 0)) ∧ t.adpt.base = dig ∧ t.adpt.baseTable = table ∧
        t.adpt.proposal = none ∧ t.objs = s1.objs ∧ t.queues = s1.queues ∧ t.runs = s1.runs) ∧
    (AdminTurn s q .baseAbandon e → s1.regRails = true → exec (.baseAbandon q) s =
      .next (({ s1 with adpt := { s1.adpt with reg := s1.adpt.reg.map (fun (x : Nat × RegEntry) => (x.1, x.2.withCarry x.2.carry x.2.carry)), proposal := none } } : State).complete
        (qKey q) e.sub (Done.okay 0 0))) ∧
    (∀ (a : ProbeArgs) c x r key o id s2, HostTurn s q (.probeReport a) e c x → s1.adpt.reg.get a.slot.toNat = some r → r.railOk = true → x.part = some r.owner →
      s1.ownObj c e.ts a.handle = some (key, o) → (s1.reportSets r).isSome = true →
      s1.startWork (mkWork (qKey q) e (some c) x.part (.report a.slot.toNat key a.off.toNat) (pageChunks a.off.toNat 512) s1.ts 0) = (id, s2) →
      (s2.workBusy id = true → exec (.probeReport q a) s = .next s2) ∧
      (∀ w, s2.workBusy id = false → s2.works.get id = some w → exec (.probeReport q a) s = .next (s2.reportRead id w a.slot.toNat))) ∧
    (∀ (s2 : State) id (w : Work) qk slot (r : RegEntry) next m v, w.q = some qk → w.failed = [] → s2.adpt.reg.get slot = some r → r.railOk = true →
      s2.reportSets r = some next → (∀ i, i < r.probes → fieldLE w.bytes (8 * i + 4) 4 ≠ 0) → m = meanLoss w.bytes r.probes →
      v = (if (fcmp .le (d32 m) (d32 r.lossBound.toNat)).1 then caCarried else caDrifted) →
      ∃ r', s2.reportRead id w slot = (({ s2 with works := s2.works.erase id } : State).setReg slot r').complete qk w.sub (Done.okay 0 0) ∧
        r'.probeLoss = BitVec.ofNat 32 m ∧ r'.object = r.object ∧ r'.railOk = true ∧
        (next = true → r'.nextCarry = v ∧ r'.carry = r.carry ∧ r'.base = r.base) ∧ (next = false → r'.carry = v ∧ r'.base = s2.adpt.base))

/-- R285, R289, R304, R370, R372, R509: REKEY draws the slot's next key and starts a sweep over its pages; SNAPSHOT starts one for its partition unless one runs; RECIPE_LOAD stores
a well-formed recipe; GROUP_JOIN joins a member. -/
def Obligations.RekeySnapshotRecipeJoin : Prop :=
  ∀ (s s1 : State) (q : QId) (e : Entry) (c : Nat) (x : Ctx) (p : Nat), s1 = s.started q e.sub → x.part = some p →
    (∀ (k : U16), HostTurn s q (.rekey k) e c x → s.rekeyWaits (some p) k.toNat = false → s1.rekeyOk x.part k.toNat = true → s1.sweepOf k.toNat = none →
      ∃ id s2, (({ s1 with free := s1.free + 1 } : State).setKey k.toNat { s1.key k.toNat with next := some (Config.trng s1.free) }).startWork
          (mkWork (qKey q) e (some c) x.part (.rekey k.toNat) [] s1.ts 0) = (id, s2) ∧
        exec (.rekey q k) s = .next ((s2.onward (s2.shroud.sweeps.lowestFree 8 0) ⟨1, false, k.toNat, 0, 0, id, [], none⟩).lockNext (s2.shroud.sweeps.lowestFree 8 0))) ∧
    (HostTurn s q .snapshot e c x →
      ((s1.net p).running = none → exec (.snapshot q) s = .next (s1.startSnap p (some (qKey q, e.sub)) none)) ∧
      ((s1.net p).running ≠ none → exec (.snapshot q) s = .next (s1.complete (qKey q) e.sub (Done.req .bounds)))) ∧
    (∀ (a : RecipeArgs) key o r, HostTurn s q (.recipeLoad a) e c x → s1.ownObj c e.ts a.handle = some (key, o) → 4 ≤ a.entry.toNat → a.entry.toNat < 16 →
      s1.recipeUsed p a.entry.toNat = false → s1.readable key a.off.toNat 512 → readRecipe (s1.objRead key a.off.toNat 512) = some r →
      exec (.recipeLoad q a) s = .next (({ s1 with recipes := s1.recipes.set (16 * p + a.entry.toNat) r } : State).complete (qKey q) e.sub (Done.okay 0 0))) ∧
    (∀ (a : JoinArgs) s2, HostTurn s q (.groupJoin a) e c x →
      s1.tryJoin p a.group.toNat a.member.toNat a.generation.toNat a.owner.toNat (leBytes 16 a.digest.toNat) = .ok s2 →
      exec (.groupJoin q a) s = .next (s2.complete (qKey q) e.sub (Done.okay 0 0)))

/-- R298 to R302: an update set is made of a readable record and readable descriptors that pass their checks: it starts at epoch 0 with no attempt open, and each object joins it; it is destroyed
only by its context and with no attempt open, and its objects leave it. -/
def Obligations.UpdateSetCommands : Prop :=
  ∀ (s s1 : State) (q : QId) (e : Entry) (c : Nat) (x : Ctx) (p : Nat), s1 = s.started q e.sub → x.part = some p →
    (∀ (a : SetArgs) key o dk od hk oh sk os b ds,
      HostTurn s q (.updateSetCreate a) e c x → s1.ownObj c e.ts a.handle = some (key, o) → s1.readable key a.off.toNat 64 → b = s1.objRead key a.off.toNat 64 →
      s1.ownObj c e.ts (u32At b 0x20) = some (dk, od) → s1.ownObj c e.ts (u32At b 0x24) = some (hk, oh) → s1.ownObj c e.ts (u32At b 0x38) = some (sk, os) →
      fieldLE b 0x30 8 ≤ oh.bytes → fieldLE b 0x3C 4 + 4 ≤ os.bytes → s1.readable dk (fieldLE b 0x28 8) (64 * fieldLE b 4 2) →
      ds = (List.range (fieldLE b 4 2)).map (fun i => ((s1.objRead dk (fieldLE b 0x28 8) (64 * fieldLE b 4 2)).drop (64 * i)).take 64) →
      govern (recordFails b ++ ds.flatMap (s1.descFails p c e.ts (fieldLE b 0 1))) = none → a.set.toNat < 16 →
      s1.usets.has (setKey p a.set.toNat) = false → fieldLE b 2 2 = 0xFFFF →
      ∃ t u, exec (.updateSetCreate q a) s = .next (State.complete t (qKey q) e.sub (Done.okay 0 0)) ∧ t.usets = s1.usets.set (setKey p a.set.toNat) u ∧
        u.ctx = c ∧ u.mode = fieldLE b 0 1 ∧ u.group = none ∧ u.epoch = 0 ∧ u.isOpen = false ∧ u.descs.length = ds.length ∧
        t.queues = s1.queues ∧ t.parts = s1.parts ∧ t.events = s1.events ∧ t.hbm = s1.hbm) ∧
    (∀ (n : U8) u, HostTurn s q (.updateSetDestroy n) e c x → n.toNat < 16 → s1.usets.get (setKey p n.toNat) = some u → u.ctx = c →
      (u.isOpen = true → exec (.updateSetDestroy q n) s = .next (s1.complete (qKey q) e.sub (Done.req .bounds))) ∧
      (u.isOpen = false → exec (.updateSetDestroy q n) s = .next ((s1.dropSet (setKey p n.toNat)).complete (qKey q) e.sub (Done.okay 0 0))))

/-- R395 to R397, R408, R420 to R422: CONTEXT_CREATE makes an ACTIVE context with a fresh seed and an empty event ring; QUEUE_CREATE makes an empty ACTIVE queue; QUEUE_ABORT ends a queue's work;
QUEUE_DESTROY and CONTEXT_DESTROY end it and remove the queue or the context; PARTITION_ABORT puts every context of the partition into LOST.
R354, R355, R366 to R370: a well-formed troupe table, or group entry, in a readable object of the operator is put in force; one that is not is refused with MALFORMED and changes nothing else;
GROUP_CLEAR ends a group and keeps its generation. -/
def Obligations.AdminAndTables : Prop :=
  (∀ (s s1 : State) (q : QId) (e : Entry), s1 = s.started q e.sub →
     (∀ (a : CtxArgs) pick p k b s2 c, AdminTurn s q (.contextCreate a) e → p = (if q.fn.val = 0 then (if a.part = 0xFF then none else some a.part.toNat) else fnPart q.fn.val) →
       govern (s1.ctxCreateFails p a) = none → s1.newRing q.fn.val p (32 * 2 ^ a.evLog2.toNat) = some (k, b, s2) → s1.ctxs.pickFree 1024 pick = some c →
       exec (.contextCreate q a pick) s = .next ((({ s2 with free := s2.free + 1 } : State).setCtx c
         ⟨.active, q.fn.val, p, (Config.trng s2.free).setWidth 64, a.evLog2.toNat, k, b, 0, false, false⟩).complete (qKey q) e.sub (Done.okay c b))) ∧
     (∀ (a : QueueArgs) pick x k b s2, AdminTurn s q (.queueCreate a) e → 6 ≤ a.sqLog2.toNat → a.sqLog2.toNat ≤ 16 → 6 ≤ a.cqLog2.toNat → a.cqLog2.toNat ≤ 16 →
       s1.adminCtx q.fn.val a.ctx.toNat = some x → x.st ≠ .draining → (s1.ctxQueues a.ctx.toNat).length < 64 →
       (s1.queues.filter (fun (y : Nat × Queue) => y.2.ctx.isSome)).length < 4096 →
       s1.newRing x.fn x.part (128 * 2 ^ a.sqLog2.toNat + 32 * 2 ^ a.cqLog2.toNat) = some (k, b, s2) →
       exec (.queueCreate q a pick) s = .next ((s2.setQueue (x.fn * 65536 + s2.queueIndex x.fn pick)
         ⟨some a.ctx.toNat, a.sqLog2.toNat, a.cqLog2.toNat, k, b, 0, 0, [], 0, 0, .active, 0, [], none⟩).complete (qKey q) e.sub (Done.okay (s2.queueIndex x.fn pick) b))) ∧
     (∀ (a : QueueRef) k x, AdminTurn s q (.queueAbort a) e → s1.namedQueue q.fn.val a = some (k, x) → x.st = .active →
       exec (.queueAbort q a) s = .next ((s1.abortQueue k .aborted .request).complete (qKey q) e.sub (Done.okay 0 0))) ∧
     (∀ (a : QueueRef) k x, AdminTurn s q (.queueDestroy a) e → s1.namedQueue q.fn.val a = some (k, x) → x.st = .active →
       exec (.queueDestroy q a) s = .next (((s1.abortQueue k .aborted .request).dropQueue k).complete (qKey q) e.sub (Done.okay 0 0))) ∧
     (∀ (c : U16) x, AdminTurn s q (.contextDestroy c) e → s1.adminCtx q.fn.val c.toNat = some x →
       exec (.contextDestroy q c) s = .next ((s1.destroyCtx c.toNat).complete (qKey q) e.sub (Done.okay 0 0))) ∧
     (∀ (p : U8), AdminTurn s q (.partitionAbort p) e → p.toNat < 16 → (q.fn.val = 0 ∨ fnPart q.fn.val = some p.toNat) →
       exec (.partitionAbort q p) s = .next ((s1.abortPartition p.toNat .aborted).complete (qKey q) e.sub (Done.okay 0 0)))) ∧
  (∀ (s s1 : State) (q : QId) (e : Entry) (a : TableArgs) (key : Nat), s1 = s.started q e.sub →
     (AdminTurn s q (.troupeSet a) e → s1.tableAt a key tableBytes →
       (troupeOk (s1.objRead key a.off.toNat tableBytes) = true → exec (.troupeSet q a) s =
         .next ((s1.installTroupe (s1.objRead key a.off.toNat tableBytes)).complete (qKey q) e.sub (Done.okay 0 0))) ∧
       (troupeOk (s1.objRead key a.off.toNat tableBytes) = false → exec (.troupeSet q a) s = .next (s1.complete (qKey q) e.sub (Done.req .malformed)))) ∧
     (∀ b, AdminTurn s q (.groupSet a) e → s1.tableAt a key entryBytes → b = s1.objRead key a.off.toNat entryBytes →
       (s1.entryOk b (s1.lastGen (fieldLE b 0 1)) = true → exec (.groupSet q a) s = .next ((s1.installGroup b).complete (qKey q) e.sub (Done.okay 0 0))) ∧
       (s1.entryOk b (s1.lastGen (fieldLE b 0 1)) = false → exec (.groupSet q a) s = .next (s1.complete (qKey q) e.sub (Done.req .malformed)))) ∧
     (AdminTurn s q (.groupClear a) e → s1.tableAt a key entryBytes → entryClean (s1.objRead key a.off.toNat entryBytes) = false →
       exec (.groupClear q a) s = .next (s1.complete (qKey q) e.sub (Done.req .malformed))) ∧
     (∀ g, AdminTurn s q (.groupClear a) e → s1.tableAt a key entryBytes → entryClean (s1.objRead key a.off.toNat entryBytes) = true → g = fieldLE (s1.objRead key a.off.toNat entryBytes) 0 1 →
       (s1.abortGroup g .other).groups.has g = true →
       exec (.groupClear q a) s = .next (((s1.abortGroup g .other).setGroup g { Group.reset with gen := ((s1.abortGroup g .other).group g).gen }).complete (qKey q) e.sub (Done.okay 0 0))))

/-! ### RUNs on their tiles -/

/-- R151, R177, R179, R183, R186: once its container has been read and every check passes, an image's body is kept, its slot becomes LOADED, and every tile of its tile list gets it into its shadow bank.
R151, R152: a queued RUN starts when its image is loaded, nothing stands before it on its tiles, its domains are awake, no cap holds it, its groups are ready and its arguments still pass:
every tile of its image gets the image into its current bank, the RUN's program position 0, cleared registers and flags and the generators that its seed and its place in the tile list give (R58), and the RUN is RUNNING.
R148, R153, R388: a RUN ends when every tile has ended, no beat is under way and nothing of it is outstanding: its tiles are freed and its record carries the OR of their flags. A RUN without movement for
1 ms that waits for nothing faults its context with TIMEOUT; so does, with HANDLE, a RUN held for a group past the group's wait_limit. -/
def Obligations.RunsStartAndEnd : Prop :=
  (∀ (s : State) (p : Sys2Proof.Part) (slot : BitVec 6) id w a bk s2 x qk hdr raw body im, s.loadWork p.val slot.toNat = some (id, w) → s.workBusy id = false →
     w.kind = .loadImage a slot.toNat → w.firstBad = none → w.q = some qk → hdr = w.bytes.take 128 → raw = w.bytes.drop 128 →
     loadFails s p.val hdr raw s.failedTiles = none → body = plainBody (s.key (hdrKeySlot hdr)).key hdr raw →
     s.keepBody p.val slot.toNat body = some (bk, s2) → s2.imgSlot p.val slot.toNat = some x → im = readImage body → im.tiles.any s2.tileCut = false →
     ∃ t x', exec (.loadImageDone p slot) s = .next (State.complete t qk w.sub (Done.okay 0 0)) ∧ t.works = s2.works.erase id ∧ t.imgSlot p.val slot.toNat = some x' ∧
       x'.st = .loaded ∧ x'.image = some im ∧ x'.owner = x.owner ∧ x'.load = x.load ∧ x'.body = bk ∧
       (∀ n, n ∈ im.tiles → t.tile n = ((s2.tile n).loadShadow ⟨p.val, slot.toNat, x.load⟩).endLoad p.val slot.toNat) ∧
       (∀ n, n ∉ im.tiles → t.tile n = s2.tile n)) ∧
  (∀ (s : State) (rid : Nat) (r : Run) (x : ImgSlot) (c : Ctx) (im : Image), s.runs.get rid = some r → r.st = .queued → s.imgSlot r.part r.slot = some x →
     s.ctxs.get r.ctx = some c → x.st = .loaded → x.image = some im → s.dev.fault = none → s.partRails r.part = true → s.runBlocked rid r im = false →
     s.allAwake (s.runDomains im r.args) = true → s.pwr.holdSince = none → r.heldForGroup = none → (s.net r.part).waitGroups = false →
     govern (s.runFails r.ctx (s.entryTs r) r.part ⟨BitVec.ofNat 8 r.slot, r.strict, BitVec.ofNat 24 r.stream, r.args⟩ ++
       failIf (s.llcBytes r.part < im.stores) .bounds ++ s.groupFails r.part im) = none → (s.part r.part).led.armed = false →
     ∃ t r', exec (.runStart rid) s = .next t ∧ t.runs = s.runs.set rid r' ∧ r'.st = .running ∧ r'.tiles = im.tiles ∧ r'.seed = c.seed ∧ r'.startTs = s.ts ∧
       r'.lanes = im.freshLanes ∧ t.ctxs = s.ctxs ∧ t.objs = s.objs ∧ t.hbm = s.hbm ∧ t.queues = s.queues ∧ t.keys = s.keys ∧
       (∀ n, n ∉ im.tiles → t.tile n = s.tile n) ∧
       (∀ n, n ∈ im.tiles → (t.tile n).run = some rid ∧ (t.tile n).pos = 0 ∧ (t.tile n).v = [] ∧ (t.tile n).x = [] ∧ (t.tile n).flags = 0 ∧
         (t.tile n).current = some ⟨r.part, r.slot, x.load⟩) ∧
       (im.tiles.Nodup → ∀ i n, im.tiles[i]? = some n → (t.tile n).gens = seedLanes c.seed i r.stream)) ∧
  ((∀ (s : State) (rid : Nat) (r : Run), s.runs.get rid = some r → s.runOver rid r = true → (∀ t ∈ r.tiles, (s.tile t).tkt.voids = []) → r.closeSt = none →
     exec (.runComplete rid) s = .next ((s.releaseRun rid).complete r.q r.sub ⟨.ok, .request, 0, 0, 0, s.runFlags r % 128, none⟩)) ∧
   (∀ (s : State) (rid : Nat) (r : Run), s.runs.get rid = some r → r.st = .running → s.pwr.trip = false → r.lastMove + 1000000 ≤ s.ts → s.runWaits rid r = false →
     exec (.pipelineWatchdog rid) s = .next (s.ctxFault r.ctx .timeout (some (r.q, r.sub)))) ∧
   (∀ (s : State) (rid : Nat) (r : Run) (im : Image) (t g : Nat), s.runs.get rid = some r → r.st = .queued → r.heldForGroup = some t → s.runImage r = some im →
     g ∈ s.imageGroups r.part im → s.groupReady r.part g = false → t + 1000 * geWait (s.group g).entry ≤ s.ts →
     exec (.runGroupWaitLimit rid) s = .next (s.ctxFault r.ctx .handle (some (r.q, r.sub)))))

/-! ### The vector unit -/

/-- R112, R113: the arithmetic instructions write, to every active element, the operation of the corresponding elements of their operands, rounded once in the format, and raise the flags of the active elements.
R112, R113, R115: the sign instructions change bits of elements and raise nothing; the compares set the guard bits of the active elements and keep the others; the guard instructions combine guards; VSEL picks by a guard. -/
def Obligations.VectorArithmeticAndCompares : Prop :=
  (∀ (s : State) (t : Sys2Proof.Tile) (w : Vx) (x : Site) (tl : Sys2Proof.Machine.Tile) (fl : Flags), s.pwr.trip = false →
     (TileTurn s t.val (vxWord 0x01 w) x → vxArith 2 (fun rm l => fadd (isRdn rm) (arg l 0) (arg l 1)) w x (s.tile t.val) = .ok tl fl →
       exec (.vadd t w) s = .next (vxNext s t.val 0x01 w tl fl)) ∧
     (TileTurn s t.val (vxWord 0x02 w) x → vxArith 2 (fun rm l => fsub (isRdn rm) (arg l 0) (arg l 1)) w x (s.tile t.val) = .ok tl fl →
       exec (.vsub t w) s = .next (vxNext s t.val 0x02 w tl fl)) ∧
     (TileTurn s t.val (vxWord 0x03 w) x → vxArith 2 (fun _ l => fmul (arg l 0) (arg l 1)) w x (s.tile t.val) = .ok tl fl →
       exec (.vmul t w) s = .next (vxNext s t.val 0x03 w tl fl)) ∧
     (TileTurn s t.val (vxWord 0x04 w) x → vxArith 3 (fun rm l => ffma (isRdn rm) false false (arg l 0) (arg l 1) (arg l 2)) w x (s.tile t.val) = .ok tl fl →
       exec (.vfma t w) s = .next (vxNext s t.val 0x04 w tl fl)) ∧
     (TileTurn s t.val (vxWord 0x05 w) x → vxArith 3 (fun rm l => ffma (isRdn rm) false true (arg l 0) (arg l 1) (arg l 2)) w x (s.tile t.val) = .ok tl fl →
       exec (.vfms t w) s = .next (vxNext s t.val 0x05 w tl fl)) ∧
     (TileTurn s t.val (vxWord 0x06 w) x → vxArith 3 (fun rm l => ffma (isRdn rm) true false (arg l 0) (arg l 1) (arg l 2)) w x (s.tile t.val) = .ok tl fl →
       exec (.vfnma t w) s = .next (vxNext s t.val 0x06 w tl fl)) ∧
     (TileTurn s t.val (vxWord 0x07 w) x → vxArith 2 (fun _ l => fdiv (arg l 0) (arg l 1)) w x (s.tile t.val) = .ok tl fl →
       exec (.vdiv t w) s = .next (vxNext s t.val 0x07 w tl fl)) ∧
     (TileTurn s t.val (vxWord 0x08 w) x → vxArith 1 (fun _ l => fsqrt (arg l 0)) w x (s.tile t.val) = .ok tl fl →
       exec (.vsqrt t w) s = .next (vxNext s t.val 0x08 w tl fl)) ∧
     (TileTurn s t.val (vxWord 0x09 w) x → vxArith 2 (fun _ l => fmin (arg l 0) (arg l 1)) w x (s.tile t.val) = .ok tl fl →
       exec (.vmin t w) s = .next (vxNext s t.val 0x09 w tl fl)) ∧
     (TileTurn s t.val (vxWord 0x0A w) x → vxArith 2 (fun _ l => fmax (arg l 0) (arg l 1)) w x (s.tile t.val) = .ok tl fl →
       exec (.vmax t w) s = .next (vxNext s t.val 0x0A w tl fl))) ∧
  (∀ (s : State) (t : Sys2Proof.Tile) (w : Vx) (x : Site) (tl : Sys2Proof.Machine.Tile) (fl : Flags), s.pwr.trip = false →
     (TileTurn s t.val (vxWord 0x0B w) x → vxBits 1 (fun f l => argN l 0 % 2 ^ (f.width - 1)) w x (s.tile t.val) = .ok tl fl →
       exec (.vabs t w) s = .next (vxNext s t.val 0x0B w tl fl)) ∧
     (TileTurn s t.val (vxWord 0x0C w) x → vxBits 1 (fun f l => (argN l 0 + 2 ^ (f.width - 1)) % 2 ^ f.width) w x (s.tile t.val) = .ok tl fl →
       exec (.vneg t w) s = .next (vxNext s t.val 0x0C w tl fl)) ∧
     (TileTurn s t.val (vxWord 0x0D w) x → vxBits 2 (fun f l => argN l 0 % 2 ^ (f.width - 1) + argN l 1 / 2 ^ (f.width - 1) * 2 ^ (f.width - 1)) w x (s.tile t.val) = .ok tl fl →
       exec (.vcpysgn t w) s = .next (vxNext s t.val 0x0D w tl fl)) ∧
     (TileTurn s t.val (vxWord 0x10 w) x → vxCmp .eq w x (s.tile t.val) = .ok tl fl →
       exec (.vcmpeq t w) s = .next (vxNext s t.val 0x10 w tl fl)) ∧
     (TileTurn s t.val (vxWord 0x11 w) x → vxCmp .lt w x (s.tile t.val) = .ok tl fl →
       exec (.vcmplt t w) s = .next (vxNext s t.val 0x11 w tl fl)) ∧
     (TileTurn s t.val (vxWord 0x12 w) x → vxCmp .le w x (s.tile t.val) = .ok tl fl →
       exec (.vcmple t w) s = .next (vxNext s t.val 0x12 w tl fl)) ∧
     (TileTurn s t.val (vxWord 0x13 w) x → vxCmp .un w x (s.tile t.val) = .ok tl fl →
       exec (.vcmpun t w) s = .next (vxNext s t.val 0x13 w tl fl)) ∧
     (TileTurn s t.val (vxWord 0x14 w) x → vxGuard (fun a b => a &&& b) w x (s.tile t.val) = .ok tl fl →
       exec (.gand t w) s = .next (vxNext s t.val 0x14 w tl fl)) ∧
     (TileTurn s t.val (vxWord 0x15 w) x → vxGuard (fun a b => a ||| b) w x (s.tile t.val) = .ok tl fl →
       exec (.gor t w) s = .next (vxNext s t.val 0x15 w tl fl)) ∧
     (TileTurn s t.val (vxWord 0x16 w) x → vxGuard (fun a _ => ~~~a) w x (s.tile t.val) = .ok tl fl →
       exec (.gnot t w) s = .next (vxNext s t.val 0x16 w tl fl)) ∧
     (TileTurn s t.val (vxWord 0x17 w) x → vxSel w x (s.tile t.val) = .ok tl fl →
       exec (.vsel t w) s = .next (vxNext s t.val 0x17 w tl fl)))

/-- R114, R118, R119: the transcendental instructions write, for elements 0 to 255, the table's function of the element, in a 16-bit format through binary32.
R62, R108, R112, R116, R117, R120, R121, R128: conversion, half moves, reductions over all lanes and over groups of sixteen, random fill, bitwise instructions, rotation and VSYNC (where no operation drains to tile memory; where one does, it waits) complete with their result. -/
def Obligations.VectorFunctionsAndMoves : Prop :=
  (∀ (s : State) (t : Sys2Proof.Tile) (w : Vx) (x : Site) (tl : Sys2Proof.Machine.Tile) (fl : Flags), s.pwr.trip = false →
     (TileTurn s t.val (vxWord 0x20 w) x → vxTrans texp w x (s.tile t.val) = .ok tl fl →
       exec (.vexp t w) s = .next (vxNext s t.val 0x20 w tl fl)) ∧
     (TileTurn s t.val (vxWord 0x21 w) x → vxTrans texp2 w x (s.tile t.val) = .ok tl fl →
       exec (.vexp2 t w) s = .next (vxNext s t.val 0x21 w tl fl)) ∧
     (TileTurn s t.val (vxWord 0x22 w) x → vxTrans texpm1 w x (s.tile t.val) = .ok tl fl →
       exec (.vexpm1 t w) s = .next (vxNext s t.val 0x22 w tl fl)) ∧
     (TileTurn s t.val (vxWord 0x23 w) x → vxTrans (tlog false) w x (s.tile t.val) = .ok tl fl →
       exec (.vlog t w) s = .next (vxNext s t.val 0x23 w tl fl)) ∧
     (TileTurn s t.val (vxWord 0x24 w) x → vxTrans (tlog true) w x (s.tile t.val) = .ok tl fl →
       exec (.vlog2 t w) s = .next (vxNext s t.val 0x24 w tl fl)) ∧
     (TileTurn s t.val (vxWord 0x25 w) x → vxTrans (fdiv FV.one) w x (s.tile t.val) = .ok tl fl →
       exec (.vrcp t w) s = .next (vxNext s t.val 0x25 w tl fl)) ∧
     (TileTurn s t.val (vxWord 0x26 w) x → vxTrans trsqrt w x (s.tile t.val) = .ok tl fl →
       exec (.vrsqrt t w) s = .next (vxNext s t.val 0x26 w tl fl)) ∧
     (TileTurn s t.val (vxWord 0x27 w) x → vxTrans tsinpi w x (s.tile t.val) = .ok tl fl →
       exec (.vsinpi t w) s = .next (vxNext s t.val 0x27 w tl fl)) ∧
     (TileTurn s t.val (vxWord 0x28 w) x → vxTrans tcospi w x (s.tile t.val) = .ok tl fl →
       exec (.vcospi t w) s = .next (vxNext s t.val 0x28 w tl fl)) ∧
     (TileTurn s t.val (vxWord 0x2C w) x → vxTrans sigm32 w x (s.tile t.val) = .ok tl fl →
       exec (.vsigm t w) s = .next (vxNext s t.val 0x2C w tl fl)) ∧
     (TileTurn s t.val (vxWord 0x2D w) x → vxTrans tanh32 w x (s.tile t.val) = .ok tl fl →
       exec (.vtanh t w) s = .next (vxNext s t.val 0x2D w tl fl)) ∧
     (TileTurn s t.val (vxWord 0x2E w) x → vxTrans silu32 w x (s.tile t.val) = .ok tl fl →
       exec (.vsilu t w) s = .next (vxNext s t.val 0x2E w tl fl))) ∧
  (∀ (s : State) (t : Sys2Proof.Tile) (w : Vx) (x : Site) (tl : Sys2Proof.Machine.Tile) (fl : Flags), s.pwr.trip = false →
     (TileTurn s t.val (vxWord 0x30 w) x → vxCvt w x (s.tile t.val) = .ok tl fl →
       exec (.cvt t w) s = .next (vxNext s t.val 0x30 w tl fl)) ∧
     (TileTurn s t.val (vxWord 0x36 w) x → vxHalf true w x (s.tile t.val) = .ok tl fl →
       exec (.vhi t w) s = .next (vxNext s t.val 0x36 w tl fl)) ∧
     (TileTurn s t.val (vxWord 0x37 w) x → vxHalf false w x (s.tile t.val) = .ok tl fl →
       exec (.vlo t w) s = .next (vxNext s t.val 0x37 w tl fl)) ∧
     (TileTurn s t.val (vxWord 0x40 w) x → vxReduce 256 (fadd false) (FV.zero false) w x (s.tile t.val) = .ok tl fl →
       exec (.vrsum t w) s = .next (vxNext s t.val 0x40 w tl fl)) ∧
     (TileTurn s t.val (vxWord 0x41 w) x → vxReduce 256 fmax (.inf true) w x (s.tile t.val) = .ok tl fl →
       exec (.vrmax t w) s = .next (vxNext s t.val 0x41 w tl fl)) ∧
     (TileTurn s t.val (vxWord 0x42 w) x → vxReduce 256 fmin (.inf false) w x (s.tile t.val) = .ok tl fl →
       exec (.vrmin t w) s = .next (vxNext s t.val 0x42 w tl fl)) ∧
     (TileTurn s t.val (vxWord 0x43 w) x → vxReduce 16 (fadd false) (FV.zero false) w x (s.tile t.val) = .ok tl fl →
       exec (.vrsum16 t w) s = .next (vxNext s t.val 0x43 w tl fl)) ∧
     (TileTurn s t.val (vxWord 0x44 w) x → vxReduce 16 fmax (.inf true) w x (s.tile t.val) = .ok tl fl →
       exec (.vrmax16 t w) s = .next (vxNext s t.val 0x44 w tl fl)) ∧
     (TileTurn s t.val (vxWord 0x5C w) x → vxRand w x (s.tile t.val) = .ok tl fl →
       exec (.vrand t w) s = .next (vxNext s t.val 0x5C w tl fl)) ∧
     (TileTurn s t.val (vxWord 0x60 w) x → vxRaw (fun a b => a &&& b) w x (s.tile t.val) = .ok tl fl →
       exec (.vand t w) s = .next (vxNext s t.val 0x60 w tl fl)) ∧
     (TileTurn s t.val (vxWord 0x61 w) x → vxRaw (fun a b => a ||| b) w x (s.tile t.val) = .ok tl fl →
       exec (.vor t w) s = .next (vxNext s t.val 0x61 w tl fl)) ∧
     (TileTurn s t.val (vxWord 0x62 w) x → vxRaw (fun a b => a ^^^ b) w x (s.tile t.val) = .ok tl fl →
       exec (.vxor t w) s = .next (vxNext s t.val 0x62 w tl fl)) ∧
     (TileTurn s t.val (vxWord 0x63 w) x → vxRaw (fun _ b => b) w x (s.tile t.val) = .ok tl fl →
       exec (.vmov t w) s = .next (vxNext s t.val 0x63 w tl fl)) ∧
     (TileTurn s t.val (vxWord 0x68 w) x → vxRot w x (s.tile t.val) = .ok tl fl →
       exec (.vrot t w) s = .next (vxNext s t.val 0x68 w tl fl)) ∧
     (TileTurn s t.val (vxWord 0x7F w) x →
       ((∀ m, (s.tile t.val).mxu = some m → m.a.toMem = false) → exec (.vsync t w) s = .next (vxNext s t.val 0x7F w (s.tile t.val) 0)) ∧
       (∀ m, (s.tile t.val).mxu = some m → m.a.toMem = true → exec (.vsync t w) s = .next (s.bumpTile t.val cVxuBusy 1))))

/-- R111, R123, R124, R129: LD and ST reach tile memory outside the residual region and RLD, RADD and RST the region alone; each acts when the range it addresses is allowed, and ends its context
with BOUNDS when it is not, or with PARITY when what it uses has a parity error. -/
def Obligations.VectorMemory : Prop :=
  ∀ (s : State) (t : Sys2Proof.Tile) (w : Vx) (x : Site), s.pwr.trip = false →
    (TileTurn s t.val (vxWord 0x50 w) x → x.memOk ((s.tile t.val).memAddr w) 1024 = true →
      exec (.ld t w) s = .next (vxNext s t.val 0x50 w ((s.tile t.val).putActive w 32 w.vd.toNat
        ((lanesOf ((s.tile t.val).mem.reads ((s.tile t.val).memAddr w) 1024)).map BitVec.toNat)) 0)) ∧
    (TileTurn s t.val (vxWord 0x48 w) x → x.resOk ((s.tile t.val).memAddr w) 1024 = true →
      exec (.rld t w) s = .next (vxNext s t.val 0x48 w ((s.tile t.val).putActive w 32 w.vd.toNat
        ((lanesOf ((s.tile t.val).mem.reads ((s.tile t.val).memAddr w) 1024)).map BitVec.toNat)) 0)) ∧
    (∀ tl, TileTurn s t.val (vxWord 0x51 w) x → vxStore Site.memOk w x (s.tile t.val) = .ok tl 0 → exec (.st t w) s = .next (vxNext s t.val 0x51 w tl 0)) ∧
    (∀ tl, TileTurn s t.val (vxWord 0x4A w) x → vxStore Site.resOk w x (s.tile t.val) = .ok tl 0 → exec (.rst t w) s = .next (vxNext s t.val 0x4A w tl 0)) ∧
    (∀ tl fl, TileTurn s t.val (vxWord 0x49 w) x → vxRadd w x (s.tile t.val) = .ok tl fl → exec (.radd t w) s = .next (vxNext s t.val 0x49 w tl fl)) ∧
    (TileTurn s t.val (vxWord 0x50 w) x → x.memOk ((s.tile t.val).memAddr w) 1024 = false → exec (.ld t w) s = .next (s.runFault x .bounds)) ∧
    (TileTurn s t.val (vxWord 0x51 w) x → x.memOk ((s.tile t.val).memAddr w) 1024 = false → exec (.st t w) s = .next (s.runFault x .bounds)) ∧
    (TileTurn s t.val (vxWord 0x48 w) x → x.resOk ((s.tile t.val).memAddr w) 1024 = false → exec (.rld t w) s = .next (s.runFault x .bounds)) ∧
    (TileHere s t.val (vxWord 0x50 w) x → (s.tile t.val).parityOf (vxUses 0x50 w (s.tile t.val)) = true → exec (.ld t w) s = .next (s.runFault x .parity)) ∧
    (TileHere s t.val (vxWord 0x51 w) x → (s.tile t.val).parityOf (vxUses 0x51 w (s.tile t.val)) = true → exec (.st t w) s = .next (s.runFault x .parity))

/-- R111, R115: ST writes the four bytes of every active lane at its place and leaves every other byte of tile memory, and every register, as it was; LD writes the active lanes of its register from the bytes at its
address and leaves the tile's memory and every other register as it was. -/
def Obligations.VectorMemoryFrame : Prop :=
  ∀ (w : Vx) (x : Site) (tl tl' : Sys2Proof.Machine.Tile), tl.mem.wf = true → (tl.vreg w.vd.toNat).length = 256 →
    (vxStore Site.memOk w x tl = .ok tl' 0 →
      tl'.v = tl.v ∧ tl'.g = tl.g ∧ tl'.x = tl.x ∧
      (∀ l i, l < 256 → i < 4 → tl.active w l = true →
        tl'.mem.read (tl.memAddr w + 4 * l + i) = BitVec.ofNat 8 (((tl.vreg w.vd.toNat).getD l 0).toNat / 256 ^ i)) ∧
      (∀ a, (∀ l, l < 256 → tl.active w l = true → a < tl.memAddr w + 4 * l ∨ tl.memAddr w + 4 * l + 4 ≤ a) → tl'.mem.read a = tl.mem.read a)) ∧
    (vxLoad Site.memOk w x tl = .ok tl' 0 →
      tl'.mem = tl.mem ∧ tl'.g = tl.g ∧ tl'.x = tl.x ∧ (∀ n, n ≠ w.vd.toNat → tl'.vreg n = tl.vreg n) ∧
      (∀ l, l < 256 → (tl'.vreg w.vd.toNat).getD l 0 =
        if tl.active w l then BitVec.ofNat 32 (fieldLE (tl.mem.reads (tl.memAddr w) 1024) (4 * l) 4) else (tl.vreg w.vd.toNat).getD l 0))

/-- R108, R115: writing results under a guard changes the active elements of the destination alone: an active element takes its result, an inactive one keeps its value, and every other register, the guards,
the scalar registers and tile memory are unchanged. -/
def Obligations.GuardedWrites : Prop :=
  ∀ (tl : Sys2Proof.Machine.Tile) (w : Vx) (width n : Nat) (l : List Nat), (width = 16 ∨ width = 32 ∨ width = 64) → l.length = elemCount width →
    (tl.vreg n).length = 256 → (tl.vreg (n + 1)).length = 256 →
    (∀ e, e < elemCount width → ((tl.putActive w width n l).elems width n).getD e 0 =
      if tl.active w e then l.getD e 0 % 2 ^ width else (tl.elems width n).getD e 0) ∧
    (∀ m, m ≠ n → (width = 64 → m ≠ n + 1) → (tl.putActive w width n l).vreg m = tl.vreg m) ∧
    (tl.putActive w width n l).g = tl.g ∧ (tl.putActive w width n l).x = tl.x ∧ (tl.putActive w width n l).mem = tl.mem ∧
    (tl.putActive w width n l).pos = tl.pos ∧ (tl.putActive w width n l).regs = tl.regs

/-- R112, R126, R142, R144: a stream instruction that finds its beats in the receive buffers of its port, or its port free with the tickets of the rows it starts, moves its register and goes on; without its
beats it counts a stall cycle and stays.
R551: while a thermal trip is in force no instruction of the vector unit issues. -/
def Obligations.VectorStreamsAndTrip : Prop :=
  (∀ (s : State) (t : Sys2Proof.Tile) (w : Vx) (x : Site) (f : Fmt), s.pwr.trip = false → f = vxF w →
     (TileTurn s t.val (vxWord 0x52 w) x →
       (x.arrived w.vb.toNat (streamBytes f / 64) → ∃ bs s2, s.readPort t.val w.vb.toNat (streamBytes f / 64) x = some (bs, s2) ∧ exec (.sin t w) s =
         .next (streamNext s (s2.setTile t.val ((s2.tile t.val).putActive w f.width w.vd.toNat (streamElems f (inBytes bs)))) t.val 0x52 w
           (streamBytes f) (x.inLinks w.vb.toNat))) ∧
       (s.readPort t.val w.vb.toNat (streamBytes f / 64) x = none → exec (.sin t w) s = .next (s.vxStall t.val))) ∧
     (∀ bs, TileTurn s t.val (vxWord 0x53 w) x →
       bs = mkBeats ((s.tile t.val).streamOut f w.vd.toNat) [] ((s.tile t.val).zeroMask f w.vd.toNat) (elemCount f.width / 16 / 8) →
       x.canSend (s.tile t.val) w.vb.toNat bs.length →
       ∃ s2, s.sendPort t.val w.vb.toNat x bs = some s2 ∧ exec (.sout t w) s =
         .next (streamNext s ((s2.bumpTile t.val cVxuZ (popBits ((s.tile t.val).zeroMask f w.vd.toNat) (elemCount f.width / 16))).sentBy t.val w.vb.toNat) t.val 0x53 w
           (streamBytes f) (x.outLinks w.vb.toNat))) ∧
     (TileTurn s t.val (vxWord 0x54 w) x →
       (x.arrived w.vb.toNat (quantBytes f / 64) → ∃ bs s2, s.readPort t.val w.vb.toNat (quantBytes f / 64) x = some (bs, s2) ∧ exec (.sinq t w) s =
         .next (streamNext s (s2.setTile t.val (((s2.tile t.val).setRegBytes w.vd.toNat ((s2.tile t.val).codesUnder w f (inBytes bs))).setRegBytes w.vc.toNat
           (inScales bs ++ leBytes 2 (inMask bs)))) t.val 0x54 w (quantBytes f) (x.inLinks w.vb.toNat))) ∧
       (s.readPort t.val w.vb.toNat (quantBytes f / 64) x = none → exec (.sinq t w) s = .next (s.vxStall t.val))) ∧
     (∀ bs, TileTurn s t.val (vxWord 0x55 w) x →
       bs = mkBeats (((s.tile t.val).regBytes w.vd.toNat).take (quantBytes f)) (((s.tile t.val).regBytes w.vc.toNat).take 16)
         (fieldLE ((s.tile t.val).regBytes w.vc.toNat) 16 2) 2 → x.canSend (s.tile t.val) w.vb.toNat bs.length →
       ∃ s2, s.sendPort t.val w.vb.toNat x bs = some s2 ∧ exec (.soutq t w) s =
         .next (streamNext s ((s2.bumpTile t.val cVxuZ (popBits (fieldLE ((s.tile t.val).regBytes w.vc.toNat) 16 2) 16)).sentBy t.val w.vb.toNat) t.val 0x55 w
           (quantBytes f) (x.outLinks w.vb.toNat)))) ∧
  (∀ (s : State) (t : Sys2Proof.Tile) (w : Vx), s.pwr.trip = true →
     exec (.vadd t w) s = .next s ∧ exec (.vfma t w) s = .next s ∧ exec (.vexp t w) s = .next s ∧ exec (.cvt t w) s = .next s ∧ exec (.ld t w) s = .next s ∧
     exec (.st t w) s = .next s ∧ exec (.sin t w) s = .next s ∧ exec (.sout t w) s = .next s ∧ exec (.vrsum t w) s = .next s ∧ exec (.vmov t w) s = .next s)

/-! ### Control, matrix and ticket units -/

/-- R107, R129, R172: SETS, ADDS and ARGS write one scalar register and leave every other register of the tile, its guards and its memory as they were; the program goes on by one word. ADDS of a register whose parity fails ends the context with PARITY.
R171, R172: LOOP with a count enters its body with the count kept, with a count of zero it goes on past the matching ENDLOOP; ENDLOOP goes back to the body's start while passes are left and goes on after the last one. -/
def Obligations.ControlInstructions : Prop :=
  (∀ (s : State) (t : Sys2Proof.Tile) (x : Site) (reg : BitVec 5),
     (∀ imm, TileHere s t.val (wSets reg.toNat imm.toNat) x →
       exec (.sets t reg imm) s = .next (s.done1 t.val (((s.tile t.val).setSreg reg.toNat (imm.setWidth 64)).cleaned (Uses.reg reg.toNat)))) ∧
     (∀ imm, TileTurn s t.val (wAdds reg.toNat imm.toNat) x →
       exec (.adds t reg imm) s = .next (s.done1 t.val ((s.tile t.val).setSreg reg.toNat ((s.tile t.val).sreg reg.toNat + imm.signExtend 64)))) ∧
     (∀ slot, TileHere s t.val (wArgs reg.toNat slot.toNat) x →
       exec (.args t reg slot) s = .next (s.done1 t.val (((s.tile t.val).setSreg reg.toNat (x.run.args.getD slot.toNat 0)).cleaned (Uses.reg reg.toNat)))) ∧
     (∀ imm, TileHere s t.val (wAdds reg.toNat imm.toNat) x → (s.tile t.val).parityOf (Uses.reg reg.toNat) = true → exec (.adds t reg imm) s = .next (s.runFault x .parity)) ∧
     (∀ (tl : Sys2Proof.Machine.Tile) (v : U64) (n : Nat), (tl.setSreg reg.toNat v).sreg n = (if n = reg.toNat then v else tl.sreg n) ∧ (tl.setSreg reg.toNat v).v = tl.v ∧
       (tl.setSreg reg.toNat v).g = tl.g ∧ (tl.setSreg reg.toNat v).mem = tl.mem ∧ (tl.setSreg reg.toNat v).pos = tl.pos)) ∧
  (∀ (s : State) (t : Sys2Proof.Tile) (x : Site),
     (∀ useReg (reg : BitVec 5) (count : U32) n, TileTurn s t.val (wLoop useReg reg.toNat count.toNat) x →
       n = (if useReg then ((s.tile t.val).sreg reg.toNat).toNat else count.toNat) →
       (n ≠ 0 → exec (.loop t useReg reg count) s = .next (s.done1 t.val { s.tile t.val with loops := ((s.tile t.val).pos + 1, n) :: (s.tile t.val).loops })) ∧
       (n = 0 → ∀ p, p = skipLoop ((x.im.progs.getD x.st []).length + 1) 0 ((s.tile t.val).pos + 1) ((x.im.progs.getD x.st []).drop ((s.tile t.val).pos + 1)) →
         exec (.loop t useReg reg count) s = .next ((s.setTile t.val { s.tile t.val with pos := p }).moved x.rid))) ∧
     (∀ start n r, TileTurn s t.val wEndloop x → (s.tile t.val).loops = (start, n) :: r →
       (1 < n → exec (.endloop t) s = .next ((s.setTile t.val { s.tile t.val with pos := start, loops := (start, n - 1) :: r }).moved x.rid)) ∧
       (n ≤ 1 → exec (.endloop t) s = .next (s.done1 t.val { s.tile t.val with loops := r }))))

/-- R153, R155, R172, R174, R176: MRD reads its rows through the memory port and, when they have come, sends them on its port and goes on; MWR writes each row it has collected behind the rows the tile wrote before; END, with no operation
on the matrix unit, ends the tile's program and returns the credits of its inputs; the tile's cycle count stops once its beats stand in their consumers' buffers and its writes have completed. -/
def Obligations.MemoryPortAndEnd : Prop :=
  ∀ (s : State) (t : Sys2Proof.Tile) (x : Site),
    (∀ (tensor : U8) (port : BitVec 4) (rows : U32) d l s2 cs, TileTurn s t.val (wMem 0x88 tensor.toNat port.toNat rows.toNat) x → x.im.tensors[tensor.toNat]? = some d →
      (s.tile t.val).cursors.getD tensor.toNat 0 + rows.toNat ≤ d.rows → d.elemSlot ≠ 255 → d.scaleSlot = 255 →
      s.tileReads t.val x [⟨d.elemSlot, d.elemOff + (s.tile t.val).cursors.getD tensor.toNat 0 * d.rowElem, rows.toNat * d.rowElem⟩] = .ok (l, s2) →
      cs = (s.tile t.val).cursors.set tensor.toNat ((s.tile t.val).cursors.getD tensor.toNat 0 + rows.toNat) →
      exec (.mrd t tensor port rows) s = .next (((s2.setTile t.val { s.tile t.val with cursors := cs }).await t.val l (.mrd ((s.tile t.val).cursors.getD tensor.toNat 0))).moved x.rid)) ∧
    (∀ (tensor : U8) (port : BitVec 4) (rows : U32) d c s2, TileBack s t.val (wMem 0x88 tensor.toNat port.toNat rows.toNat) x (.mrd c) → x.im.tensors[tensor.toNat]? = some d →
      d.scaleSlot = 255 → s.sendPort t.val port.toNat x ((List.range rows.toNat).flatMap (fun i =>
        padRow (x.outRowBytes port.toNat) (rowBeats d.f (s.slotBytes x ⟨d.elemSlot, d.elemOff + (c + i) * d.rowElem, d.rowElem⟩) []))) = some s2 →
      exec (.mrd t tensor port rows) s = .next ((s2.setTile t.val { s2.tile t.val with wait := none }).advance t.val 1)) ∧
    (∀ (tensor : U8) (port : BitVec 4) (rows : U32) d n s2 s3, TileTurn s t.val (wMem 0x89 tensor.toNat port.toNat rows.toNat) x → x.im.tensors[tensor.toNat]? = some d →
      rows ≠ 0 → (s.tile t.val).rowsDone < rows.toNat → n = x.inRowBytes port.toNat / 64 → n ≠ 0 → s.collect t.val port.toNat n x n = s2 → n ≤ (s2.tile t.val).rowBuf.length →
      (s2.tile t.val).cursors.getD tensor.toNat 0 < d.rows → d.elemSlot ≠ 255 → d.scaleSlot = 255 → (s2.tile t.val).rowsDone + 1 < rows.toNat →
      (s2.setTile t.val { s2.tile t.val with rowBuf := [], rowsDone := (s2.tile t.val).rowsDone + 1, cursors := (s2.tile t.val).cursors.set tensor.toNat ((s2.tile t.val).cursors.getD tensor.toNat 0 + 1) }).tileWrite
        t.val x d.elemSlot (d.elemOff + (s2.tile t.val).cursors.getD tensor.toNat 0 * d.rowElem) (unRow d.f d.rowElem d.blocksPerRow (s2.tile t.val).rowBuf).1 = .ok s3 →
      exec (.mwr t tensor port rows) s = .next (s3.moved x.rid)) ∧
    (∀ r u, (s.tile t.val).mxu = none → TileHere s t.val wEnd x → s.runs.get x.rid = some r →
      u = ((({ s with free := s.free + 1 } : State).setTile t.val { s.tile t.val with ended := true, rowBuf := [], carryBuf := [], regs := (s.tile t.val).regs.set cMemStall (Config.freeWord s.free).toNat }).setRun x.rid { r.closeInputs x.im x.st x.k with lastMove := s.ts }) →
      exec (.endProgram t) s = .next (u.tileDone x.rid t.val)) ∧
    (∀ (u : State) rid r im, u.runs.get rid = some r → u.runImage r = some im →
      (u.partOver r im t.val = true → (u.tile t.val).regs.has cRunCycles = false → ((u.tileDone rid t.val).tile t.val).regs = (u.tile t.val).regs.set cRunCycles ((u.ts - r.startTs) * 7 / 10 - r.lead) ∧
        ((u.tileDone rid t.val).tile t.val).mem = (u.tile t.val).mem ∧ (u.tileDone rid t.val).objs = u.objs ∧ (∀ n, n ≠ t.val → (u.tileDone rid t.val).tile n = u.tile n)) ∧
      (u.partOver r im t.val = false → u.tileDone rid t.val = u))

/-- R98 to R105, R173, R200: MXU_OP reads its stationary operand and then hands it to the matrix unit with the row count and formats of its words, in which case the program goes on by two words; a row tile starts when its rows have come and an accumulator set
is free, and puts its sums into the set; a drain takes the oldest set. A parity error in what the unit uses ends the context with PARITY. That the operation stays clear of the residual region is the model's reading of R123 (log entry 200, DESIGN CHOICE). -/
def Obligations.MatrixUnit : Prop :=
  ∀ (s : State) (t : Sys2Proof.Tile) (x : Site),
    (∀ (a : MxuArgs) d w l s2, s.pwr.trip = false → (s.tile t.val).mxu = none → TileTurn s t.val (wMxu0 a) x → x.word ((s.tile t.val).pos + 1) = some (wMxu1 a) →
      x.gathered (s.tile t.val).pos = none → x.im.tensors[a.stat.toNat]? = some d → s.tensorSrc x d 0 d.rows = .ok w → w.sc = none → w.me = none →
      s.readAt t.val x w.held w.e = .ok (l, s2) → exec (.mxuOp t a) s = .next ((s2.await t.val l (.mxu none)).moved x.rid)) ∧
    (∀ (a : MxuArgs) g, s.pwr.trip = false → (s.tile t.val).mxu = none → TileBack s t.val (wMxu0 a) x (.mxu g) → x.word ((s.tile t.val).pos + 1) = some (wMxu1 a) →
      x.gathered (s.tile t.val).pos = none → exec (.mxuOp t a) s = .next (s.startMxu t.val x a none)) ∧
    (∀ (a : MxuArgs) d xd w, x.im.tensors[a.stat.toNat]? = some d → x.im.tensors[a.streamT.toNat]? = some xd → d.f.blockScaled = false → xd.f.blockScaled = false → d.sparsity = 0 →
      (fmtOf (mwOut a.mode.toNat)).blockScaled = false → s.tensorSrc x d 0 d.rows = .ok w → (s.tile t.val).parityOf (Uses.reg a.reg.toNat) = false →
      (∀ o : MxuOp, o.a = a → o.base = ((s.tile t.val).sreg a.reg.toNat).toNat → o.rows = a.rows.toNat → o.wRows = d.rows → o.wK = d.kLen → o.fits x d = true) →
      ∃ u o, s.startMxu t.val x a none = (State.setTile u t.val { u.tile t.val with mxu := some o, sets := [], wait := none }).advance t.val 2 ∧ o.a = a ∧ o.rows = a.rows.toNat ∧ o.wRows = d.rows ∧ o.wK = d.kLen ∧
        o.base = ((s.tile t.val).sreg a.reg.toNat).toNat ∧ o.rowTile = 0 ∧ o.colBlock = 0 ∧ u.tile t.val = s.tile t.val) ∧
    (∀ o s2 o2, s.pwr.trip = false → s.site t.val = some x → (s.tile t.val).mxu = some o → o.rowTile < o.rowTiles → (s.tile t.val).sets.length < 2 →
      s.takeRows t.val x (o.tileRows o.rowTile + 1) (o.tileRows o.rowTile) = s2 → (s2.tile t.val).mxu = some o2 → o.tileRows o.rowTile ≤ o2.xr.length →
      (o2.parityAt (s2.tile t.val) = true → exec (.mxuTileStart t) s = .next (s2.runFault x .parity)) ∧
      (o2.parityAt (s2.tile t.val) = false →
        ∃ u set, exec (.mxuTileStart t) s = .next u ∧ (u.tile t.val).sets = (s2.tile t.val).sets ++ [set] ∧ set.rowTile = o2.rowTile ∧ set.colBlock = o2.colBlock ∧
          set.acc = (o2.xr.map (fun r => (List.range (min o2.cols (o2.colBlock * setCols o2.m + setCols o2.m) - o2.colBlock * setCols o2.m)).map
            (fun j => o2.dot x.run.strict r (o2.colBlock * setCols o2.m + j)))).flatten ∧ u.objs = s2.objs ∧ u.hbm = s2.hbm)) ∧
    (∀ o set rest s2, s.site t.val = some x → (s.tile t.val).mxu = some o → (s.tile t.val).sets = set :: rest → mwCarry o.m = 0 →
      s.takeCarry t.val x (o.tileRows set.rowTile + 1) (o.tileRows set.rowTile) = s2 → (s2.tile t.val).mxu = some o →
      ((s2.tile t.val).upsets.contains .acc = true → exec (.mxuDrain t) s = .next (s2.runFault x .parity)) ∧
      ((s2.tile t.val).upsets.contains .acc = false → (set.colBlock + 1 ≠ o.colBlocks ∨ (o.a.toMem = true ∧ o.group = none)) →
        ∃ u, exec (.mxuDrain t) s = .next u ∧ (u.tile t.val).sets = rest ∧ u.objs = s2.objs ∧ u.hbm = s2.hbm))

/-- R191 to R198, R203, R204, R207: TSRC names the source port, TROUTE sets the route of a port's next row, TATT attaches the tickets it has read, a closed window whose tickets and adapters pass is emitted, and the tokens of a gather's window are emitted in window order, each with its ticket;
a wait for an adapter that passes 2 ms faults the context with TIER_FAIL. TEMIT completes when its port takes the rows, and ends the context with PARITY when the window store's parity fails.
R191, R192, R200, R201: TGATH, once the operation before it has drained, takes the plan and as many rows as it names, refuses a ticket of another partition with BOUNDS, and lays out the groups that the next operation runs on, from the rows whose class its table does not skip. -/
def Obligations.TicketsAndGathers : Prop :=
  (∀ (s : State) (t : Sys2Proof.Tile) (x : Site),
     (∀ port, TileTurn s t.val (wTsrc port.toNat) x → exec (.tsrc t port) s =
       .next (s.done1 t.val { s.tile t.val with tkt := { (s.tile t.val).tkt with source := port.toNat } })) ∧
     (∀ (port : BitVec 4) (reg : BitVec 5), TileTurn s t.val (wTroute port.toNat reg.toNat) x → exec (.troute t port reg) s =
       .next (s.done1 t.val { s.tile t.val with tkt := { (s.tile t.val).tkt with route := (s.tile t.val).tkt.route.set port.toNat ((s.tile t.val).sreg reg.toNat).toNat } })) ∧
     (∀ (slot : U8) (port : BitVec 4) (reg : BitVec 5) (rows : U32) off b l, TileBack s t.val (wTatt slot.toNat port.toNat reg.toNat rows.toNat) x (.tatt off) →
       b = s.slotBytes x ⟨slot.toNat, off, 16 * rows.toNat⟩ → l = (List.range rows.toNat).map (fun i => (fieldLE b (16 * i) 8, fieldLE b (16 * i + 8) 4)) →
       (∀ k ∈ l, tkBad none k.1 = false ∧ tkPart k.1 = x.run.part) → (∀ i < rows.toNat, reservedZero b (16 * i + 12) 4 = true) →
       exec (.tatt t slot port reg rows) s = .next (((((s.ledgerTickets x.run b).attachTo t.val port.toNat x l).setTile t.val
         { ((s.ledgerTickets x.run b).attachTo t.val port.toNat x l).tile t.val with wait := none })).advance t.val 1)) ∧
     (∀ (inp outp plan : BitVec 4) b s2 l s3, TileHere s t.val (wTsort inp.toNat outp.toNat plan.toNat) x → x.im.tableOf (x.im.stageAt x.st) = some b → tblKey b = 1 →
       s.fillWindow t.val inp.toNat (tblWindow b) x (tblWindow b + 1) = s2 → (tblWindow b ≤ (s2.tile t.val).tkt.window.length ∨ (s2.tile t.val).tkt.closed = true) →
       (s2.tile t.val).upsets = [] → (s2.tile t.val).tkt.judged = none → (∀ r ∈ (s2.tile t.val).tkt.window, tkBad (some b) r.tkt = false) →
       l = (s2.tile t.val).tkt.window.map (fun _ => false) →
       (s2.judgeWindow t.val l).emitWindow t.val x b inp.toNat outp.toNat plan.toNat (fun i => l.getD i false) = some s3 →
       exec (.tsort t inp outp plan) s = .next (s3.advance t.val 1)) ∧
     (∀ (outp : BitVec 4), (s.tile t.val).mxu = none → TileTurn s t.val (wTemit outp.toNat) x → fieldLE (s.tile t.val).tkt.plan 4 2 = 0 →
       ∃ u, exec (.temit t outp) s = .next u ∧ (u.tile t.val).tkt.plan = [] ∧ (u.tile t.val).tkt.window = [] ∧ (u.tile t.val).tkt.stored = [] ∧ (u.tile t.val).pos = (s.tile t.val).pos + 1 ∧ u.objs = s.objs) ∧
     (∀ (outp : BitVec 4) n len rows s2, (s.tile t.val).mxu = none → TileTurn s t.val (wTemit outp.toNat) x → n = fieldLE (s.tile t.val).tkt.plan 4 2 → n ≠ 0 →
       len = x.outRowBytes outp.toNat →
       rows = (List.range n).map (fun i => padRow len (((s.tile t.val).tkt.stored.get i).getD (zeroRow (fmtOf (s.tile t.val).tkt.fmt) (s.tile t.val).tkt.cols))) →
       s2 = ({ s with free := s.free + 2 * n } : State).attachTo t.val outp.toNat x ((List.range n).map ((s.tile t.val).tkt.tokenTicket s.free)) →
       x.canSend (s2.tile t.val) outp.toNat rows.flatten.length →
       ∃ s3, s2.sendPort t.val outp.toNat x rows.flatten = some s3 ∧ exec (.temit t outp) s = .next (s3.done1 t.val { s3.tile t.val with
         tkt := { (s3.tile t.val).tkt with plan := [], window := [], stored := [], emitted := (s3.tile t.val).tkt.emitted + n },
         regs := bump (s3.tile t.val).regs cTktStore (n * storeLoss len (x.outLinks outp.toNat)) })) ∧
     (∀ (outp : BitVec 4), (s.tile t.val).mxu = none → TileHere s t.val (wTemit outp.toNat) x → (s.tile t.val).upsets.contains .store = true →
       exec (.temit t outp) s = .next (s.runFault x .parity)) ∧
     (∀ w, s.site t.val = some x → (s.tile t.val).tkt.waiting = some w → 2000000 < s.ts - w → exec (.adapterWaitTimeout t) s = .next (s.runFault x .tierFail))) ∧
  (∀ (s : State) (t : Sys2Proof.Tile) (x : Site) (plan : BitVec 4) (restore pack : Bool) w0 w1 b s2 p n s3 tk,
     (s.tile t.val).mxu = none → TileHere s t.val (wTgath plan.toNat restore pack) x → x.word ((s.tile t.val).pos + 1) = some w0 → x.word ((s.tile t.val).pos + 2) = some w1 →
     x.im.tableOf (x.im.stageAt x.st) = some b → (s.tile t.val).tkt.taking = false → s.collectCarry t.val plan.toNat 65 x 65 = s2 → (s2.tile t.val).tkt.taking = false →
     65 ≤ (s2.tile t.val).carryBuf.length → p = ((s2.tile t.val).carryBuf.flatMap (fun c => c.data)).take 4160 → n = fieldLE p 6 2 →
     (s2.setTile t.val { s2.tile t.val with tkt := (s2.tile t.val).tkt.takePlan p (s2.planTokens x plan.toNat (s2.tile t.val).tkt.plans p), carryBuf := [] }).fillWindow
       t.val (mxu0Of w0 w1).sport.toNat n x (n + 1) = s3 →
     tk = (s3.tile t.val).tkt → n ≤ tk.window.length → (s3.tile t.val).upsets.contains .window = false → (∀ r ∈ tk.window, tkBad (some b) r.tkt = false) →
     ((∀ r ∈ tk.window, tkPart r.tkt = x.run.part) →
       ∃ u, exec (.tgath t plan restore pack) s = .next u ∧
         (u.tile t.val).tkt.groups = runsOf (tk.gatherKey (tblRole b == 2)) ((List.range tk.window.length).filter (fun i => match tk.window[i]? with
           | some r => !tblSkip b (tkSkip r.tkt)
           | none => false)) ∧
         (u.tile t.val).tkt.gathered = 0 ∧ (u.tile t.val).tkt.restore = restore ∧ (u.tile t.val).tkt.plan = tk.plan ∧ (u.tile t.val).tkt.taking = false ∧
         (u.tile t.val).pos = (s3.tile t.val).pos + 1) ∧
     ((∃ r ∈ tk.window, tkPart r.tkt ≠ x.run.part ∧ tkPart r.tkt ∉ x.run.dispParts) → exec (.tgath t plan restore pack) s = .next (s3.runFault x .bounds)))

/-! ### Exchange and update feed -/

/-- R380, R381, R393: a collective takes its elements from its in port and opens the operation of its member under the next sequence number; when the operation holds all that it delivers, the elements go out of its out port, the operation closes and the program goes on.
R382: XDISP, once every member's rows of its window are there and pass, gives them to its out port with their tickets and goes on to the next window; XCOMB, once every member's results are back, gives them to its out port in the order its own rows went out,
with the tickets they had, and forgets the window. -/
def Obligations.ExchangeAndDispatch : Prop :=
  (∀ (s : State) (t : Sys2Proof.Tile) (x : Site) (wire inp outp : BitVec 4) (group : U8) (count : U32) (me op : Nat) (g : Group), g = s.group group.toNat →
     TileTurn s t.val (wX op wire.toNat inp.toNat outp.toNat group.toNat count.toNat) x → s.memberOf g x.run.part = some me → exchangeFail g (some wire.toNat) (some me) = none →
     ∀ i : Instr, ((op = 0xA0 ∧ i = .xallred t wire inp outp group count) ∨ (op = 0xA1 ∧ i = .xredsc t wire inp outp group count) ∨ (op = 0xA2 ∧ i = .xallga t wire inp outp group count)) →
     (∀ c, g.colls.find? (fun (c : Coll) => c.member == me && c.hi == x.k && c.op != 0xA8 && c.rid == x.rid) = some c → g.complete c = true → c.spoiled = false →
       ∀ s2, mkBeats (packWire c.wire (g.delivered c)) [] 0 0 ≠ [] → s.sendPort t.val outp.toNat x (mkBeats (packWire c.wire (g.delivered c)) [] 0 0) = some s2 →
         exec i s = .next ((s2.closeColl group.toNat c).advance t.val 1)) ∧
     (∀ c, g.colls.find? (fun (c : Coll) => c.member == me && c.hi == x.k && c.op != 0xA8 && c.rid == x.rid) = some c → g.complete c = true → c.spoiled = true →
       exec i s = .next (s.runFault x .parity)) ∧
     (∀ s2 n, g.colls.find? (fun (c : Coll) => c.member == me && c.hi == x.k && c.op != 0xA8 && c.rid == x.rid) = none →
       n = (s.tile t.val).beatsFor inp.toNat (count.toNat * wireBytes wire.toNat) → s.collect t.val inp.toNat n x n = s2 → n ≤ (s2.tile t.val).rowBuf.length →
       ∃ u c, exec i s = .next ((State.openColl u group.toNat c).moved x.rid) ∧ c.member = me ∧ c.op = op ∧ c.hi = x.k ∧ c.seq = g.seqs.getD (64 * me + x.k) 0 ∧
         c.count = count.toNat ∧ c.own = unpackWire wire.toNat count.toNat ((s2.tile t.val).atHand inp.toNat) ∧ c.sent = [] ∧ c.results = [])) ∧
  (∀ (s : State) (t : Sys2Proof.Tile) (x : Site) (inp outp : BitVec 4) (group : U8) (me : Nat) (g : Group) (d : Disp), g = s.group group.toNat →
     s.memberOf g x.run.part = some me → exchangeFail g none (some me) = none →
     (∀ b rows s2 r, TileTurn s t.val (wX 0xA3 0 inp.toNat outp.toNat group.toNat 0) x → x.im.tableOf (x.im.stageAt x.st) = some b →
       g.disps.find? (fun (e : Disp) => e.member == me && e.lane == x.k && e.window == g.windows.getD (64 * me + x.k) 0) = some d → (∀ m < g.n, d.got.has m = true) →
       rows = (List.range g.n).flatMap (fun m => d.got.getD m []) → rows ≠ [] → (∀ r ∈ rows, tkBad (some b) r.tkt = false) →
       (∀ m < g.n, m ≠ me → ∀ r ∈ d.got.getD m [], tkPart r.tkt = gePart g.entry m) →
       (s.attachTo t.val outp.toNat x (rows.map (fun r => (r.tkt, r.gate)))).sendPort t.val outp.toNat x (rows.flatMap (fun r => padRow (x.outRowBytes outp.toNat) r.beats)) = some s2 →
       s2.runs.get x.rid = some r → ∃ s3 s4, s3 = s2.setDisp group.toNat { d with emitted := true } ∧
         s4 = s3.setGroup group.toNat { s3.group group.toNat with windows := (s3.group group.toNat).windows.set (64 * me + x.k) (g.windows.getD (64 * me + x.k) 0 + 1) } ∧
         exec (.xdisp t inp outp group) s = .next ((s4.setRun x.rid { r with dispParts := (r.dispParts ++ rows.map (fun (r : TktRow) => tkPart r.tkt)).eraseDups }).advance t.val 1)) ∧
     (∀ out s2, TileTurn s t.val (wX 0xA4 0 inp.toNat outp.toNat group.toNat 0) x → g.disps.find? (fun (e : Disp) => e.member == me && e.lane == x.k && e.emitted) = some d →
       d.returned = true → (∀ m < g.n, d.back.has m = true) →
       out = (d.rows.zipIdx).map (fun e => ((d.back.getD e.1.1 []).getD ((d.rows.take e.2).filter (fun r => r.1 == e.1.1)).length [], e.1.2)) → out ≠ [] →
       (s.attachTo t.val outp.toNat x (out.map (fun r => (r.2.tkt, r.2.gate)))).sendPort t.val outp.toNat x (out.flatMap (fun r => padRow (x.outRowBytes outp.toNat) r.1)) = some s2 →
       ∃ s3, s3 = s2.setGroup group.toNat { s2.group group.toNat with disps := (s2.group group.toNat).disps.filter (fun e => !(e.member == me && e.lane == d.lane && e.window == d.window)) } ∧
         exec (.xcomb t inp outp group) s = .next ((s3.bumpPart x.run.part cGrpOps 1).advance t.val 1)))

/-- R308 to R311: UFEED of an open attempt of a set without a group reads its elements, the next of its port's (log entry 192, DEDUCED: what one read leaves of a beat the next one takes), widens them to binary32 and appends a bucket to the set's staging, and stalls while the die's staging has no room for it; a UFEED that would open an attempt whose hyperparameter blocks cannot be read ends the context; UEND notes that the tile has fed its last bucket.
R317, R327: opening an attempt clears the flags and the count of UPD_COMMIT and the accumulator, sets the word's state field to 1, keeps the committed half, and writes the word with its complement. -/
def Obligations.FeedsAndAttempts : Prop :=
  (∀ (s : State) (t : Sys2Proof.Tile) (x : Site) (set : BitVec 4) (k : Nat) (u : USet), k = setKey x.run.part set.toNat → s.usets.get k = some u → u.ctx = x.run.ctx → u.railOk = true → u.group = none →
     (∀ (fmt port : BitVec 4) (reg : BitVec 5) (count : U32) sa w n s2 u2 codes, TileTurn s t.val (wUfeed fmt.toNat port.toNat set.toNat reg.toNat count.toNat) x → u.run = some x.rid →
       sa = ((s.tile t.val).sreg reg.toNat).toNat → govern (s.ufeedFails x u fmt.toNat sa count.toNat) = none → s.stagingUsed (tileDie t.val) + count.toNat * ufeedBytes fmt.toNat ≤ dieStaging →
       w = ufeedBytes fmt.toNat → n = (s.tile t.val).beatsFor port.toNat (count.toNat * w) → s.collect t.val port.toNat n x n = s2 → n ≤ (s2.tile t.val).rowBuf.length → s2.usets.get k = some u2 → u2.group = none →
       codes = (List.range count.toNat).map (fun i => fieldLE ((s2.tile t.val).atHand port.toNat) (w * i) w) →
       ∃ v, v.staging = u2.staging ++ [⟨sa % 4096, sa / 2 ^ 32, t.val, codes.map (widen32 (wireFmt fmt.toNat)), count.toNat * w, false⟩] ∧ v.fed = u2.fed ++ [(sa % 4096, sa / 2 ^ 32, count.toNat)] ∧ v.commit = u2.commit ∧ v.acc = u2.acc ∧
         exec (.ufeed t fmt port set reg count) s = .next (((s2.setTile t.val ((s2.tile t.val).takeElems port.toNat (count.toNat * w))).setUset k v).advance t.val 1)) ∧
     (∀ (fmt port : BitVec 4) (reg : BitVec 5) (count : U32), TileTurn s t.val (wUfeed fmt.toNat port.toNat set.toNat reg.toNat count.toNat) x → u.run = some x.rid →
       govern (s.ufeedFails x u fmt.toNat ((s.tile t.val).sreg reg.toNat).toNat count.toNat) = none → dieStaging < s.stagingUsed (tileDie t.val) + count.toNat * ufeedBytes fmt.toNat → exec (.ufeed t fmt port set reg count) s = .next s) ∧
     (∀ (fmt port : BitVec 4) (reg : BitVec 5) (count : U32) st, TileTurn s t.val (wUfeed fmt.toNat port.toNat set.toNat reg.toNat count.toNat) x → u.run = none → u.mode = 0 →
       govern (s.ufeedFails x u fmt.toNat ((s.tile t.val).sreg reg.toNat).toNat count.toNat) = none → s.stagingUsed (tileDie t.val) + count.toNat * ufeedBytes fmt.toNat ≤ dieStaging →
       governOf (s.hypFails u) = some st → exec (.ufeed t fmt port set reg count) s = .next (s.runStop x st)) ∧
     (TileTurn s t.val (wUend set.toNat) x → exec (.uend t set) s = .next ((s.setUset k { u with ended := insertNat t.val u.ended }).advance t.val 1))) ∧
  (∀ (s : State) (k rid : Nat) (u : USet) (r : Run), u.mode < 2 →
     ∃ v, (s.openAttempt k u rid r).usets.get k = some v ∧ cmState v.commit = 1 ∧ cmNonfinite v.commit = false ∧ cmOver v.commit = false ∧ cmDropped v.commit = false ∧ cmBuckets v.commit = 0 ∧
       v.half = u.half ∧ cmTorn v.commit = cmTorn u.commit ∧ v.railOk = true ∧ v.acc = 0 ∧ v.staging = [] ∧ v.run = some rid ∧ v.epoch = u.epoch ∧ v.scale = u.scale)

/-- R305, R306: each microword of a recipe writes the result of its operation on binary32 values; WUPD adds to the master as X48 and leaves the temporaries; the moments are stored in their format, and the first addition to a
factor scales it by H3; no other operation has a meaning. -/
def Obligations.RecipeWords : Prop :=
  ∀ (mf w a b c : Nat) (i : PIn) (o : POut), a = opnd i o (uwA w) → b = opnd i o (uwB w) → c = opnd i o (uwC w) →
    (uwOp w = 0x01 → microStep mf i o w = { o with q := o.q.set (uwDst w) (r32 (fadd false (d32 a) (d32 b))).1 }) ∧
    (uwOp w = 0x02 → microStep mf i o w = { o with q := o.q.set (uwDst w) (r32 (fsub false (d32 a) (d32 b))).1 }) ∧
    (uwOp w = 0x03 → microStep mf i o w = { o with q := o.q.set (uwDst w) (r32 (fmul (d32 a) (d32 b))).1 }) ∧
    (uwOp w = 0x04 → microStep mf i o w = { o with q := o.q.set (uwDst w) (r32 (ffma false false false (d32 a) (d32 b) (d32 c))).1 }) ∧
    (uwOp w = 0x05 → microStep mf i o w = { o with q := o.q.set (uwDst w) (r32 (fdiv (d32 a) (d32 b))).1 }) ∧
    (uwOp w = 0x06 → microStep mf i o w = { o with q := o.q.set (uwDst w) (r32 (fsqrt (d32 a))).1 }) ∧
    (uwOp w = 0x07 → microStep mf i o w = { o with q := o.q.set (uwDst w) (r32 (trsqrt (d32 a))).1 }) ∧
    (uwOp w = 0x08 → microStep mf i o w = { o with q := o.q.set (uwDst w) (r32 (fmax (d32 a) (d32 b))).1 }) ∧
    (uwOp w = 0x09 → microStep mf i o w = { o with q := o.q.set (uwDst w) (r32 (fmin (d32 a) (d32 b))).1 }) ∧
    (uwOp w = 0x0B → microStep mf i o w = { o with q := o.q.set (uwDst w) (sgn32 a) }) ∧
    (uwOp w = 0x0A → microStep mf i o w = { o with q := o.q.set (uwDst w) (a % 2 ^ 31) }) ∧
    (uwOp w = 0x20 → (microStep mf i o w).w = masterAdd i.w a ∧ (microStep mf i o w).q = o.q ∧ (microStep mf i o w).m1 = o.m1 ∧ (microStep mf i o w).m2 = o.m2) ∧
    (uwOp w = 0x21 → (microStep mf i o w).m1 = (convert (wireFmt mf) .rne 0 (d32 a)).1 ∧ (microStep mf i o w).w = o.w ∧ (microStep mf i o w).m2 = o.m2 ∧ (microStep mf i o w).q = o.q) ∧
    (uwOp w = 0x22 → (microStep mf i o w).m2 = (convert (wireFmt mf) .rne 0 (d32 a)).1 ∧ (microStep mf i o w).w = o.w ∧ (microStep mf i o w).m1 = o.m1 ∧ (microStep mf i o w).q = o.q) ∧
    (uwOp w = 0x23 → (microStep mf i o w).rf = factorAdd (nth0 i.h 3) o.rf a o.rfBegun ∧ (microStep mf i o w).rfBegun = true ∧ (microStep mf i o w).cf = o.cf ∧ (microStep mf i o w).w = o.w ∧ (microStep mf i o w).q = o.q) ∧
    (uwOp w = 0x24 → (microStep mf i o w).cf = factorAdd (nth0 i.h 3) o.cf a o.cfBegun ∧ (microStep mf i o w).cfBegun = true ∧ (microStep mf i o w).rf = o.rf ∧ (microStep mf i o w).w = o.w ∧ (microStep mf i o w).q = o.q) ∧
    (∀ h3 f a, factorAdd h3 f a true = (r32 (fadd false (d32 f) (d32 a))).1 ∧ factorAdd h3 f a false = (r32 (fadd false (d32 (r32 (fmul (d32 h3) (d32 f))).1) (d32 a))).1) ∧
    (∀ a, (d32 a).isNan = false → (d32 a).isZero = false → sgn32 a = (if FV.signBit (d32 a) then 0xBF800000 else 0x3F800000)) ∧ (∀ a, (d32 a).isNan = false → (d32 a).isZero = true → sgn32 a = a) ∧ (∀ a, (d32 a).isNan = true → sgn32 a = (r32 (FV.quieten (d32 a), 0)).1) ∧
    (∀ op, (uwArity op).isSome = true ↔ (1 ≤ op ∧ op ≤ 0x0B) ∨ (0x20 ≤ op ∧ op ≤ 0x24) ∨ op = 0x3F) ∧
    (uwOp w = 0x3F → ∀ r, runRecipe mf i (w :: r) o = o)

/-- R309, R313, R314, R326, R383: UPD_BUCKET_APPLY first reads the state the oldest bucket of a set needs (log entry 195, DESIGN CHOICE), and once every read has come back applies the bucket and takes it out of staging; of a group's bucket it applies the first shard this member roots whose sum is whole and sends the working copy to the children; a block that a check
stops, or a bucket whose staging fails its parity, ends the set's context. -/
def Obligations.BucketsAreApplied : Prop :=
  ∀ (s : State) (p : Part) (set : BitVec 4) (k : Nat) (u : USet), k = setKey p.val set.toNat → s.usets.get k = some u →
    (u.railOk = false → exec (.updBucketApply p set) s = .next (s.partFault p.val .parity none)) ∧
    (∀ b rest s2, u.railOk = true → s.shroud.railsOk = true → u.group = none → u.staging = b :: rest → b.spoiled = false → s.fetchState k b.desc b.first b.gs = some s2 → exec (.updBucketApply p set) s = .next s2) ∧
    (∀ b rest, u.railOk = true → s.shroud.railsOk = true → u.group = none → u.staging = b :: rest → b.spoiled = true → exec (.updBucketApply p set) s = .next (s.unitFault k .parity .context)) ∧
    (∀ di first gs, (u.fetch = some [] → s.fetchState k di first gs = none) ∧ (∀ i l, u.fetch = some (i :: l) → s.fetchState k di first gs = some s) ∧
      (u.fetch = none → (s.stateReads k di first gs).2 = [] → s.fetchState k di first gs = none)) ∧
    (∀ b rest s2 wc ok u2, u.railOk = true → s.shroud.railsOk = true → u.group = none → u.staging = b :: rest → b.spoiled = false → s.fetchState k b.desc b.first b.gs = none → s.applyBucket k b.desc b.first b.gs = .done s2 wc ok → s2.usets.get k = some u2 →
      exec (.updBucketApply p set) s = .next (s2.setUset k { u2 with staging := rest, fetch := none })) ∧
    (∀ b rest s2 st sc, u.railOk = true → s.shroud.railsOk = true → u.group = none → u.staging = b :: rest → b.spoiled = false → s.fetchState k b.desc b.first b.gs = none → s.applyBucket k b.desc b.first b.gs = .fault s2 st sc → exec (.updBucketApply p set) s = .next (s2.unitFault k st sc)) ∧
    (∀ gi g me c i t codes s2, u.railOk = true → s.shroud.railsOk = true → c.spoiled = false → u.group = some gi → g = s.group gi → s.memberOf g p.val = some me →
      (g.colls.zipIdx).find? (fun (e : Coll × Nat) => e.1.op == 0xA8 && e.1.member == me && !(g.owed e.1).isEmpty) = some (c, i) → t = (g.owed c).headD 0 → c.results.get t = some codes →
      s.fetchState k c.hi (c.seq + (shardOf c.count g.n t).1) (codes.map (widen32 (wireFmt c.wire))) = some s2 → exec (.updBucketApply p set) s = .next s2) ∧
    (∀ gi g me c i t codes s2 wc ok d, u.railOk = true → s.shroud.railsOk = true → c.spoiled = false → u.group = some gi → g = s.group gi → s.memberOf g p.val = some me →
      (g.colls.zipIdx).find? (fun (e : Coll × Nat) => e.1.op == 0xA8 && e.1.member == me && !(g.owed e.1).isEmpty) = some (c, i) → t = (g.owed c).headD 0 → c.results.get t = some codes →
      s.fetchState k c.hi (c.seq + (shardOf c.count g.n t).1) (codes.map (widen32 (wireFmt c.wire))) = none →
      s.applyBucket k c.hi (c.seq + (shardOf c.count g.n t).1) (codes.map (widen32 (wireFmt c.wire))) = .done s2 wc ok → u.descs[c.hi]? = some d → wc ≠ [] →
      exec (.updBucketApply p set) s = .next (((geChildren g.entry t me).foldl (fun s ch => s.sendAll kDown me ch (wcMsgs gi g c t d wc (shardOf c.count g.n t).2)) (s2.fetchDone k)).shardDone gi i t)) ∧
    (∀ di first gs d G, u.descs[di]? = some d → s.rangeWaits k d ((s.recipe (k / 16) d.recipe).getD (fykorRecipe 0)) (d.blocksIn first gs.length) = false → u.mode = 1 →
      G = gs.map (fun g => (r32 (fdiv (d32 g) (d32 u.scale))).1) → G.any isNonfinite32 = true →
      ∃ s2 v, s.applyBucket k di first gs = .done s2 [] false ∧ s2.usets.get k = some v ∧ cmDropped v.commit = true ∧ cmNonfinite v.commit = true ∧ v.acc = u.acc + (G.map sq320).sum ∧ s2.objs = s.objs ∧ s2.hbm = s.hbm)

/-- R316 to R321: an attempt closes once its tiles have executed UEND and no bucket is left. A nonfinite value, or a norm above the bound for a paired set, or a dropped bucket for one of bucket mode, rejects the step; a paired set first carries forward what no bucket fed, by reads and writes of memory, and then
flips, or, where it is PAIRED, waits for the ACK of its COMMIT; a rejected paired set keeps its half and its epoch, and the loss scale is halved down to its least value, while a step that commits counts towards a doubling. -/
def Obligations.AttemptCloses : Prop :=
  ∀ (s : State) (p : Part) (set : BitVec 4) (k : Nat) (u : USet), k = setKey p.val set.toNat → s.usets.get k = some u →
    (u.railOk = true → u.run.isSome = true → u.ackAt = none → u.verdict = none → u.group = none → s.partDone k u = true → u.closeSent = false → u.closeTs = 0 →
      s.roundBusy p.val set.toNat = false → s.scaleWaits u = false → (u.mode = 0 → s.carryStop k u ≠ .waits) →
      exec (.updAttemptClose p set) s = .next (((s.bumpPart p.val cDigWait 0).setUset k { u with verdict := some (u.decide_ u.acc (cmNonfinite u.commit) (cmDropped u.commit)) }).finishClose k)) ∧
    (∀ st acc fl, u.railOk = true → u.run.isSome = true → u.ackAt = none → u.verdict = some (st, acc, fl) → s.scaleWaits u = false → u.mode = 1 → exec (.updAttemptClose p set) s = .next (s.closeOut k)) ∧
    (∀ st acc fl, u.railOk = true → u.run.isSome = true → u.ackAt = none → u.verdict = some (st, acc, fl) → s.scaleWaits u = false → u.mode = 0 →
      (∀ ids s2, u.carried = false → s.carryStop k u = .go → u.fetch = none → s.fetchCarry k u = (ids, s2) → ids ≠ [] →
        exec (.updAttemptClose p set) s = .next (s2.setUset k { u with fetch := some ids })) ∧
      (∀ s2, u.carried = false → s.carryStop k u = .go → u.fetch = some [] → s.carryNow k u = s2 → (s2.usets.get k).any USet.carryDone = false →
        exec (.updAttemptClose p set) s = .next s2) ∧
      (u.carried = true → u.writes = [] → s.isProbe k u = false → st ≠ .ok → exec (.updAttemptClose p set) s = .next (s.closeOut k)) ∧
      (u.carried = true → u.writes = [] → s.isProbe k u = false → st = .ok → (s.net (k / 16)).st ≠ .paired → (s.net (k / 16)).st ≠ .resync →
        exec (.updAttemptClose p set) s = .next (s.closeOut k)) ∧
      (∀ s2, u.carried = true → u.writes = [] → s.isProbe k u = false → st = .ok → (s.net (k / 16)).st = .paired → s.sendCommit k u = s2 →
        exec (.updAttemptClose p set) s = .next (s2.setUset k ({ u with ackAt := some (s2.net (k / 16)).txSeq }.withState 2)))) ∧
    (∀ acc nf dr, u.decide_ acc nf dr = ((if nf || (if u.mode = 1 then dr else normOver (normOf acc) u.absB) then .normReject else .ok), acc, closeFlags nf (u.overAt acc) dr)) ∧
    ((u.nextScale false).1.scale = max u.scaleMin (u.scale - 2 ^ 23) ∧ (u.nextScale false).1.streak = 0) ∧
    (u.streak + 1 = u.growth → (u.nextScale true).1.scale = min u.scaleMax (u.scale + 2 ^ 23) ∧ (u.nextScale true).1.streak = 0) ∧
    (u.streak + 1 ≠ u.growth → (u.nextScale true).1.scale = u.scale ∧ (u.nextScale true).1.streak = (u.streak + 1) % 2 ^ 32) ∧
    (∀ acc fl v b s3, u.verdict = some (.normReject, acc, fl) → u.mode = 0 → u.group = none → (v, b) = (u.toIdle u.half fl).nextScale false →
      s3 = ((((s.noteClose u .normReject).setUset k { v with norm := normOf acc, epoch := u.epoch, fresh := false }).flipObjs k u.half).bumpPart (k / 16) cUpdSkipped 1).bumpPart
        (k / 16) cUpdBackoff (b2n b) →
      v.run = none ∧ v.verdict = none ∧ cmHalf v.commit = u.half ∧ cmState v.commit = 0 ∧ v.railOk = true ∧ v.scale = max u.scaleMin (u.scale - 2 ^ 23) ∧
      (s3.scaleStop { v with norm := normOf acc, epoch := u.epoch, fresh := false } = .go →
        (s.closeOut k).usets.get k = some { v with norm := normOf acc, epoch := u.epoch, fresh := false }))

/-! ### Streams and memory answers -/

/-- R25, R142, R144, R146, R149, R153, R294: a beat leaves for the mesh when its stream holds a credit and the turn of its link, and spends the credit; without a credit nothing moves and the cycle counts as a credit stall; the newest beat of a
program that runs waits for the one after it; no beat crosses a closed bridge. It arrives in its consumer's receive buffer, or is dropped with its credit back where that program has ended; a second parity error ends the context, and a second failure of a
bridge frame's tag is a device fault. A credit owed returns to the producer. -/
def Obligations.BeatsAndCredits : Prop :=
  ∀ (s : State) (r strm route : Nat) (run : Run) (im : Image) (d : StreamD) (rt : RouteD) (src dst : Nat) (l : Lane), s.runs.get r = some run → s.runImage run = some im → im.streams[strm]? = some d →
    im.laneRoute strm route = some rt → src = im.tileAt rt.src → dst = im.tileAt rt.dst → l = run.lane (laneKey strm route) →
    (∀ b b' rest, l.out = b :: b' :: rest → s.bridgeShut src dst = false → l.credits ≠ 0 → (isCopy d route = true ∨ s.linkTurn run im src (rt.linkAt l.count) = some strm) →
      ∃ u r', exec (.beatSend r strm route) s = .next u ∧ u.runs.get r = some r' ∧
        r'.lane (laneKey strm route) = { l with credits := l.credits - 1, out := b' :: rest, flight := l.flight ++ [{ b with last := false }], count := l.count + 1 } ∧
        r'.lastMove = s.ts ∧ u.objs = s.objs ∧ u.hbm = s.hbm) ∧
    (∀ b b' rest, l.out = b :: b' :: rest → s.bridgeShut src dst = false → l.credits ≠ 0 → isCopy d route = false → s.linkTurn run im src (rt.linkAt l.count) ≠ some strm →
      exec (.beatSend r strm route) s = .next s) ∧
    (∀ b b' rest, l.out = b :: b' :: rest → s.bridgeShut src dst = false → l.credits = 0 →
      exec (.beatSend r strm route) s = .next ((s.bumpTile src cCreditStall 1).bumpTile src cVxuStall (b2n ((s.tile src).vxPort == some d.outPort)))) ∧
    (∀ b, l.out = [b] → (s.tile src).ended = false → exec (.beatSend r strm route) s = .next s) ∧
    (s.bridgeShut src dst = true → exec (.beatSend r strm route) s = .next s ∧ ∀ p1 p2 t1 t2, exec (.beatArrive r strm route ⟨p1, t1⟩ ⟨p2, t2⟩) s = .next s) ∧
    (∀ b rest p1 p2 t1 t2, l.flight = b :: rest → s.bridgeShut src dst = false → (tileDie src != tileDie dst && t1 && t2) = false → (p1 && p2) = false →
      ∃ u r', exec (.beatArrive r strm route ⟨p1, t1⟩ ⟨p2, t2⟩) s = .next u ∧ u.runs.get r = some r' ∧
        r'.lane (laneKey strm route) = (if (s.tile dst).ended then { l with flight := rest, credits := l.credits + 1 } else { l with flight := rest, buf := l.buf ++ [b] }) ∧ u.objs = s.objs ∧ u.hbm = s.hbm) ∧
    (∀ t1 t2, l.flight ≠ [] → s.bridgeShut src dst = false → (tileDie src != tileDie dst && t1 && t2) = false →
      exec (.beatArrive r strm route ⟨true, t1⟩ ⟨true, t2⟩) s = .next (s.ctxFault run.ctx .parity (some (run.q, run.sub)))) ∧
    (∀ p1 p2, l.flight ≠ [] → s.bridgeShut src dst = false → tileDie src ≠ tileDie dst → exec (.beatArrive r strm route ⟨p1, true⟩ ⟨p2, true⟩) s = .next (s.devFault .integrity (some (run.q, run.sub)))) ∧
    (l.owed ≠ 0 → exec (.creditReturn r strm route) s = .next (s.setRun r (run.setLane (laneKey strm route) { l with owed := l.owed - 1, credits := l.credits + 1 })))

/-- R238, R241, R270, R277 to R281, R284, R287: an HBM read returns its data when every line verifies (a line never written needs no tag), and answers INTEGRITY when a line's tag fails twice or a node above it does; an access whose PHY fails, or which is
unanswered for 4 microseconds, is retried once and then fails with TIER_FAIL; an access that meets a locked block waits; a write lands where no page refuses it and every line it covers in part verifies; a root whose rails differ stops the device.
R249 to R253, R278: a flash part that arrives is no longer outstanding and, if it was in time, its channel's run of late reads ends; one with lines whose tag fails is read once more, as after a media error, and a second media error makes the part late, as
does an answer outstanding for 60 microseconds; a consumer kept waiting for more than 2 milliseconds gets TIER_FAIL; a row is delivered from its own parts, or from any 14 once one of them is late; a write that succeeds lands where its page still takes it. -/
def Obligations.MemoryAndFlashAnswers : Prop :=
  (∀ (s : State) (acc : Nat) (a : Access) (v : Arrival), s.acc? acc = some a →
     (a.kind = .hbmRead → s.shroud.railsOk = false → exec (.hbmReadReturn acc v) s = .next (s.devFault .parity none)) ∧
     (a.kind = .hbmRead → s.shroud.railsOk = true → s.lockedFor (s.accLines a) = true → exec (.hbmReadReturn acc v) s = .next s) ∧
     (a.kind = .hbmRead → s.shroud.railsOk = true → s.lockedFor (s.accLines a) = false → v.phyError = true → exec (.hbmReadReturn acc v) s = .next (s.retryAcc acc a)) ∧
     (∀ s1 n, a.kind = .hbmRead → s.shroud.railsOk = true → s.lockedFor (s.accLines a) = false → v.phyError = false → s.settleMeta (s.accLines a) = s1 →
       s1.nodeOf (s.accLines a) v.node = some n → exec (.hbmReadReturn acc v) s = .next ((s1.nodeFails n.1 n.2).accFail acc a .integrity)) ∧
     (∀ s1 s2 wrong bad, a.kind = .hbmRead → s.shroud.railsOk = true → s.lockedFor (s.accLines a) = false → v.phyError = false → s.settleMeta (s.accLines a) = s1 →
       s1.nodeOf (s.accLines a) v.node = none → s1.useMeta (s1.accPart a) (s.accLines a) = s2 →
       wrong = (linesAt (s.accLines a) (v.bad1.filter v.bad2.contains)).filter (fun l => !s2.shroud.blockLost (l / 64) && s2.shroud.minor l != 0) →
       bad = (s.accLines a).filter (fun l => !s2.shroud.blockLost (l / 64) && (wrong.contains l || s2.shroud.lineBad l)) →
       (bad = [] → (∀ l ∈ s.accLines a, s2.shroud.blockLost (l / 64) = false) → exec (.hbmReadReturn acc v) s = .next (s2.accData acc a)) ∧
       ((bad ≠ [] ∨ ∃ l ∈ s.accLines a, s2.shroud.blockLost (l / 64) = true) → exec (.hbmReadReturn acc v) s = .next ((s2.tagsFail (s1.accPart a) bad).accFail acc a .integrity))) ∧
     (a.kind = .hbmRead ∨ a.kind = .hbmWrite → a.since + 4000 ≤ s.ts → exec (.hbmAccessTimeout acc) s = .next (s.retryAcc acc a)) ∧
     (a.kind = .hbmRead ∨ a.kind = .hbmWrite → s.ts < a.since + 4000 → exec (.hbmAccessTimeout acc) s = .next s) ∧
     (a.tries ≠ 0 → s.retryAcc acc a = s.accFail acc a .tierFail) ∧
     (∀ o s1, a.kind = .hbmWrite → s.shroud.railsOk = true → v.phyError = false → s.lockedFor (s.accLines a) = false → (∀ p n, a.owner ≠ .update p n) → s.objs.get a.obj = some o →
       s.settleMeta (s.accLines a) = s1 →
       (o.writeVerdict a.off a.len = .ok → s1.nodeOf (s.accLines a) v.node = none →
         (∀ e ∈ s1.accParts a, e.2 = true → s1.shroud.blockLost (e.1 / 64) = false ∧
           (s1.shroud.minor e.1 = 0 ∨ (s1.shroud.lineBad e.1 = false ∧ e.1 ∉ linesAt (s.accLines a) (v.bad1.filter v.bad2.contains)))) →
         exec (.hbmWriteAnswer acc v) s = .next (s1.accWritten acc a)) ∧
       (o.writeVerdict a.off a.len = .waits → exec (.hbmWriteAnswer acc v) s = .next s) ∧
       (∀ st sc, o.writeVerdict a.off a.len = .bad st sc → exec (.hbmWriteAnswer acc v) s = .next (s.accRefused acc a st sc)))) ∧
  (∀ (s : State) (acc part : Nat) (a : Access) (r : RowRead), s.acc? acc = some a →
     (∀ badLines failing seen, a.kind = .flashRead → a.partAt part = some r → r.done = false → (r.out.contains (part % 16) || r.late.contains (part % 16)) = true →
       failing = a.partWants r (part % 16) badLines → seen = r.bad1.any (a.partWants r (part % 16) (List.range 64)).contains →
       ((failing = [] ∨ seen = true) → exec (.flashPartReturn acc part ⟨false, badLines⟩) s = .next
         ((if r.out.contains (part % 16) then s.channelOk (channelOf r.frame (part % 16)) else s).putRow acc a (part / 16)
           { r with out := removeNat (part % 16) r.out, arrived := insertNat (part % 16) r.arrived, bad2 := r.bad2 ++ failing.filter r.bad1.contains })) ∧
       (failing ≠ [] → seen = false → ∃ r', r'.bad1 = r.bad1 ++ failing ∧ r'.out = r.out ∧ r'.arrived = r.arrived ∧
         exec (.flashPartReturn acc part ⟨false, badLines⟩) s = .next (s.setAcc acc { a with rows := a.rows.set (part / 16) r' }))) ∧
     (∀ l, a.kind = .flashRead → a.partAt part = some r → r.done = false → r.out.contains (part % 16) = true →
       (r.retried.contains (part % 16) = true → exec (.flashPartReturn acc part ⟨true, l⟩) s = .next (s.partLate acc a part r)) ∧
       (r.retried.contains (part % 16) = false → ∃ r', r' = { r with retried := insertNat (part % 16) r.retried, sent := r.sent.set (part % 16) s.ts } ∧
         exec (.flashPartReturn acc part ⟨true, l⟩) s = .next ((s.setAcc acc { a with rows := a.rows.set (part / 16) r' }).bumpPart? (s.accPart a) cTierRetry 1)) ∧
       (r.sent.getD (part % 16) a.since + 60000 ≤ s.ts → exec (.flashPartLate acc part) s = .next (s.partLate acc a part r)) ∧
       (s.ts < r.sent.getD (part % 16) a.since + 60000 → exec (.flashPartLate acc part) s = .next s)) ∧
     (r.ready = true ↔ (∀ x ∈ r.want, x ∈ r.arrived) ∨ (r.late ≠ [] ∧ 14 ≤ r.arrived.length)) ∧
     (a.kind = .flashRead → s.pwr.trip = false → 2000000 < s.stallTime a → exec (.tierStallTimeout acc) s = .next (s.accFail acc a .tierFail)) ∧
     (∀ o, a.kind = .flashWrite → s.objs.get a.obj = some o →
       ((∀ st sc, s.flashVerdict a o ≠ .bad st sc) → exec (.flashWriteDone acc true) s = .next (s.accWritten acc a)) ∧
       (∀ st sc, s.flashVerdict a o = .bad st sc → exec (.flashWriteDone acc true) s = .next (s.accRefused acc a st sc))) ∧
     (a.kind = .flashWrite → exec (.flashWriteDone acc false) s = .next (s.accFail acc a .tierFail)))

/-- R220, R248, R257, R258, R413: an erased segment reads as empty, has one more erase to its count, returns to the free segments, of its region where that is a SNAPSHOT region, and is retired at the 10,000th; a relocation moves the live pages of a segment most of whose frames are dead; a wiped frame and the pages of
a wiped adapter entry return to the free frames, zero.
R220, R274, R283: once every read of an adapter load has come back the entry becomes RESIDENT with the object's bytes and its waiting PINs complete with OK, or it becomes VOID and they complete with the failure. A rebuilt subtree ends what owns the pages
that nothing restored; a page is restored from the catcher's copy, from the latest snapshot's copy of bytes not written since, or from its counter blocks in the cache, and one with none of these reads as zeros with every line poisoned. -/
def Obligations.SegmentsLoadsAndRebuilds : Prop :=
  (∀ (s : State) (seg : Nat),
     (s.segmentDead seg = true → ∃ u, exec (.segmentErase seg) s = .next u ∧
       u.flash.owner = (if snapTag (s.flash.owner.getD seg 0) = true ∧ s.flash.eraseCount seg + 1 < 10000 then s.flash.owner else s.flash.owner.erase seg) ∧ u.flash.erases = s.flash.erases.set seg (s.flash.erases.getD seg 0 + 1) ∧
       u.flash.used = s.flash.used ∧ u.flash.mem = (segFrames seg).foldl (fun m x => Mem.clear m (x * pageBytes) pageBytes) s.flash.mem ∧
       (10000 ≤ s.flash.eraseCount seg + 1 → seg ∈ u.flash.retired) ∧ (s.flash.eraseCount seg + 1 < 10000 → u.flash.retired = s.flash.retired) ∧ u.hbm = s.hbm ∧ u.objs = s.objs) ∧
     (∀ tag live pick s1, s.flash.owner.get seg = some tag → live = (segFrames seg).filter (fun f => s.flash.used.has f) → live ≠ [] → live.length < 112 →
       (∀ f ∈ live, s.objs.has (s.flash.used.getD f 0) = true) → (∀ l ∈ s.shroud.badFlash, live.contains (l / 1024) = false) → s1 = s.growRegion tag 8 ((s.regionFree tag).length + live.length) →
       pick.length = live.length → pick.Nodup → (∀ f ∈ pick, f ∈ s1.regionFree tag ∧ segOf f ≠ seg) →
       exec (.segmentRelocate seg pick false) s = .next ((live.zip pick).foldl (fun s e => s.moveFrame e.1 e.2) s1)) ∧
     (∀ frame, s.wiping.has frame = true → s.shroud.railsOk = true → ∃ u, exec (.pageWipeDone frame) s = .next u ∧ u.wiping = s.wiping.erase frame ∧ u.hbmUsed = s.hbmUsed.erase frame ∧ u.hbm = s.hbm.clear (frame * pageBytes) pageBytes ∧
       u.shroud = s.shroud.initFrame frame ∧ u.objs = s.objs) ∧
     (∀ entry p k o s1, s.objs.get k = some o → s1 = { s with objs := s.objs.erase k, adpt := { s.adpt with wipes := s.adpt.wipes.erase entry } } →
       (s.adpt.wipes.get entry = some (p, k, none) → exec (.adapterWipeDone entry) s = .next (((o.pages.map Pte.frameNo).foldl State.freeFrame s1).startLoads)) ∧
       (∀ slot, s.adpt.wipes.get entry = some (p, k, some slot) →
         exec (.adapterWipeDone entry) s = .next ((((o.pages.map Pte.frameNo).foldl State.freeFrame s1).freeRevoked slot).startLoads)))) ∧
  (∀ (s : State) (entry : Nat) (e : CacheEntry) (id src : Nat) (w : Work), s.adpt.cache.get entry = some e →
     s.works.find? (fun (x : Nat × Work) => match x.2.kind with | .adapterLoad _ i => i == entry | _ => false) = some (id, w) → w.kind = .adapterLoad src entry → s.workBusy id = false → e.st = .loading →
     (∀ k s1 s2, w.failed = [] → e.pages = some k → s1 = { s with works := s.works.erase id } → s2 = (s1.objWrite k 0 (s1.loadBytes src)).setCache entry { e with st := .resident, waiters := [] } →
       exec (.adapterLoadDone entry .ok) s = .next ((e.waiters.foldl (fun s x => s.complete x.1 x.2.1 (Done.okay e.slot 0)) s2).afterUnpin entry)) ∧
     (∀ s1, w.failed = [] → s1 = ((({ s with works := s.works.erase id }).bumpPart e.part cAdLoadFail 1).countPartial w).voidEntry entry false →
       exec (.adapterLoadDone entry .tierFail) s = .next (e.waiters.foldl (fun s x => s.complete x.1 x.2.1 { w.privDone with st := .tierFail }) s1)) ∧
     (∀ s1, w.failed ≠ [] → w.status ≠ .ok → s1 = ((({ s with works := s.works.erase id }).bumpPart e.part cAdLoadFail 1).countPartial w).voidEntry entry false →
       exec (.adapterLoadDone entry .ok) s = .next (e.waiters.foldl (fun s x => s.complete x.1 x.2.1 { w.privDone with st := w.status }) s1)) ∧
     (∀ h node cat, s.shroud.railsOk = true → s.shroud.failed.contains (h, node) = true → ∃ (u : State) (lost : List Nat),
       exec (.subtreeRebuild h node cat) s = .next (lost.foldl State.loseOwner (u.bumpDev (if lost.isEmpty then cSubRestored else cSubLost) 1)) ∧
       u.shroud.failed.contains (h, node) = false ∧ u.ctxs = s.ctxs ∧ u.runs = s.runs ∧ u.queues = s.queues) ∧
     (∀ h node cat, s.shroud.failed.contains (h, node) = false → exec (.subtreeRebuild h node cat) s = .next s) ∧
     (∀ key i f o cat cached, s.objs.get key = some o → (o.pte i).mirror = true → cat.contains f = true →
       s.restorePage key i f cat cached = (true, s.writeFrame o.part f (s.hbm.reads (f * pageBytes) pageBytes))) ∧
     (∀ key i f o cat cached ff, s.objs.get key = some o → ((o.pte i).mirror && cat.contains f) = false → (o.pte i).sinceSnap = false → s.snapCopy key i = some ff →
       s.restorePage key i f cat cached = (true, s.writeFrame o.part f (s.flash.mem.reads (ff * pageBytes) pageBytes))) ∧
     (∀ key i f o cat lines, s.objs.get key = some o → ((o.pte i).mirror && cat.contains f) = false → ((o.pte i).sinceSnap = true ∨ s.snapCopy key i = none) →
       (s.restorePage key i f cat (some lines)).1 = true ∧ (s.restorePage key i f cat (some lines)).2.hbm = s.hbm ∧
       (s.restorePage key i f cat (some lines)).2.shroud.bad = s.shroud.bad) ∧
     (∀ key i f o cat, s.objs.get key = some o → ((o.pte i).mirror && cat.contains f) = false → ((o.pte i).sinceSnap = true ∨ s.snapCopy key i = none) →
       (s.restorePage key i f cat none).1 = false ∧ (s.restorePage key i f cat none).2.hbm = s.hbm.clear (f * pageBytes) pageBytes ∧
       ∀ j < 1024, f * 1024 + j ∈ (s.restorePage key i f cat none).2.shroud.poison))

/-! ### Re-keying, snapshots and restores -/

/-- R281, R286, R287, R290, R291, R446: the Carousel takes the next counter block or page of a sweep that runs, if nothing else is using the block and its budget lasts; lines that fail verification are carried over poisoned, and the boundary moves past the block; a block
that cannot be verified pauses the sweep where it is. A page that holds something moves to a fresh frame, the object's first page drawing its new major from the high-water mark; one that holds nothing is left.
R241, R258, R510 to R514: each page of a running snapshot is copied to a frame of the partition's snapshot region and loses its protection; a failure of the media at a page of HBM is tried once more; when no page is left the snapshot is sealed and kept, and its command completes with
its number; a failure ends it and its frames are released. -/
def Obligations.CarouselAndSnapshots : Prop :=
  (∀ (s : State) (sweep : Fin 8) (x : Sweep), s.sweep sweep.val = some x → x.paused = false → s.works.has x.work = true → s.budgetRailOk 80 = true → s.budgetLeft 80 = true → s.shroud.railsOk = true →
     (∀ b list s1, x.kind = 1 → x.lock = none → s.nextBlock x.slot x.boundary = some b → s.blockBusy b = false → s1 = (s.spend 80 1).settleMeta (blockLines b) → s1.shroud.blockLost b = false →
       exec (.carouselBlock sweep list none) s = .next ((s1.sweepBlock sweep.val x b list).lockNext sweep.val)) ∧
     (∀ b list s1 since, x.kind = 1 → x.lock = some (b, since) → s.nextBlock x.slot x.boundary = some b → s1 = (s.spend 80 1).settleMeta (blockLines b) → s1.shroud.blockLost b = false →
       exec (.carouselBlock sweep list none) s = .next (((s1.countLock b since).sweepBlock sweep.val x b list).lockNext sweep.val)) ∧
     (∀ b list h, x.kind = 1 → x.lock = none → s.nextBlock x.slot x.boundary = some b → s.blockBusy b = true → exec (.carouselBlock sweep list h) s = .next s) ∧
     (∀ b list s1 h f, x.kind = 1 → s.nextBlock x.slot x.boundary = some b → s.blockBusy b = false → s1 = (s.spend 80 1).settleMeta (blockLines b) → s1.nodeOf [64 * b] (some (0, h)) = some f →
       exec (.carouselBlock sweep list (some h)) s = .next ((s1.nodeFails f.1 f.2).pauseSweep sweep.val x .integrity)) ∧
     (∀ b list s1, x.kind = 1 → s.nextBlock x.slot x.boundary = some b → s.blockBusy b = false → s1 = (s.spend 80 1).settleMeta (blockLines b) → s1.shroud.blockLost b = true →
       exec (.carouselBlock sweep list none) s = .next (s1.pauseSweep sweep.val x .integrity)) ∧
     (∀ (s1 : State) b list bad s2, s2 = ({ s1 with shroud := s1.shroud.loadLines (s1.shroud.written b) } : State) →
       bad = (s2.shroud.written b).filter (fun l => list.contains (l % 64) || s2.shroud.lineBad l) →
       s1.sweepBlock sweep.val x b list =
         (({ s2 with shroud := s2.shroud.poisonLines bad } : State).bumpPart? (({ s2 with shroud := s2.shroud.poisonLines bad } : State).framePart (b / 16)) cPoisoned bad.length).onward sweep.val { x with boundary := b + 1 }) ∧
     (∀ o pick s1 fs s2, x.kind = 2 → s1 = s.spend 80 16 → s1.objs.get x.obj = some o → (∀ l ∈ s1.shroud.badFlash, l / 1024 ≠ (o.pte x.boundary).frameNo) →
       ((o.pte x.boundary).st = .written ∨ (o.pte x.boundary).st = .sealedPg) → s1.pickFlash (regionTag o.kind o.part) 1 [pick] = some (fs, s2) →
       exec (.carouselFlashPage sweep pick none) s = .next ((s2.drawMajor x o).sweepPage sweep.val x o (fs.headD 0))) ∧
     (∀ o pick s1, x.kind = 2 → s1 = s.spend 80 16 → s1.objs.get x.obj = some o → (∀ l ∈ s1.shroud.badFlash, l / 1024 ≠ (o.pte x.boundary).frameNo) →
       (o.pte x.boundary).st ≠ .written → (o.pte x.boundary).st ≠ .sealedPg → exec (.carouselFlashPage sweep pick none) s = .next ((s1.drawMajor x o).sweptPage sweep.val x o)) ∧
     (∀ (s1 : State) o, (x.boundary = 0 → o.nextMajor = none →
         s1.drawMajor x o = ({ s1 with shroud := s1.shroud.setHwm (s1.shroud.hwm + 1) } : State).setObj x.obj { o with nextMajor := some (s1.shroud.setHwm (s1.shroud.hwm + 1)).hwm }) ∧
       (x.boundary ≠ 0 → s1.drawMajor x o = s1)) ∧
     (∀ y, (s.pauseSweep sweep.val x .integrity).sweep sweep.val = some y → s.works.get x.work = none → y.paused = true ∧ y.boundary = x.boundary)) ∧
  (∀ (s : State) (p : Part) (x : Snap) (s1 : State), (s.net p.val).running = some x → s.snapOrphan x = false →
     s1 = s.protect (x.todo.filter (fun e => match s.objs.get e.1 with | some o => !(o.pte e.2).snap | none => false)) →
     (∀ e o f s2, s1.nextSnapPage p.val x = some e → s1.objs.get e.1 = some o → s1.lockedFor (o.pte e.2).lines = false → s1.shroud.railsOk = true → (o.pte e.2).readVerdict = .ok → (o.pte e.2).tier = 1 →
       s2 = (s1.settleMeta (o.pte e.2).lines).useMeta (some p.val) (o.pte e.2).lines → s2.shroud.badLines (o.pte e.2).frameNo 0 pageBytes = [] → s2.keyServes e.1 = true →
       s2.snapFrame p.val = some f → s2.budgetRailOk 81 = true →
       (s2.budgetLeft 81 = true → exec (.snapPageCopy p none) s = .next ((s2.spend 81 16).snapCopyPage p.val x e o f)) ∧
       (s2.budgetLeft 81 = false → exec (.snapPageCopy p none) s = .next s2)) ∧
     (∀ e o st, s1.nextSnapPage p.val x = some e → s1.objs.get e.1 = some o → s1.lockedFor (o.pte e.2).lines = false → exec (.snapPageCopy p (some st)) s = .next (s1.snapFailed p.val x (o.pte e.2) st)) ∧
     (∀ (u : State) y st, (y.tier = 1 → x.again = false → st ≠ .integrity →
         u.snapFailed p.val x y st = (u.bumpPart p.val cHbmRetry 1).setNet p.val { (u.bumpPart p.val cHbmRetry 1).net p.val with running := some { x with again := true } }) ∧
       (y.tier = 2 → u.snapFailed p.val x y st = u.failSnap p.val x st)) ∧
     (∀ e o f, (∀ y, (s.snapCopyPage p.val x e o f).flash.mem = y → y = (s.flash.mem.clear (f * pageBytes) pageBytes).writes (f * pageBytes) (s.pageRead (o.pte e.2) 0 pageBytes)) ∧
       ∃ n, ((s.snapCopyPage p.val x e o f).net p.val).running = some n ∧ n.todo = x.todo.erase e ∧ n.number = x.number ∧ n.pages.length = x.pages.length + 1 ∧ n.again = false ∧
         (s.snapCopyPage p.val x e o f).hbm = s.hbm) ∧
     (x.todo = [] → ∃ s2 y, y.number = x.number ∧ y.pages = x.pages ∧ y.ts = x.ts ∧ s2 = (s.setNet p.val { s.net p.val with running := none, snaps := (s.net p.val).snaps ++ [y] }).retain p.val ∧
       exec (.snapshotSeal p none) s = .next (s2.snapEnded p.val y .ok)) ∧
     (∀ st, exec (.snapshotSeal p (some st)) s = .next (s.failSnap p.val x st)) ∧
     (∀ s2 q sub st, x.cmd = some (q, sub) → s2 = (s.setPreg p.val rSnapLast (x.number * 2 ^ 32 + statusCode st * 2 ^ 24)).setPreg p.val rSnapTs x.ts →
       s.snapEnded p.val x st = s2.complete q sub ⟨st, .request, x.number, 0, 0, 0, none⟩))

/-- R515 to R518, R535: a restore starts only in a partition with one context that owns nothing but the map's object, and ends with BOUNDS otherwise; it ends with INTEGRITY under another seal value or when a copy's tag fails, and otherwise carries out its steps and shows the status; a
replay is armed at the first step's entry of the reference ledger, or kept for later while DIGEST restarts. -/
def Obligations.RestoresAndReplays : Prop :=
  ∀ (s : State) (p : Part),
    ((s.net p.val).restore = none → s.restorer p.val = none → exec (.restoreGo p) s = .next (s.setRestore p.val 2 (statusCode .bounds))) ∧
    (∀ c x, (s.net p.val).restore = none → s.restorer p.val = some c → s.ctxs.get c = some x → ∃ u y, exec (.restoreGo p) s = .next u ∧ (u.net p.val).restore = some ⟨s.preg p.val rRestore 0 / 2 ^ 32, c⟩ ∧
      u.ctxs.get c = some y ∧ y.restoring = true ∧ y.part = x.part ∧ y.seed = x.seed ∧ u.objs = s.objs ∧ u.hbm = s.hbm) ∧
    (∀ r x y, (s.net p.val).restore = some r → (s.net p.val).snap r.number = some x → s.ctxs.get r.ctx = some y → (x.sealed ≠ (s.part p.val).sess.sealValue ∨ s.copiesFail x = true) →
      ∃ s1 s2, s1 = s.setNet p.val { s.net p.val with restore := none } ∧ s2 = s1.setCtx r.ctx { y with restoring := false } ∧ exec (.restoreDone p none) s = .next (s2.setRestore p.val 2 (statusCode .integrity))) ∧
    (∀ r x st s1 y, (s.net p.val).restore = some r → (s.net p.val).snap r.number = some x → s.ctxs.has r.ctx = true → x.sealed = (s.part p.val).sess.sealValue → s.copiesFail x = false →
      s.applyRestore p.val r.ctx x false = (st, s1) → s1.ctxs.get r.ctx = some y →
      ∃ s2 s3, s2 = s1.setNet p.val { s1.net p.val with restore := none } ∧ s3 = s2.setCtx r.ctx { y with restoring := false } ∧ exec (.restoreDone p none) s = .next (s3.setRestore p.val 2 (statusCode (st.getD .ok)))) ∧
    (∀ value : U64, s.compUp cpDigest = true → ∃ u, exec (.replayArm p value) s = .next u ∧ (u.part p.val).led.armed = bitOf value.toNat 5 ∧ (u.part p.val).led.runAt = 0 ∧
      u.preg p.val rReplay 0 = bitsOf value.toNat 32 32 * 2 ^ 32 + b2n (bitOf value.toNat 6) * 64 + value.toNat % 32 ∧ (u.part p.val).led.ring = (s.part p.val).led.ring) ∧
    (∀ value : U64, s.compUp cpDigest = false → ∃ u, exec (.replayArm p value) s = .next u ∧ u.onlyn.replays = s.onlyn.replays ++ [(p.val, value)] ∧ u.parts = s.parts)

/-! ### SEC -/

/-- R464, R471, R489, R560: a message waits, in arrival order, while SEC restarts, a full wipe or start-up runs, or an earlier message of its partition waits; while the device is off, asleep, in recovery, DECOMMISSIONED or its PCIe crossing is closed the mailbox takes none. -/
def Obligations.MessagesWaitTheirTurn : Prop :=
  ∀ (s : State) (i : Instr),
    (s.doeOpen = false → s.mail i = s) ∧
    (s.doeOpen = true → s.mailWaits i = true → s.mail i = { s with sec := { s.sec with mailbox := s.sec.mailbox ++ [i] } }) ∧
    (s.doeOpen = true → s.mailWaits i = false → s.mail i = s.secEffect i) ∧
    (s.dev.closedPcie = true ∨ s.pwr.off = true ∨ s.pwr.asleep = true ∨ s.onlyn.recovery = true ∨ s.sec.life = 5 → s.doeOpen = false) ∧
    (s.sec.down.isSome = true → s.mailWaits i = true) ∧ (s.sec.wiping.isSome = true → s.mailWaits i = true) ∧ (s.boot.run.isSome = true → s.mailWaits i = true) ∧
    (∀ m, m ∈ s.sec.mailbox → msgPart m = msgPart i → (msgPart i).isSome = true → s.mailWaits i = true) ∧
    ((∃ h l, i = .layoutSet h l) ∨ (∃ h, i = .layoutClear h) ∨ (∃ h, i = .sessionKey h) ∨ (∃ h a b c, i = .sessionBind h a b c) ∨ (∃ h a, i = .keyGenerate h a) ∨ (∃ h a b c, i = .keyImport h a b c) ∨
      (∃ h a, i = .keyWithdraw h a) ∨ (∃ h a, i = .consentSet h a) ∨ (∃ h a, i = .coreStart h a) ∨ (∃ h, i = .sessionClose h) ∨ (∃ h a b, i = .lifecycle h a b) → exec i s = .next (s.mail i))

/-- R11, R460, R461, R463, R465, R560: LAYOUT_SET assigns a layout that is in range and fits, with a fresh key pair, its SNAPSHOT region and page table, and the partition's budgets, and waits while what it grants is being zeroed; a reserved byte that is not zero is MALFORMED; LAYOUT_CLEAR releases an ASSIGNED partition and starts the close of a BOUND one; SESSION_KEY answers with the encapsulation key.
R463 to R466: SESSION_BIND derives the channel key and the seal value from the encapsulated secret and the report, fills the MEMORY slot, and the session is BOUND; SESSION_CLOSE starts the close of the partition that sends it. A tenant's message with a wrong
tag is refused with INTEGRITY and one whose sequence number is not above the last with STALE. -/
def Obligations.LayoutsAndSessions : Prop :=
  (∀ (s : State) (h : SecHdr) (p : Nat), p = h.part.toNat → s.doeOpen = true →
     (secClean h = decide (h.rsv = 0 ∧ h.pad = 0)) ∧
     (∀ l, secClean h = true → s.layoutFails h l = none → s.zeroing l = true → s.mailWaits (.layoutSet h l) = true) ∧
     (secClean h = false → (∀ l, s.mailWaits (.layoutSet h l) = false → exec (.layoutSet h l) s = .next (s.reply 0x01 h none .malformed [])) ∧
       (s.mailWaits (.layoutClear h) = false → exec (.layoutClear h) s = .next (s.reply 0x02 h none .malformed [])) ∧
       (s.mailWaits (.sessionKey h) = false → exec (.sessionKey h) s = .next (s.reply 0x03 h none .malformed []))) ∧
     (∀ l, secClean h = true → s.mailWaits (.layoutSet h l) = false → ∀ st, s.layoutFails h l = some st → exec (.layoutSet h l) s = .next (s.reply 0x01 h none st [])) ∧
     (∀ l s1 s2 s3, secClean h = true → s.mailWaits (.layoutSet h l) = false → s.layoutFails h l = none → s1 = s.assign p l → s2 = (s1.setPart p { s1.part p with table := 1, tableN := 0xFFFFFFFE }).grantLayout p l →
       s3 = (List.range 4).foldl (fun s i => (s.endDry (4 * p + i)).setBudget (4 * p + i) (l.budgets.getD i 0).toNat) s2 →
       exec (.layoutSet h l) s = .next ((s3.wakeAll (((List.range 20).filter (fun c => bitOf l.columns.toNat c)).map (fun c => 20 + c))).reply 0x01 h none .ok [])) ∧
     (∀ l, ∃ u : Session, ((s.assign p l).part p).sess = u ∧ u.st = .assigned ∧ u.layout = some l ∧ u.keyPair = Config.trng s.free ∧ u.channel = none ∧ u.sessionId = kemId (Config.trng s.free)) ∧
     (∀ l, 16 ≤ p → s.layoutFails h l = some .malformed) ∧
     (∀ l, p < 16 → ((s.part p).sess.st = .bound ∨ (s.part p).sess.st = .closing) → s.layoutFails h l = some .bounds) ∧
     (∀ s1, p < 16 → secClean h = true → s.mailWaits (.layoutClear h) = false → (s.part p).sess.st = .assigned →
       s1 = (s.releaseRegion p).setSess p { Session.none with layout := (s.part p).sess.layout, clearing := true, closeTs := s.ts } → exec (.layoutClear h) s = .next (s1.reply 0x02 h none .ok [])) ∧
     (p < 16 → secClean h = true → s.mailWaits (.layoutClear h) = false → (s.part p).sess.st = .closing → exec (.layoutClear h) s = .next (s.reply 0x02 h none .key [])) ∧
     (p < 16 → secClean h = true → s.mailWaits (.layoutClear h) = false → (s.part p).sess.st = .free → exec (.layoutClear h) s = .next (s.reply 0x02 h none .ok [])) ∧
     (p < 16 → secClean h = true → s.mailWaits (.layoutClear h) = false → (s.part p).sess.st = .bound → exec (.layoutClear h) s = .next (((s.closePart p false true).releaseRegion p).reply 0x02 h none .ok [])) ∧
     (secClean h = true → s.mailWaits (.sessionKey h) = false → p = 255 → exec (.sessionKey h) s = .next (s.reply 0x03 h none .ok (kemKey s.sec.opPair))) ∧
     (secClean h = true → s.mailWaits (.sessionKey h) = false → p < 16 → (s.part p).sess.st = .assigned ∨ (s.part p).sess.st = .bound → exec (.sessionKey h) s = .next (s.reply 0x03 h none .ok (kemKey (s.part p).sess.keyPair)))) ∧
  (∀ (s : State) (h : SecHdr) (p : Nat) (x : Session), p = h.part.toNat → p < 16 → s.doeOpen = true → x = (s.part p).sess →
     (∀ ct report masked st, s.mailWaits (.sessionBind h ct report masked) = false → s.lifeOk = true → s.bindFails h ct report masked = some st →
       exec (.sessionBind h ct report masked) s = .next (s.reply 0x04 h none st [])) ∧
     (∀ ct report masked, s.mailWaits (.sessionBind h ct report masked) = false → s.lifeOk = false → exec (.sessionBind h ct report masked) s = .next (s.devFault .parity none)) ∧
     (∀ ct report masked l s1 s2, s.mailWaits (.sessionBind h ct report masked) = false → s.lifeOk = true → s.bindFails h ct report masked = none → x.layout = some l →
       s1 = s.setSess p { x with st := .bound, channel := some (bindKey x.keyPair ct report), lastSeq := 0, sealValue := bindSeal x.keyPair ct report masked, bindTs := s.ts } →
       s2 = ((s1.fresh.2).setKey l.keyBase.toNat (filledSlot .memory (Config.trng s1.fresh.1))).wakeAll (((List.range 8).filter (fun j => bitsOf l.cores.toNat (4 * j) 4 != 0)).map (fun j => 65 + j)) →
       exec (.sessionBind h ct report masked) s = .next ((((s2.setNet p Net.reset).attachSnaps p).sendPair p).reply 0x04 h (some (bindKey x.keyPair ct report)) .ok [])) ∧
     (∀ ct report masked, h.seq = 0 → secClean h = true → x.st ≠ .assigned ∨ s.sec.life ≠ 3 → s.bindFails h ct report masked = some .key) ∧
     (∀ ct report masked, h.seq ≠ 0 ∨ secClean h = false → s.bindFails h ct report masked = some .malformed) ∧
     (s.mailWaits (.sessionClose h) = false → secClean h = false → s.tenantFails 0x0A h [] = none → exec (.sessionClose h) s = .next (s.reply 0x0A h x.channel .malformed [])) ∧
     (s.mailWaits (.sessionClose h) = false → secClean h = true → s.tenantFails 0x0A h [] = none →
       exec (.sessionClose h) s = .next (((s.setSess p { x with lastSeq := h.seq.toNat }).closePart p false false).reply 0x0A h x.channel .ok [])) ∧
     (∀ kc body ty, x.st = .bound → x.channel = some kc → (h.tag ≠ tenantTag kc ty h body → s.tenantFails ty h body = some .integrity) ∧
       (h.tag = tenantTag kc ty h body → h.seq.toNat ≤ x.lastSeq → s.tenantFails ty h body = some .stale) ∧ (h.tag = tenantTag kc ty h body → x.lastSeq < h.seq.toNat → s.tenantFails ty h body = none)) ∧
     (∀ body ty, x.st ≠ .bound → s.tenantFails ty h body = some .key) ∧
     (∀ st, s.mailWaits (.sessionClose h) = false → s.tenantFails 0x0A h [] = some st → exec (.sessionClose h) s = .next (s.reply 0x0A h x.channel st [])))

/-- R457 to R459, R469, R484, R485: of an accepted tenant's message, KEY_GENERATE fills an empty granted slot with a random TIER key, KEY_IMPORT with the unwrapped TRANSPORT key, KEY_WITHDRAW empties an ACTIVE one, CONSENT_SET takes the token's flags and interval,
and CORE_START starts the cores; the operator's slots are 1 to 63. -/
def Obligations.KeyMessages : Prop :=
  ∀ (s : State) (h : SecHdr) (p : Nat) (x : Session) (s1 : State), p = h.part.toNat → p < 16 → secClean h = true → s.doeOpen = true → x = (s.part p).sess → s1 = s.setSess p { x with lastSeq := h.seq.toNat } →
    (∀ slot : U16, s.mailWaits (.keyGenerate h slot) = false → s.tenantFails 0x05 h (leBytes 2 slot.toNat) = none → s1.slotFails h slot.toNat = none →
      exec (.keyGenerate h slot) s = .next (((s1.fresh.2).setKey slot.toNat (filledSlot .tier (Config.trng s1.fresh.1))).reply 0x05 h x.channel .ok [])) ∧
    (∀ (slot : U16) st, s.mailWaits (.keyGenerate h slot) = false → s.tenantFails 0x05 h (leBytes 2 slot.toNat) = none → s1.slotFails h slot.toNat = some st →
      exec (.keyGenerate h slot) s = .next (s.reply 0x05 h x.channel st [])) ∧
    (∀ (slot : U16) ct w k, s.mailWaits (.keyImport h slot ct w) = false → s.tenantFails 0x06 h (leBytes 2 slot.toNat ++ leBytes 6 h.pad.toNat ++ ct ++ w) = none → s1.slotFails h slot.toNat = none →
      s1.importedKey h slot ct w = some k → exec (.keyImport h slot ct w) s = .next ((s1.setKey slot.toNat (filledSlot .transport k)).reply 0x06 h x.channel .ok [])) ∧
    (∀ (slot : U16) ct w, s.mailWaits (.keyImport h slot ct w) = false → s.tenantFails 0x06 h (leBytes 2 slot.toNat ++ leBytes 6 h.pad.toNat ++ ct ++ w) = none → s1.slotFails h slot.toNat = none →
      s1.importedKey h slot ct w = none → exec (.keyImport h slot ct w) s = .next (s.reply 0x06 h x.channel .integrity [])) ∧
    (∀ slot : U16, s.mailWaits (.keyWithdraw h slot) = false → s.tenantFails 0x07 h (leBytes 2 slot.toNat) = none → s1.slotGranted h slot.toNat = true → s1.isMemorySlot h slot.toNat = false →
      (s1.key slot.toNat).st = .active → exec (.keyWithdraw h slot) s = .next ((s1.withdraw slot.toNat).reply 0x07 h x.channel .ok [])) ∧
    (∀ t, s.mailWaits (.consentSet h t) = false → s.tenantFails 0x08 h (tokenBytes t ++ leBytes 32 t.tag.toNat) = none → s1.tokenFails p t = none →
      ∃ y, y = { (s1.part p).sess with consentFlags := t.flags.toNat, consentSeq := t.seq.toNat + 1, consentFrom := max t.notBefore.toNat s1.ts, consentTo := t.notAfter.toNat } ∧
        exec (.consentSet h t) s = .next ((s1.setSess p y).reply 0x08 h x.channel .ok [])) ∧
    (∀ a b, b = leBytes 4 a.handle.toNat ++ leBytes 4 h.pad.toNat ++ leBytes 8 a.off.toNat ++ leBytes 8 a.len.toNat ++ leBytes 8 a.entry.toNat ++ leBytes 48 a.digest.toNat → s.mailWaits (.coreStart h a) = false →
      s.tenantFails 0x09 h b = none → s1.coreFails p a = none → exec (.coreStart h a) s = .next ((s1.startCores p a 0).reply 0x09 h x.channel .ok [])) ∧
    (∀ k, s.slotGranted h k = true → s.isMemorySlot h k = false → (s.key k).st = .empty → s.slotNamed k = false → s.slotFails h k = none) ∧ (∀ k, s.slotGranted h k = false → s.slotFails h k = some .key) ∧
    (∀ k, s.regRails = true → (s.endSweep k).protectedBy k = [] → (s.endSweep k).regRails = true → s.withdraw k = (s.endSweep k).setKey k { KeySlot.reset with gone := some (s.endSweep k).ts }) ∧
    (∀ k, h.part = 0xFF → s.slotGranted h k = (decide (1 ≤ k) && decide (k ≤ 63)))

/-- R488 to R490: the life cycle moves only from 1 to 2 on Fykor's token, from 2 to 3, from 3 to 4 and from 3 or 4 to 5 while no partition is in use; a move writes both rails of the word and wipes the device, and the response follows when the wipe has ended and
fresh keys are drawn; a start-up that finds no record of a wipe for its state repeats the wipe before any message is taken. -/
def Obligations.LifeCycle : Prop :=
  ∀ (s : State) (h : SecHdr),
    (∀ target token, s.doeOpen = true → s.mailWaits (.lifecycle h target token) = false → s.lifeOk = true → secClean h = true → s.lifeFails target.toNat token = none →
      ∃ u, exec (.lifecycle h target token) s = .next u ∧ u.sec.life = target.setWidth 32 ∧ u.lifeOk = true ∧ u.sec.wiping = some ⟨target.toNat, h.seq.toNat, s.ts, true⟩ ∧ u.objs = [] ∧ u.keys = State.reset.keys ∧
        u.hbm = State.reset.hbm ∧ u.queues = State.reset.queues ∧ u.parts = State.reset.parts) ∧
    (∀ target token st, s.doeOpen = true → s.mailWaits (.lifecycle h target token) = false → s.lifeOk = true → secClean h = true → s.lifeFails target.toNat token = some st →
      exec (.lifecycle h target token) s = .next (s.reply 0x0B h none st [])) ∧
    (∀ target token, s.doeOpen = true → s.mailWaits (.lifecycle h target token) = false → s.lifeOk = false → exec (.lifecycle h target token) s = .next (s.devFault .parity none)) ∧
    (∀ target token, s.doeOpen = true → s.mailWaits (.lifecycle h target token) = false → s.lifeOk = true → secClean h = false → exec (.lifecycle h target token) s = .next (s.reply 0x0B h none .malformed [])) ∧
    (∀ n token, s.lifeFails n token = none → (s.sec.life.toNat = 1 ∧ n = 2) ∨ (s.sec.life.toNat = 2 ∧ n = 3) ∨ (s.sec.life.toNat = 3 ∧ n = 4) ∨ (s.sec.life.toNat = 3 ∧ n = 5) ∨ (s.sec.life.toNat = 4 ∧ n = 5)) ∧
    (∀ w s0 s1, s.sec.wiping = some w → s0 = { s with sec := { s.sec with wiping := none, record := some w.target } }.drawKeys → s1 = (List.range 17).foldl State.makeAdmin (s0.newTable registryKey none 64) →
      exec .lifecycleWipeDone s = .next (if w.answer then (s1.giveDoe (secResponse 0x0B 0xFF w.seq none w.accepted .ok [])).serveMail else s1.serveMail)) ∧
    (∀ o, s.boot.run = some o → s.boot.held = false → s.dev.fault = none → s.boot.linked = true → s.sec.life.toNat ≠ 1 → s.sec.record ≠ some s.sec.life.toNat →
      ∃ u, exec .startupReady s = .next u ∧ u.sec.wiping = some ⟨s.sec.life.toNat, 0, s.ts, false⟩ ∧ u.objs = [] ∧ u.parts = State.reset.parts ∧ u.hbm = State.reset.hbm ∧ ∀ i, u.mailWaits i = true) ∧
    s.losePower.sec.life = s.sec.life ∧ s.losePower.sec.record = s.sec.record ∧
    (∀ (p : Part) l, (s.part p.val).sess.st = .closing ∨ (s.part p.val).sess.st = .free → (s.part p.val).sess.layout = some l → (s.part p.val).sess.clearing = true →
      exec (.partitionResetDone p) s = .next (((s.zeroPart p.val).setSess p.val Session.none).serveMail)) ∧
    (∀ (p : Part) l, (s.part p.val).sess.st = .closing → (s.part p.val).sess.layout = some l → (s.part p.val).sess.clearing = false →
      exec (.partitionResetDone p) s = .next (((s.zeroPart p.val).assign p.val l).serveMail))

/-- R473, R578: SPDM's requests are answered in their order and an earlier one than allowed with ERROR; a measurement is taken with a report that the answer's handle names, and CHUNK_GET delivers it piece by piece; an IDE stream is keyed and started, and TDISP goes
from CONFIG_UNLOCKED over CONFIG_LOCKED to RUN on a secure stream, which a new key ends. -/
def Obligations.SpdmMessages : Prop :=
  ∀ (s : State), s.doeOpen = true → (∀ i, msgPart i = none → s.mailWaits i = false) →
    exec .getVersion s = .next ((s.setSpdm .version).spdmAnswer 0x04 [0x13, 0x12]) ∧
    (s.sec.spdm = .version → exec .getCapabilities s = .next ((s.setSpdm .capabilities).spdmAnswer 0x61 (leBytes 1 16 ++ leBytes 4 4096 ++ leBytes 4 65536))) ∧
    (∀ r, s.sec.spdm = .capabilities → exec (.negotiateAlgorithms r) s = .next ((s.setSpdm .negotiated).spdmAnswer 0x63 r)) ∧
    (s.sec.spdm ≠ .negotiated → exec .getDigests s = .next (s.spdmError 0x81) ∧ (∀ n x b, exec (.getMeasurements n x b) s = .next (s.spdmError 0xE0))) ∧
    (s.sec.spdm = .negotiated →
      exec .getDigests s = .next (s.spdmAnswer 0x01 (sha384 Config.rsaChain ++ sha384 Config.slhChain)) ∧
      (∀ (slot : U8) (off len : U16), slot.toNat < 2 → exec (.getCertificate slot off len) s = .next (s.spdmAnswer 0x02 (slot :: (((if slot = 0 then Config.rsaChain else Config.slhChain).drop off.toNat).take len.toNat)))) ∧
      (∀ x, exec (.challenge 0 x) s = .next (s.spdmAnswer 0x03 (0 :: leBytes 32 x.toNat))) ∧
      (∀ index x sub, s.lifeOk = true → subjectOf index = some sub → ∃ u whole, exec (.getMeasurements index x true) s = .next u ∧ u.sec.large = some ((s.sec.handle + 1) % 256, whole, 0) ∧
        whole = Config.stdAnswer (0x60 :: index :: leBytes 32 x.toNat) s.free ++ s.report sub x ++ Config.stdAnswer (0x60 :: s.report sub x) (s.free + 1)) ∧
      (∀ handle seq b last s1, s.sec.large = some (handle.toNat, b, seq.toNat) → last = decide (b.length ≤ (seq.toNat + 1) * chunkBytes) →
        s1 = { s with sec := { s.sec with large := if last then none else some (handle.toNat, b, seq.toNat + 1) } } →
        exec (.chunkGet handle seq) s = .next (s1.spdmAnswer 0x06 (leBytes 1 (b2n last) ++ leBytes 1 handle.toNat ++ leBytes 2 seq.toNat ++ (b.drop (seq.toNat * chunkBytes)).take chunkBytes)))) ∧
    (∀ (f : Fn) key, (s.fn f.val).tdisp = .run → exec (.ideKmRequest f (.keyProg key)) s = .next (((s.setFn f.val { s.fn f.val with ide := .keyed, ideKey := some key }).leaveRun f.val .error).spdmAnswer 0xFE [0x01, 0x03])) ∧
    (∀ (f : Fn) key, (s.fn f.val).tdisp ≠ .run → exec (.ideKmRequest f (.keyProg key)) s = .next ((s.setFn f.val { s.fn f.val with ide := .keyed, ideKey := some key }).spdmAnswer 0xFE [0x01, 0x03])) ∧
    (∀ f : Fn, (s.fn f.val).ideKey.isSome = true → (s.fn f.val).ide ≠ .insecure → exec (.ideKmRequest f .setGo) s = .next ((s.setFn f.val { s.fn f.val with ide := .secure }).spdmAnswer 0xFE [0x01, 0x05])) ∧
    (∀ f : Fn, f.val ≠ 0 → (s.fn f.val).tdisp = .configUnlocked → exec (.tdispRequest f .lock) s = .next ((s.setFn f.val { s.fn f.val with tdisp := .configLocked }).spdmAnswer 0xFE [0x04])) ∧
    (∀ f : Fn, f.val ≠ 0 → (s.fn f.val).tdisp = .configLocked → (s.fn f.val).ide = .secure → exec (.tdispRequest f .startInterface) s = .next ((s.setFn f.val { s.fn f.val with tdisp := .run }).spdmAnswer 0xFE [0x04])) ∧
    (∀ f : Fn, f.val ≠ 0 → (s.fn f.val).tdisp = .configLocked → (s.fn f.val).ide ≠ .secure → exec (.tdispRequest f .startInterface) s = .next (s.spdmError 0xFE))

/-- R427, R430, R432, R471: a SEC fault during a SEC restart is a device fault; a component that faults is restarted and its fourth fault within a second is a device fault; a component whose code fails its digest at restart stops the device; SEC comes back with
fresh key pairs and serves the messages that waited. -/
def Obligations.ComponentFaults : Prop :=
  ∀ (s : State),
    (s.sec.down.isSome = true → exec .secFault s = .next (s.devFault .key none)) ∧
    (s.sec.down = none → s.fourthFall cpSec = false → ∃ u, exec .secFault s = .next u ∧ u.sec.down = some s.ts ∧ u.sec.opPair = 0 ∧ u.sec.mailbox = [] ∧ u.sec.life = s.sec.life ∧ u.sec.lifeN = s.sec.lifeN) ∧
    (∀ c : Comp, c.val ≠ cpSec → s.compUp c.val = true → s.fourthFall c.val = true →
      exec (.componentWatchdog c) s = .next ((s.setComp c.val ⟨some (.timeout, s.ts), s.falls c.val⟩).devFault .timeout none)) ∧
    (∀ c : Comp, c.val ≠ cpSec → c.val ≠ cpBoot → s.compUp c.val = true → s.fourthFall c.val = false →
      exec (.componentWatchdog c) s = .next ((s.setComp c.val ⟨some (.timeout, s.ts), s.falls c.val ++ [s.ts]⟩).logRec (.restart c.val .timeout))) ∧
    (∀ (c : Comp) x d, c.val ≠ cpSec → s.onlyn.comps.get c.val = some x → x.down = some d → s.compUp cpBoot = true ∨ c.val = cpBoot → exec (.componentRestartDone c false) s = .next (s.devFault .digestMismatch none)) ∧
    (∀ (c : Comp) x st since, c.val ≠ cpSec → c.val ≠ cpLog → c.val ≠ cpDigest → c.val ≠ cpNet → s.onlyn.comps.get c.val = some x → x.down = some (st, since) → s.compUp cpBoot = true ∨ c.val = cpBoot →
      ∃ s1, s1 = (s.setComp c.val ⟨none, s.falls c.val⟩).countRestart c.val ∧ exec (.componentRestartDone c true) s = .next (s1.bumpDev (0x408 + 16 * c.val) (s.waitedFor c.val since))) ∧
    (∀ s1, s.sec.down.isSome = true → s1 = (s.setComp cpSec ⟨none, s.falls cpSec⟩).countRestart cpSec →
      ∃ u : State, exec .secRestartDone s = .next u.verifyStaged.serveMail ∧ u.sec.down = none ∧ u.sec.opPair = Config.trng s1.free ∧ u.objs = s.objs ∧ u.keys = s.keys) ∧
    (∀ unit, exec (.cipherUnitFail unit) s = .next (s.devFault .integrity none)) ∧
    (∀ core, exec (.partitionCoreWfi core true) s = .next { s with pwr := { s.pwr with wfi := insertNat core.val s.pwr.wfi } } ∧
      exec (.partitionCoreWfi core false) s = .next { s with pwr := { s.pwr with wfi := removeNat core.val s.pwr.wfi } })

/-! ### Registers -/

/-- R439, R555, R589, R590, R591: a write of 4 or 8 aligned bytes that BAR0 serves changes its register's fields, and any other is dropped; a 32-bit read of a low word latches the high word, which the next read of it by the same reader returns; what is not
served reads zero. TS_NOW never goes back and runs at most 19 ns past a tick (R15, R542); the high-water mark, a budget word and a set's commit word are checked on both rails, and a mismatch is the fault of R449 (R284, R327; log entry 216, DESIGN CHOICE); a doorbell page of BAR4 reads as R398 has it. -/
def Obligations.RegisterAccesses : Prop :=
  ∀ (s : State) (fn : Fn) (off : U32),
    (∀ core size (value : U64), (core && fn.val == 0) = false → exec (.regWrite core fn off size value) s = .next ((s.setLatch core fn.val none).writeReg core fn.val off.toNat size value.toNat)) ∧
    (∀ core v, s.writeReg core fn.val off.toNat 4 v = (if off.toNat % 4 = 0 ∧ s.bar0Open fn.val (off.toNat / 8 * 8) = true ∧ s.served core fn.val (off.toNat / 8 * 8) = true then s.writeHalf fn.val off.toNat (v % 2 ^ 32) else s)) ∧
    (∀ core size v, size ≠ 4 → size ≠ 8 → s.writeReg core fn.val off.toNat size v = s) ∧
    (∀ v, (s.writeHalf 0 rPwrCap v).dreg rPwrCap 1650 = v % 2048 ∧ (s.writeHalf 0 rFwLen v).dreg rFwLen 0 = v % 2 ^ 32 ∧ (s.writeHalf 0 rPwrHold v).dreg rPwrHold 100 = v % 65536) ∧
    (∀ core w s1, (core && fn.val == 0) = false → s.latchOf core fn.val = none → s.readReg core fn.val off.toNat = (w, s1) →
      (off.toNat % 8 = 0 → halves off.toNat = false → exec (.regHighWordLatch core fn ⟨false, off⟩) s = .next ((s1.setLatch core fn.val (some (off.toNat + 4, w / 2 ^ 32))).answer core fn.val off.toNat (w % 2 ^ 32))) ∧
      (off.toNat % 8 = 0 → halves off.toNat = true → exec (.regHighWordLatch core fn ⟨false, off⟩) s = .next ((s1.setLatch core fn.val none).answer core fn.val off.toNat (w % 2 ^ 32))) ∧
      (off.toNat % 8 = 4 → exec (.regHighWordLatch core fn ⟨false, off⟩) s = .next (s1.answer core fn.val off.toNat (w / 2 ^ 32)))) ∧
    (∀ core v, (core && fn.val == 0) = false → off.toNat % 4 = 0 → s.latchOf core fn.val = some (off.toNat, v) → exec (.regHighWordLatch core fn ⟨false, off⟩) s = .next ((s.setLatch core fn.val none).answer core fn.val off.toNat v)) ∧
    (∀ core, (core && fn.val == 0) = false → off.toNat % 4 ≠ 0 → exec (.regHighWordLatch core fn ⟨false, off⟩) s = .next ((s.setLatch core fn.val none).answer core fn.val off.toNat 0)) ∧
    (∀ core o, o / 8 * 8 ≠ 0x48 → s.readFault core fn.val o = none → s.readReg core fn.val o = (s.readWord core fn.val o, s)) ∧
    (∀ core o u, s.readFault core fn.val o = some u → s.readReg core fn.val o = (0, u)) ∧
    (∀ core, s.bar0Open fn.val 0x48 = true → s.served core fn.val 0x48 = true → ∃ d, d ≤ 19 ∧ (s.readReg core fn.val 0x48).1 = s.ts + d ∧ (s.readReg core fn.val 0x48).2.ts = s.ts + d) ∧
    (s.bar0Open 0 0x103018 = true → s.fnOpen 0 = true → s.shroud.railsOk = false → s.readFault false 0 0x103018 = some (s.devFault .parity none)) ∧
    (∀ k, k < 82 → s.bar0Open 0 (0x100000 + 8 * k) = true → s.fnOpen 0 = true → s.budgetRailOk k = false → s.readFault false 0 (0x100000 + 8 * k) = some (s.budgetFault k)) ∧
    (∀ (core : Bool) p n u, p < 16 → n < 16 → s.bar0Open fn.val (0x2003100 + 65536 * p + 64 * n) = true → s.served core fn.val (0x2003100 + 65536 * p + 64 * n) = true →
      s.usets.get (16 * p + n) = some u → u.railOk = false → s.readFault core fn.val (0x2003100 + 65536 * p + 64 * n) = some (s.partFault p .parity none)) ∧
    (∀ core, (core && fn.val == 0) = false → exec (.regHighWordLatch core fn ⟨true, off⟩) s = .next ((s.setLatch core fn.val none).answerAt core true fn.val off.toNat (s.doorbellWord fn.val off.toNat))) ∧
    (∀ q, s.fnOpen fn.val = true → s.queues.get (65536 * fn.val + off.toNat / 4096) = some q →
      (off.toNat % 4096 = 0 → s.doorbellWord fn.val off.toNat = 0) ∧ (off.toNat % 4096 = 4 → s.doorbellWord fn.val off.toNat = q.cqHead) ∧ (off.toNat % 4096 = 8 → s.doorbellWord fn.val off.toNat = q.head) ∧
      (off.toNat % 4096 = 12 → s.doorbellWord fn.val off.toNat = if q.st = .active then 1 else 2)) ∧
    (∀ core o, s.bar0Open fn.val (o / 8 * 8) = false ∨ s.served core fn.val (o / 8 * 8) = false → s.readWord core fn.val o = 0) ∧
    (∀ o, s.pwr.off = true ∨ s.pwr.asleep = true → s.bar0Open fn.val o = false)

/-- R436, R437, R356, R597, R598: NEG_GO accepts version 4 with the features both ends offer and version 3 with its own, refuses any other, and is refused while the function holds a context; a function's reset clears the agreement; a forwarded register request is answered to the head; a debug access reaches a tile
of a partition that consents, and is counted where it is refused. -/
def Obligations.NegotiationAndDebug : Prop :=
  ∀ (s : State),
    (∀ fn : Fn, s.bar0Open fn.val 0x40 = true → (∀ e ∈ s.ctxs, e.2.fn ≠ fn.val) → ∃ (u : State) (v : Nat), exec (.negGo fn) s = .next u ∧ (u.fn fn.val).regs.getD 0x44 0 = 2 * v ∧ u.ctxs = s.ctxs ∧ u.queues = s.queues ∧
      (bitsOf ((s.fn fn.val).regs.getD 0x40 0) 8 8 = 4 → v = 2 ∧ (u.fn fn.val).regs.getD 0xA0 0 = (((s.fn fn.val).regs.getD 0x80 0 &&& State.featOffer fn.val) ||| 1)) ∧
      (bitsOf ((s.fn fn.val).regs.getD 0x40 0) 8 8 = 3 → v = 3 ∧ (u.fn fn.val).regs.getD 0xA0 0 = (((s.fn fn.val).regs.getD 0x80 0 &&& 0x1083) ||| 0x1001)) ∧
      (bitsOf ((s.fn fn.val).regs.getD 0x40 0) 8 8 ≠ 3 → bitsOf ((s.fn fn.val).regs.getD 0x40 0) 8 8 ≠ 4 → v = 4 ∧ (u.fn fn.val).regs.getD 0xA0 0 = 0)) ∧
    (∀ fn : Fn, s.bar0Open fn.val 0x40 = true → (∃ e ∈ s.ctxs, e.2.fn = fn.val) → ∃ u : State, exec (.negGo fn) s = .next u ∧ (u.fn fn.val).regs.getD 0x44 0 = 10 ∧
      (u.fn fn.val).regs.getD 0xA0 0 = (s.fn fn.val).regs.getD 0xA0 0 ∧ u.ctxs = s.ctxs ∧ u.queues = s.queues) ∧
    (∀ fn : Fn, s.bar0Open fn.val 0x40 = false → exec (.negGo fn) s = .next s) ∧
    (∀ fn : Fn, ((s.resetFn fn.val).fn fn.val).regs.getD 0x44 0 = 0 ∧ ((s.resetFn fn.val).fn fn.val).regs.getD 0xA0 0 = 0) ∧
    (s.ready = false → s.onlyn.recovery = false → ∀ fn : Fn, exec (.negGo fn) s = .next s) ∧
    (∀ (head : Pos) (off value : U64) s1, s1 = (s.takeInbox ⟨3, head.val, 3, leBytes 8 off.toNat ++ leBytes 8 value.toNat⟩).fresh.2 → (Config.freeWord (s.takeInbox ⟨3, head.val, 3, leBytes 8 off.toNat ++ leBytes 8 value.toNat⟩).free).toNat % 2 = 1 →
      exec (.fwdRegRequest head off value) s = .next ((s1.writeReg false 0 off.toNat 8 value.toNat).sendControl head.val 4 (leBytes 8 off.toNat ++ leBytes 8 value.toNat))) ∧
    (∀ (head : Pos) (off value : U64) s1 s2 v, s1 = (s.takeInbox ⟨3, head.val, 3, leBytes 8 off.toNat ++ leBytes 8 value.toNat⟩).fresh.2 → (Config.freeWord (s.takeInbox ⟨3, head.val, 3, leBytes 8 off.toNat ++ leBytes 8 value.toNat⟩).free).toNat % 2 = 0 →
      (v, s2) = (if off.toNat % 8 = 0 then s1.readReg false 0 off.toNat else (0, s1)) →
      exec (.fwdRegRequest head off value) s = .next (s2.sendControl head.val 4 (leBytes 8 off.toNat ++ leBytes 8 v))) ∧
    (∀ (off : U32) (value : U64) idx region p s1, s.bar0Open 0 0x3000000 = true → 0x3200000 ≤ off.toNat → off.toNat < 0x3400000 → off.toNat % 8 = 0 → idx = bitsOf (s.dreg rDbgSel 0) 8 8 → region = bitsOf (s.dreg rDbgSel 0) 3 3 →
      bitsOf (s.dreg rDbgSel 0) 6 2 = 0 → idx < 160 → region < 4 → off.toNat - 0x3200000 + 8 ≤ regionSize region → s1 = s.setLatch false 0 none → (s1.tile idx).failed = false → s1.tileCut idx = false → s1.tilePart idx = some p → s1.consent p 1 = true →
      exec (.dbgAccess off false 8 value) s = .next (s1.answer false 0 off.toNat (s1.dbgRead idx region (off.toNat - 0x3200000) 8)) ∧
      exec (.dbgAccess off true 8 value) s = .next (s1.dbgWrite idx region (off.toNat - 0x3200000) 8 value.toNat)) ∧
    (∀ (off : U32) (value : U64) idx p s1, s.bar0Open 0 0x3000000 = true → 0x3200000 ≤ off.toNat → off.toNat < 0x3400000 → off.toNat % 8 = 0 → idx = bitsOf (s.dreg rDbgSel 0) 8 8 → bitsOf (s.dreg rDbgSel 0) 6 2 = 0 → idx < 160 →
      s1 = s.setLatch false 0 none → s1.tilePart idx = some p → s1.consent p 1 = false → exec (.dbgAccess off true 8 value) s = .next (s1.dbgRefused (some p)))

/-! ### Time, power and resets -/

/-- R15, R360, R542: a tick of the always-on clock advances TS by 20 ns, steered, from the tick before, and keeps the fraction; TS never goes back; while the always-on domain has no power nothing happens. -/
def Obligations.TimeTicks : Prop :=
  ∀ (s : State), (s.pwr.off = false ∨ s.pwr.shut = true → exec .aonTick s =
      .next { s with ts := max s.ts (s.ts - s.pwr.sub + (s.pwr.frac + tickStep s.rig.steer) / 2 ^ 32) % 2 ^ 64, pwr := { s.pwr with frac := (s.pwr.frac + tickStep s.rig.steer) % 2 ^ 32, sub := 0 } }) ∧
    (s.pwr.off = true → s.pwr.shut = false → exec .aonTick s = .next s) ∧ tickStep 0 = 20 * 2 ^ 32 ∧
    (s.ts < 2 ^ 64 → s.ts - s.pwr.sub + (s.pwr.frac + tickStep s.rig.steer) / 2 ^ 32 < 2 ^ 64 → ∃ u, exec .aonTick s = .next u ∧ s.ts ≤ u.ts) ∧
    (s.pwr.off = false → s.rig.steer = 0 → s.pwr.frac < 2 ^ 32 → s.pwr.sub ≤ 19 → s.ts + 20 < 2 ^ 64 →
      ∃ u, exec .aonTick s = .next u ∧ u.ts = s.ts - s.pwr.sub + 20 ∧ u.pwr.sub = 0 ∧ u.pwr.frac = s.pwr.frac ∧ u.objs = s.objs ∧ u.hbm = s.hbm)

/-- R444 to R449, R548 to R550, R570, R572: the budget period checks every word, refills every activity and admits what waits; PWR chooses each domain's point and each rail's voltage within its range, and the latest AVSBus request of a rail is its voltage; the cap's demand rises above the cap and holds at it; the thermal demand rises above 95 degrees, falls below 90 and holds between. -/
def Obligations.PowerLoops : Prop :=
  ∀ (s : State),
    (s.pwr.off = false → s.pwr.asleep = false → exec .budgetPeriod s = .next (((List.range 9).foldl State.loadOf (activities.foldl State.refill (activities.foldl State.budgetFault s))).admitWaiting.tallyFull)) ∧
    (∀ k, s.budgetRailOk k = false → s.refill k = s) ∧
    (∀ k, s.budgetRailOk k = true → s.budgetWord k % 2 ^ 20 ≠ 0xFFFFF → s.dev.used.getD k 0 ≤ s.budgetWord k % 2 ^ 20 → (s.refill k).dev.used = s.dev.used.erase k ∧ (s.refill k).dev.regs = s.dev.regs) ∧
    (∀ k, s.budgetRailOk k = true → s.budgetFault k = s) ∧ (∀ k, s.budgetRailOk k = false → s.budgetFault k = if k < 64 then s.partFault (k / 4) .parity none else if k < 80 then s.compFault (k - 64) .parity else s.devFault .parity none) ∧
    (∀ k i, (k % 2 = 0 → 600 ≤ railChoice k i ∧ railChoice k i ≤ 800) ∧ (k % 2 = 1 → 700 ≤ railChoice k i ∧ railChoice k i ≤ 950)) ∧
    (∀ k, k < 4 → s.pwr.rails ≠ [] → ((s.avsSet.pwr.avs.reverse.find? (fun x => x.bus == k / 2 && x.rail == k % 2)).map (fun x => x.mv)) = some (s.pwr.railMv k)) ∧
    (s.pwrRuns = true → ∃ u, exec .pwrDomainLoop s = .next u ∧ u.pwr.iters = s.pwr.iters + 1 ∧ u.pwr.points.length = 96 ∧ u.pwr.rails = (List.range 4).map (fun k => (k, railChoice k s.pwr.iters)) ∧ u.objs = s.objs ∧ u.runs = s.runs ∧ u.dev = s.dev) ∧
    (∀ w, s.pwrRuns = true → ∃ u, exec (.pwrCapLoop w) s = .next u ∧ u.pwr.watts = w ∧ (s.capWatts < w → u.pwr.capDemand = min 7 (s.pwr.capDemand + 1)) ∧ (w = s.capWatts → u.pwr.capDemand = s.pwr.capDemand) ∧
      (w < s.capWatts → u.pwr.holdSince = none ∧ (u.pwr.capDemand = s.pwr.capDemand ∨ u.pwr.capDemand = s.pwr.capDemand - 1)) ∧ u.objs = s.objs ∧ u.hbm = s.hbm) ∧
    (∀ c, s.pwrRuns = true → ∃ u, exec (.pwrThermalLoop c) s = .next u ∧ (s.pwr.trip = true → u.pwr.thermDemand = 7) ∧ (s.pwr.trip = false → 95 < c → u.pwr.thermDemand = min 7 (s.pwr.thermDemand + 1)) ∧
      (s.pwr.trip = false → c < 90 → u.pwr.thermDemand = s.pwr.thermDemand - 1) ∧ (s.pwr.trip = false → 90 ≤ c → c ≤ 95 → u.pwr.thermDemand = s.pwr.thermDemand) ∧ u.dreg 0x204 0 = min 255 c ∧ u.objs = s.objs)

/-- R545 to R547, R550 to R552: the power brake raises the demand to its level at once; a trip stops issue, counts itself and asks for the top level, and ends below 100 degrees; a domain wakes, is a device fault after ten times its latency, and goes off when its rule
says so, with its tile memory zero. -/
def Obligations.BrakeTripAndDomains : Prop :=
  ∀ (s : State),
    (∃ u, exec .powerBrakeAssert s = .next u ∧ u.pwr.brake = true ∧ u.pwr.brakeDemand = max s.pwr.brakeDemand (s.dreg rPwrBrake 7 % 8) ∧ u.objs = s.objs ∧ u.runs = s.runs) ∧
    (∃ u, exec .powerBrakeRelease s = .next u ∧ u.pwr.brake = false ∧ u.pwr.brakeDemand = s.pwr.brakeDemand ∧ u.objs = s.objs) ∧
    (∀ c, 110 ≤ c → s.pwr.off = false → ∃ u, exec (.thermalTrip c) s = .next u ∧ u.pwr.trip = true ∧ u.pwr.thermDemand = 7 ∧ u.objs = s.objs ∧ u.runs = s.runs ∧
      (s.pwr.trip = false → u.dreg rTherm 0 = (s.dreg rTherm 0 + 1) % 2 ^ 32 ∧ u.pwr.tripAt = s.ts) ∧ (s.pwr.trip = true → u.dreg rTherm 0 = s.dreg rTherm 0)) ∧
    (∀ c, c < 110 → exec (.thermalTrip c) s = .next s) ∧
    (∀ c, c < 100 → s.pwr.trip = true → ∃ u, exec (.thermalTripClear c) s = .next u ∧ u.pwr.trip = false ∧ u.pwr.hotSince = none ∧ u.pwr.thermDemand = s.pwr.thermDemand ∧ u.objs = s.objs) ∧
    (∀ c, 100 ≤ c → exec (.thermalTripClear c) s = .next s) ∧
    (∀ (d : Domain) t, (s.dom d.val).waking = some t → ¬(20 ≤ d.val ∧ d.val < 40) → exec (.domainAwake d) s = .next ((s.setDom d.val ⟨true, none, s.ts⟩).bumpDev cWakeWait ((s.setDom d.val ⟨true, none, s.ts⟩).wakeWaits d.val))) ∧
    (∀ (d : Domain) t s1, (s.dom d.val).waking = some t → 20 ≤ d.val → d.val < 40 → s1 = (s.setDom d.val ⟨true, none, s.ts⟩).zeroColumn (d.val - 20) → exec (.domainAwake d) s = .next (s1.bumpDev cWakeWait (s1.wakeWaits d.val))) ∧
    (∀ (d : Domain), (s.dom d.val).waking = none → exec (.domainAwake d) s = .next s) ∧ (∀ (d : Domain), s.mayOff d.val = false → exec (.domainIdle d) s = .next s) ∧
    (∀ (d : Domain) t, (s.dom d.val).waking = some t → t + 10 * wakeLatency d.val ≤ s.ts → exec (.domainWakeTimeout d) s = .next (s.devFault .timeout none)) ∧
    (∀ (d : Domain) t, (s.dom d.val).waking = some t → s.ts < t + 10 * wakeLatency d.val → exec (.domainWakeTimeout d) s = .next s) ∧
    (∀ (d : Domain), s.mayOff d.val = true → d.val < 20 ∨ (40 ≤ d.val ∧ d.val < 65) ∨ 73 ≤ d.val → exec (.domainIdle d) s = .next (s.setDom d.val { s.dom d.val with on := false, waking := none })) ∧
    (∀ (d : Domain), s.mayOff d.val = true → 20 ≤ d.val → d.val < 40 → exec (.domainIdle d) s = .next ((s.setDom d.val { s.dom d.val with on := false, waking := none }).zeroColumn (d.val - 20)))

/-- R543, R544, R553 to R559: power good and each reset put the device at the start of start-up with its cause in RST_CAUSE; a reset keeps TS and the life cycle, a loss of power clears TS; rails that are out hold start-up, a word or a slot that fails stops it, and it ends
ready once nothing holds it. -/
def Obligations.ResetsAndStartUp : Prop :=
  ∀ (s : State) (o : StartupOutcome),
    (s.pins.pwrGood = false → ∃ s1, s1 = s.collapse true true ∧ exec (.powerGood o) s = .next ({ s1 with pins := { s1.pins with pwrGood := true, i3c := none, eid := 0 } }.startUp (if s.pwr.shut then 6 else 1) 0 o true)) ∧
    (s.pins.pwrGood = false → ∃ u, exec (.powerGood o) s = .next u ∧ u.ts = 0) ∧ (∀ c st f, (s.deviceReset c st o f).ts = s.ts) ∧
    (s.pins.pwrGood = true → exec .powerGoodLoss s = .next s.losePower) ∧
    (∀ u, u = s.losePower → u.ts = 0 ∧ u.pwr.off = true ∧ u.objs = [] ∧ u.hbm = [] ∧ u.queues = [] ∧ u.keys = State.reset.keys ∧ u.pending = s.pending) ∧
    (∀ r : Fin 19, s.pins.pwrGood = true → s.boot.held = false → (r.val < 2 → exec (.railOutOfTolerance r) s = .next s.losePower) ∧ (2 ≤ r.val → exec (.railOutOfTolerance r) s = .next (s.devFault .parity none))) ∧
    (∀ b, s.boot.run = some b → s.boot.held = true → exec (.romRailRecheck true) s = .next (s.bootOn b)) ∧
    (s.boot.run = some o → s.boot.held = true → exec (.romRailRecheck false) s = .next s) ∧
    (s.pins.pwrGood = true → ∃ s1, s1 = { s with pins := { s.pins with perst := true } } ∧ exec (.perstAssert o) s = .next (s1.deviceReset (if s.pwr.shut then 6 else if s.pwr.asleep then 7 else 2) 0 o true)) ∧
    exec .perstRelease s = .next { s with pins := { s.pins with perst := false }, boot := { s.boot with linked := true } } ∧
    (s.pwr.asleep = true → exec (.wakeN o) s = .next (s.deviceReset 7 0 o true)) ∧
    (s.bar0Open 0 rRstCtrl = true → exec (.warmReset o) s = .next (s.deviceReset 3 0 o false)) ∧
    (∀ st t, s.dev.fault = some (st, t) → bitOf (s.dreg rRstCtrl 0x20) 5 = true → t + 10000000 ≤ s.ts → exec (.faultAutoReset o) s = .next (s.deviceReset 5 (statusCode st) o false)) ∧
    (s.bar0Open 0 0x620 = true → (∀ p < 16, (s.part p).sess.st = .free) → ∃ u, exec .pwrStateSleep s = .next u ∧ u.pwr.asleep = true ∧ u.ts = s.ts ∧ u.objs = [] ∧ u.queues = []) ∧
    (∀ c, s.pwr.off = false → 115 ≤ c → ∃ u, exec (.thermalShutdown c) s = .next u ∧ u.pwr.off = true ∧ u.pwr.shut = true ∧ u.ts = s.ts ∧ u.objs = []) ∧
    (∀ c st f, o.railsOk = false → (s.startUp c st o f).dreg rRstCause 1 = st * 256 + c ∧ (s.startUp c st o f).dreg rRstTs 0 = s.ts ∧ (s.startUp c st o f).boot.held = true ∧ (s.startUp c st o f).ts = s.ts) ∧
    (∀ b, s.lifeOk = false → s.bootOn b = ({ s with boot := { s.boot with held := false } }.atStep 1).devFault .parity none) ∧
    (∀ b, s.boot.run = some b → s.boot.held = false → s.dev.fault = none → s.boot.linked = true → (s.sec.life = 1 ∨ s.sec.record = some s.sec.life.toNat) →
      ∃ v : State, exec .startupReady s = .next ((List.range 17).foldl State.makeAdmin (v.newTable registryKey none 64)).serveMail ∧ v.boot.run = none ∧ bitOf (v.dreg rStartup 0) 31 = true ∧ v.pins.drs = s.pins.drs + 1 ∧ v.sec.life = s.sec.life)

/-- R440 to R443: FW_START begins a read of the staged image of an idle device, with BOUNDS where contexts remain; FW_ACTIVATE resets into a written image; a slot whose read-back differs, or whose write loses power, is broken. -/
def Obligations.FirmwareUpdate : Prop :=
  ∀ (s : State) (o : StartupOutcome),
    (s.bar0Open 0 0x100 = true → s.compUp cpBoot = true → (s.fwPhase = 0 ∨ s.fwPhase = 4) → s.onlyn.recovery = false → (∀ e ∈ s.ctxs, e.2.part = none) → 4096 ≤ s.dreg rFwLen 0 → s.dreg rFwLen 0 ≤ 33554432 →
      exec .fwStart s = .next ((s.setFw 1 .ok).addAcc ⟨.hostRead, .none, true, 0, 0, s.dreg rFwLen 0, [], 0, s.ts, [], 0, false, s.ts, 0⟩)) ∧
    (s.bar0Open 0 0x100 = true → s.compUp cpBoot = true → (s.fwPhase = 0 ∨ s.fwPhase = 4) → s.onlyn.recovery = false → (s.dreg rFwLen 0 < 4096 ∨ 33554432 < s.dreg rFwLen 0) → exec .fwStart s = .next (s.setFw 0 .bounds)) ∧
    (s.bar0Open 0 0x100 = true → s.fwPhase = 4 → exec (.fwActivate o) s = .next (s.deviceReset 4 0 o false)) ∧
    (s.fwPhase ≠ 3 → o.railsOk = false → (s.deviceReset 4 0 o false).onlyn.running = s.onlyn.slot) ∧ (s.fwPhase = 3 → s.losePower.onlyn.slot = .broken) ∧
    (∀ img b s1, s.onlyn.staged = some img → s.fwPhase = 3 → s.compUp cpBoot = true → s.onlyn.recovery = false → s1 = { s with onlyn := { s.onlyn with staged := none } } →
      (sha384 b = sha384 img.bytes → ∃ s2, s2 = s1.setFw 4 .ok ∧ exec (.bootFlashWriteDone b o) s = .next { s2 with onlyn := { s2.onlyn with slot := .written img.bytes } }) ∧
      (sha384 b ≠ sha384 img.bytes → ∃ s2, s2 = s1.setFw 0 .digestMismatch ∧ exec (.bootFlashWriteDone b o) s = .next { s2 with onlyn := { s2.onlyn with slot := .broken } })) ∧
    (∀ img, s.onlyn.staged = some img → s.fwPhase = 2 → s.sec.down = none → (img.rsaOk && img.slhOk) = true → (img.securityVersion.toNat < Config.rollbackFuse.toNat → (s.verifyStaged).fwPhase = 0) ∧
      (Config.rollbackFuse.toNat ≤ img.securityVersion.toNat → s.verifyStaged = s.setFw 3 .ok))

/-- R482, R483, R563: a block of host memory that verifies goes to its pages and one that fails ends its part with INTEGRITY, or with KEY where the slot is withdrawn; a completion that stays out for the programmed time is a context fault of a COPY. -/
def Obligations.HostMemoryAnswers : Prop :=
  ∀ (s : State) (acc id : Nat) (a : Access) (w : Work), s.acc? acc = some a → a.kind = .hostRead → a.owner = .work id → s.works.get id = some w →
    (∀ c k b s1, w.chunks[a.chunk]? = some c → wrapOf w = some k → s1 = s.dropAcc acc → (s1.key k).st = .active → blockOk (s1.key k).key (hostBase w) c b = true →
      exec (.hostReadCompletion acc [b] none) s = .next ((s1.chunkData id a.chunk b.data).settleWork id)) ∧
    (∀ c k b s1, w.chunks[a.chunk]? = some c → wrapOf w = some k → s1 = s.dropAcc acc → (s1.key k).st = .active → blockOk (s1.key k).key (hostBase w) c b = false →
      exec (.hostReadCompletion acc [b] none) s = .next ((s1.failChunk id a.chunk .integrity true).settleWork id)) ∧
    (∀ c k l s1, w.chunks[a.chunk]? = some c → wrapOf w = some k → s1 = s.dropAcc acc → (s1.key k).st ≠ .active → exec (.hostReadCompletion acc l none) s = .next ((s1.failChunk id a.chunk .key false).settleWork id)) ∧
    (∀ key base c b, blockOk key base c b = true → b.direction = 0 ∧ b.offset.toNat = base + c.off ∧ b.data.length = c.len) ∧
    (∀ c q s1, a.since + 1000 * s.pins.ctoUs ≤ s.ts → s1 = s.dropAcc acc → s1.works.get id = some w → w.ctx = some c → w.q = some q → exec (.hostCompletionTimeout acc) s = .next (s1.ctxFault c .tierFail (some (q, w.sub)))) ∧
    (s.ts < a.since + 1000 * s.pins.ctoUs → exec (.hostCompletionTimeout acc) s = .next s)

/-- R561 to R563, R574, R578, R582 to R585: a function-level reset takes the function's contexts and queues; a stream whose check fails is Insecure and resets its function; a function that leaves RUN is reset; the link's rate and width stand in LINK_STATUS; the
sideband answers while the always-on domain is powered, and a sensor that crosses a threshold either way sends an event, one whose domain is off none. -/
def Obligations.FunctionsAndSideband : Prop :=
  ∀ (s : State) (fn : Fn),
    (s.ready = true → exec (.functionLevelReset fn) s = .next (s.resetFn fn.val)) ∧
    ((s.fn fn.val).ide = .secure → (s.fn fn.val).tdisp = .run → exec (.ideCheckFail fn) s = .next ((s.setFn fn.val { s.fn fn.val with ide := .insecure, tdisp := .error }).resetFn fn.val)) ∧
    ((s.fn fn.val).ide = .secure → (s.fn fn.val).tdisp ≠ .run → exec (.ideCheckFail fn) s = .next ((s.setFn fn.val { s.fn fn.val with ide := .insecure }).resetFn fn.val)) ∧
    (fn.val ≠ 0 → (s.fn fn.val).tdisp = .run → exec (.tdispLeaveRun fn) s = .next (s.fresh.2.leaveRun fn.val .error) ∨ exec (.tdispLeaveRun fn) s = .next (s.fresh.2.leaveRun fn.val .configUnlocked)) ∧
    (∀ (r : BitVec 3) (w : BitVec 5) b, s.pwr.off = false → s.pwr.asleep = false → ∃ u, exec (.pcieLinkChange r w b) s = .next u ∧ u.dreg rLink 0 = b2n (decide (w.toNat ≤ 4)) * 2048 + r.toNat * 256 + w.toNat * 8 + b2n b * 4 ∧ u.objs = s.objs) ∧
    (s.pwr.off = false → s.pwr.asleep = false → s.pins.perst = false → s.dev.closedPcie = false →
      (∀ off, exec (.pcieConfigRequest fn (.read off)) s = .next (s.configAnswer fn.val off.toNat (s.pins.config.getD (65536 * fn.val + off.toNat) 0))) ∧
      (∀ off v, exec (.pcieConfigRequest fn (.write off v)) s = .next { s with pins := { s.pins with config := s.pins.config.set (65536 * fn.val + off.toNat) v.toNat } }) ∧
      (∀ on, exec (.pcieConfigRequest fn (.vfEnable on)) s = .next (if fn.val = 0 ∧ s.onlyn.recovery = false then { s with pins := { s.pins with vfEnable := on } } else s)) ∧
      (∀ d, exec (.pcieConfigRequest fn (.dState d)) s = .next (s.setFn fn.val { s.fn fn.val with d3hot := d })) ∧
      (∀ us, exec (.pcieConfigRequest fn (.ctoRange us)) s = .next { s with pins := { s.pins with ctoUs := max 50 (min 64000 us.toNat) } })) ∧
    s.fru = [0x46, 0x4B, 0x4C, 0x2D, 0x54, 0x37, 0x41, 0x31] ++ ownIdentity ++ leBytes 4 (if s.onlyn.recovery then 0 else imgVersion s.onlyn.running) ∧
    (s.aonOn = true →
      (∀ x, exec (.i3cDaa x) s = .next { s with pins := { s.pins with i3c := some x.toNat } }) ∧
      (∀ r, fieldLE r 2 1 ≠ 1 → exec (.mctpControl r) s = .next (s.sendSide (0 :: leBytes 1 s.pins.eid ++ r))) ∧
      (∀ c arg, exec (.pldmRequest 4 c arg) s = .next (s.sendSide ([4, c, 0] ++ s.fru))) ∧
      (∀ ty c arg, ty ≠ 0 → ty ≠ 2 → ty ≠ 4 → exec (.pldmRequest ty c arg) s = .next (s.sendSide [ty, c, 0x20])) ∧
      (∀ arg id v, id = fieldLE arg 0 2 → 1 ≤ id → id ≤ 36 → s.sensor id = some v → exec (.pldmRequest 2 0x11 arg) s = .next (s.sendSide ([2, 0x11, 0, 0] ++ intBytes v))) ∧
      (∀ id (v : Int) d, sensorDomain id = some d → (s.dom d).on = false → exec (.sensorUpdate id v) s = .next s) ∧
      (∀ id (v old : Int) s1, 1 ≤ id → id ≤ 34 → (∀ d, sensorDomain id = some d → (s.dom d).on = true) → old = s.pins.sensors.getD id 0 → s1 = { s with pins := { s.pins with sensors := s.pins.sensors.set id v } } →
        (∃ u, exec (.sensorUpdate id v) s = .next u ∧ u.pins.sensors = s.pins.sensors.set id v ∧ u.objs = s.objs ∧ u.ts = s.ts) ∧
        (∀ w c, s.thresholds id = some (w, c) → (w ≤ 10 * old ↔ w ≤ 10 * v) → (c ≤ 10 * old ↔ c ≤ 10 * v) → exec (.sensorUpdate id v) s = .next s1) ∧
        (∀ w c, s.thresholds id = some (w, c) → ¬(w ≤ 10 * old ↔ w ≤ 10 * v) → (c ≤ 10 * old ↔ c ≤ 10 * v) → exec (.sensorUpdate id v) s = .next (s1.sendSide ([2, 0x0A] ++ leBytes 2 id ++ [1] ++ intBytes v))) ∧
        (∀ w c, s.thresholds id = some (w, c) → (w ≤ 10 * old ↔ w ≤ 10 * v) → ¬(c ≤ 10 * old ↔ c ≤ 10 * v) → exec (.sensorUpdate id v) s = .next (s1.sendSide ([2, 0x0A] ++ leBytes 2 id ++ [2] ++ intBytes v)))))

/-! ### The Rigging -/

/-- R330, R337, R338, R341, R344 to R346: a port that is UP sends in each frame slot, encrypted and with the tag of its number (R23, R335), and receives frames; a flit is taken only in its turn and under its tag, a repeated one is dropped, a gap asks for a resend, a whole message stands in the receive buffer until its unit takes it and then returns its credits (R339), and the second failure of one number takes the port DOWN, as
does a full replay buffer without an acknowledgement for 2 microseconds. -/
def Obligations.FlitsInOrder : Prop :=
  ∀ (s : State) (port : PortNo) (f : Flit) (x : RPort), x = s.port port.val → x.st = .up →
    (exec (.rigFrameSlot port) s = .next ((s.pumpMirror port.val).slot port.val)) ∧
    (∀ g again, (s.emitFlit port.val g again).rig.wire = s.rig.wire ++ [(port.val, fecFrame (flitWire x.secret (s.txDir port.val) g.seq (mkLink g.seq (x.rxSeq + 4095) (x.nak || (again && x.failed.isSome)) g.cred.1 g.cred.2) g.route g.payload))] ∧
      ((s.emitFlit port.val g again).port port.val).nak = false) ∧
    (∀ w : Bytes, w.length = 256 → (fecFrame w).length = 272 ∧ (fecFrame w).take 256 = w) ∧
    (exec (.rigFrameReceive port .clean f) s = .next (s.setRig { s.rig with rx := s.rig.rx ++ [(port.val, f)] })) ∧
    (∀ s1, s1 = s.bumpPort port.val cFecCorr 1 → exec (.rigFrameReceive port .corrected f) s = .next (s1.setRig { s1.rig with rx := s1.rig.rx ++ [(port.val, f)] })) ∧
    (exec (.rigFrameReceive port .uncorrectable f) s = .next ((s.bumpPort port.val cFecUncorr 1).flitFails port.val f.link)) ∧
    (x.failed = none → s.flitFails port.val f.link = s.setPort port.val { x with failed := some x.rxSeq, nak := true }) ∧
    (x.failed = some (nearSeq x.rxSeq (lwSeq f.link)) → s.flitFails port.val f.link = s.portDown port.val false) ∧
    (∀ s1 n, s1 = s.setRig { s.rig with rx := s.rig.rx.erase (port.val, f) } → n = nearSeq x.rxSeq (lwSeq f.link) → s1.port port.val = x →
      (flitTag x.secret (1 - s1.txDir port.val) n f.link f.route f.payload ≠ f.tag → exec (.flitReceive port f) s = .next ((s1.bumpPort port.val cRigTagFail 1).flitFails port.val f.link)) ∧
      (flitTag x.secret (1 - s1.txDir port.val) n f.link f.route f.payload = f.tag →
        (n < x.rxSeq → exec (.flitReceive port f) s = .next s1) ∧
        (x.rxSeq < n → x.failed = none → exec (.flitReceive port f) s = .next (s1.setPort port.val { x with failed := some x.rxSeq, nak := true })) ∧
        (n = x.rxSeq → exec (.flitReceive port f) s = .next (((s1.setPort port.val { x with rxSeq := x.rxSeq + 1, failed := none, nak := false }).applyLink port.val f.link).routeFlit port.val f)))) ∧
    (∀ r, r = f.route → roCls r ≠ 3 → roUnits r ≠ 0 → flowOk (roCls r) (roFlow r) = true → s.rig.serves (roDst r) = true → roFirst r = true → roLast r = true → kindReserved (roCls r) (roFlow r) = false → s.rig.partials = [] →
      s.routeFlit port.val f = s.setRig { s.rig with inbox := s.rig.inbox ++ [⟨⟨roCls r, roSrc r, roFlow r, f.payload.take (16 * roUnits r)⟩, [port.val]⟩] }) ∧
    (∀ m, s.rig.inbox = [⟨m, [port.val]⟩] → (s.takeInbox m).rig.inbox = [] ∧ ((s.takeInbox m).port port.val).owed.getD m.cls 0 = x.owed.getD m.cls 0 + 1) ∧
    (1024 ≤ x.sent.length → x.ackTs + 2000 ≤ s.ts → exec (.rigAckTimeout port) s = .next (s.portDown port.val false))

/-- R348 to R352, R358 to R360: a heartbeat is due every microsecond, one that stays out is counted and the third in a row takes the port DOWN; time follows the parent's heartbeats by their offset; a port trains when it is wired to a device of the troupe and retries a
millisecond after a loss. -/
def Obligations.HeartbeatsAndTraining : Prop :=
  ∀ (s : State) (port : PortNo) (x : RPort), x = s.port port.val →
    (x.st = .up → x.hbNext * 1000 ≤ s.ts → exec (.rigHeartbeatSend port) s = .next (s.setPort port.val { x with hbDue := some (s.ts / 1000), hbNext := s.ts / 1000 + 1 })) ∧
    (∀ (hb : Heartbeat) (t : U64) s1, x.st = .up → hb.state ≠ 1 → t.toNat ≤ 16 * (hb.k.toNat * 1000 + 250) →
      s1 = (s.setPort port.val { x with echo := (hb.tSend.toNat, t.toNat), hbMiss := 0, hbGot := max x.hbGot (hb.k.toNat + 1) }).retime →
      exec (.rigHeartbeatReceive port hb t) s = .next (if s1.rig.parent == some port.val then s1.takeTime hb t else s1)) ∧
    (∀ (hb : Heartbeat) (t : U64), x.st = .up → hb.state = 1 → exec (.rigHeartbeatReceive port hb t) s = .next (s.portDown port.val true)) ∧
    (∀ (k : U64) s1, x.st = .up → x.hbGot ≤ k.toNat → k.toNat * 1000 + 250 ≤ s.ts → s1 = (s.setPort port.val { x with hbGot := k.toNat + 1, hbMiss := x.hbMiss + 1 }).bumpPort port.val cHbMiss 1 →
      (x.hbMiss < 2 → exec (.rigHeartbeatMiss port k) s = .next s1) ∧ (2 ≤ x.hbMiss → exec (.rigHeartbeatMiss port k) s = .next (s1.portDown port.val true))) ∧
    (∀ t, s.rig.orphan = some t → t + 10000 < s.ts → exec .timeParentTimeout s = .next (s.setRig { s.rig with unsync := true })) ∧
    (∀ (hb : Heartbeat) (t : U64), hb.tEcho ≠ 0 → thetaOf hb t = 0 → (s.takeTime hb t).rig.steer = 0 ∧ (s.takeTime hb t).rig.theta = 0 ∧ (hb.depth ≠ 0xFF → (s.takeTime hb t).rig.unsync = false ∧ (s.takeTime hb t).rig.depth = hb.depth.toNat + 1)) ∧
    (x.st = .down → s.trainable port.val = true → s.compUp cpLink = true → exec (.portTrainStart port) s = .next (s.startTraining port.val)) ∧
    (∀ t, x.st = .down → x.retrain = some t → t ≤ s.ts → s.trainable port.val = true → exec (.portRetrainTimer port) s = .next (s.startTraining port.val)) ∧
    (x.st = .training → x.since + 10000000 ≤ s.ts → exec (.portTrainTimeout port) s = .next (s.trainFails port.val)) ∧
    (exec (.portLockLost port) s = .next (s.portDown port.val false)) ∧
    (x.st ≠ .up → ∀ l, s.portDown port.val l = s) ∧
    (x.st = .training → s.ts ≤ x.since + 10000000 → s.txDir port.val = 1 → exec (.portLaneLock port) s = .next (s.setPort port.val { x with st := .auth, since := s.ts, auth := none }))

/-- R336, R361, R472: the higher end of a link answers a HELLO of the identity its table names; the lower end checks the signed REPLY, sends FINISH and enters UP with the shared secret; the higher end enters UP on a FINISH whose signature verifies; another identity or
signature ends in AUTH_FAIL, and an exchange that takes 2 milliseconds fails. -/
def Obligations.LinkAuthentication : Prop :=
  ∀ (s : State) (port : PortNo) (x : RPort) (m : AuthMsg), x = s.port port.val → x.st = .auth →
    (s.txDir port.val ≠ 0 → x.auth = none → s.identityOk port.val m = false → exec (.authHello port m) s = .next (s.authEnds port.val .authFail)) ∧
    (s.txDir port.val ≠ 0 → x.auth = none → s.identityOk port.val m = true → s.tsRefused m = true → exec (.authHello port m) s = .next (s.authEnds port.val .joinRefused)) ∧
    (∀ s1 r t, s.txDir port.val ≠ 0 → x.auth = none → s.identityOk port.val m = true → s.tsRefused m = false → s1 = (s.stepTs m).fresh.2.fresh.2 →
      r = (⟨BitVec.ofNat 8 s1.here, BitVec.ofNat 32 (tbGen s1.rig.troupe), BitVec.ofNat 64 s1.ts, Config.trng s.free, Config.rsaLeaf, Config.mlkemCipher m.kem (Config.trng (s.free + 1)), []⟩ : AuthMsg) → t = authBytes m ++ authBytes r →
      exec (.authHello port m) s = .next ((s1.setAuth port.val ⟨t, Config.trng s.free, 0, Config.mlkemShared m.kem (Config.trng (s.free + 1)), m.leaf⟩).sendAuth port.val { r with signature := Config.rsaSign t })) ∧
    (∀ a t, s.txDir port.val ≠ 1 → x.auth = some a → t = a.transcript ++ authBytes m → (s.identityOk port.val m && Config.rsaVerify m.leaf t m.signature) = false → exec (.authReply port m) s = .next (s.authEnds port.val .authFail)) ∧
    (∀ a t s1 f, s.txDir port.val ≠ 1 → x.auth = some a → t = a.transcript ++ authBytes m → s.identityOk port.val m = true → Config.rsaVerify m.leaf t m.signature = true → s.tsRefused m = false → s1 = s.stepTs m →
      f = (⟨BitVec.ofNat 8 s1.here, BitVec.ofNat 32 (tbGen s1.rig.troupe), BitVec.ofNat 64 s1.ts, a.nonce, [], [], Config.rsaSign t⟩ : AuthMsg) →
      exec (.authReply port m) s = .next ((s1.sendAuth port.val f).enterUp port.val (Config.mlkemDecaps a.keyPair m.kem))) ∧
    (∀ a, s.txDir port.val ≠ 0 → x.auth = some a → Config.rsaVerify a.leaf a.transcript m.signature = true → exec (.authFinish port m) s = .next (s.enterUp port.val a.secret)) ∧
    (∀ a, s.txDir port.val ≠ 0 → x.auth = some a → Config.rsaVerify a.leaf a.transcript m.signature = false → exec (.authFinish port m) s = .next (s.authEnds port.val .authFail)) ∧
    (x.since + 2000000 ≤ s.ts → exec (.authTimeout port) s = .next (s.trainFails port.val))

/-- R351, R356, R357: a forwarded submission goes into its ring at the tail with its doorbell's TS; a completion and an event reach the host once; a register response closes its request; a member that cannot be reached leaves its groups, and its outstanding submissions
complete CONTEXT_LOST at device scope. -/
def Obligations.Forwarding : Prop :=
  ∀ (s : State) (pos : Pos),
    (∀ (queue : U16) (index : U32) (ts : U64) entry qk q s1 s2, s.farHead = none → s.fwdQueue queue.toNat = some qk → s.queues.get qk = some q → index.toNat = q.tail → q.ready < q.sqSize →
      s1 = (s.objWrite q.ring (q.tail % q.sqSize * 128) (padTo 128 entry)).mirrorHostWrite q.ring (q.tail % q.sqSize * 128) 128 →
      s2 = s1.setQueue qk { q with tail := (q.tail + 1) % w32, stamps := q.stamps ++ [((q.tail + 1) % w32, ts.toNat)] } →
      exec (.fwdSubmission queue index ts entry) s = .next (s2.lookAhead { q with tail := (q.tail + 1) % w32, stamps := q.stamps ++ [((q.tail + 1) % w32, ts.toNat)] })) ∧
    (∀ (queue : U16) (index : U32) rec s1, s1 = s.takeInbox ⟨3, pos.val, 1, leBytes 2 queue.toNat ++ zeros 2 ++ leBytes 4 index.toNat ++ zeros 8 ++ padTo 32 rec⟩ →
      (s1.rig.fwdDone.contains (pos.val, queue.toNat, index.toNat) = true → exec (.fwdCompletion pos queue index rec) s = .next s1) ∧
      (s1.rig.fwdDone.contains (pos.val, queue.toNat, index.toNat) = false → ∃ u, exec (.fwdCompletion pos queue index rec) s = .next u ∧ u.rig.fwdDone = s1.rig.fwdDone ++ [(pos.val, queue.toNat, index.toNat)] ∧
        u.rig.fwdRecs = s1.rig.fwdRecs ++ [(pos.val, queue.toNat, index.toNat, padTo 32 rec)] ∧ u.objs = s1.objs)) ∧
    (∀ (event : U32) rec s1, s1 = s.takeInbox ⟨3, pos.val, 2, leBytes 4 event.toNat ++ zeros 12 ++ padTo 32 rec⟩ →
      exec (.fwdEvent pos event rec) s = .next (s1.setRig { s1.rig with fwdRecs := s1.rig.fwdRecs ++ [(pos.val, 2 ^ 20 + event.toNat, 0, padTo 32 rec)] })) ∧
    (∀ (off value : U64) s1, s1 = s.takeInbox ⟨3, pos.val, 4, leBytes 8 off.toNat ++ leBytes 8 value.toNat⟩ → ∃ u, exec (.fwdRegResponse pos off value) s = .next u ∧ u.rig.regReq = s1.rig.regReq.erase (pos.val, off.toNat) ∧
      u.rig.fwdRegs = s1.rig.fwdRegs ++ [(pos.val, off.toNat, value.toNat)] ∧ u.objs = s1.objs) ∧
    (∀ s1, (s.rig.lost.contains (s.rig.server pos.val) = true ∨ ∃ t, s.rig.noRoute.get pos.val = some t ∧ t + 100000 ≤ s.ts) → s.rig.serves pos.val = false → s1 = s.groupsLose (fun x => x == pos.val) →
      ∃ u, exec (.memberUnreachable pos) s = .next u ∧ u.rig.fwd = s1.rig.fwd.filter (fun e => e.1 != pos.val) ∧
        u.rig.fwdRecs = s1.rig.fwdRecs ++ (s1.rig.fwd.filter (fun e => e.1 == pos.val)).map (fun e => (pos.val, e.2.1, e.2.2, recBytes ⟨e.2.2, .contextLost, .device, 0, 0, 0, 0, s1.ts, 0⟩ 0 1)))

/-- R373 to R391, R519: a message of another epoch, or for a group that is not ACTIVE, is discarded and counted; of one that is taken, a partial sum is staged at the parent and moves on, or waits in the receive buffer while the engine's staging has no room, results go to the sender's children once each has room, a CLOSE to its parent, a VERDICT to its
children, an ABORT aborts the group, and dispatched rows wait with every other local member; a message outstanding past wait_limit aborts with TIMEOUT. -/
def Obligations.GroupMessages : Prop :=
  ∀ (s : State) (m : GroupMsg) (gi : Nat), gi = m.group.toNat →
    (∀ s1 g, s1 = s.arrived kUp m → g = s1.group gi →
      (g.takes m = false → exec (.collectiveUp m) s = .next (s1.discardMsg g)) ∧
      (∀ dest s2, g.takes m = true → m.op ≠ 0 → dest = geParent g.entry m.tree.toNat m.sender.toNat → (s1.locals g).contains dest = true → s1.admits gi dest m = true → s2 = s1.stage gi dest m → s2.groupSet (gePart g.entry dest) gi = none →
        exec (.collectiveUp m) s = .next (s2.progress gi)) ∧
      (∀ dest, g.takes m = true → m.op ≠ 0 → dest = geParent g.entry m.tree.toNat m.sender.toNat → (s1.locals g).contains dest = true → s1.admits gi dest m = false → exec (.collectiveUp m) s = .next s)) ∧
    (∀ s1 g kids, s1 = s.arrived kDown m → g = s1.group gi → g.takes m = true → m.op ≠ 0 → kids = (geChildren g.entry m.tree.toNat m.sender.toNat).filter (fun c => (s1.locals g).contains c) →
      ((∀ c ∈ kids, s1.admits gi c m = true) → exec (.collectiveDown m) s = .next (((kids.foldl (fun (s : State) c => if (s.group gi).st == .active then s.stage gi c m else s) s1).progress gi).takeCopies gi)) ∧
      ((∃ c ∈ kids, s1.admits gi c m = false) → exec (.collectiveDown m) s = .next s)) ∧
    (∀ s1 g, s1 = s.arrived kDown m → g = s1.group gi → g.takes m = false → exec (.collectiveDown m) s = .next (s1.discardMsg g)) ∧
    (∀ s1 g dest k u, s1 = s.arrived kClose m → g = s1.group gi → dest = geParent g.entry 0 m.sender.toNat → g.takes m = true → (s1.locals g).contains dest = true → m.wire.toNat = geWire g.entry →
      s1.groupSet (gePart g.entry dest) gi = some (k, u) → u.run = none → (dest ≠ geRoot g.entry 0 ∨ m.key.toNat = u.epoch % 2 ^ 32) →
      exec (.collectiveClose m) s = .next (s1.setGroup gi { g with closes := g.closes ++ [(dest, m)] })) ∧
    (∀ s1 g, s1 = s.arrived kVerdict m → g = s1.group gi → g.takes m = true →
      exec (.collectiveVerdict m) s = .next (((geChildren g.entry 0 m.sender.toNat).filter (fun c => (s1.locals g).contains c)).foldl (fun s c => s.takeVerdict gi c m) s1)) ∧
    (∀ s1 g, s1 = s.arrived kAbort m → g = s1.group gi → m.epoch.toNat = g.epoch → g.st = .active → (Config.freeWord s1.free).toNat % 4 = 0 → exec (.collectiveAbort m) s = .next (s1.fresh.2.abortGroup gi .other)) ∧
    (∀ s1 g, s1 = s.arrived kAbort m → g = s1.group gi → m.epoch.toNat ≠ g.epoch ∨ g.st ≠ .active → exec (.collectiveAbort m) s = .next (s1.discardMsg g)) ∧
    (∀ s1 g s2, s1 = s.arrived kDispatch m → g = s1.group gi → g.takes m = true → m.wire.toNat = geWire g.entry →
      s2 = s1.setGroup gi { g with staged := g.staged ++ ((s1.locals g).filter (fun c => c != m.sender.toNat)).map (fun c => (c, m)) } → exec (.dispatch m) s = .next (g.disps.foldl (fun s d => s.absorb gi d) s2)) ∧
    (∀ s1 g s2, s1 = s.arrived kCombine m → g = s1.group gi → g.takes m = true → m.wire.toNat = geWire g.entry →
      s2 = s1.setGroup gi { g with staged := g.staged ++ ((s1.locals g).filter (fun c => c != m.sender.toNat)).map (fun c => (c, m)) } → exec (.combine m) s = .next (g.disps.foldl (fun s d => s.absorb gi d) s2)) ∧
    ((s.group gi).st = .active → s.overdue gi = true → exec (.groupWaitLimit m.group) s = .next (s.abortGroup gi .timeout)) ∧ (s.overdue gi = false → exec (.groupWaitLimit m.group) s = .next s)

/-- R497 to R504, R528 to R531: the catcher applies the flyer's messages in their order; an ACK releases what it covers; the copy is full once everything has been sent and acknowledged; a flyer that has fenced its partitions goes on alone after 20 microseconds with a
third port UP; digest lists are compared at the root when the last of them has come, and differing lines are asked of the reference. -/
def Obligations.MirrorAndDigests : Prop :=
  ∀ (s : State) (m : MirrorMsg) (p : Part),
    (∀ i kind, ((kind = mkLine ∧ i = .mirrorLine m) ∨ (kind = mkState ∧ i = .mirrorState m) ∨ (kind = mkCommitMsg ∧ i = .mirrorCommit m) ∨ (kind = mkFlash ∧ i = .mirrorFlash m) ∨ (kind = mkSnap ∧ i = .mirrorSnap m) ∨ (kind = mkResync ∧ i = .mirrorResync m)) →
      ((s.mirrorArrived kind m).receives m.part.val = false → exec i s = .next (s.mirrorArrived kind m)) ∧
      ((s.mirrorArrived kind m).receives m.part.val = true → exec i s = .next ((s.mirrorArrived kind m).mirrorIn m.part.val kind m.mseq.toNat m.body true))) ∧
    (∀ kind mseq b, mseq ≤ (s.net p.val).rxSeq → s.mirrorIn p.val kind mseq b true = s.sendAck p.val ∧ s.mirrorIn p.val kind mseq b false = s) ∧
    (∀ s1 n a s2, s1 = s.mirrorArrived mkAck m → n = s1.net m.part.val → n.st = .paired ∨ n.st = .resync → a = min n.txSeq (max n.acked (fieldLE m.body 0 8)) →
      s2 = s1.setNet m.part.val { n with acked := a, unacked := n.unacked.filter (fun x => a < x.1) } → exec (.mirrorAck m) s = .next (((s2.releaseHeld m.part.val a).flipAcked m.part.val a).endPairRounds m.part.val a)) ∧
    (∀ s1 k o, s1 = s.mirrorArrived mkPage m → s1.caught m.part.val = true → s1.objOf (u32At m.body 0) = some (k, o) → o.part = some m.part.val → o.tier = 1 → fieldLE m.body 4 4 < o.logPages →
      (s1.part m.part.val).rounds = [] → exec (.mirrorPage m) s = .next (s1.mirrorLines m.part.val mkLine (u32At m.body 0) (fieldLE m.body 4 4) (o.pte (o.phys (fieldLE m.body 4 4))).frameNo 0 1024 none)) ∧
    (∀ s1 s2, s1 = s.mirrorArrived mkPair m → s1.bound m.part.val = true → s1.pairOf.isSome = true → m.mseq ≠ 1 → s1.caught m.part.val = true ∨ s1.isCatcher = false →
      s2 = s1.setNet m.part.val { s1.net m.part.val with heard := some m.body, rxSeq := m.mseq.toNat, stash := [] } → exec (.mirrorPair m) s = .next (s2.tryPair m.part.val false)) ∧
    (∀ s1 n, (s.net p.val).st = .resync → s1 = s.flushJournal p.val → n = s1.net p.val → n.resync = [] → n.out = [] → n.unacked = [] → s1.attemptOpen p.val = false → exec (.resyncDone p) s = .next (s1.setNet p.val { n with st := .paired })) ∧
    ((s.net p.val).st = .unpaired → s.receives p.val = true → exec (.resyncDone p) s = .next (s.setNet p.val { s.net p.val with st := .catching })) ∧
    (∀ t, (s.net p.val).st = .fenced → (s.net p.val).fencedAt = some t → t + 20000 ≤ s.ts → s.thirdPort = true → exec (.fenceNoticeTimeout p) s = .next (s.resumeSolo p.val)) ∧
    (∀ t, (s.net p.val).st = .fenced → (s.net p.val).fencedAt = some t → s.ts < t + 20000 → exec (.fenceNoticeTimeout p) s = .next s) ∧
    (∀ t, (s.net p.val).st = .fenced → (s.net p.val).fencedAt = some t → t + 20000 ≤ s.ts → s.thirdPort = false →
      exec (.fenceNoticeTimeout p) s = .next (s.setNet p.val { s.net p.val with fencedAt := none })) ∧
    ((s.net p.val).st = .fenced → (s.net p.val).fencedAt = none → exec (.fenceNoticeTimeout p) s = .next s) ∧
    (∀ (set : BitVec 4) lists r u gi me s1 all, s.compUp cpDigest = true → s.round p.val set.toNat = some r → s.usets.get (setKey p.val set.toNat) = some u → u.group = some gi → s.memberOf (s.group gi) p.val = some me →
      r.running = true → me = geRoot (s.group gi).entry 0 → (∀ l ∈ lists, l.2.length = 16 + r.own.length) → all = lists.foldl (fun (t : Tbl (List Nat)) (l : U8 × List U128) => t.set l.1.toNat (l.2.map BitVec.toNat)) r.lists →
      s1 = s.setRound p.val set.toNat { r with lists := all } → (∃ m < (s.group gi).n, all.has m = false) → exec (.digestListArrive p set lists) s = .next s1) ∧
    (∀ (set : BitVec 4) (page : U32) lines r u gi me, s.compUp cpDigest = true → s.round p.val set.toNat = some r → s.usets.get (setKey p.val set.toNat) = some u → u.group = some gi → s.memberOf (s.group gi) p.val = some me → r.running = true →
      r.todo.find? (fun x => x.1 == page.toNat) = none → exec (.lineDigestsArrive p set page lines) s =
        .next (((lines.filter (fun (l : Nat × Bytes) => l.2.length != 8)).foldl (fun (s : State) (l : Nat × Bytes) => s.takeLine (setKey p.val set.toNat) gi me page.toNat l.1 l.2) s).settleRound p.val set.toNat)) ∧
    (∀ (flyer : Pos) (identity : U128) (ts : U64) c d s1, c = tbPair s.rig.troupe flyer.val → s1 = s.dropInbox (fun m => m.cls == 2 && m.flow == 0xFFF && m.data == noticeBytes flyer.val (leBytes 16 identity.toNat) ts.toNat) →
      ((tbUsed s.rig.troupe).find? (fun e => (e.drop 16).take 16 == leBytes 16 identity.toNat)).map tbPos = some d → c ≠ 0xFF → (d = flyer.val ∨ d = c) → s1.rig.server flyer.val ≠ d → s1.rig.lost.contains (s1.rig.server flyer.val) = true →
      s1.rig.placed ≠ some (s1.rig.server flyer.val) → exec (.takeoverNotice flyer identity ts) s = .next (s1.setServing flyer.val c d))

/-! ### The state -/

/-- The state after reset: the queue is empty, TS stands at 0 (R543), nothing is allocated, every page table, memory and map is empty and in its canonical form, the dual-rail values agree with
their complements (R272, R284, R488), and no register differs from the Reset column of its table (R592). That the device is then still waiting for power good, with PERST_N asserted and the life-cycle
word FIELD, is the model's choice (log entry 63). -/
def Obligations.ResetState : Prop :=
  State.reset.pending = [] ∧ State.reset.ts = 0 ∧ State.reset.railsWhole = true ∧ State.reset.mapsWf = true ∧
  State.reset.hbm.wf = true ∧ State.reset.flash.mem.wf = true ∧ (∀ t, (State.reset.tile t).mem.wf = true ∧ State.reset.tile t = Tile.reset) ∧
  (∀ a, State.reset.hbm.read a = 0) ∧ (∀ off d, State.reset.dreg off d = d) ∧ (∀ f, State.reset.fn f = FnSt.reset) ∧
  (∀ p, State.reset.part p = PartSt.reset) ∧ (∀ k, (State.reset.key k).st = .empty ∧ (State.reset.key k).valid = 0 ∧ (State.reset.key k).validN = 0xFFFFFFFF) ∧
  State.reset.dev.fault = none ∧ State.reset.pwr.off = true ∧ State.reset.pins.perst = true ∧ State.reset.sec.life = 3

/-- Memory holds what was last written to it and nothing else changes: in canonical form, a byte reads back what was written to it, every other byte reads as before, a cleared range reads zero,
and every operation keeps the canonical form. The same of the finite maps that hold registers and tables. -/
def Obligations.MemoryReadsAndWrites : Prop :=
  (∀ (m : Mem) (a : Nat) (b : U8), m.wf = true → (m.write a b).wf = true ∧ (m.write a b).read a = b ∧ ∀ x, x ≠ a → (m.write a b).read x = m.read x) ∧
  (∀ (m : Mem) (a : Nat) (l : Bytes), m.wf = true → (m.writes a l).wf = true ∧ (m.writes a l).reads a l.length = l ∧ ∀ x, x < a ∨ a + l.length ≤ x → (m.writes a l).read x = m.read x) ∧
  (∀ (m : Mem) (a n : Nat), m.wf = true → (m.clear a n).wf = true ∧ (∀ x, a ≤ x → x < a + n → (m.clear a n).read x = 0) ∧ ∀ x, x < a ∨ a + n ≤ x → (m.clear a n).read x = m.read x) ∧
  (∀ m n : Mem, m.wf = true → n.wf = true → (∀ a, m.read a = n.read a) → m = n) ∧
  (∀ (t : Tbl Nat) (k v : Nat), t.wf = true → (t.set k v).wf = true ∧ (t.set k v).get k = some v ∧ (∀ j, j ≠ k → (t.set k v).get j = t.get j) ∧
    (t.erase k).wf = true ∧ (t.erase k).get k = none ∧ ∀ j, j ≠ k → (t.erase k).get j = t.get j)

/-- R402 to R404: the entries that spell a command are read back as that command, with its barrier bit, tag and host TS, and take as many ring entries as they are, whatever is ready behind them. -/
def Obligations.EntryRoundTrip : Prop :=
  ∀ (c : HostCmd) (barrier : Bool) (tag : U32) (hostTs : U64) (more : List Bytes), c ≠ .bad → (∀ a, c = .run a → a.wf = true) →
    (∀ b ∈ encodeEntry barrier tag hostTs c, b.length = 128) ∧
    readEntry (encodeEntry barrier tag hostTs c ++ more) = some ⟨cmdOpcode c, barrier, tag, hostTs, c, (encodeEntry barrier tag hostTs c).length⟩

/-- Every step keeps the life-cycle word's rails whole (R488) and never takes the device back to an earlier state of its life (R489), and takes exactly one command off the queue. -/
def Obligations.LifeCycleMovesForward : Prop :=
  ∀ s s' : State, s.lifeOk = true → step s = .next s' →
    s'.lifeOk = true ∧ (s'.sec.life = s.sec.life ∨ (s.sec.life.toNat, s'.sec.life.toNat) ∈ [(1, 2), (2, 3), (3, 4), (3, 5), (4, 5)]) ∧ s'.pending = s.pending.tail
end

