-- ==== Sys2Proof/Laws/Mem.lean ====
section
/-! SUPPORT. Memories and finite maps: every operation keeps the canonical form, and a read after a write
gives what was written, there and nowhere else. -/

namespace Sys2Proof.Machine

/-! ### Memories -/

theorem Mem.canonFrom_mono {m : Mem} {b c : Nat} (h : c ≤ b) (hm : Mem.canonFrom b m = true) : Mem.canonFrom c m = true := by
  cases m with
  | nil => rfl
  | cons e r =>
    obtain ⟨k, v⟩ := e
    simp only [Mem.canonFrom, Bool.and_eq_true, decide_eq_true_eq] at hm ⊢
    exact ⟨⟨by omega, hm.1.2⟩, hm.2⟩

theorem Mem.read_below {m : Mem} {b a : Nat} (hm : Mem.canonFrom b m = true) (h : a < b) : m.read a = 0 := by
  induction m generalizing b with
  | nil => rfl
  | cons e r ih =>
    obtain ⟨k, v⟩ := e
    simp only [Mem.canonFrom, Bool.and_eq_true, decide_eq_true_eq] at hm
    have hk : ¬ k = a := by omega
    simp only [Mem.read, hk, if_false]
    exact ih hm.2 (by omega)

theorem Mem.write_canonFrom {m : Mem} {b a : Nat} {v : U8} (hm : Mem.canonFrom b m = true) (h : b ≤ a) :
    Mem.canonFrom b (m.write a v) = true := by
  induction m generalizing b with
  | nil =>
    by_cases hv : v = 0#8
    · simp [Mem.write, hv, Mem.canonFrom]
    · simp [Mem.write, hv, Mem.canonFrom, h]
  | cons e r ih =>
    obtain ⟨k, w⟩ := e
    simp only [Mem.canonFrom, Bool.and_eq_true, decide_eq_true_eq] at hm
    obtain ⟨⟨h1, h2⟩, h3⟩ := hm
    unfold Mem.write
    split
    · by_cases hv : v = 0#8
      · simpa [hv, Mem.canonFrom, h1, h3] using h2
      · rename_i hlt
        simp only [BitVec.ofNat_eq_ofNat, hv, if_false, Mem.canonFrom, Bool.and_eq_true, decide_eq_true_eq]
        exact ⟨⟨h, by simp [hv]⟩, ⟨by omega, h2⟩, h3⟩
    · split
      · rename_i hk
        by_cases hv : v = 0#8
        · simp only [BitVec.ofNat_eq_ofNat, hv, if_true]
          exact Mem.canonFrom_mono (by omega) h3
        · simp only [BitVec.ofNat_eq_ofNat, hv, if_false, Mem.canonFrom, Bool.and_eq_true, decide_eq_true_eq]
          exact ⟨⟨h, by simp [hv]⟩, hk ▸ h3⟩
      · simp only [Mem.canonFrom, Bool.and_eq_true, decide_eq_true_eq]
        exact ⟨⟨h1, h2⟩, ih h3 (by omega)⟩

/-- Writing a byte keeps the canonical form. -/
theorem Mem.write_wf {m : Mem} (a : Nat) (v : U8) (hm : m.wf = true) : (m.write a v).wf = true :=
  Mem.write_canonFrom hm (Nat.zero_le a)

theorem Mem.read_write_from {m : Mem} {b a : Nat} {v : U8} (hm : Mem.canonFrom b m = true) (c : Nat) :
    (m.write a v).read c = if c = a then v else m.read c := by
  induction m generalizing b with
  | nil =>
    by_cases hv : v = 0#8
    · simp [Mem.write, hv, Mem.read]
    · by_cases hc : c = a
      · simp [Mem.write, hv, Mem.read, hc]
      · have : ¬ a = c := fun h => hc h.symm
        simp [Mem.write, hv, Mem.read, hc, this]
  | cons e r ih =>
    obtain ⟨k, w⟩ := e
    simp only [Mem.canonFrom, Bool.and_eq_true, decide_eq_true_eq] at hm
    obtain ⟨⟨h1, h2⟩, h3⟩ := hm
    unfold Mem.write
    split
    · rename_i hlt
      by_cases hv : v = 0#8
      · simp only [BitVec.ofNat_eq_ofNat, hv, if_true]
        by_cases hc : c = a
        · have hk : ¬ k = a := by omega
          simp only [Mem.read, hc, hk, if_false, if_true]
          exact Mem.read_below h3 (by omega)
        · simp [hc]
      · by_cases hc : c = a
        · simp [hv, Mem.read, hc]
        · have : ¬ a = c := fun h => hc h.symm
          simp [hv, Mem.read, hc, this]
    · split
      · rename_i hk
        subst hk
        by_cases hv : v = 0#8
        · simp only [BitVec.ofNat_eq_ofNat, hv, if_true]
          by_cases hc : c = a
          · simp only [hc, if_true]
            exact Mem.read_below h3 (by omega)
          · have : ¬ a = c := fun h => hc h.symm
            simp [Mem.read, hc, this]
        · by_cases hc : c = a
          · simp [hv, Mem.read, hc]
          · have : ¬ a = c := fun h => hc h.symm
            simp [hv, Mem.read, hc, this]
      · rename_i hlt hk
        simp only [Mem.read]
        by_cases hkc : k = c
        · have : ¬ c = a := fun h => hk (by omega)
          simp [hkc, this]
        · simp only [hkc, if_false]
          exact ih h3

/-- A read after a write of one byte. -/
theorem Mem.read_write {m : Mem} (a : Nat) (v : U8) (hm : m.wf = true) (c : Nat) :
    (m.write a v).read c = if c = a then v else m.read c := Mem.read_write_from hm c

/-- Writing a byte string keeps the canonical form. -/
theorem Mem.writes_wf {m : Mem} (a : Nat) (l : Bytes) (hm : m.wf = true) : (m.writes a l).wf = true := by
  induction l generalizing m a with
  | nil => exact hm
  | cons b r ih => exact ih (a + 1) (Mem.write_wf a b hm)

/-- A read outside the written bytes is as before. -/
theorem Mem.read_writes_of_out {m : Mem} {a c : Nat} {l : Bytes} (hm : m.wf = true) (h : c < a ∨ a + l.length ≤ c) :
    (m.writes a l).read c = m.read c := by
  induction l generalizing m a with
  | nil => rfl
  | cons b r ih =>
    simp only [List.length_cons] at h
    simp only [Mem.writes]
    rw [ih (Mem.write_wf a b hm) (by omega), Mem.read_write a b hm, if_neg (by omega)]

/-- A read inside the written bytes gives the byte written. -/
theorem Mem.read_writes_of_in {m : Mem} {a i : Nat} {l : Bytes} (hm : m.wf = true) (h : i < l.length) :
    (m.writes a l).read (a + i) = l[i] := by
  induction l generalizing m a i with
  | nil => simp at h
  | cons b r ih =>
    simp only [Mem.writes]
    cases i with
    | zero =>
      rw [Mem.read_writes_of_out (Mem.write_wf a b hm) (.inl (by omega)), Mem.read_write a b hm, if_pos (by omega)]
      rfl
    | succ j =>
      have := ih (m := m.write a b) (a := a + 1) (i := j) (Mem.write_wf a b hm) (by simpa using h)
      rw [show a + (j + 1) = a + 1 + j by omega]
      simpa using this

theorem Mem.filter_canonFrom {m : Mem} {b : Nat} (p : Host.Cell → Bool) (hm : Mem.canonFrom b m = true) :
    Mem.canonFrom b (m.filter p) = true := by
  induction m generalizing b with
  | nil => rfl
  | cons e r ih =>
    obtain ⟨k, v⟩ := e
    simp only [Mem.canonFrom, Bool.and_eq_true, decide_eq_true_eq] at hm
    simp only [List.filter_cons]
    split
    · simp only [Mem.canonFrom, Bool.and_eq_true, decide_eq_true_eq]
      exact ⟨hm.1, ih hm.2⟩
    · exact Mem.canonFrom_mono (by omega) (ih hm.2)

/-- Clearing a range keeps the canonical form. -/
theorem Mem.clear_wf {m : Mem} (a n : Nat) (hm : m.wf = true) : (m.clear a n).wf = true := Mem.filter_canonFrom _ hm

/-! ### Finite maps -/

variable {α : Type}

theorem Tbl.risingFrom_mono {t : Tbl α} {b c : Nat} (h : c ≤ b) (ht : Tbl.risingFrom b t = true) : Tbl.risingFrom c t = true := by
  cases t with
  | nil => rfl
  | cons e r =>
    obtain ⟨k, v⟩ := e
    simp only [Tbl.risingFrom, Bool.and_eq_true, decide_eq_true_eq] at ht ⊢
    exact ⟨by omega, ht.2⟩

theorem Tbl.set_risingFrom {t : Tbl α} {b i : Nat} {a : α} (ht : Tbl.risingFrom b t = true) (h : b ≤ i) :
    Tbl.risingFrom b (Tbl.set t i a) = true := by
  induction t generalizing b with
  | nil => simp [Tbl.set, Tbl.risingFrom, h]
  | cons e r ih =>
    obtain ⟨k, v⟩ := e
    simp only [Tbl.risingFrom, Bool.and_eq_true, decide_eq_true_eq] at ht
    unfold Tbl.set
    split
    · simp only [Tbl.risingFrom, Bool.and_eq_true, decide_eq_true_eq]
      exact ⟨h, by omega, ht.2⟩
    · split
      · rename_i hk
        simp only [Tbl.risingFrom, Bool.and_eq_true, decide_eq_true_eq]
        exact ⟨h, hk ▸ ht.2⟩
      · simp only [Tbl.risingFrom, Bool.and_eq_true, decide_eq_true_eq]
        exact ⟨ht.1, ih ht.2 (by omega)⟩

/-- Setting a key keeps the canonical form. -/
theorem Tbl.set_wf {t : Tbl α} (i : Nat) (a : α) (ht : Tbl.wf t = true) : Tbl.wf (Tbl.set t i a) = true :=
  Tbl.set_risingFrom ht (Nat.zero_le i)

theorem Tbl.erase_risingFrom {t : Tbl α} {b : Nat} (i : Nat) (ht : Tbl.risingFrom b t = true) : Tbl.risingFrom b (Tbl.erase t i) = true := by
  induction t generalizing b with
  | nil => rfl
  | cons e r ih =>
    obtain ⟨k, v⟩ := e
    simp only [Tbl.risingFrom, Bool.and_eq_true, decide_eq_true_eq] at ht
    unfold Tbl.erase
    split
    · exact Tbl.risingFrom_mono (by omega) ht.2
    · simp only [Tbl.risingFrom, Bool.and_eq_true, decide_eq_true_eq]
      exact ⟨ht.1, ih ht.2⟩

/-- Removing a key keeps the canonical form. -/
theorem Tbl.erase_wf {t : Tbl α} (i : Nat) (ht : Tbl.wf t = true) : Tbl.wf (Tbl.erase t i) = true := Tbl.erase_risingFrom i ht

/-- Changing an entry keeps the canonical form. -/
theorem Tbl.modify_wf {t : Tbl α} (i : Nat) (f : α → α) (ht : Tbl.wf t = true) : Tbl.wf (Tbl.modify t i f) = true := by
  unfold Tbl.modify
  split
  · exact Tbl.set_wf i _ ht
  · exact ht

/-- Looking another key up after a key is set. -/
theorem Tbl.get_set_ne {t : Tbl α} {i j : Nat} {a : α} (h : j ≠ i) : Tbl.get (Tbl.set t i a) j = Tbl.get t j := by
  induction t with
  | nil => simp [Tbl.set, Tbl.get, Ne.symm h]
  | cons e r ih =>
    obtain ⟨k, v⟩ := e
    unfold Tbl.set
    split
    · simp [Tbl.get, Ne.symm h]
    · split
      · rename_i hk
        subst hk
        simp [Tbl.get, Ne.symm h]
      · simp only [Tbl.get, ih]

/-- What has been written into memory reads back. -/
theorem reads_writes (m : Mem) (a off : Nat) (l r z : Bytes) (hm : m.wf = true) (ho : off = l.length) : (m.writes a (l ++ (r ++ z))).reads (a + off) r.length = r := by
  subst ho
  apply List.ext_getElem
  · simp [Mem.reads]
  · intro i h1 h2
    simp only [Mem.reads, List.getElem_map, List.getElem_range]
    rw [Nat.add_assoc, Mem.read_writes_of_in hm (by simp; omega)]
    simp [h2]

end Sys2Proof.Machine
end

