-- ==== Sys2Proof/Laws/State.lean ====
section
/-! SUPPORT. What each update of the state leaves in each of its fields: the field it is named after, and
every other field as before. -/

namespace Sys2Proof.Machine

variable (s : State)

/-! ### `State.setFn` -/

@[simp] theorem State.setFn_pending (f : Nat) (x : FnSt) : (s.setFn f x).pending = s.pending := rfl
@[simp] theorem State.setFn_ts (f : Nat) (x : FnSt) : (s.setFn f x).ts = s.ts := rfl
@[simp] theorem State.setFn_free (f : Nat) (x : FnSt) : (s.setFn f x).free = s.free := rfl
@[simp] theorem State.setFn_dev (f : Nat) (x : FnSt) : (s.setFn f x).dev = s.dev := rfl
@[simp] theorem State.setFn_fns (f : Nat) (x : FnSt) : (s.setFn f x).fns = Tbl.set s.fns f x := rfl
@[simp] theorem State.setFn_parts (f : Nat) (x : FnSt) : (s.setFn f x).parts = s.parts := rfl
@[simp] theorem State.setFn_keys (f : Nat) (x : FnSt) : (s.setFn f x).keys = s.keys := rfl
@[simp] theorem State.setFn_ctxs (f : Nat) (x : FnSt) : (s.setFn f x).ctxs = s.ctxs := rfl
@[simp] theorem State.setFn_queues (f : Nat) (x : FnSt) : (s.setFn f x).queues = s.queues := rfl
@[simp] theorem State.setFn_objs (f : Nat) (x : FnSt) : (s.setFn f x).objs = s.objs := rfl
@[simp] theorem State.setFn_objGens (f : Nat) (x : FnSt) : (s.setFn f x).objGens = s.objGens := rfl
@[simp] theorem State.setFn_events (f : Nat) (x : FnSt) : (s.setFn f x).events = s.events := rfl
@[simp] theorem State.setFn_waits (f : Nat) (x : FnSt) : (s.setFn f x).waits = s.waits := rfl
@[simp] theorem State.setFn_accs (f : Nat) (x : FnSt) : (s.setFn f x).accs = s.accs := rfl
@[simp] theorem State.setFn_works (f : Nat) (x : FnSt) : (s.setFn f x).works = s.works := rfl
@[simp] theorem State.setFn_runs (f : Nat) (x : FnSt) : (s.setFn f x).runs = s.runs := rfl
@[simp] theorem State.setFn_tiles (f : Nat) (x : FnSt) : (s.setFn f x).tiles = s.tiles := rfl
@[simp] theorem State.setFn_hbm (f : Nat) (x : FnSt) : (s.setFn f x).hbm = s.hbm := rfl
@[simp] theorem State.setFn_hbmUsed (f : Nat) (x : FnSt) : (s.setFn f x).hbmUsed = s.hbmUsed := rfl
@[simp] theorem State.setFn_wiping (f : Nat) (x : FnSt) : (s.setFn f x).wiping = s.wiping := rfl
@[simp] theorem State.setFn_flash (f : Nat) (x : FnSt) : (s.setFn f x).flash = s.flash := rfl
@[simp] theorem State.setFn_shroud (f : Nat) (x : FnSt) : (s.setFn f x).shroud = s.shroud := rfl
@[simp] theorem State.setFn_msix (f : Nat) (x : FnSt) : (s.setFn f x).msix = s.msix := rfl
@[simp] theorem State.setFn_hostOut (f : Nat) (x : FnSt) : (s.setFn f x).hostOut = s.hostOut := rfl
@[simp] theorem State.setFn_pwr (f : Nat) (x : FnSt) : (s.setFn f x).pwr = s.pwr := rfl
@[simp] theorem State.setFn_adpt (f : Nat) (x : FnSt) : (s.setFn f x).adpt = s.adpt := rfl
@[simp] theorem State.setFn_usets (f : Nat) (x : FnSt) : (s.setFn f x).usets = s.usets := rfl
@[simp] theorem State.setFn_recipes (f : Nat) (x : FnSt) : (s.setFn f x).recipes = s.recipes := rfl
@[simp] theorem State.setFn_unitGens (f : Nat) (x : FnSt) : (s.setFn f x).unitGens = s.unitGens := rfl
@[simp] theorem State.setFn_groups (f : Nat) (x : FnSt) : (s.setFn f x).groups = s.groups := rfl
@[simp] theorem State.setFn_rig (f : Nat) (x : FnSt) : (s.setFn f x).rig = s.rig := rfl
@[simp] theorem State.setFn_heldSnaps (f : Nat) (x : FnSt) : (s.setFn f x).heldSnaps = s.heldSnaps := rfl
@[simp] theorem State.setFn_onlyn (f : Nat) (x : FnSt) : (s.setFn f x).onlyn = s.onlyn := rfl
@[simp] theorem State.setFn_sec (f : Nat) (x : FnSt) : (s.setFn f x).sec = s.sec := rfl
@[simp] theorem State.setFn_boot (f : Nat) (x : FnSt) : (s.setFn f x).boot = s.boot := rfl
@[simp] theorem State.setFn_pins (f : Nat) (x : FnSt) : (s.setFn f x).pins = s.pins := rfl

/-! ### `State.setPart` -/

@[simp] theorem State.setPart_pending (p : Nat) (x : PartSt) : (s.setPart p x).pending = s.pending := rfl
@[simp] theorem State.setPart_ts (p : Nat) (x : PartSt) : (s.setPart p x).ts = s.ts := rfl
@[simp] theorem State.setPart_free (p : Nat) (x : PartSt) : (s.setPart p x).free = s.free := rfl
@[simp] theorem State.setPart_dev (p : Nat) (x : PartSt) : (s.setPart p x).dev = s.dev := rfl
@[simp] theorem State.setPart_fns (p : Nat) (x : PartSt) : (s.setPart p x).fns = s.fns := rfl
@[simp] theorem State.setPart_parts (p : Nat) (x : PartSt) : (s.setPart p x).parts = Tbl.set s.parts p x := rfl
@[simp] theorem State.setPart_keys (p : Nat) (x : PartSt) : (s.setPart p x).keys = s.keys := rfl
@[simp] theorem State.setPart_ctxs (p : Nat) (x : PartSt) : (s.setPart p x).ctxs = s.ctxs := rfl
@[simp] theorem State.setPart_queues (p : Nat) (x : PartSt) : (s.setPart p x).queues = s.queues := rfl
@[simp] theorem State.setPart_objs (p : Nat) (x : PartSt) : (s.setPart p x).objs = s.objs := rfl
@[simp] theorem State.setPart_objGens (p : Nat) (x : PartSt) : (s.setPart p x).objGens = s.objGens := rfl
@[simp] theorem State.setPart_events (p : Nat) (x : PartSt) : (s.setPart p x).events = s.events := rfl
@[simp] theorem State.setPart_waits (p : Nat) (x : PartSt) : (s.setPart p x).waits = s.waits := rfl
@[simp] theorem State.setPart_accs (p : Nat) (x : PartSt) : (s.setPart p x).accs = s.accs := rfl
@[simp] theorem State.setPart_works (p : Nat) (x : PartSt) : (s.setPart p x).works = s.works := rfl
@[simp] theorem State.setPart_runs (p : Nat) (x : PartSt) : (s.setPart p x).runs = s.runs := rfl
@[simp] theorem State.setPart_tiles (p : Nat) (x : PartSt) : (s.setPart p x).tiles = s.tiles := rfl
@[simp] theorem State.setPart_hbm (p : Nat) (x : PartSt) : (s.setPart p x).hbm = s.hbm := rfl
@[simp] theorem State.setPart_hbmUsed (p : Nat) (x : PartSt) : (s.setPart p x).hbmUsed = s.hbmUsed := rfl
@[simp] theorem State.setPart_wiping (p : Nat) (x : PartSt) : (s.setPart p x).wiping = s.wiping := rfl
@[simp] theorem State.setPart_flash (p : Nat) (x : PartSt) : (s.setPart p x).flash = s.flash := rfl
@[simp] theorem State.setPart_shroud (p : Nat) (x : PartSt) : (s.setPart p x).shroud = s.shroud := rfl
@[simp] theorem State.setPart_msix (p : Nat) (x : PartSt) : (s.setPart p x).msix = s.msix := rfl
@[simp] theorem State.setPart_hostOut (p : Nat) (x : PartSt) : (s.setPart p x).hostOut = s.hostOut := rfl
@[simp] theorem State.setPart_pwr (p : Nat) (x : PartSt) : (s.setPart p x).pwr = s.pwr := rfl
@[simp] theorem State.setPart_adpt (p : Nat) (x : PartSt) : (s.setPart p x).adpt = s.adpt := rfl
@[simp] theorem State.setPart_usets (p : Nat) (x : PartSt) : (s.setPart p x).usets = s.usets := rfl
@[simp] theorem State.setPart_recipes (p : Nat) (x : PartSt) : (s.setPart p x).recipes = s.recipes := rfl
@[simp] theorem State.setPart_unitGens (p : Nat) (x : PartSt) : (s.setPart p x).unitGens = s.unitGens := rfl
@[simp] theorem State.setPart_groups (p : Nat) (x : PartSt) : (s.setPart p x).groups = s.groups := rfl
@[simp] theorem State.setPart_rig (p : Nat) (x : PartSt) : (s.setPart p x).rig = s.rig := rfl
@[simp] theorem State.setPart_heldSnaps (p : Nat) (x : PartSt) : (s.setPart p x).heldSnaps = s.heldSnaps := rfl
@[simp] theorem State.setPart_onlyn (p : Nat) (x : PartSt) : (s.setPart p x).onlyn = s.onlyn := rfl
@[simp] theorem State.setPart_sec (p : Nat) (x : PartSt) : (s.setPart p x).sec = s.sec := rfl
@[simp] theorem State.setPart_boot (p : Nat) (x : PartSt) : (s.setPart p x).boot = s.boot := rfl
@[simp] theorem State.setPart_pins (p : Nat) (x : PartSt) : (s.setPart p x).pins = s.pins := rfl

/-! ### `State.setTile` -/

@[simp] theorem State.setTile_pending (t : Nat) (x : Tile) : (s.setTile t x).pending = s.pending := rfl
@[simp] theorem State.setTile_ts (t : Nat) (x : Tile) : (s.setTile t x).ts = s.ts := rfl
@[simp] theorem State.setTile_free (t : Nat) (x : Tile) : (s.setTile t x).free = s.free := rfl
@[simp] theorem State.setTile_dev (t : Nat) (x : Tile) : (s.setTile t x).dev = s.dev := rfl
@[simp] theorem State.setTile_fns (t : Nat) (x : Tile) : (s.setTile t x).fns = s.fns := rfl
@[simp] theorem State.setTile_parts (t : Nat) (x : Tile) : (s.setTile t x).parts = s.parts := rfl
@[simp] theorem State.setTile_keys (t : Nat) (x : Tile) : (s.setTile t x).keys = s.keys := rfl
@[simp] theorem State.setTile_ctxs (t : Nat) (x : Tile) : (s.setTile t x).ctxs = s.ctxs := rfl
@[simp] theorem State.setTile_queues (t : Nat) (x : Tile) : (s.setTile t x).queues = s.queues := rfl
@[simp] theorem State.setTile_objs (t : Nat) (x : Tile) : (s.setTile t x).objs = s.objs := rfl
@[simp] theorem State.setTile_objGens (t : Nat) (x : Tile) : (s.setTile t x).objGens = s.objGens := rfl
@[simp] theorem State.setTile_events (t : Nat) (x : Tile) : (s.setTile t x).events = s.events := rfl
@[simp] theorem State.setTile_waits (t : Nat) (x : Tile) : (s.setTile t x).waits = s.waits := rfl
@[simp] theorem State.setTile_accs (t : Nat) (x : Tile) : (s.setTile t x).accs = s.accs := rfl
@[simp] theorem State.setTile_works (t : Nat) (x : Tile) : (s.setTile t x).works = s.works := rfl
@[simp] theorem State.setTile_runs (t : Nat) (x : Tile) : (s.setTile t x).runs = s.runs := rfl
@[simp] theorem State.setTile_tiles (t : Nat) (x : Tile) : (s.setTile t x).tiles = Tbl.set s.tiles t x := rfl
@[simp] theorem State.setTile_hbm (t : Nat) (x : Tile) : (s.setTile t x).hbm = s.hbm := rfl
@[simp] theorem State.setTile_hbmUsed (t : Nat) (x : Tile) : (s.setTile t x).hbmUsed = s.hbmUsed := rfl
@[simp] theorem State.setTile_wiping (t : Nat) (x : Tile) : (s.setTile t x).wiping = s.wiping := rfl
@[simp] theorem State.setTile_flash (t : Nat) (x : Tile) : (s.setTile t x).flash = s.flash := rfl
@[simp] theorem State.setTile_shroud (t : Nat) (x : Tile) : (s.setTile t x).shroud = s.shroud := rfl
@[simp] theorem State.setTile_msix (t : Nat) (x : Tile) : (s.setTile t x).msix = s.msix := rfl
@[simp] theorem State.setTile_hostOut (t : Nat) (x : Tile) : (s.setTile t x).hostOut = s.hostOut := rfl
@[simp] theorem State.setTile_pwr (t : Nat) (x : Tile) : (s.setTile t x).pwr = s.pwr := rfl
@[simp] theorem State.setTile_adpt (t : Nat) (x : Tile) : (s.setTile t x).adpt = s.adpt := rfl
@[simp] theorem State.setTile_usets (t : Nat) (x : Tile) : (s.setTile t x).usets = s.usets := rfl
@[simp] theorem State.setTile_recipes (t : Nat) (x : Tile) : (s.setTile t x).recipes = s.recipes := rfl
@[simp] theorem State.setTile_unitGens (t : Nat) (x : Tile) : (s.setTile t x).unitGens = s.unitGens := rfl
@[simp] theorem State.setTile_groups (t : Nat) (x : Tile) : (s.setTile t x).groups = s.groups := rfl
@[simp] theorem State.setTile_rig (t : Nat) (x : Tile) : (s.setTile t x).rig = s.rig := rfl
@[simp] theorem State.setTile_heldSnaps (t : Nat) (x : Tile) : (s.setTile t x).heldSnaps = s.heldSnaps := rfl
@[simp] theorem State.setTile_onlyn (t : Nat) (x : Tile) : (s.setTile t x).onlyn = s.onlyn := rfl
@[simp] theorem State.setTile_sec (t : Nat) (x : Tile) : (s.setTile t x).sec = s.sec := rfl
@[simp] theorem State.setTile_boot (t : Nat) (x : Tile) : (s.setTile t x).boot = s.boot := rfl
@[simp] theorem State.setTile_pins (t : Nat) (x : Tile) : (s.setTile t x).pins = s.pins := rfl

/-! ### `State.setKey` -/

@[simp] theorem State.setKey_pending (k : Nat) (x : KeySlot) : (s.setKey k x).pending = s.pending := rfl
@[simp] theorem State.setKey_ts (k : Nat) (x : KeySlot) : (s.setKey k x).ts = s.ts := rfl
@[simp] theorem State.setKey_free (k : Nat) (x : KeySlot) : (s.setKey k x).free = s.free := rfl
@[simp] theorem State.setKey_dev (k : Nat) (x : KeySlot) : (s.setKey k x).dev = s.dev := rfl
@[simp] theorem State.setKey_fns (k : Nat) (x : KeySlot) : (s.setKey k x).fns = s.fns := rfl
@[simp] theorem State.setKey_parts (k : Nat) (x : KeySlot) : (s.setKey k x).parts = s.parts := rfl
@[simp] theorem State.setKey_keys (k : Nat) (x : KeySlot) : (s.setKey k x).keys = Tbl.set s.keys k x := rfl
@[simp] theorem State.setKey_ctxs (k : Nat) (x : KeySlot) : (s.setKey k x).ctxs = s.ctxs := rfl
@[simp] theorem State.setKey_queues (k : Nat) (x : KeySlot) : (s.setKey k x).queues = s.queues := rfl
@[simp] theorem State.setKey_objs (k : Nat) (x : KeySlot) : (s.setKey k x).objs = s.objs := rfl
@[simp] theorem State.setKey_objGens (k : Nat) (x : KeySlot) : (s.setKey k x).objGens = s.objGens := rfl
@[simp] theorem State.setKey_events (k : Nat) (x : KeySlot) : (s.setKey k x).events = s.events := rfl
@[simp] theorem State.setKey_waits (k : Nat) (x : KeySlot) : (s.setKey k x).waits = s.waits := rfl
@[simp] theorem State.setKey_accs (k : Nat) (x : KeySlot) : (s.setKey k x).accs = s.accs := rfl
@[simp] theorem State.setKey_works (k : Nat) (x : KeySlot) : (s.setKey k x).works = s.works := rfl
@[simp] theorem State.setKey_runs (k : Nat) (x : KeySlot) : (s.setKey k x).runs = s.runs := rfl
@[simp] theorem State.setKey_tiles (k : Nat) (x : KeySlot) : (s.setKey k x).tiles = s.tiles := rfl
@[simp] theorem State.setKey_hbm (k : Nat) (x : KeySlot) : (s.setKey k x).hbm = s.hbm := rfl
@[simp] theorem State.setKey_hbmUsed (k : Nat) (x : KeySlot) : (s.setKey k x).hbmUsed = s.hbmUsed := rfl
@[simp] theorem State.setKey_wiping (k : Nat) (x : KeySlot) : (s.setKey k x).wiping = s.wiping := rfl
@[simp] theorem State.setKey_flash (k : Nat) (x : KeySlot) : (s.setKey k x).flash = s.flash := rfl
@[simp] theorem State.setKey_shroud (k : Nat) (x : KeySlot) : (s.setKey k x).shroud = s.shroud := rfl
@[simp] theorem State.setKey_msix (k : Nat) (x : KeySlot) : (s.setKey k x).msix = s.msix := rfl
@[simp] theorem State.setKey_hostOut (k : Nat) (x : KeySlot) : (s.setKey k x).hostOut = s.hostOut := rfl
@[simp] theorem State.setKey_pwr (k : Nat) (x : KeySlot) : (s.setKey k x).pwr = s.pwr := rfl
@[simp] theorem State.setKey_adpt (k : Nat) (x : KeySlot) : (s.setKey k x).adpt = s.adpt := rfl
@[simp] theorem State.setKey_usets (k : Nat) (x : KeySlot) : (s.setKey k x).usets = s.usets := rfl
@[simp] theorem State.setKey_recipes (k : Nat) (x : KeySlot) : (s.setKey k x).recipes = s.recipes := rfl
@[simp] theorem State.setKey_unitGens (k : Nat) (x : KeySlot) : (s.setKey k x).unitGens = s.unitGens := rfl
@[simp] theorem State.setKey_groups (k : Nat) (x : KeySlot) : (s.setKey k x).groups = s.groups := rfl
@[simp] theorem State.setKey_rig (k : Nat) (x : KeySlot) : (s.setKey k x).rig = s.rig := rfl
@[simp] theorem State.setKey_heldSnaps (k : Nat) (x : KeySlot) : (s.setKey k x).heldSnaps = s.heldSnaps := rfl
@[simp] theorem State.setKey_onlyn (k : Nat) (x : KeySlot) : (s.setKey k x).onlyn = s.onlyn := rfl
@[simp] theorem State.setKey_sec (k : Nat) (x : KeySlot) : (s.setKey k x).sec = s.sec := rfl
@[simp] theorem State.setKey_boot (k : Nat) (x : KeySlot) : (s.setKey k x).boot = s.boot := rfl
@[simp] theorem State.setKey_pins (k : Nat) (x : KeySlot) : (s.setKey k x).pins = s.pins := rfl

/-! ### `State.setQueue` -/

@[simp] theorem State.setQueue_pending (q : Nat) (x : Queue) : (s.setQueue q x).pending = s.pending := rfl
@[simp] theorem State.setQueue_ts (q : Nat) (x : Queue) : (s.setQueue q x).ts = s.ts := rfl
@[simp] theorem State.setQueue_free (q : Nat) (x : Queue) : (s.setQueue q x).free = s.free := rfl
@[simp] theorem State.setQueue_dev (q : Nat) (x : Queue) : (s.setQueue q x).dev = s.dev := rfl
@[simp] theorem State.setQueue_fns (q : Nat) (x : Queue) : (s.setQueue q x).fns = s.fns := rfl
@[simp] theorem State.setQueue_parts (q : Nat) (x : Queue) : (s.setQueue q x).parts = s.parts := rfl
@[simp] theorem State.setQueue_keys (q : Nat) (x : Queue) : (s.setQueue q x).keys = s.keys := rfl
@[simp] theorem State.setQueue_ctxs (q : Nat) (x : Queue) : (s.setQueue q x).ctxs = s.ctxs := rfl
@[simp] theorem State.setQueue_queues (q : Nat) (x : Queue) : (s.setQueue q x).queues = Tbl.set s.queues q x := rfl
@[simp] theorem State.setQueue_objs (q : Nat) (x : Queue) : (s.setQueue q x).objs = s.objs := rfl
@[simp] theorem State.setQueue_objGens (q : Nat) (x : Queue) : (s.setQueue q x).objGens = s.objGens := rfl
@[simp] theorem State.setQueue_events (q : Nat) (x : Queue) : (s.setQueue q x).events = s.events := rfl
@[simp] theorem State.setQueue_waits (q : Nat) (x : Queue) : (s.setQueue q x).waits = s.waits := rfl
@[simp] theorem State.setQueue_accs (q : Nat) (x : Queue) : (s.setQueue q x).accs = s.accs := rfl
@[simp] theorem State.setQueue_works (q : Nat) (x : Queue) : (s.setQueue q x).works = s.works := rfl
@[simp] theorem State.setQueue_runs (q : Nat) (x : Queue) : (s.setQueue q x).runs = s.runs := rfl
@[simp] theorem State.setQueue_tiles (q : Nat) (x : Queue) : (s.setQueue q x).tiles = s.tiles := rfl
@[simp] theorem State.setQueue_hbm (q : Nat) (x : Queue) : (s.setQueue q x).hbm = s.hbm := rfl
@[simp] theorem State.setQueue_hbmUsed (q : Nat) (x : Queue) : (s.setQueue q x).hbmUsed = s.hbmUsed := rfl
@[simp] theorem State.setQueue_wiping (q : Nat) (x : Queue) : (s.setQueue q x).wiping = s.wiping := rfl
@[simp] theorem State.setQueue_flash (q : Nat) (x : Queue) : (s.setQueue q x).flash = s.flash := rfl
@[simp] theorem State.setQueue_shroud (q : Nat) (x : Queue) : (s.setQueue q x).shroud = s.shroud := rfl
@[simp] theorem State.setQueue_msix (q : Nat) (x : Queue) : (s.setQueue q x).msix = s.msix := rfl
@[simp] theorem State.setQueue_hostOut (q : Nat) (x : Queue) : (s.setQueue q x).hostOut = s.hostOut := rfl
@[simp] theorem State.setQueue_pwr (q : Nat) (x : Queue) : (s.setQueue q x).pwr = s.pwr := rfl
@[simp] theorem State.setQueue_adpt (q : Nat) (x : Queue) : (s.setQueue q x).adpt = s.adpt := rfl
@[simp] theorem State.setQueue_usets (q : Nat) (x : Queue) : (s.setQueue q x).usets = s.usets := rfl
@[simp] theorem State.setQueue_recipes (q : Nat) (x : Queue) : (s.setQueue q x).recipes = s.recipes := rfl
@[simp] theorem State.setQueue_unitGens (q : Nat) (x : Queue) : (s.setQueue q x).unitGens = s.unitGens := rfl
@[simp] theorem State.setQueue_groups (q : Nat) (x : Queue) : (s.setQueue q x).groups = s.groups := rfl
@[simp] theorem State.setQueue_rig (q : Nat) (x : Queue) : (s.setQueue q x).rig = s.rig := rfl
@[simp] theorem State.setQueue_heldSnaps (q : Nat) (x : Queue) : (s.setQueue q x).heldSnaps = s.heldSnaps := rfl
@[simp] theorem State.setQueue_onlyn (q : Nat) (x : Queue) : (s.setQueue q x).onlyn = s.onlyn := rfl
@[simp] theorem State.setQueue_sec (q : Nat) (x : Queue) : (s.setQueue q x).sec = s.sec := rfl
@[simp] theorem State.setQueue_boot (q : Nat) (x : Queue) : (s.setQueue q x).boot = s.boot := rfl
@[simp] theorem State.setQueue_pins (q : Nat) (x : Queue) : (s.setQueue q x).pins = s.pins := rfl

/-! ### `State.setCtx` -/

@[simp] theorem State.setCtx_pending (c : Nat) (x : Ctx) : (s.setCtx c x).pending = s.pending := rfl
@[simp] theorem State.setCtx_ts (c : Nat) (x : Ctx) : (s.setCtx c x).ts = s.ts := rfl
@[simp] theorem State.setCtx_free (c : Nat) (x : Ctx) : (s.setCtx c x).free = s.free := rfl
@[simp] theorem State.setCtx_dev (c : Nat) (x : Ctx) : (s.setCtx c x).dev = s.dev := rfl
@[simp] theorem State.setCtx_fns (c : Nat) (x : Ctx) : (s.setCtx c x).fns = s.fns := rfl
@[simp] theorem State.setCtx_parts (c : Nat) (x : Ctx) : (s.setCtx c x).parts = s.parts := rfl
@[simp] theorem State.setCtx_keys (c : Nat) (x : Ctx) : (s.setCtx c x).keys = s.keys := rfl
@[simp] theorem State.setCtx_ctxs (c : Nat) (x : Ctx) : (s.setCtx c x).ctxs = Tbl.set s.ctxs c x := rfl
@[simp] theorem State.setCtx_queues (c : Nat) (x : Ctx) : (s.setCtx c x).queues = s.queues := rfl
@[simp] theorem State.setCtx_objs (c : Nat) (x : Ctx) : (s.setCtx c x).objs = s.objs := rfl
@[simp] theorem State.setCtx_objGens (c : Nat) (x : Ctx) : (s.setCtx c x).objGens = s.objGens := rfl
@[simp] theorem State.setCtx_events (c : Nat) (x : Ctx) : (s.setCtx c x).events = s.events := rfl
@[simp] theorem State.setCtx_waits (c : Nat) (x : Ctx) : (s.setCtx c x).waits = s.waits := rfl
@[simp] theorem State.setCtx_accs (c : Nat) (x : Ctx) : (s.setCtx c x).accs = s.accs := rfl
@[simp] theorem State.setCtx_works (c : Nat) (x : Ctx) : (s.setCtx c x).works = s.works := rfl
@[simp] theorem State.setCtx_runs (c : Nat) (x : Ctx) : (s.setCtx c x).runs = s.runs := rfl
@[simp] theorem State.setCtx_tiles (c : Nat) (x : Ctx) : (s.setCtx c x).tiles = s.tiles := rfl
@[simp] theorem State.setCtx_hbm (c : Nat) (x : Ctx) : (s.setCtx c x).hbm = s.hbm := rfl
@[simp] theorem State.setCtx_hbmUsed (c : Nat) (x : Ctx) : (s.setCtx c x).hbmUsed = s.hbmUsed := rfl
@[simp] theorem State.setCtx_wiping (c : Nat) (x : Ctx) : (s.setCtx c x).wiping = s.wiping := rfl
@[simp] theorem State.setCtx_flash (c : Nat) (x : Ctx) : (s.setCtx c x).flash = s.flash := rfl
@[simp] theorem State.setCtx_shroud (c : Nat) (x : Ctx) : (s.setCtx c x).shroud = s.shroud := rfl
@[simp] theorem State.setCtx_msix (c : Nat) (x : Ctx) : (s.setCtx c x).msix = s.msix := rfl
@[simp] theorem State.setCtx_hostOut (c : Nat) (x : Ctx) : (s.setCtx c x).hostOut = s.hostOut := rfl
@[simp] theorem State.setCtx_pwr (c : Nat) (x : Ctx) : (s.setCtx c x).pwr = s.pwr := rfl
@[simp] theorem State.setCtx_adpt (c : Nat) (x : Ctx) : (s.setCtx c x).adpt = s.adpt := rfl
@[simp] theorem State.setCtx_usets (c : Nat) (x : Ctx) : (s.setCtx c x).usets = s.usets := rfl
@[simp] theorem State.setCtx_recipes (c : Nat) (x : Ctx) : (s.setCtx c x).recipes = s.recipes := rfl
@[simp] theorem State.setCtx_unitGens (c : Nat) (x : Ctx) : (s.setCtx c x).unitGens = s.unitGens := rfl
@[simp] theorem State.setCtx_groups (c : Nat) (x : Ctx) : (s.setCtx c x).groups = s.groups := rfl
@[simp] theorem State.setCtx_rig (c : Nat) (x : Ctx) : (s.setCtx c x).rig = s.rig := rfl
@[simp] theorem State.setCtx_heldSnaps (c : Nat) (x : Ctx) : (s.setCtx c x).heldSnaps = s.heldSnaps := rfl
@[simp] theorem State.setCtx_onlyn (c : Nat) (x : Ctx) : (s.setCtx c x).onlyn = s.onlyn := rfl
@[simp] theorem State.setCtx_sec (c : Nat) (x : Ctx) : (s.setCtx c x).sec = s.sec := rfl
@[simp] theorem State.setCtx_boot (c : Nat) (x : Ctx) : (s.setCtx c x).boot = s.boot := rfl
@[simp] theorem State.setCtx_pins (c : Nat) (x : Ctx) : (s.setCtx c x).pins = s.pins := rfl

/-! ### `State.setObj` -/

@[simp] theorem State.setObj_pending (k : Nat) (x : Obj) : (s.setObj k x).pending = s.pending := rfl
@[simp] theorem State.setObj_ts (k : Nat) (x : Obj) : (s.setObj k x).ts = s.ts := rfl
@[simp] theorem State.setObj_free (k : Nat) (x : Obj) : (s.setObj k x).free = s.free := rfl
@[simp] theorem State.setObj_dev (k : Nat) (x : Obj) : (s.setObj k x).dev = s.dev := rfl
@[simp] theorem State.setObj_fns (k : Nat) (x : Obj) : (s.setObj k x).fns = s.fns := rfl
@[simp] theorem State.setObj_parts (k : Nat) (x : Obj) : (s.setObj k x).parts = s.parts := rfl
@[simp] theorem State.setObj_keys (k : Nat) (x : Obj) : (s.setObj k x).keys = s.keys := rfl
@[simp] theorem State.setObj_ctxs (k : Nat) (x : Obj) : (s.setObj k x).ctxs = s.ctxs := rfl
@[simp] theorem State.setObj_queues (k : Nat) (x : Obj) : (s.setObj k x).queues = s.queues := rfl
@[simp] theorem State.setObj_objs (k : Nat) (x : Obj) : (s.setObj k x).objs = Tbl.set s.objs k x := rfl
@[simp] theorem State.setObj_objGens (k : Nat) (x : Obj) : (s.setObj k x).objGens = s.objGens := rfl
@[simp] theorem State.setObj_events (k : Nat) (x : Obj) : (s.setObj k x).events = s.events := rfl
@[simp] theorem State.setObj_waits (k : Nat) (x : Obj) : (s.setObj k x).waits = s.waits := rfl
@[simp] theorem State.setObj_accs (k : Nat) (x : Obj) : (s.setObj k x).accs = s.accs := rfl
@[simp] theorem State.setObj_works (k : Nat) (x : Obj) : (s.setObj k x).works = s.works := rfl
@[simp] theorem State.setObj_runs (k : Nat) (x : Obj) : (s.setObj k x).runs = s.runs := rfl
@[simp] theorem State.setObj_tiles (k : Nat) (x : Obj) : (s.setObj k x).tiles = s.tiles := rfl
@[simp] theorem State.setObj_hbm (k : Nat) (x : Obj) : (s.setObj k x).hbm = s.hbm := rfl
@[simp] theorem State.setObj_hbmUsed (k : Nat) (x : Obj) : (s.setObj k x).hbmUsed = s.hbmUsed := rfl
@[simp] theorem State.setObj_wiping (k : Nat) (x : Obj) : (s.setObj k x).wiping = s.wiping := rfl
@[simp] theorem State.setObj_flash (k : Nat) (x : Obj) : (s.setObj k x).flash = s.flash := rfl
@[simp] theorem State.setObj_shroud (k : Nat) (x : Obj) : (s.setObj k x).shroud = s.shroud := rfl
@[simp] theorem State.setObj_msix (k : Nat) (x : Obj) : (s.setObj k x).msix = s.msix := rfl
@[simp] theorem State.setObj_hostOut (k : Nat) (x : Obj) : (s.setObj k x).hostOut = s.hostOut := rfl
@[simp] theorem State.setObj_pwr (k : Nat) (x : Obj) : (s.setObj k x).pwr = s.pwr := rfl
@[simp] theorem State.setObj_adpt (k : Nat) (x : Obj) : (s.setObj k x).adpt = s.adpt := rfl
@[simp] theorem State.setObj_usets (k : Nat) (x : Obj) : (s.setObj k x).usets = s.usets := rfl
@[simp] theorem State.setObj_recipes (k : Nat) (x : Obj) : (s.setObj k x).recipes = s.recipes := rfl
@[simp] theorem State.setObj_unitGens (k : Nat) (x : Obj) : (s.setObj k x).unitGens = s.unitGens := rfl
@[simp] theorem State.setObj_groups (k : Nat) (x : Obj) : (s.setObj k x).groups = s.groups := rfl
@[simp] theorem State.setObj_rig (k : Nat) (x : Obj) : (s.setObj k x).rig = s.rig := rfl
@[simp] theorem State.setObj_heldSnaps (k : Nat) (x : Obj) : (s.setObj k x).heldSnaps = s.heldSnaps := rfl
@[simp] theorem State.setObj_onlyn (k : Nat) (x : Obj) : (s.setObj k x).onlyn = s.onlyn := rfl
@[simp] theorem State.setObj_sec (k : Nat) (x : Obj) : (s.setObj k x).sec = s.sec := rfl
@[simp] theorem State.setObj_boot (k : Nat) (x : Obj) : (s.setObj k x).boot = s.boot := rfl
@[simp] theorem State.setObj_pins (k : Nat) (x : Obj) : (s.setObj k x).pins = s.pins := rfl

/-! ### `State.setRun` -/

@[simp] theorem State.setRun_pending (r : Nat) (x : Run) : (s.setRun r x).pending = s.pending := rfl
@[simp] theorem State.setRun_ts (r : Nat) (x : Run) : (s.setRun r x).ts = s.ts := rfl
@[simp] theorem State.setRun_free (r : Nat) (x : Run) : (s.setRun r x).free = s.free := rfl
@[simp] theorem State.setRun_dev (r : Nat) (x : Run) : (s.setRun r x).dev = s.dev := rfl
@[simp] theorem State.setRun_fns (r : Nat) (x : Run) : (s.setRun r x).fns = s.fns := rfl
@[simp] theorem State.setRun_parts (r : Nat) (x : Run) : (s.setRun r x).parts = s.parts := rfl
@[simp] theorem State.setRun_keys (r : Nat) (x : Run) : (s.setRun r x).keys = s.keys := rfl
@[simp] theorem State.setRun_ctxs (r : Nat) (x : Run) : (s.setRun r x).ctxs = s.ctxs := rfl
@[simp] theorem State.setRun_queues (r : Nat) (x : Run) : (s.setRun r x).queues = s.queues := rfl
@[simp] theorem State.setRun_objs (r : Nat) (x : Run) : (s.setRun r x).objs = s.objs := rfl
@[simp] theorem State.setRun_objGens (r : Nat) (x : Run) : (s.setRun r x).objGens = s.objGens := rfl
@[simp] theorem State.setRun_events (r : Nat) (x : Run) : (s.setRun r x).events = s.events := rfl
@[simp] theorem State.setRun_waits (r : Nat) (x : Run) : (s.setRun r x).waits = s.waits := rfl
@[simp] theorem State.setRun_accs (r : Nat) (x : Run) : (s.setRun r x).accs = s.accs := rfl
@[simp] theorem State.setRun_works (r : Nat) (x : Run) : (s.setRun r x).works = s.works := rfl
@[simp] theorem State.setRun_runs (r : Nat) (x : Run) : (s.setRun r x).runs = Tbl.set s.runs r x := rfl
@[simp] theorem State.setRun_tiles (r : Nat) (x : Run) : (s.setRun r x).tiles = s.tiles := rfl
@[simp] theorem State.setRun_hbm (r : Nat) (x : Run) : (s.setRun r x).hbm = s.hbm := rfl
@[simp] theorem State.setRun_hbmUsed (r : Nat) (x : Run) : (s.setRun r x).hbmUsed = s.hbmUsed := rfl
@[simp] theorem State.setRun_wiping (r : Nat) (x : Run) : (s.setRun r x).wiping = s.wiping := rfl
@[simp] theorem State.setRun_flash (r : Nat) (x : Run) : (s.setRun r x).flash = s.flash := rfl
@[simp] theorem State.setRun_shroud (r : Nat) (x : Run) : (s.setRun r x).shroud = s.shroud := rfl
@[simp] theorem State.setRun_msix (r : Nat) (x : Run) : (s.setRun r x).msix = s.msix := rfl
@[simp] theorem State.setRun_hostOut (r : Nat) (x : Run) : (s.setRun r x).hostOut = s.hostOut := rfl
@[simp] theorem State.setRun_pwr (r : Nat) (x : Run) : (s.setRun r x).pwr = s.pwr := rfl
@[simp] theorem State.setRun_adpt (r : Nat) (x : Run) : (s.setRun r x).adpt = s.adpt := rfl
@[simp] theorem State.setRun_usets (r : Nat) (x : Run) : (s.setRun r x).usets = s.usets := rfl
@[simp] theorem State.setRun_recipes (r : Nat) (x : Run) : (s.setRun r x).recipes = s.recipes := rfl
@[simp] theorem State.setRun_unitGens (r : Nat) (x : Run) : (s.setRun r x).unitGens = s.unitGens := rfl
@[simp] theorem State.setRun_groups (r : Nat) (x : Run) : (s.setRun r x).groups = s.groups := rfl
@[simp] theorem State.setRun_rig (r : Nat) (x : Run) : (s.setRun r x).rig = s.rig := rfl
@[simp] theorem State.setRun_heldSnaps (r : Nat) (x : Run) : (s.setRun r x).heldSnaps = s.heldSnaps := rfl
@[simp] theorem State.setRun_onlyn (r : Nat) (x : Run) : (s.setRun r x).onlyn = s.onlyn := rfl
@[simp] theorem State.setRun_sec (r : Nat) (x : Run) : (s.setRun r x).sec = s.sec := rfl
@[simp] theorem State.setRun_boot (r : Nat) (x : Run) : (s.setRun r x).boot = s.boot := rfl
@[simp] theorem State.setRun_pins (r : Nat) (x : Run) : (s.setRun r x).pins = s.pins := rfl

/-! ### `State.setSess` -/

@[simp] theorem State.setSess_pending (p : Nat) (x : Session) : (s.setSess p x).pending = s.pending := rfl
@[simp] theorem State.setSess_ts (p : Nat) (x : Session) : (s.setSess p x).ts = s.ts := rfl
@[simp] theorem State.setSess_free (p : Nat) (x : Session) : (s.setSess p x).free = s.free := rfl
@[simp] theorem State.setSess_dev (p : Nat) (x : Session) : (s.setSess p x).dev = s.dev := rfl
@[simp] theorem State.setSess_fns (p : Nat) (x : Session) : (s.setSess p x).fns = s.fns := rfl
@[simp] theorem State.setSess_parts (p : Nat) (x : Session) : (s.setSess p x).parts = Tbl.set s.parts p { s.part p with sess := x } := rfl
@[simp] theorem State.setSess_keys (p : Nat) (x : Session) : (s.setSess p x).keys = s.keys := rfl
@[simp] theorem State.setSess_ctxs (p : Nat) (x : Session) : (s.setSess p x).ctxs = s.ctxs := rfl
@[simp] theorem State.setSess_queues (p : Nat) (x : Session) : (s.setSess p x).queues = s.queues := rfl
@[simp] theorem State.setSess_objs (p : Nat) (x : Session) : (s.setSess p x).objs = s.objs := rfl
@[simp] theorem State.setSess_objGens (p : Nat) (x : Session) : (s.setSess p x).objGens = s.objGens := rfl
@[simp] theorem State.setSess_events (p : Nat) (x : Session) : (s.setSess p x).events = s.events := rfl
@[simp] theorem State.setSess_waits (p : Nat) (x : Session) : (s.setSess p x).waits = s.waits := rfl
@[simp] theorem State.setSess_accs (p : Nat) (x : Session) : (s.setSess p x).accs = s.accs := rfl
@[simp] theorem State.setSess_works (p : Nat) (x : Session) : (s.setSess p x).works = s.works := rfl
@[simp] theorem State.setSess_runs (p : Nat) (x : Session) : (s.setSess p x).runs = s.runs := rfl
@[simp] theorem State.setSess_tiles (p : Nat) (x : Session) : (s.setSess p x).tiles = s.tiles := rfl
@[simp] theorem State.setSess_hbm (p : Nat) (x : Session) : (s.setSess p x).hbm = s.hbm := rfl
@[simp] theorem State.setSess_hbmUsed (p : Nat) (x : Session) : (s.setSess p x).hbmUsed = s.hbmUsed := rfl
@[simp] theorem State.setSess_wiping (p : Nat) (x : Session) : (s.setSess p x).wiping = s.wiping := rfl
@[simp] theorem State.setSess_flash (p : Nat) (x : Session) : (s.setSess p x).flash = s.flash := rfl
@[simp] theorem State.setSess_shroud (p : Nat) (x : Session) : (s.setSess p x).shroud = s.shroud := rfl
@[simp] theorem State.setSess_msix (p : Nat) (x : Session) : (s.setSess p x).msix = s.msix := rfl
@[simp] theorem State.setSess_hostOut (p : Nat) (x : Session) : (s.setSess p x).hostOut = s.hostOut := rfl
@[simp] theorem State.setSess_pwr (p : Nat) (x : Session) : (s.setSess p x).pwr = s.pwr := rfl
@[simp] theorem State.setSess_adpt (p : Nat) (x : Session) : (s.setSess p x).adpt = s.adpt := rfl
@[simp] theorem State.setSess_usets (p : Nat) (x : Session) : (s.setSess p x).usets = s.usets := rfl
@[simp] theorem State.setSess_recipes (p : Nat) (x : Session) : (s.setSess p x).recipes = s.recipes := rfl
@[simp] theorem State.setSess_unitGens (p : Nat) (x : Session) : (s.setSess p x).unitGens = s.unitGens := rfl
@[simp] theorem State.setSess_groups (p : Nat) (x : Session) : (s.setSess p x).groups = s.groups := rfl
@[simp] theorem State.setSess_rig (p : Nat) (x : Session) : (s.setSess p x).rig = s.rig := rfl
@[simp] theorem State.setSess_heldSnaps (p : Nat) (x : Session) : (s.setSess p x).heldSnaps = s.heldSnaps := rfl
@[simp] theorem State.setSess_onlyn (p : Nat) (x : Session) : (s.setSess p x).onlyn = s.onlyn := rfl
@[simp] theorem State.setSess_sec (p : Nat) (x : Session) : (s.setSess p x).sec = s.sec := rfl
@[simp] theorem State.setSess_boot (p : Nat) (x : Session) : (s.setSess p x).boot = s.boot := rfl
@[simp] theorem State.setSess_pins (p : Nat) (x : Session) : (s.setSess p x).pins = s.pins := rfl

/-! ### `State.setNet` -/

@[simp] theorem State.setNet_pending (p : Nat) (x : Net) : (s.setNet p x).pending = s.pending := rfl
@[simp] theorem State.setNet_ts (p : Nat) (x : Net) : (s.setNet p x).ts = s.ts := rfl
@[simp] theorem State.setNet_free (p : Nat) (x : Net) : (s.setNet p x).free = s.free := rfl
@[simp] theorem State.setNet_dev (p : Nat) (x : Net) : (s.setNet p x).dev = s.dev := rfl
@[simp] theorem State.setNet_fns (p : Nat) (x : Net) : (s.setNet p x).fns = s.fns := rfl
@[simp] theorem State.setNet_parts (p : Nat) (x : Net) : (s.setNet p x).parts = Tbl.set s.parts p { s.part p with net := x } := rfl
@[simp] theorem State.setNet_keys (p : Nat) (x : Net) : (s.setNet p x).keys = s.keys := rfl
@[simp] theorem State.setNet_ctxs (p : Nat) (x : Net) : (s.setNet p x).ctxs = s.ctxs := rfl
@[simp] theorem State.setNet_queues (p : Nat) (x : Net) : (s.setNet p x).queues = s.queues := rfl
@[simp] theorem State.setNet_objs (p : Nat) (x : Net) : (s.setNet p x).objs = s.objs := rfl
@[simp] theorem State.setNet_objGens (p : Nat) (x : Net) : (s.setNet p x).objGens = s.objGens := rfl
@[simp] theorem State.setNet_events (p : Nat) (x : Net) : (s.setNet p x).events = s.events := rfl
@[simp] theorem State.setNet_waits (p : Nat) (x : Net) : (s.setNet p x).waits = s.waits := rfl
@[simp] theorem State.setNet_accs (p : Nat) (x : Net) : (s.setNet p x).accs = s.accs := rfl
@[simp] theorem State.setNet_works (p : Nat) (x : Net) : (s.setNet p x).works = s.works := rfl
@[simp] theorem State.setNet_runs (p : Nat) (x : Net) : (s.setNet p x).runs = s.runs := rfl
@[simp] theorem State.setNet_tiles (p : Nat) (x : Net) : (s.setNet p x).tiles = s.tiles := rfl
@[simp] theorem State.setNet_hbm (p : Nat) (x : Net) : (s.setNet p x).hbm = s.hbm := rfl
@[simp] theorem State.setNet_hbmUsed (p : Nat) (x : Net) : (s.setNet p x).hbmUsed = s.hbmUsed := rfl
@[simp] theorem State.setNet_wiping (p : Nat) (x : Net) : (s.setNet p x).wiping = s.wiping := rfl
@[simp] theorem State.setNet_flash (p : Nat) (x : Net) : (s.setNet p x).flash = s.flash := rfl
@[simp] theorem State.setNet_shroud (p : Nat) (x : Net) : (s.setNet p x).shroud = s.shroud := rfl
@[simp] theorem State.setNet_msix (p : Nat) (x : Net) : (s.setNet p x).msix = s.msix := rfl
@[simp] theorem State.setNet_hostOut (p : Nat) (x : Net) : (s.setNet p x).hostOut = s.hostOut := rfl
@[simp] theorem State.setNet_pwr (p : Nat) (x : Net) : (s.setNet p x).pwr = s.pwr := rfl
@[simp] theorem State.setNet_adpt (p : Nat) (x : Net) : (s.setNet p x).adpt = s.adpt := rfl
@[simp] theorem State.setNet_usets (p : Nat) (x : Net) : (s.setNet p x).usets = s.usets := rfl
@[simp] theorem State.setNet_recipes (p : Nat) (x : Net) : (s.setNet p x).recipes = s.recipes := rfl
@[simp] theorem State.setNet_unitGens (p : Nat) (x : Net) : (s.setNet p x).unitGens = s.unitGens := rfl
@[simp] theorem State.setNet_groups (p : Nat) (x : Net) : (s.setNet p x).groups = s.groups := rfl
@[simp] theorem State.setNet_rig (p : Nat) (x : Net) : (s.setNet p x).rig = s.rig := rfl
@[simp] theorem State.setNet_heldSnaps (p : Nat) (x : Net) : (s.setNet p x).heldSnaps = s.heldSnaps := rfl
@[simp] theorem State.setNet_onlyn (p : Nat) (x : Net) : (s.setNet p x).onlyn = s.onlyn := rfl
@[simp] theorem State.setNet_sec (p : Nat) (x : Net) : (s.setNet p x).sec = s.sec := rfl
@[simp] theorem State.setNet_boot (p : Nat) (x : Net) : (s.setNet p x).boot = s.boot := rfl
@[simp] theorem State.setNet_pins (p : Nat) (x : Net) : (s.setNet p x).pins = s.pins := rfl

/-! ### `State.emptyKey` -/

@[simp] theorem State.emptyKey_pending (k : Nat) : (s.emptyKey k).pending = s.pending := rfl
@[simp] theorem State.emptyKey_ts (k : Nat) : (s.emptyKey k).ts = s.ts := rfl
@[simp] theorem State.emptyKey_free (k : Nat) : (s.emptyKey k).free = s.free := rfl
@[simp] theorem State.emptyKey_dev (k : Nat) : (s.emptyKey k).dev = s.dev := rfl
@[simp] theorem State.emptyKey_fns (k : Nat) : (s.emptyKey k).fns = s.fns := rfl
@[simp] theorem State.emptyKey_parts (k : Nat) : (s.emptyKey k).parts = s.parts := rfl
@[simp] theorem State.emptyKey_keys (k : Nat) : (s.emptyKey k).keys = Tbl.set s.keys k { KeySlot.reset with gone := (s.key k).gone } := rfl
@[simp] theorem State.emptyKey_ctxs (k : Nat) : (s.emptyKey k).ctxs = s.ctxs := rfl
@[simp] theorem State.emptyKey_queues (k : Nat) : (s.emptyKey k).queues = s.queues := rfl
@[simp] theorem State.emptyKey_objs (k : Nat) : (s.emptyKey k).objs = s.objs := rfl
@[simp] theorem State.emptyKey_objGens (k : Nat) : (s.emptyKey k).objGens = s.objGens := rfl
@[simp] theorem State.emptyKey_events (k : Nat) : (s.emptyKey k).events = s.events := rfl
@[simp] theorem State.emptyKey_waits (k : Nat) : (s.emptyKey k).waits = s.waits := rfl
@[simp] theorem State.emptyKey_accs (k : Nat) : (s.emptyKey k).accs = s.accs := rfl
@[simp] theorem State.emptyKey_works (k : Nat) : (s.emptyKey k).works = s.works := rfl
@[simp] theorem State.emptyKey_runs (k : Nat) : (s.emptyKey k).runs = s.runs := rfl
@[simp] theorem State.emptyKey_tiles (k : Nat) : (s.emptyKey k).tiles = s.tiles := rfl
@[simp] theorem State.emptyKey_hbm (k : Nat) : (s.emptyKey k).hbm = s.hbm := rfl
@[simp] theorem State.emptyKey_hbmUsed (k : Nat) : (s.emptyKey k).hbmUsed = s.hbmUsed := rfl
@[simp] theorem State.emptyKey_wiping (k : Nat) : (s.emptyKey k).wiping = s.wiping := rfl
@[simp] theorem State.emptyKey_flash (k : Nat) : (s.emptyKey k).flash = s.flash := rfl
@[simp] theorem State.emptyKey_shroud (k : Nat) : (s.emptyKey k).shroud = s.shroud := rfl
@[simp] theorem State.emptyKey_msix (k : Nat) : (s.emptyKey k).msix = s.msix := rfl
@[simp] theorem State.emptyKey_hostOut (k : Nat) : (s.emptyKey k).hostOut = s.hostOut := rfl
@[simp] theorem State.emptyKey_pwr (k : Nat) : (s.emptyKey k).pwr = s.pwr := rfl
@[simp] theorem State.emptyKey_adpt (k : Nat) : (s.emptyKey k).adpt = s.adpt := rfl
@[simp] theorem State.emptyKey_usets (k : Nat) : (s.emptyKey k).usets = s.usets := rfl
@[simp] theorem State.emptyKey_recipes (k : Nat) : (s.emptyKey k).recipes = s.recipes := rfl
@[simp] theorem State.emptyKey_unitGens (k : Nat) : (s.emptyKey k).unitGens = s.unitGens := rfl
@[simp] theorem State.emptyKey_groups (k : Nat) : (s.emptyKey k).groups = s.groups := rfl
@[simp] theorem State.emptyKey_rig (k : Nat) : (s.emptyKey k).rig = s.rig := rfl
@[simp] theorem State.emptyKey_heldSnaps (k : Nat) : (s.emptyKey k).heldSnaps = s.heldSnaps := rfl
@[simp] theorem State.emptyKey_onlyn (k : Nat) : (s.emptyKey k).onlyn = s.onlyn := rfl
@[simp] theorem State.emptyKey_sec (k : Nat) : (s.emptyKey k).sec = s.sec := rfl
@[simp] theorem State.emptyKey_boot (k : Nat) : (s.emptyKey k).boot = s.boot := rfl
@[simp] theorem State.emptyKey_pins (k : Nat) : (s.emptyKey k).pins = s.pins := rfl

/-! ### `State.bumpFn` -/

@[simp] theorem State.bumpFn_pending (f o n : Nat) : (s.bumpFn f o n).pending = s.pending := rfl
@[simp] theorem State.bumpFn_ts (f o n : Nat) : (s.bumpFn f o n).ts = s.ts := rfl
@[simp] theorem State.bumpFn_free (f o n : Nat) : (s.bumpFn f o n).free = s.free := rfl
@[simp] theorem State.bumpFn_dev (f o n : Nat) : (s.bumpFn f o n).dev = s.dev := rfl
@[simp] theorem State.bumpFn_fns (f o n : Nat) : (s.bumpFn f o n).fns = Tbl.set s.fns f { s.fn f with regs := bump (s.fn f).regs o n } := rfl
@[simp] theorem State.bumpFn_parts (f o n : Nat) : (s.bumpFn f o n).parts = s.parts := rfl
@[simp] theorem State.bumpFn_keys (f o n : Nat) : (s.bumpFn f o n).keys = s.keys := rfl
@[simp] theorem State.bumpFn_ctxs (f o n : Nat) : (s.bumpFn f o n).ctxs = s.ctxs := rfl
@[simp] theorem State.bumpFn_queues (f o n : Nat) : (s.bumpFn f o n).queues = s.queues := rfl
@[simp] theorem State.bumpFn_objs (f o n : Nat) : (s.bumpFn f o n).objs = s.objs := rfl
@[simp] theorem State.bumpFn_objGens (f o n : Nat) : (s.bumpFn f o n).objGens = s.objGens := rfl
@[simp] theorem State.bumpFn_events (f o n : Nat) : (s.bumpFn f o n).events = s.events := rfl
@[simp] theorem State.bumpFn_waits (f o n : Nat) : (s.bumpFn f o n).waits = s.waits := rfl
@[simp] theorem State.bumpFn_accs (f o n : Nat) : (s.bumpFn f o n).accs = s.accs := rfl
@[simp] theorem State.bumpFn_works (f o n : Nat) : (s.bumpFn f o n).works = s.works := rfl
@[simp] theorem State.bumpFn_runs (f o n : Nat) : (s.bumpFn f o n).runs = s.runs := rfl
@[simp] theorem State.bumpFn_tiles (f o n : Nat) : (s.bumpFn f o n).tiles = s.tiles := rfl
@[simp] theorem State.bumpFn_hbm (f o n : Nat) : (s.bumpFn f o n).hbm = s.hbm := rfl
@[simp] theorem State.bumpFn_hbmUsed (f o n : Nat) : (s.bumpFn f o n).hbmUsed = s.hbmUsed := rfl
@[simp] theorem State.bumpFn_wiping (f o n : Nat) : (s.bumpFn f o n).wiping = s.wiping := rfl
@[simp] theorem State.bumpFn_flash (f o n : Nat) : (s.bumpFn f o n).flash = s.flash := rfl
@[simp] theorem State.bumpFn_shroud (f o n : Nat) : (s.bumpFn f o n).shroud = s.shroud := rfl
@[simp] theorem State.bumpFn_msix (f o n : Nat) : (s.bumpFn f o n).msix = s.msix := rfl
@[simp] theorem State.bumpFn_hostOut (f o n : Nat) : (s.bumpFn f o n).hostOut = s.hostOut := rfl
@[simp] theorem State.bumpFn_pwr (f o n : Nat) : (s.bumpFn f o n).pwr = s.pwr := rfl
@[simp] theorem State.bumpFn_adpt (f o n : Nat) : (s.bumpFn f o n).adpt = s.adpt := rfl
@[simp] theorem State.bumpFn_usets (f o n : Nat) : (s.bumpFn f o n).usets = s.usets := rfl
@[simp] theorem State.bumpFn_recipes (f o n : Nat) : (s.bumpFn f o n).recipes = s.recipes := rfl
@[simp] theorem State.bumpFn_unitGens (f o n : Nat) : (s.bumpFn f o n).unitGens = s.unitGens := rfl
@[simp] theorem State.bumpFn_groups (f o n : Nat) : (s.bumpFn f o n).groups = s.groups := rfl
@[simp] theorem State.bumpFn_rig (f o n : Nat) : (s.bumpFn f o n).rig = s.rig := rfl
@[simp] theorem State.bumpFn_heldSnaps (f o n : Nat) : (s.bumpFn f o n).heldSnaps = s.heldSnaps := rfl
@[simp] theorem State.bumpFn_onlyn (f o n : Nat) : (s.bumpFn f o n).onlyn = s.onlyn := rfl
@[simp] theorem State.bumpFn_sec (f o n : Nat) : (s.bumpFn f o n).sec = s.sec := rfl
@[simp] theorem State.bumpFn_boot (f o n : Nat) : (s.bumpFn f o n).boot = s.boot := rfl
@[simp] theorem State.bumpFn_pins (f o n : Nat) : (s.bumpFn f o n).pins = s.pins := rfl

/-! ### `State.bumpPart` -/

@[simp] theorem State.bumpPart_pending (p o n : Nat) : (s.bumpPart p o n).pending = s.pending := rfl
@[simp] theorem State.bumpPart_ts (p o n : Nat) : (s.bumpPart p o n).ts = s.ts := rfl
@[simp] theorem State.bumpPart_free (p o n : Nat) : (s.bumpPart p o n).free = s.free := rfl
@[simp] theorem State.bumpPart_dev (p o n : Nat) : (s.bumpPart p o n).dev = s.dev := rfl
@[simp] theorem State.bumpPart_fns (p o n : Nat) : (s.bumpPart p o n).fns = s.fns := rfl
@[simp] theorem State.bumpPart_parts (p o n : Nat) : (s.bumpPart p o n).parts = Tbl.set s.parts p { s.part p with regs := bump (s.part p).regs o n } := rfl
@[simp] theorem State.bumpPart_keys (p o n : Nat) : (s.bumpPart p o n).keys = s.keys := rfl
@[simp] theorem State.bumpPart_ctxs (p o n : Nat) : (s.bumpPart p o n).ctxs = s.ctxs := rfl
@[simp] theorem State.bumpPart_queues (p o n : Nat) : (s.bumpPart p o n).queues = s.queues := rfl
@[simp] theorem State.bumpPart_objs (p o n : Nat) : (s.bumpPart p o n).objs = s.objs := rfl
@[simp] theorem State.bumpPart_objGens (p o n : Nat) : (s.bumpPart p o n).objGens = s.objGens := rfl
@[simp] theorem State.bumpPart_events (p o n : Nat) : (s.bumpPart p o n).events = s.events := rfl
@[simp] theorem State.bumpPart_waits (p o n : Nat) : (s.bumpPart p o n).waits = s.waits := rfl
@[simp] theorem State.bumpPart_accs (p o n : Nat) : (s.bumpPart p o n).accs = s.accs := rfl
@[simp] theorem State.bumpPart_works (p o n : Nat) : (s.bumpPart p o n).works = s.works := rfl
@[simp] theorem State.bumpPart_runs (p o n : Nat) : (s.bumpPart p o n).runs = s.runs := rfl
@[simp] theorem State.bumpPart_tiles (p o n : Nat) : (s.bumpPart p o n).tiles = s.tiles := rfl
@[simp] theorem State.bumpPart_hbm (p o n : Nat) : (s.bumpPart p o n).hbm = s.hbm := rfl
@[simp] theorem State.bumpPart_hbmUsed (p o n : Nat) : (s.bumpPart p o n).hbmUsed = s.hbmUsed := rfl
@[simp] theorem State.bumpPart_wiping (p o n : Nat) : (s.bumpPart p o n).wiping = s.wiping := rfl
@[simp] theorem State.bumpPart_flash (p o n : Nat) : (s.bumpPart p o n).flash = s.flash := rfl
@[simp] theorem State.bumpPart_shroud (p o n : Nat) : (s.bumpPart p o n).shroud = s.shroud := rfl
@[simp] theorem State.bumpPart_msix (p o n : Nat) : (s.bumpPart p o n).msix = s.msix := rfl
@[simp] theorem State.bumpPart_hostOut (p o n : Nat) : (s.bumpPart p o n).hostOut = s.hostOut := rfl
@[simp] theorem State.bumpPart_pwr (p o n : Nat) : (s.bumpPart p o n).pwr = s.pwr := rfl
@[simp] theorem State.bumpPart_adpt (p o n : Nat) : (s.bumpPart p o n).adpt = s.adpt := rfl
@[simp] theorem State.bumpPart_usets (p o n : Nat) : (s.bumpPart p o n).usets = s.usets := rfl
@[simp] theorem State.bumpPart_recipes (p o n : Nat) : (s.bumpPart p o n).recipes = s.recipes := rfl
@[simp] theorem State.bumpPart_unitGens (p o n : Nat) : (s.bumpPart p o n).unitGens = s.unitGens := rfl
@[simp] theorem State.bumpPart_groups (p o n : Nat) : (s.bumpPart p o n).groups = s.groups := rfl
@[simp] theorem State.bumpPart_rig (p o n : Nat) : (s.bumpPart p o n).rig = s.rig := rfl
@[simp] theorem State.bumpPart_heldSnaps (p o n : Nat) : (s.bumpPart p o n).heldSnaps = s.heldSnaps := rfl
@[simp] theorem State.bumpPart_onlyn (p o n : Nat) : (s.bumpPart p o n).onlyn = s.onlyn := rfl
@[simp] theorem State.bumpPart_sec (p o n : Nat) : (s.bumpPart p o n).sec = s.sec := rfl
@[simp] theorem State.bumpPart_boot (p o n : Nat) : (s.bumpPart p o n).boot = s.boot := rfl
@[simp] theorem State.bumpPart_pins (p o n : Nat) : (s.bumpPart p o n).pins = s.pins := rfl

/-! ### `State.bumpTile` -/

@[simp] theorem State.bumpTile_pending (t o n : Nat) : (s.bumpTile t o n).pending = s.pending := rfl
@[simp] theorem State.bumpTile_ts (t o n : Nat) : (s.bumpTile t o n).ts = s.ts := rfl
@[simp] theorem State.bumpTile_free (t o n : Nat) : (s.bumpTile t o n).free = s.free := rfl
@[simp] theorem State.bumpTile_dev (t o n : Nat) : (s.bumpTile t o n).dev = s.dev := rfl
@[simp] theorem State.bumpTile_fns (t o n : Nat) : (s.bumpTile t o n).fns = s.fns := rfl
@[simp] theorem State.bumpTile_parts (t o n : Nat) : (s.bumpTile t o n).parts = s.parts := rfl
@[simp] theorem State.bumpTile_keys (t o n : Nat) : (s.bumpTile t o n).keys = s.keys := rfl
@[simp] theorem State.bumpTile_ctxs (t o n : Nat) : (s.bumpTile t o n).ctxs = s.ctxs := rfl
@[simp] theorem State.bumpTile_queues (t o n : Nat) : (s.bumpTile t o n).queues = s.queues := rfl
@[simp] theorem State.bumpTile_objs (t o n : Nat) : (s.bumpTile t o n).objs = s.objs := rfl
@[simp] theorem State.bumpTile_objGens (t o n : Nat) : (s.bumpTile t o n).objGens = s.objGens := rfl
@[simp] theorem State.bumpTile_events (t o n : Nat) : (s.bumpTile t o n).events = s.events := rfl
@[simp] theorem State.bumpTile_waits (t o n : Nat) : (s.bumpTile t o n).waits = s.waits := rfl
@[simp] theorem State.bumpTile_accs (t o n : Nat) : (s.bumpTile t o n).accs = s.accs := rfl
@[simp] theorem State.bumpTile_works (t o n : Nat) : (s.bumpTile t o n).works = s.works := rfl
@[simp] theorem State.bumpTile_runs (t o n : Nat) : (s.bumpTile t o n).runs = s.runs := rfl
@[simp] theorem State.bumpTile_tiles (t o n : Nat) : (s.bumpTile t o n).tiles = Tbl.set s.tiles t { s.tile t with regs := bump (s.tile t).regs o n } := rfl
@[simp] theorem State.bumpTile_hbm (t o n : Nat) : (s.bumpTile t o n).hbm = s.hbm := rfl
@[simp] theorem State.bumpTile_hbmUsed (t o n : Nat) : (s.bumpTile t o n).hbmUsed = s.hbmUsed := rfl
@[simp] theorem State.bumpTile_wiping (t o n : Nat) : (s.bumpTile t o n).wiping = s.wiping := rfl
@[simp] theorem State.bumpTile_flash (t o n : Nat) : (s.bumpTile t o n).flash = s.flash := rfl
@[simp] theorem State.bumpTile_shroud (t o n : Nat) : (s.bumpTile t o n).shroud = s.shroud := rfl
@[simp] theorem State.bumpTile_msix (t o n : Nat) : (s.bumpTile t o n).msix = s.msix := rfl
@[simp] theorem State.bumpTile_hostOut (t o n : Nat) : (s.bumpTile t o n).hostOut = s.hostOut := rfl
@[simp] theorem State.bumpTile_pwr (t o n : Nat) : (s.bumpTile t o n).pwr = s.pwr := rfl
@[simp] theorem State.bumpTile_adpt (t o n : Nat) : (s.bumpTile t o n).adpt = s.adpt := rfl
@[simp] theorem State.bumpTile_usets (t o n : Nat) : (s.bumpTile t o n).usets = s.usets := rfl
@[simp] theorem State.bumpTile_recipes (t o n : Nat) : (s.bumpTile t o n).recipes = s.recipes := rfl
@[simp] theorem State.bumpTile_unitGens (t o n : Nat) : (s.bumpTile t o n).unitGens = s.unitGens := rfl
@[simp] theorem State.bumpTile_groups (t o n : Nat) : (s.bumpTile t o n).groups = s.groups := rfl
@[simp] theorem State.bumpTile_rig (t o n : Nat) : (s.bumpTile t o n).rig = s.rig := rfl
@[simp] theorem State.bumpTile_heldSnaps (t o n : Nat) : (s.bumpTile t o n).heldSnaps = s.heldSnaps := rfl
@[simp] theorem State.bumpTile_onlyn (t o n : Nat) : (s.bumpTile t o n).onlyn = s.onlyn := rfl
@[simp] theorem State.bumpTile_sec (t o n : Nat) : (s.bumpTile t o n).sec = s.sec := rfl
@[simp] theorem State.bumpTile_boot (t o n : Nat) : (s.bumpTile t o n).boot = s.boot := rfl
@[simp] theorem State.bumpTile_pins (t o n : Nat) : (s.bumpTile t o n).pins = s.pins := rfl

/-! ### `State.bumpDev` -/

@[simp] theorem State.bumpDev_pending (o n : Nat) : (s.bumpDev o n).pending = s.pending := rfl
@[simp] theorem State.bumpDev_ts (o n : Nat) : (s.bumpDev o n).ts = s.ts := rfl
@[simp] theorem State.bumpDev_free (o n : Nat) : (s.bumpDev o n).free = s.free := rfl
@[simp] theorem State.bumpDev_dev (o n : Nat) : (s.bumpDev o n).dev = { s.dev with regs := bump s.dev.regs o n } := rfl
@[simp] theorem State.bumpDev_fns (o n : Nat) : (s.bumpDev o n).fns = s.fns := rfl
@[simp] theorem State.bumpDev_parts (o n : Nat) : (s.bumpDev o n).parts = s.parts := rfl
@[simp] theorem State.bumpDev_keys (o n : Nat) : (s.bumpDev o n).keys = s.keys := rfl
@[simp] theorem State.bumpDev_ctxs (o n : Nat) : (s.bumpDev o n).ctxs = s.ctxs := rfl
@[simp] theorem State.bumpDev_queues (o n : Nat) : (s.bumpDev o n).queues = s.queues := rfl
@[simp] theorem State.bumpDev_objs (o n : Nat) : (s.bumpDev o n).objs = s.objs := rfl
@[simp] theorem State.bumpDev_objGens (o n : Nat) : (s.bumpDev o n).objGens = s.objGens := rfl
@[simp] theorem State.bumpDev_events (o n : Nat) : (s.bumpDev o n).events = s.events := rfl
@[simp] theorem State.bumpDev_waits (o n : Nat) : (s.bumpDev o n).waits = s.waits := rfl
@[simp] theorem State.bumpDev_accs (o n : Nat) : (s.bumpDev o n).accs = s.accs := rfl
@[simp] theorem State.bumpDev_works (o n : Nat) : (s.bumpDev o n).works = s.works := rfl
@[simp] theorem State.bumpDev_runs (o n : Nat) : (s.bumpDev o n).runs = s.runs := rfl
@[simp] theorem State.bumpDev_tiles (o n : Nat) : (s.bumpDev o n).tiles = s.tiles := rfl
@[simp] theorem State.bumpDev_hbm (o n : Nat) : (s.bumpDev o n).hbm = s.hbm := rfl
@[simp] theorem State.bumpDev_hbmUsed (o n : Nat) : (s.bumpDev o n).hbmUsed = s.hbmUsed := rfl
@[simp] theorem State.bumpDev_wiping (o n : Nat) : (s.bumpDev o n).wiping = s.wiping := rfl
@[simp] theorem State.bumpDev_flash (o n : Nat) : (s.bumpDev o n).flash = s.flash := rfl
@[simp] theorem State.bumpDev_shroud (o n : Nat) : (s.bumpDev o n).shroud = s.shroud := rfl
@[simp] theorem State.bumpDev_msix (o n : Nat) : (s.bumpDev o n).msix = s.msix := rfl
@[simp] theorem State.bumpDev_hostOut (o n : Nat) : (s.bumpDev o n).hostOut = s.hostOut := rfl
@[simp] theorem State.bumpDev_pwr (o n : Nat) : (s.bumpDev o n).pwr = s.pwr := rfl
@[simp] theorem State.bumpDev_adpt (o n : Nat) : (s.bumpDev o n).adpt = s.adpt := rfl
@[simp] theorem State.bumpDev_usets (o n : Nat) : (s.bumpDev o n).usets = s.usets := rfl
@[simp] theorem State.bumpDev_recipes (o n : Nat) : (s.bumpDev o n).recipes = s.recipes := rfl
@[simp] theorem State.bumpDev_unitGens (o n : Nat) : (s.bumpDev o n).unitGens = s.unitGens := rfl
@[simp] theorem State.bumpDev_groups (o n : Nat) : (s.bumpDev o n).groups = s.groups := rfl
@[simp] theorem State.bumpDev_rig (o n : Nat) : (s.bumpDev o n).rig = s.rig := rfl
@[simp] theorem State.bumpDev_heldSnaps (o n : Nat) : (s.bumpDev o n).heldSnaps = s.heldSnaps := rfl
@[simp] theorem State.bumpDev_onlyn (o n : Nat) : (s.bumpDev o n).onlyn = s.onlyn := rfl
@[simp] theorem State.bumpDev_sec (o n : Nat) : (s.bumpDev o n).sec = s.sec := rfl
@[simp] theorem State.bumpDev_boot (o n : Nat) : (s.bumpDev o n).boot = s.boot := rfl
@[simp] theorem State.bumpDev_pins (o n : Nat) : (s.bumpDev o n).pins = s.pins := rfl

/-! ### `State.touchDom` -/

@[simp] theorem State.touchDom_pending (d : Nat) : (s.touchDom d).pending = s.pending := rfl
@[simp] theorem State.touchDom_ts (d : Nat) : (s.touchDom d).ts = s.ts := rfl
@[simp] theorem State.touchDom_free (d : Nat) : (s.touchDom d).free = s.free := rfl
@[simp] theorem State.touchDom_dev (d : Nat) : (s.touchDom d).dev = s.dev := rfl
@[simp] theorem State.touchDom_fns (d : Nat) : (s.touchDom d).fns = s.fns := rfl
@[simp] theorem State.touchDom_parts (d : Nat) : (s.touchDom d).parts = s.parts := rfl
@[simp] theorem State.touchDom_keys (d : Nat) : (s.touchDom d).keys = s.keys := rfl
@[simp] theorem State.touchDom_ctxs (d : Nat) : (s.touchDom d).ctxs = s.ctxs := rfl
@[simp] theorem State.touchDom_queues (d : Nat) : (s.touchDom d).queues = s.queues := rfl
@[simp] theorem State.touchDom_objs (d : Nat) : (s.touchDom d).objs = s.objs := rfl
@[simp] theorem State.touchDom_objGens (d : Nat) : (s.touchDom d).objGens = s.objGens := rfl
@[simp] theorem State.touchDom_events (d : Nat) : (s.touchDom d).events = s.events := rfl
@[simp] theorem State.touchDom_waits (d : Nat) : (s.touchDom d).waits = s.waits := rfl
@[simp] theorem State.touchDom_accs (d : Nat) : (s.touchDom d).accs = s.accs := rfl
@[simp] theorem State.touchDom_works (d : Nat) : (s.touchDom d).works = s.works := rfl
@[simp] theorem State.touchDom_runs (d : Nat) : (s.touchDom d).runs = s.runs := rfl
@[simp] theorem State.touchDom_tiles (d : Nat) : (s.touchDom d).tiles = s.tiles := rfl
@[simp] theorem State.touchDom_hbm (d : Nat) : (s.touchDom d).hbm = s.hbm := rfl
@[simp] theorem State.touchDom_hbmUsed (d : Nat) : (s.touchDom d).hbmUsed = s.hbmUsed := rfl
@[simp] theorem State.touchDom_wiping (d : Nat) : (s.touchDom d).wiping = s.wiping := rfl
@[simp] theorem State.touchDom_flash (d : Nat) : (s.touchDom d).flash = s.flash := rfl
@[simp] theorem State.touchDom_shroud (d : Nat) : (s.touchDom d).shroud = s.shroud := rfl
@[simp] theorem State.touchDom_msix (d : Nat) : (s.touchDom d).msix = s.msix := rfl
@[simp] theorem State.touchDom_hostOut (d : Nat) : (s.touchDom d).hostOut = s.hostOut := rfl
@[simp] theorem State.touchDom_pwr (d : Nat) : (s.touchDom d).pwr = { s.pwr with doms := s.pwr.doms.modify d (fun (x : Dom) => { x with idleSince := s.ts }) } := rfl
@[simp] theorem State.touchDom_adpt (d : Nat) : (s.touchDom d).adpt = s.adpt := rfl
@[simp] theorem State.touchDom_usets (d : Nat) : (s.touchDom d).usets = s.usets := rfl
@[simp] theorem State.touchDom_recipes (d : Nat) : (s.touchDom d).recipes = s.recipes := rfl
@[simp] theorem State.touchDom_unitGens (d : Nat) : (s.touchDom d).unitGens = s.unitGens := rfl
@[simp] theorem State.touchDom_groups (d : Nat) : (s.touchDom d).groups = s.groups := rfl
@[simp] theorem State.touchDom_rig (d : Nat) : (s.touchDom d).rig = s.rig := rfl
@[simp] theorem State.touchDom_heldSnaps (d : Nat) : (s.touchDom d).heldSnaps = s.heldSnaps := rfl
@[simp] theorem State.touchDom_onlyn (d : Nat) : (s.touchDom d).onlyn = s.onlyn := rfl
@[simp] theorem State.touchDom_sec (d : Nat) : (s.touchDom d).sec = s.sec := rfl
@[simp] theorem State.touchDom_boot (d : Nat) : (s.touchDom d).boot = s.boot := rfl
@[simp] theorem State.touchDom_pins (d : Nat) : (s.touchDom d).pins = s.pins := rfl

/-! ### Reset -/

/-- The memory of the machine at reset lists nothing, so it has the canonical form. -/
theorem reset_hbm_wf : State.reset.hbm.wf = true := rfl

end Sys2Proof.Machine
end

