-- ==== Sys2Proof/Laws/Tree.lean ====
section
/-! SUPPORT. What the metadata cache changes: bringing lines in, writing them back and putting a counter block leave the verdict on every line as it was
recorded (R275, R278). -/

namespace Sys2Proof.Machine

/-- The parts of the memory guard that the cache's traffic never touches: the lines whose tags fail, the poisoned ones, the failed nodes, the high-water mark and
the sweeps. -/
def Shroud.SameVerdict (h h' : Shroud) : Prop :=
  h'.bad = h.bad ∧ h'.poison = h.poison ∧ h'.badFlash = h.badFlash ∧ h'.failed = h.failed ∧ h'.hwm = h.hwm ∧ h'.hwmN = h.hwmN ∧ h'.sweeps = h.sweeps ∧ h'.upsets = h.upsets

theorem Shroud.SameVerdict.refl (h : Shroud) : h.SameVerdict h := ⟨rfl, rfl, rfl, rfl, rfl, rfl, rfl, rfl⟩
theorem Shroud.SameVerdict.trans {a b c : Shroud} (h1 : a.SameVerdict b) (h2 : b.SameVerdict c) : a.SameVerdict c := by
  obtain ⟨a1, a2, a3, a4, a5, a6, a7, a8⟩ := h1
  obtain ⟨b1, b2, b3, b4, b5, b6, b7, b8⟩ := h2
  exact ⟨b1.trans a1, b2.trans a2, b3.trans a3, b4.trans a4, b5.trans a5, b6.trans a6, b7.trans a7, b8.trans a8⟩

theorem Shroud.foldl_same (f : Shroud → Nat → Shroud) (hf : ∀ (h : Shroud) (m : Nat), h.SameVerdict (f h m)) (l : List Nat) (h : Shroud) : h.SameVerdict (l.foldl f h) := by
  induction l generalizing h with
  | nil => exact .refl h
  | cons m l ih => exact (hf h m).trans (ih (f h m))

theorem Shroud.setField_same (h : Shroud) (p c v : Nat) : h.SameVerdict (h.setField p c v) := ⟨rfl, rfl, rfl, rfl, rfl, rfl, rfl, rfl⟩
theorem Shroud.raiseRoot_same (h : Shroud) (c : Nat) : h.SameVerdict (h.raiseRoot c) := ⟨rfl, rfl, rfl, rfl, rfl, rfl, rfl, rfl⟩

theorem Shroud.writeBack_same (h : Shroud) (m : Nat) (x : MetaLine) : h.SameVerdict (h.writeBack m x) := by
  unfold Shroud.writeBack
  dsimp only
  split
  · exact (⟨rfl, rfl, rfl, rfl, rfl, rfl, rfl, rfl⟩ : h.SameVerdict _)
  · split
    · split
      · exact (⟨rfl, rfl, rfl, rfl, rfl, rfl, rfl, rfl⟩ : h.SameVerdict _)
      · exact (⟨rfl, rfl, rfl, rfl, rfl, rfl, rfl, rfl⟩ : h.SameVerdict _)
    · exact .refl h

theorem Shroud.makePlace_same (h : Shroud) (keep : List Nat) : h.SameVerdict (h.makePlace keep) := by
  unfold Shroud.makePlace
  dsimp only
  split
  · exact .refl h
  · split
    · exact .refl h
    · split
      · exact Shroud.SameVerdict.trans (b := { h with cache := _, evicted := _ }) ⟨rfl, rfl, rfl, rfl, rfl, rfl, rfl, rfl⟩ (Shroud.writeBack_same _ _ _)
      · exact ⟨rfl, rfl, rfl, rfl, rfl, rfl, rfl, rfl⟩

theorem Shroud.load_same (h : Shroud) (keys : List Nat) : h.SameVerdict (h.load keys) := by
  refine Shroud.foldl_same _ (fun g m => ?_) keys h
  dsimp only
  split
  · exact .refl g
  · exact (Shroud.makePlace_same g keys).trans ⟨rfl, rfl, rfl, rfl, rfl, rfl, rfl, rfl⟩

theorem Shroud.loadLine_same (h : Shroud) (line : Nat) : h.SameVerdict (h.loadLine line) := by
  unfold Shroud.loadLine
  split
  · exact .refl h
  · exact Shroud.load_same h _

/-- Bringing in what guards lines keeps every line's recorded verdict. -/
theorem Shroud.loadLines_same (h : Shroud) (ls : List Nat) : h.SameVerdict (h.loadLines ls) := Shroud.foldl_same _ Shroud.loadLine_same ls h

/-- With no failed node and no line whose tag fails, every line verifies. -/
theorem Shroud.lineBad_clean (h : Shroud) (line : Nat) (h1 : h.bad = []) (h2 : h.failed = []) : h.lineBad line = false := by
  simp [Shroud.lineBad, Shroud.blockLost, Shroud.under, h1, h2]

theorem State.useMeta_of_hits (s : State) (p : Option Nat) (ls : List Nat) (h : ls.all s.shroud.hits = true) : s.useMeta p ls = s := if_pos h
theorem State.useMeta_of_miss (s : State) (p : Option Nat) (ls : List Nat) (h : ls.all s.shroud.hits ≠ true) :
    s.useMeta p ls = { s with shroud := s.shroud.loadLines ls }.bumpPart? p cMetaMiss 1 := if_neg h

/-- A read's use of the metadata cache changes the cache and a counter of its partition alone. -/
theorem State.useMeta_only (s : State) (p : Option Nat) (ls : List Nat) :
    s.shroud.SameVerdict (s.useMeta p ls).shroud ∧ (s.useMeta p ls).objs = s.objs ∧ (s.useMeta p ls).keys = s.keys ∧ (s.useMeta p ls).flash = s.flash ∧ (s.useMeta p ls).dev = s.dev ∧
      (s.useMeta p ls).hbm = s.hbm := by
  by_cases h : ls.all s.shroud.hits = true
  · rw [State.useMeta_of_hits s p ls h]
    exact ⟨.refl _, rfl, rfl, rfl, rfl, rfl⟩
  · rw [State.useMeta_of_miss s p ls h]
    cases p <;> exact ⟨Shroud.loadLines_same _ _, rfl, rfl, rfl, rfl, rfl⟩

/-- With no failed node and no line whose tag fails, a read of a frame finds nothing wrong, whatever the cache holds. -/
theorem State.useMeta_badLines (s : State) (p : Option Nat) (ls : List Nat) (frame off len : Nat) (h1 : s.shroud.bad = []) (h2 : s.shroud.failed = []) :
    (s.useMeta p ls).shroud.badLines frame off len = [] := by
  have h := (State.useMeta_only s p ls).1
  refine List.filter_eq_nil_iff.mpr (fun l _ => ?_)
  rw [Shroud.lineBad_clean _ _ (h.1.trans h1) (h.2.2.2.1.trans h2)]
  decide

end Sys2Proof.Machine
end

