-- ==== Sys2Proof/Laws/Turn.lean ====
section
/-! SUPPORT. What a command's turn gives: each way of running a command is its effect on the state in which it has started. -/

namespace Sys2Proof.Machine

theorem start_of_hostTurn {s : State} {q : QId} {cmd : HostCmd} {e : Entry} {c : Nat} {x : Ctx} (h : HostTurn s q cmd e c x) :
    s.start q cmd = some (qKey q, e, s.started q e.sub) := by
  obtain ⟨qu, h1, h2, h3, h4, h5, -, -⟩ := h
  subst h4
  simp [State.start, State.started, h1, h2, h3, h5]

theorem start_of_adminTurn {s : State} {q : QId} {cmd : HostCmd} {e : Entry} (h : AdminTurn s q cmd e) :
    s.start q cmd = some (qKey q, e, s.started q e.sub) := by
  obtain ⟨-, qu, h1, h2, h3, h4, h5⟩ := h
  subst h4
  simp [State.start, State.started, h1, h2, h3, h5]

theorem Tbl.get_set_self {α : Type} (t : Tbl α) (k : Nat) (a : α) : (Tbl.set t k a).get k = some a := by
  induction t with
  | nil => simp [Tbl.set, Tbl.get]
  | cons e r ih =>
    obtain ⟨j, v⟩ := e
    simp only [Tbl.set]
    split
    · simp [Tbl.get]
    · split
      · simp [Tbl.get]
      · rename_i h1 h2
        have : ¬ j = k := fun h => h2 h.symm
        simp [Tbl.get, this, ih]

/-- A command on a context queue whose turn it is acts on the state in which it has started. -/
theorem whenCtx_of_turn {s : State} {q : QId} {cmd : HostCmd} {e : Entry} {c : Nat} {x : Ctx} (h : HostTurn s q cmd e c x)
    (f : Nat → Entry → Nat → Ctx → State → State) : s.whenCtx q cmd f = .next (f (qKey q) e c x (s.started q e.sub)) := by
  have hs := start_of_hostTurn h
  obtain ⟨qu, h1, h2, h3, h4, h5, h6, h7⟩ := h
  simp [State.whenCtx, State.whenStarted, hs, State.started, h1, State.setQueue, Tbl.get_set_self, h6, h7]

theorem whenAdmin_of_turn {s : State} {q : QId} {cmd : HostCmd} {e : Entry} (h : AdminTurn s q cmd e)
    (f : Nat → Entry → State → State) : s.whenAdmin q cmd f = .next (f (qKey q) e (s.started q e.sub)) := by
  have hs := start_of_adminTurn h
  simp [State.whenAdmin, State.whenStarted, hs, h.1]

theorem whenWord_of_turn {s : State} {t w : Nat} {x : Site} (h : TileHere s t w x) (f : Site → Tile → State → State) :
    s.whenWord t w f = .next (f x (s.tile t) s) := by
  obtain ⟨h1, h2, h3, h4, h5, h6⟩ := h
  simp [State.whenWord, h1, h2, h3, h4, h5, h6]

/-- An instruction that reads memory issues its reads at first. -/
theorem whenRead_of_turn {s : State} {t w : Nat} {x : Site} (h : TileHere s t w x) (issue : Site → Tile → State → Except (Status × Scope) (List Nat × After × State))
    (act : Site → Tile → After → State → State) {l : List Nat} {a : After} {s1 : State} (hi : issue x (s.tile t) s = .ok (l, a, s1)) :
    s.whenRead t w issue act = .next ((s1.await t l a).moved x.rid) := by
  obtain ⟨h1, h2, h3, h4, h5, h6⟩ := h
  simp [State.whenRead, h1, h2, h3, h4, h5, h6, hi]

/-- Once they have all come back it acts on the data. -/
theorem whenRead_of_back {s : State} {t w : Nat} {x : Site} {a : After} (h : TileReady s t w x a) (issue : Site → Tile → State → Except (Status × Scope) (List Nat × After × State))
    (act : Site → Tile → After → State → State) : s.whenRead t w issue act = .next (act x (s.tile t) a s) := by
  obtain ⟨h1, h2, h3, ⟨n, h4⟩, h5⟩ := h
  simp [State.whenRead, h1, h2, h3, h4, h5]

/-! ### All that a turn can come to -/

/-- A command starts on its own queue, on an entry of the queue that carries it. -/
theorem start_cases {s s1 : State} {q : QId} {cmd : HostCmd} {qk : Nat} {e : Entry} (h : s.start q cmd = some (qk, e, s1)) :
    qk = qKey q ∧ e.cmd = cmd ∧ s1 = s.started q e.sub ∧ ∃ qu, s.queues.get (qKey q) = some qu ∧ s.queueRuns qu = true ∧
      qu.startable = some e ∧ (compsOf cmd).all s.compUp = true := by
  unfold State.start at h
  split at h
  · cases h
  · rename_i qu hq
    split at h
    · cases h
    · rename_i hr
      split at h
      · cases h
      · rename_i e' he
        split at h
        · rename_i hc
          simp only [Option.some.injEq, Prod.mk.injEq] at h
          obtain ⟨rfl, rfl, rfl⟩ := h
          simp only [Bool.and_eq_true, beq_iff_eq] at hc
          refine ⟨rfl, hc.1, ?_, qu, hq, by simpa using hr, he, hc.2⟩
          simp [State.started, hq]
        · cases h

/-- A host command leaves the state as it is, or acts on the state in which it has started. -/
theorem whenStarted_cases (s : State) (q : QId) (cmd : HostCmd) (f : Nat → Entry → State → State) :
    (s.start q cmd = none ∧ s.whenStarted q cmd f = .next s) ∨
    ∃ (e : Entry), s.start q cmd = some (qKey q, e, s.started q e.sub) ∧ s.whenStarted q cmd f = .next (f (qKey q) e (s.started q e.sub)) := by
  unfold State.whenStarted
  cases h : s.start q cmd with
  | none => exact .inl ⟨rfl, rfl⟩
  | some r =>
    obtain ⟨qk, e, s1⟩ := r
    obtain ⟨rfl, -, rfl, -⟩ := start_cases h
    exact .inr ⟨e, rfl, rfl⟩

/-- A command on a context queue leaves the state as it is, starts and does nothing, or acts on the state in which it has started. -/
theorem whenCtx_cases (s : State) (q : QId) (cmd : HostCmd) (f : Nat → Entry → Nat → Ctx → State → State) :
    s.whenCtx q cmd f = .next s ∨ (∃ (e : Entry), s.whenCtx q cmd f = .next (s.started q e.sub)) ∨
    ∃ (e : Entry) (c : Nat) (x : Ctx), s.whenCtx q cmd f = .next (f (qKey q) e c x (s.started q e.sub)) := by
  unfold State.whenCtx State.whenStarted
  cases h : s.start q cmd with
  | none => exact .inl rfl
  | some r =>
    obtain ⟨qk, e, s1⟩ := r
    obtain ⟨rfl, -, rfl, -⟩ := start_cases h
    dsimp only
    split
    · exact .inr (.inl ⟨e, rfl⟩)
    · split
      · exact .inr (.inl ⟨e, rfl⟩)
      · split
        · exact .inr (.inr ⟨e, _, _, rfl⟩)
        · exact .inr (.inl ⟨e, rfl⟩)

/-- An admin command leaves the state as it is, or acts on the state in which it has started. -/
theorem whenAdmin_cases (s : State) (q : QId) (cmd : HostCmd) (f : Nat → Entry → State → State) :
    s.whenAdmin q cmd f = .next s ∨ ∃ (e : Entry), s.whenAdmin q cmd f = .next (f (qKey q) e (s.started q e.sub)) := by
  unfold State.whenAdmin
  split
  · rcases whenStarted_cases s q cmd f with ⟨-, h⟩ | ⟨e, -, h⟩
    · exact .inl h
    · exact .inr ⟨e, h⟩
  · exact .inl rfl

/-- An instruction leaves the state as it is, or acts on the tile at whose position its word stands. -/
theorem whenWord_cases (s : State) (t w : Nat) (f : Site → Tile → State → State) :
    s.whenWord t w f = .next s ∨ ∃ x, TileHere s t w x ∧ s.whenWord t w f = .next (f x (s.tile t) s) := by
  unfold State.whenWord
  split
  · exact .inl rfl
  · rename_i x hx
    dsimp only
    split
    · rename_i h
      simp only [Bool.and_eq_true, beq_iff_eq, Bool.not_eq_true', Option.isNone_iff_eq_none] at h
      exact .inr ⟨x, ⟨hx, h.1.1.1.1, h.1.1.1.2, h.1.1.2, h.1.2, h.2⟩, rfl⟩
    · exact .inl rfl

/-- An instruction that reads memory leaves the state as it is, issues its reads, ends its RUN in a fault, or acts on what has come back. -/
theorem whenRead_cases (s : State) (t w : Nat) (issue : Site → Tile → State → Except (Status × Scope) (List Nat × After × State))
    (act : Site → Tile → After → State → State) :
    s.whenRead t w issue act = .next s ∨
    (∃ x l a s1, TileHere s t w x ∧ issue x (s.tile t) s = .ok (l, a, s1) ∧ s.whenRead t w issue act = .next ((s1.await t l a).moved x.rid)) ∨
    (∃ x st, TileHere s t w x ∧ issue x (s.tile t) s = .error st ∧ s.whenRead t w issue act = .next (s.runStop x st)) ∨
    ∃ x a, TileReady s t w x a ∧ s.whenRead t w issue act = .next (act x (s.tile t) a s) := by
  unfold State.whenRead
  split
  · exact .inl rfl
  · rename_i x hx
    dsimp only
    split
    · exact .inl rfl
    · rename_i h
      simp only [Bool.or_eq_true, bne_iff_ne, ne_eq, not_or, Decidable.not_not, Bool.not_eq_true] at h
      cases hw : (s.tile t).wait with
      | none =>
        dsimp only
        cases hf : x.slotFree (s.tile t) with
        | false => exact .inl rfl
        | true =>
        have ht : TileHere s t w x := ⟨hx, h.1.1, h.1.2, hw, hf, h.2⟩
        cases hi : issue x (s.tile t) s with
        | ok r => exact .inr (.inl ⟨x, r.1, r.2.1, r.2.2, ht, hi, by simp⟩)
        | error st => exact .inr (.inr (.inl ⟨x, st, ht, hi, by simp⟩))
      | some wt =>
        dsimp only
        split
        · rename_i he
          refine .inr (.inr (.inr ⟨x, wt.after, ⟨hx, h.1.1, h.1.2, ⟨wt.since, ?_⟩, h.2⟩, rfl⟩))
          rw [hw]
          obtain ⟨l, a, n⟩ := wt
          simp only [List.isEmpty_iff] at he
          simp only at he ⊢
          rw [he]
        · exact .inl rfl

/-! ### What starting leaves alone -/

theorem started_ctxs (s : State) (q : QId) (n : Nat) : (s.started q n).ctxs = s.ctxs := by unfold State.started; split <;> rfl
theorem started_events (s : State) (q : QId) (n : Nat) : (s.started q n).events = s.events := by unfold State.started; split <;> rfl
theorem started_objs (s : State) (q : QId) (n : Nat) : (s.started q n).objs = s.objs := by unfold State.started; split <;> rfl
theorem started_parts (s : State) (q : QId) (n : Nat) : (s.started q n).parts = s.parts := by unfold State.started; split <;> rfl
theorem started_keys (s : State) (q : QId) (n : Nat) : (s.started q n).keys = s.keys := by unfold State.started; split <;> rfl
theorem started_ts (s : State) (q : QId) (n : Nat) : (s.started q n).ts = s.ts := by unfold State.started; split <;> rfl
theorem started_fns (s : State) (q : QId) (n : Nat) : (s.started q n).fns = s.fns := by unfold State.started; split <;> rfl
theorem started_adpt (s : State) (q : QId) (n : Nat) : (s.started q n).adpt = s.adpt := by unfold State.started; split <;> rfl
theorem started_usets (s : State) (q : QId) (n : Nat) : (s.started q n).usets = s.usets := by unfold State.started; split <;> rfl
theorem started_runs (s : State) (q : QId) (n : Nat) : (s.started q n).runs = s.runs := by unfold State.started; split <;> rfl
theorem started_works (s : State) (q : QId) (n : Nat) : (s.started q n).works = s.works := by unfold State.started; split <;> rfl
theorem started_dev (s : State) (q : QId) (n : Nat) : (s.started q n).dev = s.dev := by unfold State.started; split <;> rfl

end Sys2Proof.Machine
end

