-- ==== Sys2Proof/Machine/Guard.lean ====
section
/-! DEFINITION. What the guarded memories hold outside the die, as a view of the state (R246, R263 to R268, R274, R286): the ciphertext and tag of a line, the
bytes of a counter block, node and line of tags, and the parts of a flash row. The state keeps the plaintext of each line with its counters and keys, from which
all of these follow, and the lines that fail verification (log entry 8, DESIGN CHOICE). -/

namespace Sys2Proof.Machine

/-! ### The line cipher (R265 to R268) -/

/-- The keystream of a line: four quarters under the keystream domain of its tier. -/
def lineStream (key : U256) (addr major minor domain : Nat) : Bytes :=
  (List.range 4).flatMap (fun q => blockBytesBE (aes256 key (inputBlock addr major minor q domain)))

/-- A line's tag over its ciphertext. -/
def lineTag (key : U256) (d : U128) (c : Bytes) : Bytes := (guardMac key d c 640).take 8

/-- A line's ciphertext and tag, in the keystream domain of its tier (0 HBM, 2 flash) and the tag domain next to it. -/
def sealLine (key : U256) (addr major minor domain : Nat) (plain : Bytes) : Bytes × Bytes :=
  let c := xorBytes plain (lineStream key addr major minor domain)
  (c, lineTag key (inputBlock addr major minor 0 (domain + 1)) c)

/-! ### HBM -/

/-- The key a counter block of a page of an object is under: the next generation below the boundary of a sweep (R286, R288, R290). -/
def State.guardKey (s : State) (key i : Nat) (p : Pte) (blk : Nat) : U256 :=
  let k := s.key p.keySlot
  match s.sweepOf p.keySlot with
  | some (_, x) => if x.below key i p blk then k.next.getD k.key else k.key
  | none => k.key

/-- The object, page and entry that name an HBM frame. -/
def State.framePte (s : State) (frame : Nat) : Option (Nat × Nat × Pte) :=
  (s.hbmUsed.get frame).bind (fun k => (s.objs.get k).bind (fun (o : Obj) =>
    (o.pages.findIdx? (fun p => p.tier == 1 && p.frameNo == frame)).map (fun i => (k, i, o.pte i))))

/-- What memory holds for an HBM line: its ciphertext and its tag. A line with minor 0 holds nothing (R270); a poisoned line's tag is the complement of the
right one (R274), and nothing is known of one that fails for another reason.
Log entry 8, DESIGN CHOICE. -/
def State.guardedLine (s : State) (frame line : Nat) : Option (Bytes × Bytes) :=
  let l := dataAddr frame line
  let b := s.shroud.block (16 * frame + line / 64)
  let minor := s.shroud.minor l
  match s.framePte frame with
  | none => none
  | some (k, i, p) =>
    let y := sealLine (s.guardKey k i p (line / 64)) l b.major minor 0 (s.hbm.reads (frame * pageBytes + 64 * line) 64)
    if minor = 0 then none
    else if s.shroud.poison.contains l then some (y.1, y.2.map (fun x => ~~~x))
    else if s.shroud.bad.contains l then none
    else some y

/-- The 64 bytes of a counter block or tree node in memory, by height and index (R263, R268): what is newer in the cache is not there yet (R275). -/
def State.guardedNode (s : State) (k n : Nat) : Bytes :=
  if k = 0 then (s.shroud.blocks.getD (posOf n) ⟨0, []⟩).bytes else (s.shroud.nodeAt k n).bytes

/-! ### Flash (R246, R247, R264, R265, R290) -/

/-- The flash major of a page of an object: the new one for pages a sweep has moved. -/
def State.pageMajor (s : State) (key : Nat) (o : Obj) (i : Nat) : Nat :=
  match o.nextMajor, s.sweepOf (o.pte i).keySlot with
  | some m, some (_, x) => if x.below key i (o.pte i) 0 then m else o.major
  | _, _ => o.major

/-- The ciphertext and tag of a line of page `i` of a flash object. -/
def State.guardedFlashLine (s : State) (key : Nat) (o : Obj) (i line : Nat) : Bytes × Bytes :=
  let p := o.pte i
  sealLine (s.guardKey key i p 0) (dataAddr p.frameNo line) (s.pageMajor key o i) 0 2 (s.flash.mem.reads (p.frameNo * pageBytes + 64 * line) 64)

/-- Part `j` of a page as a flash part holds it: 4 KiB of data, and the spare area with tag m of its 64 lines at byte 8m (R264). -/
def State.flashPart (s : State) (key : Nat) (o : Obj) (i j : Nat) : Bytes :=
  let ls := (List.range 64).map (fun m => s.guardedFlashLine key o i (64 * j + m))
  ls.flatMap (fun l => l.1) ++ ls.flatMap (fun l => l.2)

/-- Data part `j` of row `r` of a stripe; a frame that holds no page has none, and reads as erased. -/
def State.stripePart (s : State) (stripe r j : Nat) : Bytes :=
  let b := 14 * r + j
  let f := 7 * stripe + b / 16
  match (s.flash.used.get f).bind (fun k => (s.objs.get k).map (fun (o : Obj) => (k, o))) with
  | some (k, o) => (match o.pages.findIdx? (fun p => p.tier == 2 && p.frameNo == f) with
    | some i => s.flashPart k o i (b % 16)
    | none => zeros 4608)
  | none => zeros 4608

/-- The 4,608 bytes at a group position of row `r`: data part j lies at position 2r + 2 + j, parity part q at 2r + q. Which Reed-Solomon code gives the
parity is not stated, beyond that any 14 parts rebuild the others.
Log entry 8, DESIGN CHOICE. -/
def State.rowPart (s : State) (stripe r pos : Nat) : Bytes :=
  let j := (pos + 30 - 2 * r) % 16
  if j < 14 then s.stripePart stripe r j
  else
    let parts := (List.range 14).map (s.stripePart stripe r)
    (List.range 4608).map (fun n => Config.rowParity (j - 14) (parts.map (fun d => d.getD n 0)))

/-! ### Frames of the die bridge (R293) -/

/-- The nonce of a frame: lane and direction, key epoch, frame sequence, little-endian (R10). -/
def bridgeNonce (lane epoch seq : Nat) : Bytes := leBytes 2 lane ++ leBytes 2 epoch ++ leBytes 8 seq

/-- What a lane carries for a frame of four beats, and the tag on its side wires. A key serves 2^40 frames.
Log entry 184, DESIGN CHOICE. -/
def bridgeText (key : U256) (lane epoch seq : Nat) (beats : List Beat) : Bytes × Bytes :=
  let text := padTo 256 (beats.flatMap (fun b => b.data))
  let nonce := bridgeNonce lane epoch seq
  (gcmCrypt key nonce text, leBytes 16 (gcmTag key nonce [] text).toNat)

/-- The frame that holds the four beats a lane carries next.
Log entry 184, DEDUCED. -/
def State.bridgeFrame (s : State) (lane : Nat) (beats : List Beat) : Option (Bytes × Bytes) :=
  (s.dev.bridge.get lane).map (fun l => bridgeText l.key lane l.epoch (l.beats / 4) beats)

end Sys2Proof.Machine
end

