-- ==== Sys2Proof/Machine/Vectors.lean ====
section
/-! DEFINITION. Published vectors (R73 to R77, R600, R601): files and records read from bytes, what makes a file rejected or a record MALFORMED, and
what this part answers for a record. No command runs a vector; this is the view that a harness has of the units. -/

namespace Sys2Proof.Machine

/-! ### Records and files (R74, R75, R601) -/

/-- A record's header (R75). -/
structure VecRec where
  len : Nat
  kind : Nat
  mode : Nat
  opcode : Nat
  dst : Nat
  srcA : Nat
  srcB : Nat
  rounding : Nat
  sparsity : Nat
  seedSrc : Nat
  lane : Nat
  seed : U64
  tile : Nat
  stream : Nat
  position : Nat
  inLen : Nat
  outLen : Nat
  flags : Nat
  count : Nat
  reserved : Bool
  deriving DecidableEq, Repr

/-- The header at the start of a record's bytes; `reserved` says that its reserved fields are zero. -/
def readRec (b : Bytes) : VecRec :=
  let f (off n : Nat) : Nat := fieldLE b off n
  ⟨f 0 4, f 4 1, f 5 1, f 6 2, f 8 1, f 9 1, f 10 1, f 11 1, f 12 1, f 13 1, f 14 2, BitVec.ofNat 64 (f 16 8), f 24 2, f 28 4, f 32 8,
   f 40 4, f 44 4, f 48 4, f 52 4, f 26 2 == 0 && f 56 8 == 0⟩

def align8 (n : Nat) : Nat := 8 * ceilDiv n 8

def VecRec.lenOk (r : VecRec) : Bool := 64 ≤ r.len && r.len ≤ 1048576 && r.len % 8 == 0

/-- Lengths of parts, each of which starts at the next 8-byte boundary: where they start, and the bytes in all. -/
def partStarts : (at_ : Nat) → List Nat → List Nat
  | _, [] => []
  | a, n :: r => align8 a :: partStarts (align8 a + n) r
def partsLen (at_ : Nat) (l : List Nat) : Nat := l.foldl (fun a n => align8 a + n) at_

/-- The check of R601 that a file fails. -/
inductive FileFault
  | header | stepping | digest | records
  deriving DecidableEq, Repr

/-- The records of a file, walked by record_len. -/
def walkRecs : (n : Nat) → Bytes → Option (List Bytes)
  | 0, b => if b.isEmpty then some [] else none
  | n + 1, b =>
    let r := readRec b
    if b.length < 64 || !r.lenOk || b.length < r.len then none
    else (walkRecs n (b.drop r.len)).map (fun l => b.take r.len :: l)

/-- A file checked as a whole (R601): its records, or the check it fails.
Log entry 185, DESIGN CHOICE. -/
def openFile (b : Bytes) : Except FileFault (List Bytes) :=
  if b.length < 80 || fieldLE b 0 4 != 0x3153564C || fieldLE b 4 2 != 0x0100 || fieldLE b 6 2 != 80 || fieldLE b 17 15 != 0 then .error .header
  else if fieldLE b 16 1 != 0xA1 then .error .stepping
  else if (b.drop 32).take 48 != sha384 (b.drop 80) then .error .digest
  else match walkRecs (fieldLE b 8 4) (b.drop 80) with
    | some l => if l.isEmpty then .error .header else .ok l
    | none => .error .records

/-! ### Generators (R56, R57, R600) -/

/-- A generator's state after some draws. -/
def stepGen : (n : Nat) → U64 → U64
  | 0, x => x
  | n + 1, x => stepGen n (xorshift x)

/-- The state of the generator of a lane at the record's position. -/
def VecRec.gen (r : VecRec) (lane : Nat) : U64 := stepGen r.position (if r.seedSrc = 1 then r.seed else seedGen r.seed r.tile lane r.stream)

/-- Successive 64-bit outputs. -/
def genOutputs : (n : Nat) → U64 → List U64
  | 0, _ => []
  | n + 1, x => (xorshift x * 0x2545F4914F6CDD1D#64) :: genOutputs n (xorshift x)

/-! ### What a record may hold (R77) -/

def VecRec.rnd (r : VecRec) : Nat := bitsOf r.rounding 0 3
def VecRec.srw (r : VecRec) : Nat := bitsOf r.rounding 3 2

/-- The formats a record names are codes of R29; a second source may be absent. A generator record converts nothing, and its formats are as well formed
as any other's. -/
def VecRec.fmtsOk (r : VecRec) : Bool :=
  (Fmt.ofCode r.dst).isSome && (Fmt.ofCode r.srcA).isSome && (r.srcB == 0xFF || (Fmt.ofCode r.srcB).isSome)

/-- The fields that every kind of record has in common, and the record's length. -/
def VecRec.fieldsOk (r : VecRec) : Bool :=
  r.lenOk && r.len == 64 + align8 r.inLen + align8 r.outLen && 1 ≤ r.kind && r.kind ≤ 3 && r.mode ≤ 1 && r.reserved &&
    (Rnd.ofFields r.rnd r.srw).isSome && bitsOf r.rounding 5 3 == 0 && r.sparsity ≤ 3 && r.seedSrc ≤ 1 && r.stream < 2 ^ 24 &&
    r.fmtsOk && (r.kind == 3 || r.lane == 0)

/-! ### Results -/

/-- What this part answers: the output bytes and the flag word, or the finding that the record is MALFORMED, or that R600 gives the operation no
layout in a record. -/
inductive VecAnswer
  | malformed
  | noLayout
  | ran (out : Bytes) (flags : Nat)
  deriving DecidableEq, Repr

/-! ### VXU records (R600) -/

/-- The operands an opcode reads from a record, of va, vb and vc; none for an instruction on memory, streams or guards, whose operands R600 gives no
place. Log entry 187, DEDUCED. -/
def vecReads (op : Nat) : Option (Bool × Bool × Bool) :=
  match op with
  | 0x01 | 0x02 | 0x03 | 0x07 | 0x09 | 0x0A | 0x0D | 0x10 | 0x11 | 0x12 | 0x13 | 0x60 | 0x61 | 0x62 | 0x68 => some (true, true, false)
  | 0x04 | 0x05 | 0x06 => some (true, true, true)
  | 0x08 | 0x0B | 0x0C | 0x20 | 0x21 | 0x22 | 0x23 | 0x24 | 0x25 | 0x26 | 0x27 | 0x28 | 0x2C | 0x2D | 0x2E | 0x36 | 0x37
  | 0x40 | 0x41 | 0x42 | 0x43 | 0x44 | 0x30 => some (true, false, false)
  | 0x63 => some (false, true, false)
  | 0x5C => some (false, false, false)
  | _ => none

/-- The effect of an opcode that a record can hold (R112). -/
def vecOp (op : Nat) (w : Vx) : Site → Tile → VxRes :=
  match op with
  | 0x01 => vxArith 2 (fun rm l => fadd (isRdn rm) (arg l 0) (arg l 1)) w
  | 0x02 => vxArith 2 (fun rm l => fsub (isRdn rm) (arg l 0) (arg l 1)) w
  | 0x03 => vxArith 2 (fun _ l => fmul (arg l 0) (arg l 1)) w
  | 0x04 => vxArith 3 (fun rm l => ffma (isRdn rm) false false (arg l 0) (arg l 1) (arg l 2)) w
  | 0x05 => vxArith 3 (fun rm l => ffma (isRdn rm) false true (arg l 0) (arg l 1) (arg l 2)) w
  | 0x06 => vxArith 3 (fun rm l => ffma (isRdn rm) true false (arg l 0) (arg l 1) (arg l 2)) w
  | 0x07 => vxArith 2 (fun _ l => fdiv (arg l 0) (arg l 1)) w
  | 0x08 => vxArith 1 (fun _ l => fsqrt (arg l 0)) w
  | 0x09 => vxArith 2 (fun _ l => fmin (arg l 0) (arg l 1)) w
  | 0x0A => vxArith 2 (fun _ l => fmax (arg l 0) (arg l 1)) w
  | 0x0B => vxBits 1 (fun f l => argN l 0 % 2 ^ (f.width - 1)) w
  | 0x0C => vxBits 1 (fun f l => (argN l 0 + 2 ^ (f.width - 1)) % 2 ^ f.width) w
  | 0x0D => vxBits 2 (fun f l => argN l 0 % 2 ^ (f.width - 1) + argN l 1 / 2 ^ (f.width - 1) * 2 ^ (f.width - 1)) w
  | 0x10 => vxCmp .eq w
  | 0x11 => vxCmp .lt w
  | 0x12 => vxCmp .le w
  | 0x13 => vxCmp .un w
  | 0x20 => vxTrans texp w
  | 0x21 => vxTrans texp2 w
  | 0x22 => vxTrans texpm1 w
  | 0x23 => vxTrans (tlog false) w
  | 0x24 => vxTrans (tlog true) w
  | 0x25 => vxTrans (fdiv FV.one) w
  | 0x26 => vxTrans trsqrt w
  | 0x27 => vxTrans tsinpi w
  | 0x28 => vxTrans tcospi w
  | 0x2C => vxTrans sigm32 w
  | 0x2D => vxTrans tanh32 w
  | 0x2E => vxTrans silu32 w
  | 0x30 => vxCvt w
  | 0x36 => vxHalf true w
  | 0x37 => vxHalf false w
  | 0x40 => vxReduce 256 (fadd false) (FV.zero false) w
  | 0x41 => vxReduce 256 fmax (.inf true) w
  | 0x42 => vxReduce 256 fmin (.inf false) w
  | 0x43 => vxReduce 16 (fadd false) (FV.zero false) w
  | 0x44 => vxReduce 16 fmax (.inf true) w
  | 0x5C => vxRand w
  | 0x60 => vxRaw (fun a b => a &&& b) w
  | 0x61 => vxRaw (fun a b => a ||| b) w
  | 0x62 => vxRaw (fun a b => a ^^^ b) w
  | 0x63 => vxRaw (fun _ b => b) w
  | 0x68 => vxRot w
  | _ => fun _ t => .ok t 0

/-- Registers that a record's instruction uses: va in V2, vb in V4 or S4, vc in V6, vd in V8 or G0, and guard G7 for the elements that the last register
has. A constant lies at index 6, so that a third source may stand beside it (R111). -/
def VecRec.vx (r : VecRec) (some_ : Bool) : Vx :=
  let op := r.opcode % 256
  let form := bitsOf r.opcode 8 2
  { fmt := BitVec.ofNat 4 r.dst, sfmt := BitVec.ofNat 4 r.srcA, rnd := BitVec.ofNat 3 r.rnd, srw := BitVec.ofNat 2 r.srw, gen := some_, grd := 7,
    form := BitVec.ofNat 2 form, vd := if 0x10 ≤ op && op ≤ 0x13 then 0 else 8, va := if op = 0x63 then 0 else 2,
    vb := if form = 2 then 0 else 4, vc := 6, lo := 0 }

/-- Elements a register holds for an instruction (R600): 256, or 512 in a 16-bit format but for the instructions that act on elements 0 to 255 alone
(R114, R120). Log entry 187, DEDUCED. -/
def VecRec.perReg (r : VecRec) : Nat :=
  let op := r.opcode % 256
  if op = 0x30 || (0x20 ≤ op && op ≤ 0x2E) || (fmtOf r.dst).width != 16 then 256 else 512

/-- Lengths of the record's operands in the order of R600. -/
def VecRec.vecParts (r : VecRec) : List Nat :=
  let op := r.opcode % 256
  let f := fmtOf r.srcA
  let w := f.width / 8
  let nb := ceilDiv r.count 16
  if op = 0x30 then
    (match cvtKind r.dst r.srcA with
     | some .quant => [r.count * w, 4]
     | some .dequant => [nb * blockBytes f 16, nb, 4]
     | _ => [r.count * w])
  else
    (match vecReads op with
     | some (a, b, c) => (if a then [r.count * w] else []) ++ (if b then [if bitsOf r.opcode 8 2 = 0 then r.count * w else w] else []) ++
         (if c then [r.count * w] else [])
     | none => [])

/-- Bytes of its expected output. -/
def VecRec.vecOutLen (r : VecRec) : Nat :=
  let op := r.opcode % 256
  let f := fmtOf r.dst
  if 0x10 ≤ op && op ≤ 0x13 then ceilDiv r.count 8
  else if op = 0x30 && cvtKind r.dst r.srcA == some .quant then partsLen 0 [ceilDiv r.count 16 * blockBytes f 16, ceilDiv r.count 16]
  else r.count * (f.width / 8)

/-- Whether the instruction is one the unit takes (R110 to R112, R62): its second source, where it has one in its format, is named in that format.
Log entry 187, DEDUCED. -/
def VecRec.vecOk (r : VecRec) : Bool :=
  let op := r.opcode % 256
  r.opcode < 1024 && vxWordOk (vxWord op (r.vx false)) 7 &&
    (match vecReads op with
     | some (_, true, _) => r.srcB == r.srcA
     | _ => true)

/-- A raw instruction named in a format whose elements are not its lanes or their halves has no layout in a record. -/
def VecRec.laidOut (r : VecRec) : Bool :=
  let op := r.opcode % 256
  (vecReads op).isSome && (!(0x60 ≤ op && op ≤ 0x63) || (fmtOf r.dst).width == 16 || (fmtOf r.dst).width == 32)

/-- Element codes `[lo, lo + n)` of an operand's bytes, and zeros to fill a register. -/
def partElems (b : Bytes) (w lo n per : Nat) : List Nat :=
  (List.range per).map (fun i => if i < n then fieldLE b ((lo + i) * w) w else 0)

/-- The registers and scalar operands before instruction `i` of a record, whose elements are `n`. -/
def VecRec.load (r : VecRec) (inp : Bytes) (t : Tile) (i n : Nat) : Tile :=
  let op := r.opcode % 256
  let f := fmtOf r.srcA
  let per := r.perReg
  let lo := per * i
  let starts := partStarts 0 r.vecParts
  let part (k : Nat) : Bytes := inp.drop (nth0 starts k)
  let reg (t : Tile) (v k : Nat) : Tile := t.setElems f.width v (partElems (part k) (f.width / 8) lo n (elemCount f.width))
  let ts (t : Tile) (k : Nat) : Tile :=
    match bitsOf r.opcode 8 2 with
    | 0 => t.setVreg 4 (List.replicate 256 (BitVec.ofNat 32 (fieldLE (part k) 0 4)))
    | 1 => t.setSreg 4 (BitVec.ofNat 64 (fieldLE (part k) 0 4))
    | _ => t
  let t := if n < per then t.setGuard 7 (BitVec.ofNat 512 (2 ^ n - 1)) else t
  if op = 0x30 then
    (match cvtKind r.dst r.srcA with
     | some .quant => ts (reg t 2 0) 1
     | some .dequant =>
       let eb := blockBytes f 16
       ts ((t.setRegBytes 2 ((part 0).drop (16 * i * eb) |>.take (ceilDiv n 16 * eb))).setRegBytes 6 ((part 1).drop (16 * i) |>.take (ceilDiv n 16))) 2
     | _ => reg t 2 0)
  else
    (match vecReads op with
     | some (a, b, c) =>
       let t := if a then reg t 2 0 else t
       let kb := if a then 1 else 0
       let t := if b then
           (match bitsOf r.opcode 8 2 with
            | 0 => reg t 4 kb
            | 1 => t.setSreg 4 (BitVec.ofNat 64 (fieldLE (part kb) 0 (f.width / 8)))
            | _ => t)
         else t
       if c then reg t 6 (kb + 1) else t
     | none => t)

/-- The constant pool a record's instruction sees. -/
def VecRec.consts (r : VecRec) (inp : Bytes) : List Nat :=
  let op := r.opcode % 256
  let starts := partStarts 0 r.vecParts
  let k := if op = 0x63 then 0 else if op = 0x30 && cvtKind r.dst r.srcA == some .dequant then 2 else 1
  let w := if op = 0x30 then 4 else (fmtOf r.srcA).width / 8
  List.replicate 6 0 ++ [fieldLE (inp.drop (nth0 starts k)) 0 w]

/-- A place outside any RUN for a record's instruction: only its constants are read. -/
def vecSite (consts : List Nat) : Site :=
  ⟨0, ⟨0, 0, 0, 0, 0, 0, false, 0, [], .running, none, [], 0, 0, 0, 0, [], [], [], [], [], 0, [], [], none, none, 0, 0, [], []⟩,
   ⟨[], [], [], [], [], [], consts, [], []⟩, 0, 0, 0⟩

/-- What the instructions of a record leave: output elements, scale bytes, compare bits and flags. -/
structure VecOut where
  bytes : Bytes
  scales : Bytes
  bits : List Bool
  flags : Flags
  deriving DecidableEq, Repr

/-- The result of one instruction with `n` elements. -/
def VecRec.take (r : VecRec) (t : Tile) (n : Nat) (fl : Flags) (o : VecOut) : VecOut :=
  let op := r.opcode % 256
  let f := fmtOf r.dst
  if 0x10 ≤ op && op ≤ 0x13 then { o with bits := o.bits ++ (List.range n).map (fun e => (t.guard 0).getLsbD e), flags := o.flags ||| fl }
  else if op = 0x30 && cvtKind r.dst r.srcA == some .quant then
    { o with bytes := o.bytes ++ (t.regBytes 8).take (ceilDiv n 16 * blockBytes f 16), scales := o.scales ++ (t.regBytes 6).take (ceilDiv n 16), flags := o.flags ||| fl }
  else { o with bytes := o.bytes ++ ((t.elems f.width 8).take n).flatMap (fun c => leBytes (f.width / 8) c), flags := o.flags ||| fl }

/-- The instructions of a record in increasing register (R600); none where one is refused with MALFORMED (R42). The elements that the last register has
not are inactive: they raise no flag and take part in no reduction. Log entry 187, DEDUCED. -/
def VecRec.runVec (r : VecRec) (inp : Bytes) (x : Site) : (fuel i : Nat) → Tile → VecOut → Option VecOut
  | 0, _, _, o => some o
  | k + 1, i, t, o =>
    let n := min r.perReg (r.count - r.perReg * i)
    match vecOp (r.opcode % 256) (r.vx (n < r.perReg)) x (r.load inp t i n) with
    | .ok t fl => VecRec.runVec r inp x k (i + 1) t (r.take t n fl o)
    | .fault _ => none

def packBits (l : List Bool) : Bytes :=
  (List.range (ceilDiv l.length 8)).map (fun i => BitVec.ofNat 8 (((List.range 8).map (fun j => if l.getD (8 * i + j) false then 2 ^ j else 0)).sum))

def VecRec.vecAnswer (r : VecRec) (inp : Bytes) : VecAnswer :=
  if !r.vecOk then .malformed
  else if !r.laidOut then .noLayout
  else if r.inLen != partsLen 0 r.vecParts || r.outLen != r.vecOutLen then .malformed
  else
    let t := { Tile.reset with gens := (List.range 256).map (fun l => (l, r.gen l)) }
    match r.runVec inp (vecSite (r.consts inp)) (ceilDiv r.count r.perReg) 0 t ⟨[], [], [], 0⟩ with
    | none => .malformed
    | some o =>
      let b := if o.bits.isEmpty then o.bytes else packBits o.bits
      .ran (if o.scales.isEmpty then b else padTo (align8 b.length) b ++ o.scales) o.flags.toNat

/-! ### MXU records (R76) -/

/-- The mode word a record describes. -/
def VecRec.modeWord (r : VecRec) (inp : Bytes) : Nat :=
  r.opcode % 8 + r.sparsity * 2 ^ 4 + r.srcA * 2 ^ 8 + r.srcB * 2 ^ 12 + r.dst * 2 ^ 16 + r.rnd * 2 ^ 20 + r.srw * 2 ^ 23 +
    fieldLE inp 0x0D 1 % 2 * 2 ^ 25 + fieldLE inp 0x0C 1 % 4 * 2 ^ 26

/-- Rows, reduction positions and output columns. -/
def mxRows (inp : Bytes) : Nat := fieldLE inp 0 4
def mxRed (inp : Bytes) : Nat := fieldLE inp 4 4
def mxCols (inp : Bytes) : Nat := fieldLE inp 8 4

/-- Whether the parameter block and the mode word are within their ranges (R76, R79, R81). The operation may be the last of a split reduction, so a
carry goes with every output format. -/
def VecRec.mxOk (r : VecRec) (inp : Bytes) : Bool :=
  let m := r.modeWord inp
  let bs (c : Nat) : Bool := (fmtOf c).blockScaled
  48 ≤ inp.length && r.opcode < 8 && r.srcB < 16 && fieldLE inp 0x0C 1 ≤ 2 && fieldLE inp 0x0D 1 ≤ 1 && fieldLE inp 0x0E 2 == 0 && fieldLE inp 0x1C 20 == 0 &&
    modeWordOk m true && 1 ≤ mxRows inp && mxRows inp ≤ setRows m && 1 ≤ mxRed inp && mxRed inp ≤ 4096 && 1 ≤ mxCols inp && mxCols inp ≤ setCols m &&
    (bs r.srcA || fieldLE inp 0x10 4 == 0) && (bs r.srcB || fieldLE inp 0x14 4 == 0) && (bs r.dst || fieldLE inp 0x18 4 == 0) &&
    (!bs r.srcA || ts32Ok (fieldLE inp 0x10 4)) && (!bs r.srcB || ts32Ok (fieldLE inp 0x14 4)) && (!bs r.dst || ts32Ok (fieldLE inp 0x18 4)) &&
    (r.rnd != 5 || r.seedSrc == 0) && r.count == mxRows inp * mxCols inp

/-- Rows and K of the stationary operand as stored. -/
def VecRec.wShape (r : VecRec) (inp : Bytes) : Nat × Nat := if r.opcode = 4 then (mxRed inp, mxCols inp) else (mxCols inp, mxRed inp)

/-- Lengths of an operand's parts: elements, then scales, and for a sparse one its metadata. -/
def arrayParts (f : Fmt) (rows k sp : Nat) : List Nat :=
  if f.blockScaled then
    [rows * ceilDiv k 16 * blockBytes f (sparseKept sp), rows * ceilDiv k 16] ++ (if sp = 0 then [] else [2 * (rows * ceilDiv k 16)])
  else [rows * k * (f.width / 8)]

/-- The parts of the inputs after the parameter block: the streaming operand with its masks, the stationary one, and the carry. -/
def VecRec.xParts (r : VecRec) (inp : Bytes) : List Nat :=
  let f := fmtOf r.srcA
  arrayParts f (mxRows inp) (mxRed inp) 0 ++ (if f.blockScaled then [mxRows inp * ceilDiv (ceilDiv (mxRed inp) 16) 8] else [])
def VecRec.wParts (r : VecRec) (inp : Bytes) : List Nat := arrayParts (fmtOf r.srcB) (r.wShape inp).1 (r.wShape inp).2 r.sparsity
def VecRec.carryFmt (_ : VecRec) (inp : Bytes) : Fmt := if fieldLE inp 0x0C 1 = 1 then .f32 else .w16
def VecRec.carryParts (r : VecRec) (inp : Bytes) : List Nat :=
  if fieldLE inp 0x0C 1 = 0 then [] else [mxRows inp * mxCols inp * ((r.carryFmt inp).width / 8)]

/-- Row `i` of an operand stored as its parts. -/
def partRow (f : Fmt) (elems scales masks : Bytes) (n i : Nat) : XRow :=
  let nb := ceilDiv n 16
  if f.blockScaled then
    ⟨(List.range n).map (fun k => unpackCode f.width (fieldLE elems ((i * nb + k / 16) * blockBytes f 16) (blockBytes f 16)) (k % 16)),
     (List.range nb).map (fun b => fieldLE scales (i * nb + b) 1), fieldLE masks (i * ceilDiv nb 8) (ceilDiv nb 8)⟩
  else ⟨(List.range n).map (fun k => fieldLE elems ((i * n + k) * (f.width / 8)) (f.width / 8)), [], 0⟩

/-- The operation of a record: one output tile, whose rows are the record's. -/
def VecRec.mxOp (r : VecRec) (inp : Bytes) : MxuOp :=
  let xp := r.xParts inp
  let wp := r.wParts inp
  let starts := partStarts 48 (xp ++ wp ++ r.carryParts inp)
  let part (k : Nat) : Bytes := inp.drop (nth0 starts k)
  let nx := xp.length
  let nw := wp.length
  let rows := mxRows inp
  let (wr, wk) := r.wShape inp
  { a := ⟨0, 0, 0, false, false, 0, BitVec.ofNat 16 rows, 0xFF, 0xFF, 0, BitVec.ofNat 32 (r.modeWord inp)⟩, base := 0, rows := rows, group := none,
    w := (part nx).take (nth0 wp 0), wScale := (part (nx + 1)).take (nth0 wp 1), wMeta := (part (nx + 2)).take (nth0 wp 2), wRows := wr, wK := wk,
    wTs := fieldLE inp 0x14 4, xTs := fieldLE inp 0x10 4, oTs := fieldLE inp 0x18 4,
    xr := (List.range rows).map (fun i => partRow (fmtOf r.srcA) (part 0) (part 1) (part 2) (mxRed inp) i),
    cr := if fieldLE inp 0x0C 1 = 0 then [] else (List.range rows).map (fun i => partRow (r.carryFmt inp) (part (nx + nw)) [] [] (mxCols inp) i),
    rowTile := 0, colBlock := 0, out := [], packed := false, padding := 0 }

def VecRec.mxAnswer (r : VecRec) (inp : Bytes) : VecAnswer :=
  let f := fmtOf r.dst
  let rows := mxRows inp
  let cols := mxCols inp
  if !r.mxOk inp || r.inLen != partsLen 48 (r.xParts inp ++ r.wParts inp ++ r.carryParts inp) || r.outLen != partsLen 0 (arrayParts f rows cols 0) then .malformed
  else
    let o := r.mxOp inp
    if !metaOk r.sparsity o.wMeta then .malformed
    else
      let t := { Tile.reset with gens := (List.range 128).map (fun l => (256 + l, r.gen (256 + l))) }
      let (ds, _) := t.drawEdge o.outRnd
      let res := (List.range rows).map (fun i =>
        let x := o.xr.getD i ⟨[], [], 0⟩
        o.convertRow ds i (o.cr.getD i ⟨[], [], 0⟩).elems ((List.range cols).map (fun j => o.dot (r.mode == 1) x j)))
      let data := res.flatMap (fun e => rowData f e.1.elems)
      let scales := res.flatMap (fun e => e.1.scales.map (fun c => BitVec.ofNat 8 c))
      .ran (if f.blockScaled then padTo (align8 data.length) data ++ scales else data) (res.foldl (fun (a : Flags) e => a ||| e.2) 0).toNat

/-! ### The harness (R73, R77, R601) -/

/-- What this part answers for a record.
Log entry 185, DESIGN CHOICE. -/
def answerRec (b : Bytes) : VecAnswer :=
  let r := readRec b
  let inp := (b.drop 64).take r.inLen
  if !r.fieldsOk || b.length != r.len then .malformed
  else match r.kind with
    | 1 => r.vecAnswer inp
    | 2 => r.mxAnswer inp
    | _ => if r.opcode != 0 || r.inLen != 0 || r.outLen != 8 * r.count then .malformed
      else .ran ((genOutputs r.count (r.gen r.lane)).flatMap (fun v => leBytes 8 v.toNat)) 0

/-- The verdict on a record: passed when every output bit and the flag word are as expected (R73). -/
inductive VecVerdict
  | passed | failed | malformed | noLayout
  deriving DecidableEq, Repr

/-- Log entry 185, DESIGN CHOICE. -/
def judgeRec (b : Bytes) : VecVerdict :=
  let r := readRec b
  match answerRec b with
  | .malformed => .malformed
  | .noLayout => .noLayout
  | .ran out fl => if out = ((b.drop (64 + align8 r.inLen)).take r.outLen) ∧ fl = r.flags then .passed else .failed

/-- The verdicts on a file's records, or the check that rejects the file. -/
def judgeFile (b : Bytes) : Except FileFault (List VecVerdict) := (openFile b).map (fun l => l.map judgeRec)

/-- A part conforms to a stepping's sets when every record of every file passes. -/
def conforms (files : List Bytes) : Bool :=
  files.all (fun b => match judgeFile b with
    | .ok l => l.all (fun v => v == .passed)
    | .error _ => false)

end Sys2Proof.Machine
end

