-- ==== Sys2Proof/Tests/Slice0.lean ====
section
/-! SUPPORT. Tests: a command that each check of well-formedness refuses, small steps whose results are
worked out from the manual by hand, and for every statement states and operands that meet its hypotheses
together. -/

set_option maxRecDepth 50000
set_option Elab.async false

namespace Sys2Proof.Tests

open Sys2Proof Sys2Proof.Machine

/-! ### Well-formedness -/

def q1 : QId := ⟨1, 1⟩
def hdr0 : SecHdr := ⟨0, 1, 0, 0, 0⟩
def lay0 : Layout := ⟨80, 80, 0xFFFFF, 0xF, 0xF, 0, 1000, 100, 100, 10, 16, 32, [0, 0, 0, 0], true⟩

theorem test_wf_queue_index : Instr.wf (.snapshot ⟨1, 4097⟩) = false ∧ Instr.wf (.snapshot ⟨1, 4096⟩) = true := by decide
theorem test_wf_run_slots : Instr.wf (.run q1 ⟨0, false, 0, List.replicate 65 0⟩ 0) = false ∧ Instr.wf (.run q1 ⟨0, false, 0, List.replicate 64 0⟩ 0) = true := by decide
theorem test_wf_layout : Instr.wf (.layoutSet hdr0 { lay0 with budgets := [0] }) = false ∧ Instr.wf (.layoutSet hdr0 lay0) = true := by decide
theorem test_wf_bind : Instr.wf (.sessionBind hdr0 [0] 0 0) = false := by decide
theorem test_wf_import : Instr.wf (.keyImport hdr0 0 [] (zeros 40)) = false := by simp [Instr.wf, zeros]
theorem test_wf_forward : Instr.wf (.fwdSubmission 0 0 0 (zeros 127)) = false ∧ Instr.wf (.fwdCompletion 0 0 0 (zeros 31)) = false := by simp [Instr.wf, zeros]
theorem test_wf_flit : Instr.wf (.flitReceive 0 ⟨0, 0, zeros 239, 0⟩) = false := by simp [Instr.wf, Flit.wf, zeros]
theorem test_wf_mirror : Instr.wf (.mirrorAck ⟨0, 0, zeros 8225⟩) = false := by simp [Instr.wf, MirrorMsg.wf, zeros]
theorem test_wf_startup : Instr.wf (.powerGood ⟨[160], [], [], [], false, false, [], [], true, true, true⟩) = false := by decide
theorem test_wf_block : Instr.wf (.hostReadCompletion 0 [⟨0, 0, 0, zeros 4097, 0⟩] none) = false := by simp [Instr.wf, HostBlock.wf, zeros]
theorem test_wf_sensor : Instr.wf (.sensorUpdate 0 0) = false ∧ Instr.wf (.sensorUpdate 36 0) = true := by decide
theorem test_wf_access : Instr.wf (.regWrite false 0 0 513 0) = false := by decide

/-! ### States the witnesses share -/

def ent (cmd : HostCmd) : Entry := ⟨0, 0, 0, false, 0, cmd, .waiting, 0⟩
def cx : Ctx := ⟨.active, 1, some 0, 0, 6, 9, 0, 0, false, false⟩
def qu (c : Option Nat) (cmd : HostCmd) : Queue := ⟨c, 6, 6, 9, 0, 1, 1, [], 0, 0, .active, 0, [ent cmd], none⟩
def pg (tier : Nat) (st : PgSt) : Pte := mkPte (mkCtl tier 0 0 st false false) 7 (mkHandle 3 0)
/-- An object of context 0 in a tier, with pages. -/
def ob (tier kind : Nat) (pages : List Pte) : Obj := ⟨0, .object, some 0, some 0, tier, kind, 0, false, false, false, false, none, pages, false, [], 0, none, 0, none⟩
def ses : Session := { Session.none with st := .bound, layout := some lay0 }
/-- A partition 0 that is BOUND, with one HBM object of context 0 and one event. -/
def base : State :=
  { State.reset with
    objs := [(3, ob 1 0 [pg 1 .zero])], events := [(0, ⟨0, false, 5, 5, 0, 0xFFFF, 0⟩)], ts := 100
    parts := [(0, { PartSt.reset with sess := ses })] }
/-- A state with a command at the front of a context queue. -/
def hostIn (s : State) (cmd : HostCmd) : State := { s with queues := [(65537, qu (some 0) cmd)], ctxs := [(0, cx)] }
/-- A state with a command at the front of the physical function's admin queue. -/
def adminIn (s : State) (cmd : HostCmd) : State := { s with queues := [(0, qu none cmd)] }
def q0 : QId := ⟨0, 0⟩

theorem compUp_all (s : State) (h : s.onlyn.comps = []) (l : List Nat) : l.all s.compUp = true := by
  simp [State.compUp, h, Tbl.get]

theorem hostTurn (s : State) (cmd : HostCmd) (h1 : s.dev.fault = none) (h2 : s.onlyn.comps = []) (h3 : (hostIn s cmd).isCatcher = false) :
    HostTurn (hostIn s cmd) q1 cmd (ent cmd) 0 cx := by
  have hk : qKey q1 = 65537 := by decide
  refine ⟨qu (some 0) cmd, by simp [hostIn, Tbl.get, hk], ?_, rfl, rfl, compUp_all _ h2 _, rfl, rfl⟩
  have h4 : (hostIn s cmd).dev.fault.isNone = true := by simp [hostIn, h1]
  have h5 : (hostIn s cmd).ctxs.get 0 = some cx := rfl
  unfold State.queueRuns
  simp only [qu, h4, h5, h3]
  rfl

theorem adminTurn (s : State) (cmd : HostCmd) (h1 : s.dev.fault = none) (h2 : s.onlyn.comps = []) : AdminTurn (adminIn s cmd) q0 cmd (ent cmd) := by
  have hk : qKey q0 = 0 := by decide
  refine ⟨rfl, qu none cmd, by simp [adminIn, Tbl.get, hk], ?_, rfl, rfl, compUp_all _ h2 _⟩
  simp [State.queueRuns, qu, adminIn, h1]

/-- What a witness of a command's turn needs of its state. -/
theorem turn (cmd : HostCmd) : HostTurn (hostIn base cmd) q1 cmd (ent cmd) 0 cx := hostTurn base cmd rfl rfl rfl

/-! ### Witnesses -/

theorem witness_StepRunsTheFrontCommand :
    ({ State.reset with pending := [.baseCommit q0] } : State).pending = [.baseCommit q0] ∧ State.reset.pending = [] := by decide

theorem witness_CommandsStartInRingOrder : (hostIn base (.seedSet 1)).start q1 (.seedSet 1) = some (65537, ent (.seedSet 1), (hostIn base (.seedSet 1)).started q1 0) :=
  start_of_hostTurn (turn _)

theorem witness_RecordsAndLayout :
    (let s := adminIn base .baseCommit
     s.queues.get 0 = some (qu none .baseCommit) ∧ (qu none .baseCommit).fetched.find? (fun x => x.sub == 0) = some (ent .baseCommit) ∧
       s.ctxPart (qu none .baseCommit).ctx = none ∧ s.farHead = none) ∧
    (let r : Rec := ⟨2 ^ 32 - 1, .ok, .request, 127, 255, 0xFFFFFFFF, 2 ^ 32 - 1, 2 ^ 64 - 1, 2 ^ 64 - 1⟩
     r.flags < 128 ∧ r.stage < 256 ∧ r.sub < 2 ^ 32 ∧ r.result < 2 ^ 32 ∧ r.ts < 2 ^ 64 ∧ r.detail < 2 ^ 64) := by decide

/-- Doorbells at each boundary of a ring of 64 entries with head 1 and tail 1; a window write; consumer indices. -/
theorem witness_RingWrites :
    (let s : State := { hostIn base (.seedSet 1) with pins := { Pins.reset with vfEnable := true } }
     let x := qu (some 0) (.seedSet 1)
     s.fnOpen 1 = true ∧ s.queues.get (qKey q1) = some x ∧ x.sqSize = 64 ∧ x.sqSize < diff32 66 x.head ∧ diff32 65 x.head ≤ x.sqSize ∧
       diff32 x.tail x.head ≤ diff32 65 x.head) ∧
    (let x : Queue := { qu (some 0) (.seedSet 1) with tail := 3 }
     diff32 2 x.head ≤ x.sqSize ∧ diff32 2 x.head < diff32 x.tail x.head) ∧
    (let x := qu (some 0) (.seedSet 1)
     diff32 x.written x.cqHead < diff32 1 x.cqHead ∧ diff32 0 x.cqHead ≤ diff32 x.written x.cqHead ∧ x.blockedSince = none) ∧
    State.reset.fnOpen 1 = false ∧
    (let f : FnSt := { FnSt.reset with maps := [(0, 4096, 9)] }
     f.maps.find? (fun m => m.1 ≤ 0 && 0 + 64 ≤ m.1 + m.2.1) = some (0, 4096, 9)) := by decide

/-- The partition's ring pages hold one ready entry of a command, on a device whose host has agreed on every feature. -/
def fed (cmd : HostCmd) : State :=
  { hostIn base cmd with
    fns := [(1, { FnSt.reset with regs := [(0x44, 4), (0xA0, 0xFFFFFFFF)] })], hbm := Mem.writes [] (7 * 65536) ((encodeEntry false 0x1234 5 cmd).getD 0 [])
    objs := [(9, { ob 1 0 [pg 1 .valid] with use := .ring })]
    queues := [(65537, { qu (some 0) cmd with fetched := [], head := 0, tail := 1, stamps := [(1, 50)] })] }
def fedQ (cmd : HostCmd) : Queue := { qu (some 0) cmd with fetched := [], head := 0, tail := 1, stamps := [(1, 50)] }
def lostCx : Ctx := { cx with st := .lost }

/-- What every case of the statement asks of the state. -/
def fetchable (s : State) (cmd : HostCmd) (x : Ctx) : Prop :=
  s.queues.get (qKey q1) = some (fedQ cmd) ∧ (fedQ cmd).st = .active ∧ (fedQ cmd).ctx = some 0 ∧ s.ctxs.get 0 = some x ∧ x.st ≠ .draining ∧ x.restoring = false ∧
    s.fencedCtx x = false ∧ (fedQ cmd).ready ≠ 0 ∧ s.slotsUsed (qKey q1) (fedQ cmd) < (fedQ cmd).cqSize ∧
    readEntry (s.readyBytes (fedQ cmd) 5) = some ⟨cmdOpcode cmd, false, 0x1234, 5, cmd, 1⟩ ∧ s.ringDepth < 256
/-- The rails and lines that a fetch reads. -/
def fetchRails (s : State) (cmd : HostCmd) : Bool := s.ringRails (fedQ cmd) && s.entryLines (fedQ cmd) 1 && cx.part.all s.partRails

theorem witness_EntryFetchAdmits_passes :
    fetchable (fed (.seedSet 77)) (.seedSet 77) cx ∧ fetchRails (fed (.seedSet 77)) (.seedSet 77) = true ∧ (fed (.seedSet 77)).featureOk (qFn (qKey q1)) (.seedSet 77) = true ∧
      govern (((fed (.seedSet 77)).setQueue (qKey q1) ((fedQ (.seedSet 77)).take ⟨cmdOpcode (.seedSet 77), false, 0x1234, 5, .seedSet 77, 1⟩)).ctxFails 0 50 (some 0) (.seedSet 77)) = none := by
  unfold fetchable; decide +kernel
theorem witness_EntryFetchAdmits_fault :
    fetchable (fed (.eventQuery 1)) (.eventQuery 1) cx ∧ fetchRails (fed (.eventQuery 1)) (.eventQuery 1) = true ∧ (fed (.eventQuery 1)).featureOk (qFn (qKey q1)) (.eventQuery 1) = true ∧
      govern (((fed (.eventQuery 1)).setQueue (qKey q1) ((fedQ (.eventQuery 1)).take ⟨cmdOpcode (.eventQuery 1), false, 0x1234, 5, .eventQuery 1, 1⟩)).ctxFails 0 50 (some 0) (.eventQuery 1)) = some .handle := by
  unfold fetchable; decide +kernel
theorem witness_EntryFetchAdmits_feature :
    fetchable { fed (.seedSet 77) with fns := [] } (.seedSet 77) cx ∧ fetchRails { fed (.seedSet 77) with fns := [] } (.seedSet 77) = true ∧ queueKind (.seedSet 77) = .ctx ∧ ({ fed (.seedSet 77) with fns := [] } : State).featureOk (qFn (qKey q1)) (.seedSet 77) = false := by
  unfold fetchable; decide +kernel
theorem witness_EntryFetchAdmits_lost :
    fetchable { fed (.seedSet 77) with ctxs := [(0, lostCx)] } (.seedSet 77) lostCx ∧
      fetchable { fed (.seedSet 77) with dev := { base.dev with fault := some (.parity, 0) } } (.seedSet 77) cx := by
  unfold fetchable; decide +kernel

theorem witness_EntryFetchAdmits_rails :
    (let s := { fed (.seedSet 77) with objs := [(9, { ob 1 0 [{ pg 1 .valid with ctlN := 0 }] with use := .ring })] }
     fetchable s (.seedSet 77) cx ∧ s.ringRails (fedQ (.seedSet 77)) = false) ∧
    (let s := { fed (.seedSet 77) with shroud := { base.shroud with bad := [7 * 1024], blocks := [(112, ⟨0, [(0, 1)]⟩)] } }
     fetchable s (.seedSet 77) cx ∧ s.ringRails (fedQ (.seedSet 77)) = true ∧ s.entryLines (fedQ (.seedSet 77)) 1 = false) ∧
    (let s := { fed (.seedSet 77) with parts := [(0, { PartSt.reset with sess := ses, tableN := 0 })] }
     fetchable s (.seedSet 77) cx ∧ s.ringRails (fedQ (.seedSet 77)) = true ∧ s.entryLines (fedQ (.seedSet 77)) 1 = true ∧ cx.part.all s.partRails = false) := by
  unfold fetchable; decide +kernel

/-- A RUN of slot 3 at the ring's head, behind a LOAD_IMAGE of that slot that has not started. -/
def loadRun : RunArgs := ⟨3, false, 1, []⟩
def loadFedQ : Queue := { fedQ (.run loadRun) with fetched := [{ ent (.loadImage ⟨3, 3, 0⟩) with sub := 4294967295 }] }

theorem witness_EntryFetchAdmits_load : let s := (fed (.run loadRun)).setQueue (qKey q1) loadFedQ
    (s.queues.get (qKey q1) = some loadFedQ ∧ loadFedQ.st = .active ∧ loadFedQ.ctx = some 0 ∧ s.ctxs.get 0 = some cx ∧ s.fencedCtx cx = false ∧ loadFedQ.ready ≠ 0 ∧
      s.slotsUsed (qKey q1) loadFedQ < loadFedQ.cqSize ∧ readEntry (s.readyBytes loadFedQ 5) = some ⟨cmdOpcode (.run loadRun), false, 0x1234, 5, .run loadRun, 1⟩) ∧
    s.ringRails loadFedQ = true ∧ s.entryLines loadFedQ 1 = true ∧ cx.part.all s.partRails = true ∧ s.featureOk (qFn (qKey q1)) (.run loadRun) = true ∧ loadFedQ.loadsFirst (.run loadRun) = true ∧ (fedQ (.seedSet 77)).loadsFirst (.seedSet 77) = false := by
  decide +kernel

/-! Commands of a context queue. -/

theorem witness_EventsAndWaits_create (a : EventArgs) :
    HostTurn (hostIn base (.eventCreate a)) q1 (.eventCreate a) (ent (.eventCreate a)) 0 cx ∧ (hostIn base (.eventCreate a)).events.pickFree 65536 9 = some 9 :=
  ⟨turn _, rfl⟩
theorem witness_EventsAndWaits_destroy : HostTurn (hostIn base (.eventDestroy 0)) q1 (.eventDestroy 0) (ent (.eventDestroy 0)) 0 cx ∧
    (hostIn base (.eventDestroy 0)).eventUsable 0 0 true = true := ⟨turn _, rfl⟩
theorem witness_EventsAndWaits_query : HostTurn (hostIn base (.eventQuery 0)) q1 (.eventQuery 0) (ent (.eventQuery 0)) 0 cx ∧
    (hostIn base (.eventQuery 0)).events.get 0 = some ⟨0, false, 5, 5, 0, 0xFFFF, 0⟩ := ⟨turn _, rfl⟩
theorem witness_EventsAndWaits_seed : HostTurn (hostIn base (.seedSet 77)) q1 (.seedSet 77) (ent (.seedSet 77)) 0 cx := turn _
/-- A WAIT of the event at value 5, with each kind of target at a boundary: 2^62 + 1 and 2^63 - 1 ahead, 0 and 2^63 - 1 behind, 1, 2^62 and 2^63 ahead, with no deadline,
one that has passed and one that has not; the clock shows 100. -/
theorem witness_EventsAndWaits_wait :
    (∀ a, HostTurn (hostIn base (.wait a)) q1 (.wait a) (ent (.wait a)) 0 cx) ∧ base.events.get 0 = some ⟨0, false, 5, 5, 0, 0xFFFF, 0⟩ ∧
    (2 ^ 62 < ((2 ^ 62 + 6 : U64) - 5).toNat ∧ ((2 ^ 62 + 6 : U64) - 5).toNat < 2 ^ 63 ∧ 2 ^ 62 < ((2 ^ 63 + 4 : U64) - 5).toNat ∧ ((2 ^ 63 + 4 : U64) - 5).toNat < 2 ^ 63) ∧
    (((5 : U64) - 5).toNat < 2 ^ 63 ∧ ((5 : U64) - (2 ^ 63 + 6)).toNat < 2 ^ 63) ∧
    (0 < ((6 : U64) - 5).toNat ∧ ((2 ^ 62 + 5 : U64) - 5).toNat ≤ 2 ^ 62 ∧ ((2 ^ 63 + 5 : U64) - 5).toNat = 2 ^ 63 ∧ 0 < ((2 ^ 63 + 5 : U64) - 5).toNat) ∧
    ((99 : U64) ≠ 0 ∧ (99 : U64).toNat < base.ts ∧ base.ts ≤ (100 : U64).toNat) := ⟨fun _ => turn _, by decide⟩
theorem witness_EventsAndWaits_deadline : ({ base with waits := [⟨65537, 0, 0, 6, 99⟩] } : State).waits[0]? = some ⟨65537, 0, 0, 6, 99⟩ ∧ (99 : Nat) ≠ 0 ∧ 99 < base.ts := by decide
theorem witness_EventsAndWaits_signal :
    (∀ a, HostTurn (hostIn base (.signal a)) q1 (.signal a) (ent (.signal a)) 0 cx) ∧ ((5 : U64) - 5).toNat = 0 ∧ 2 ^ 63 ≤ ((2 ^ 63 + 5 : U64) - 5).toNat ∧
    (2 ^ 62 < ((2 ^ 62 + 6 : U64) - 5).toNat ∧ ((2 ^ 63 + 4 : U64) - 5).toNat < 2 ^ 63) ∧ (0 < ((6 : U64) - 5).toNat ∧ ((2 ^ 62 + 5 : U64) - 5).toNat ≤ 2 ^ 62) :=
  ⟨fun _ => turn _, by decide⟩

theorem witness_EventsAndWaits_resolve :
    (let s : State := { base with waits := [⟨65537, 0, 0, 6, 99⟩, ⟨65537, 1, 0, 9, 0⟩] }
     s.waits.filter (fun w => w.event == 0 && satisfied 5 w.target) = [] ∧ s.waits.filter (fun w => w.event == 0 && satisfied 6 w.target) = [⟨65537, 0, 0, 6, 99⟩]) := by decide

def copyOut : CopyArgs := ⟨3, 0xFFFFFFFF, 0, 0, 64, 0x1000, 17⟩
def copyIn : CopyArgs := ⟨3, 4, 0, 0, 64, 0, 0⟩
/-- A transport slot used as many times as a session allows. -/
def worn (n : Nat) : State := { base with keys := [(17, ⟨.active, 1, 0xFFFFFFFE, .transport, 0, 0, none, n, none⟩)] }
theorem witness_TransfersStart :
    (∀ a, HostTurn (hostIn base (.fill a)) q1 (.fill a) (ent (.fill a)) 0 cx) ∧ HostTurn (hostIn base (.copy copyIn)) q1 (.copy copyIn) (ent (.copy copyIn)) 0 cx ∧ copyIn.dst ≠ 0xFFFFFFFF ∧
    (∀ n, HostTurn (hostIn (worn n) (.copy copyOut)) q1 (.copy copyOut) (ent (.copy copyOut)) 0 cx) ∧ copyOut.dst = 0xFFFFFFFF ∧
    ((worn (2 ^ 24 - 1)).key 17).outCount < 2 ^ 24 ∧ 2 ^ 24 ≤ ((worn (2 ^ 24)).key 17).outCount :=
  ⟨fun _ => turn _, turn _, by decide, fun n => hostTurn (worn n) _ rfl rfl rfl, by decide⟩

def newArgs : ObjectArgs := ⟨1, 0, 16, 1000 - 100 - 1, 0⟩
def keyed : State := { base with keys := [(16, ⟨.active, 1, 0xFFFFFFFE, .memory, 0, 0, none, 0, none⟩)] }
/-- An object over all the HBM pages that the partition has left. -/
theorem witness_ObjectsAndSeals_create :
    (let a := { newArgs with pages := 2 }
     let s1 := (hostIn keyed (.objectCreate a)).started q1 0
     HostTurn (hostIn keyed (.objectCreate a)) q1 (.objectCreate a) (ent (.objectCreate a)) 0 cx ∧ cx.part = some 0 ∧ govern (s1.objectFails cx.part a) = none ∧ a.tier = 1 ∧
       bitOf a.flags.toNat 0 = false ∧ bitOf a.flags.toNat 3 = false ∧ a.pages.toNat ≤ s1.hbmRoom 0 ∧ s1.objs.lowestFree (s1.objs.length + 1) 0 = 0 ∧ s1.nextGen 0 = 0 ∧
       (s1.newHbm 0 ⟨0, .object, some 0, cx.part, a.tier.toNat, a.kind.toNat, a.keySlot.toNat, false, bitOf a.flags.toNat 1, bitOf a.flags.toNat 2, false,
         none, [], false, [], 0, none, 0, none⟩ a.pages.toNat [5, 9]).isSome = true) ∧ newArgs.pages.toNat = base.hbmRoom 0 :=
  ⟨⟨hostTurn keyed _ rfl rfl rfl, by decide +kernel⟩, by decide +kernel⟩

/-- A state with object 3 changed. -/
def with3 (o : Obj) : State := { base with objs := [(3, o)] }
def obPlain : Obj := ob 1 0 [pg 1 .zero]
theorem witness_ObjectsAndSeals_free :
    (∀ s, s = with3 { obPlain with inSet := some 0 } ∨ s = with3 obPlain → HostTurn (hostIn s (.objectFree 3)) q1 (.objectFree 3) (ent (.objectFree 3)) 0 cx) ∧
    ((hostIn (with3 { obPlain with inSet := some 0 }) (.objectFree 3)).started q1 0).ownObj 0 0 3 = some (3, { obPlain with inSet := some 0 }) ∧
    (let s1 := (hostIn (with3 obPlain) (.objectFree 3)).started q1 0
     s1.ownObj 0 0 3 = some (3, obPlain) ∧ obPlain.inSet = none ∧ s1.trainPinned 3 = false ∧ s1.isBase obPlain = false ∧ obPlain.draining = none ∧ s1.namedBefore 0 s1.ts 3 = false) ∧
    (let s := hostIn (with3 obPlain) (.objectFree 3)
     let s1 := ({ s with queues := [(65537, { qu (some 0) (.objectFree 3) with fetched := [ent (.objectFree 3), { ent (.fill ⟨3, 0, 0, 64⟩) with sub := 1 }] })] } : State).started q1 0
     s1.ownObj 0 0 3 = some (3, obPlain) ∧ s1.trainPinned 3 = false ∧ s1.isBase obPlain = false ∧ s1.namedBefore 0 s1.ts 3 = true) := by
  refine ⟨?_, by decide +kernel⟩
  rintro s (rfl | rfl) <;> exact hostTurn _ _ rfl rfl rfl

def obFlash : Obj := ob 2 1 [pg 2 .written]
theorem witness_ObjectsAndSeals_seal :
    (∀ o, HostTurn (hostIn (with3 o) (.seal 3)) q1 (.seal 3) (ent (.seal 3)) 0 cx) ∧
    (∀ o ∈ [{ obFlash with isSealed := true }, ob 2 1 [pg 2 .filling], obFlash], ((hostIn (with3 o) (.seal 3)).started q1 0).ownObj 0 0 3 = some (3, o) ∧ o.tier ≠ 1) ∧
    (∃ p ∈ (ob 2 1 [pg 2 .filling]).pages, p.st ≠ .written) ∧ (∀ p ∈ obFlash.pages, p.st = .written) ∧
    (let s2 := (((hostIn (with3 obFlash) (.seal 3)).started q1 0).startWork (mkWork (qKey q1) (ent (.seal 3)) (some 0) cx.part (.sealing 3) (pageChunks 0 obFlash.bytes) 100 0)).2
     s2.workBusy 0 = true) ∧
    (let o := { obFlash with pages := [] }
     let s2 := (((hostIn (with3 o) (.seal 3)).started q1 0).startWork (mkWork (qKey q1) (ent (.seal 3)) (some 0) cx.part (.sealing 3) (pageChunks 0 o.bytes) 100 0)).2
     s2.workBusy 0 = false ∧ (s2.works.get 0).isSome = true) :=
  ⟨fun o => hostTurn (with3 o) _ rfl rfl rfl, by decide +kernel⟩
/-- A SEAL whose reads have come back: of a MODEL object with one layer of BF16, and of a DATA object. -/
def modelBytes : Bytes := leBytes 4 0x314C444D ++ leBytes 2 0x0100 ++ leBytes 2 1 ++ zeros 56 ++ leBytes 1 1 ++ zeros 15
theorem witness_ObjectsAndSeals_sealed :
    ∀ o ∈ [obFlash, { obFlash with kind := 2 }],
      let s2 := hostIn (with3 o) (.seal 3)
      let w : Work := { mkWork 65537 (ent (.seal 3)) (some 0) (some 0) (.sealing 3) [⟨0, 80, 0⟩] 100 0 with done := [0], got := [(0, modelBytes)] }
      w.q = some 65537 ∧ s2.objs.get 3 = some o ∧ w.failed = [] ∧ w.part = some 0 ∧ s2.mirrors 0 = false ∧ (o.kind = 1 → modelHeaderOk w.bytes = true ∧ modelTableOk w.bytes = true) := by
  decide +kernel

/-! Images: a body with two vector stages of one tile each and a stream between them, written from the layouts of R160, R164, R168 and R170. -/

def endWord : Nat := 0x8F00000000000000
def dirEntry (type off len count : Nat) : Bytes := leBytes 1 type ++ zeros 3 ++ leBytes 4 off ++ leBytes 4 len ++ leBytes 4 count
def pad (n : Nat) (b : Bytes) : Bytes := b ++ zeros (n - b.length)
def stageBytes (tile prog len : Nat) : Bytes := [2, 1] ++ leBytes 1 tile ++ [0xFF] ++ leBytes 4 prog ++ leBytes 4 len ++ zeros 20
def body0 (w : List Nat) : Bytes :=
  pad 128 (leBytes 2 6 ++ zeros 6 ++ dirEntry 1 128 64 2 ++ dirEntry 2 192 64 2 ++ dirEntry 3 256 64 1 ++ dirEntry 4 320 64 1 ++ dirEntry 5 384 128 2 ++ dirEntry 9 0 0 0) ++
    pad 64 [0, 1] ++ (stageBytes 0 0 (8 * w.length + 8) ++ stageBytes 1 64 8) ++
    pad 64 ([0, 1, 1, 1, 0, 0, 0, 0] ++ leBytes 2 64 ++ leBytes 2 1 ++ leBytes 2 0 ++ zeros 2 ++ leBytes 4 0 ++ leBytes 4 64 ++ zeros 8) ++
    pad 64 ([0, 1, 0xFF, 2, 1, 0, 0] ++ leBytes 9 (1 + 8 * 5)) ++ pad 64 (w.flatMap (leBytes 8) ++ leBytes 8 endWord) ++ pad 64 (leBytes 8 endWord)
/-- A container header around a body whose digest is `d`. -/
def headerOf (n : Nat) (d : Bytes) : Bytes := (leBytes 4 0x314E4743 ++ leBytes 2 0x0100 ++ leBytes 2 128 ++ leBytes 4 n ++ zeros 36) ++ (d ++ zeros 32)
def header0 (body : Bytes) : Bytes := headerOf body.length (sha384 body)
def ctr0 : Bytes := header0 (body0 []) ++ body0 []

theorem leBytes_length (n v : Nat) : (leBytes n v).length = n := by
  induction n generalizing v with
  | zero => rfl
  | succ n ih => simp [leBytes, ih]
theorem sha384_length (b : Bytes) : (sha384 b).length = 48 := by simp [sha384, beBytes, leBytes_length]
theorem fieldLE_zeros (k off n : Nat) : fieldLE (zeros k) off n = 0 := by
  have h : ∀ j, leNat (zeros j) = 0 := by
    intro j
    induction j with
    | zero => rfl
    | succ j ih => simp only [zeros, List.replicate_succ, leNat] at ih ⊢; rw [ih]; rfl
  simp only [fieldLE, zeros, List.drop_replicate, List.take_replicate]
  exact h _
theorem fieldLE_right (a b : Bytes) (off n : Nat) (h : a.length ≤ off) : fieldLE (a ++ b) off n = fieldLE b (off - a.length) n := by
  simp [fieldLE, List.drop_append, List.drop_eq_nil_of_le h]
theorem fieldLE_left (a b : Bytes) (off n : Nat) (h : off + n ≤ a.length) : fieldLE (a ++ b) off n = fieldLE a off n := by
  have h1 : off ≤ a.length := by omega
  have h2 : n ≤ (a.drop off).length := by simp; omega
  simp only [fieldLE, List.drop_append_of_le_length h1, List.take_append_of_le_length h2]

theorem header_front (d : Bytes) (off n : Nat) (h : off + n ≤ 48) :
    fieldLE (headerOf 512 d) off n = fieldLE (leBytes 4 0x314E4743 ++ leBytes 2 0x0100 ++ leBytes 2 128 ++ leBytes 4 512 ++ zeros 36) off n :=
  fieldLE_left _ _ _ _ (by simpa [leBytes_length, zeros] using h)
theorem header_ok (d : Bytes) (hd : d.length = 48) : headerOk (headerOf 512 d) = true := by
  have h0 : fieldLE (headerOf 512 d) 0x64 28 = 0 := by
    rw [headerOf, fieldLE_right _ _ _ _ (by simp [leBytes_length, zeros]), fieldLE_right _ _ _ _ (by simp [leBytes_length, zeros, hd]), fieldLE_zeros]
  have f0 : fieldLE (headerOf 512 d) 0 4 = 0x314E4743 := by rw [header_front d 0 4 (by omega)]; decide +kernel
  have f1 : fieldLE (headerOf 512 d) 4 2 = 0x0100 := by rw [header_front d 4 2 (by omega)]; decide +kernel
  have f2 : fieldLE (headerOf 512 d) 6 2 = 128 := by rw [header_front d 6 2 (by omega)]; decide +kernel
  have f3 : fieldLE (headerOf 512 d) 8 4 = 512 := by rw [header_front d 8 4 (by omega)]; decide +kernel
  have f4 : fieldLE (headerOf 512 d) 12 2 = 0 := by rw [header_front d 12 2 (by omega)]; decide +kernel
  have f5 : fieldLE (headerOf 512 d) 14 2 = 0 := by rw [header_front d 14 2 (by omega)]; decide +kernel
  have f6 : fieldLE (headerOf 512 d) 0x10 12 = 0 := by rw [header_front d 0x10 12 (by omega)]; decide +kernel
  have f7 : fieldLE (headerOf 512 d) 0x1C 4 = 0 := by rw [header_front d 0x1C 4 (by omega)]; decide +kernel
  have f8 : fieldLE (headerOf 512 d) 0x20 16 = 0 := by rw [header_front d 0x20 16 (by omega)]; decide +kernel
  simp [headerOk, hdrBodyLen, hdrEncrypted, reservedZero, h0, f0, f1, f2, f3, f4, f5, f6, f7, f8, bitOf]
theorem header_digest (d : Bytes) (hd : d.length = 48) : hdrDigest (headerOf 512 d) = d := by
  have h1 : ((leBytes 4 0x314E4743 ++ leBytes 2 0x0100 ++ leBytes 2 128 ++ leBytes 4 512 ++ zeros 36) : Bytes).length = 0x30 := by simp [leBytes_length, zeros]
  rw [hdrDigest, headerOf, List.drop_append, List.drop_eq_nil_of_le (Nat.le_of_eq h1), h1]
  simp [hd]

theorem body_length (w : List Nat) (h : w.length ≤ 7) : (body0 w).length = 512 := by
  have hw : (w.flatMap (leBytes 8)).length = 8 * w.length := by
    induction w with
    | nil => rfl
    | cons a r ih => simp [leBytes_length, ih (by simp at h; omega)]; omega
  simp [body0, pad, dirEntry, stageBytes, leBytes_length, zeros, hw]
  omega
theorem plain0 (k : U256) : plainBody k (header0 (body0 [])) (body0 []) = body0 [] := by
  have he : hdrEncrypted (header0 (body0 [])) = false := by
    rw [hdrEncrypted, header0, body_length [] (by simp), header_front _ 12 2 (by omega)]; decide +kernel
  simp [plainBody, he]
/-- Checks 3 to 10 of R177 pass on the container, in any state in which partition 0 has the layout and no tile has failed. -/
theorem load_passes (s : State) (h : s.layout 0 = some lay0) : loadFails s 0 (header0 (body0 [])) (body0 []) [] = none := by
  have he : hdrEncrypted (header0 (body0 [])) = false := by
    rw [hdrEncrypted, header0, body_length [] (by simp), header_front _ 12 2 (by omega)]; decide +kernel
  have ho : headerOk (header0 (body0 [])) = true := by rw [header0, body_length [] (by simp)]; exact header_ok _ (sha384_length _)
  have hg : hdrDigest (header0 (body0 [])) = sha384 (body0 []) := by rw [header0, body_length [] (by simp)]; exact header_digest _ (sha384_length _)
  have h1 : (directoryOk (body0 []) && limitsOk (body0 [])) = true := by decide +kernel
  have h2 : contentsOk (body0 []) = true := by decide +kernel
  have h3 : ownedOk (readImage (body0 [])) lay0 [] = true := by decide +kernel
  have h4 : feedSlotsOk (readImage (body0 [])) = true := by decide +kernel
  simp [loadFails, h, he, plain0, ho, hg, h1, h2, h3, h4]
/-- A word with opcode 0x00 fails check 8. -/
theorem test_load_fails : contentsOk (body0 [0]) = false := by decide +kernel
theorem test_image : (readImage (body0 [])).tiles = [0, 1] ∧ (readImage (body0 [])).progs = [[endWord], [endWord]] ∧
    (readImage (body0 [])).routes = [⟨0, 1, 255, [1, 5], 1⟩] := by decide +kernel


/-- Bytes of a container stand in object 3. -/
def imgBase (b : Bytes) : State := { base with objs := [(3, ob 1 0 [pg 1 .valid])], hbm := Mem.writes [] (7 * 65536) b }
def front0 : Bytes := headerOf 512 (zeros 48)
/-- The image with a program of stage 0. -/
def im0 (prog : List Nat) : Image :=
  ⟨[0, 1], [⟨2, 1, 0, 255, 0, 8 * prog.length, 0, 0, 0⟩, ⟨2, 1, 1, 255, 64, 8, 0, 0, 0⟩], [⟨0, 1, 1, 1, false, false, false, 0, 0, 64, 1, 0, 0, 64⟩], [⟨0, 1, 255, [1, 5], 1⟩],
   [prog, [endWord]], [], [], [], []⟩
def slot0 (st : SlotSt) (im : Option Image) : ImgSlot := ⟨st, 0, 5, im, [], 0, 0, [], 0⟩
def withSlot (s : State) (x : ImgSlot) : State := { s with parts := [(0, { PartSt.reset with sess := ses, slots := [(0, x)] })] }
def loaded0 : State := withSlot base (slot0 .loaded (some (im0 [endWord])))
def runA : RunArgs := ⟨0, false, 1, []⟩

theorem witness_ImageCommands_load :
    (let s := hostIn (imgBase front0) (.loadImage ⟨3, 63, 0⟩)
     let s1 := s.started q1 0
     HostTurn s q1 (.loadImage ⟨3, 63, 0⟩) (ent (.loadImage ⟨3, 63, 0⟩)) 0 cx ∧ (s1.ownObj 0 0 3).isSome = true ∧ (63 : U8).toNat < 64 ∧ s1.imgSlot 0 63 = none ∧ s1.containerFits 3 0 128 = true) :=
  ⟨hostTurn (imgBase front0) _ rfl rfl rfl, by decide +kernel⟩
theorem witness_ImageCommands_unload :
    (let s := hostIn loaded0 (.unloadImage 0)
     HostTurn s q1 (.unloadImage 0) (ent (.unloadImage 0)) 0 cx ∧ s.imgSlot 0 0 = some (slot0 .loaded (some (im0 [endWord]))) ∧ (s.started q1 0).slotRunBefore 0 100 0 = false ∧
       ({ s with queues := [(65537, { qu (some 0) (.unloadImage 0) with fetched := [ent (.unloadImage 0), { ent (.run runA) with sub := 1 }] })] } : State).slotRunBefore 0 100 0 = true) :=
  ⟨hostTurn loaded0 _ rfl rfl rfl, by decide +kernel⟩
theorem witness_ImageCommands_run :
    (let s := hostIn loaded0 (.run runA)
     let s1 := s.started q1 0
     HostTurn s q1 (.run runA) (ent (.run runA)) 0 cx ∧ govern (s1.runFails 0 0 0 runA) = none ∧ s1.imgSlot 0 0 = some (slot0 .loaded (some (im0 [endWord])))) :=
  ⟨hostTurn loaded0 _ rfl rfl rfl, by decide +kernel⟩

/-! Adapters. -/

def reg0 (st carry : Nat) : RegEntry := ⟨regCtl 20 0 st carry carry, ~~~(regCtl 20 0 st carry carry), [], 3, none, 1, 0, 0, 0, 0, 2, false⟩
def cache0 (st : CacheSt) (pins : Tbl Nat) : CacheEntry := ⟨st, 0, 5, pins, false, 0, some 4, [], [], false, false⟩
def withAd (r : RegEntry) (y : CacheEntry) : State := { base with adpt := { base.adpt with reg := [(5, r)], cache := [(2, y)] } }
def pinA : PinArgs := ⟨0, 5, 0⟩

def obHbm : Obj := ob 1 0 [pg 1 .valid]
theorem witness_AdapterCommands_publish :
    (let s := hostIn (with3 obHbm) (.publish ⟨3, 20⟩)
     let s1 := s.started q1 0
     HostTurn s q1 (.publish ⟨3, 20⟩) (ent (.publish ⟨3, 20⟩)) 0 cx ∧ s1.ownObj 0 0 3 = some (3, obHbm) ∧
       ((s1.startWork (mkWork (qKey q1) (ent (.publish ⟨3, 20⟩)) (some 0) cx.part (.publish 3 20 none) (pageChunks 0 obHbm.bytes) s1.ts 0)).2.workBusy 0 = true)) :=
  ⟨hostTurn _ _ rfl rfl rfl, by decide +kernel⟩
theorem witness_AdapterCommands_pin :
    (∀ r y, HostTurn (hostIn (withAd r y) (.pinAdapter pinA)) q1 (.pinAdapter pinA) (ent (.pinAdapter pinA)) 0 cx) ∧ pinA.form = 0 ∧
    (∀ y ∈ [cache0 .resident [(0, 65534)], cache0 .loading []], (let s1 := (hostIn (withAd (reg0 regPublished caNative) y) (.pinAdapter pinA)).started q1 0
      s1.adpt.reg.get 5 = some (reg0 regPublished caNative) ∧ (reg0 regPublished caNative).railOk = true ∧ (reg0 regPublished caNative).regState = regPublished ∧
        (reg0 regPublished caNative).owner = 0 ∧ serveOk (reg0 regPublished caNative).carry false = true ∧ s1.entryOf 5 = some (2, y) ∧ y.total < 65535)) :=
  ⟨fun _ _ => hostTurn _ _ rfl rfl rfl, by decide +kernel⟩
theorem witness_AdapterCommands_unpin :
    HostTurn (hostIn (withAd (reg0 regPublished caNative) (cache0 .resident [(0, 1)])) (.unpinAdapter 5)) q1 (.unpinAdapter 5) (ent (.unpinAdapter 5)) 0 cx ∧
    (reg0 regPublished caNative).regState ≠ regRevoked ∧ (cache0 .resident [(0, 1)]).st ≠ .void ∧ (cache0 .resident [(0, 1)]).pins.getD 0 0 ≠ 0 :=
  ⟨hostTurn _ _ rfl rfl rfl, by decide +kernel⟩
theorem witness_AdapterCommands_evict :
    (∀ y, HostTurn (hostIn (withAd (reg0 regPublished caNative) y) (.evictAdapter 5)) q1 (.evictAdapter 5) (ent (.evictAdapter 5)) 0 cx) ∧
    (cache0 .resident [(0, 1)]).total ≠ 0 ∧ (cache0 .resident []).total = 0 := ⟨fun _ => hostTurn _ _ rfl rfl rfl, by decide +kernel⟩

def obModel : Obj := { ob 2 1 [pg 2 .sealedPg] with part := none, owner := none, isSealed := true, digest := zeros 48 }
/-- A proposal with one live adapter, whose header is read, and with none. -/
def adReg : Tbl RegEntry := [(5, reg0 regPublished caNative)]
theorem witness_BaseCommands_propose :
    (let s := adminIn (with3 obModel) (.basePropose 3)
     let s1 := s.started q0 0
     let s2 : State := { s1 with adpt := { s1.adpt with proposal := some (obModel.digest.take 16, s1.objRead 3 0 (0x40 + 16 * fieldLE (s1.objRead 3 0 64) 6 2)) } }
     AdminTurn s q0 (.basePropose 3) (ent (.basePropose 3)) ∧ s1.objOf 3 = some (3, obModel) ∧ obModel.kind = 1 ∧ obModel.isSealed = true ∧ s1.adpt.proposal = none ∧ s1.regRails = true ∧
       s1.adpt.reg = [] ∧ ((s2.startWork (mkWork (qKey q0) (ent (.basePropose 3)) none none (.headers 3 []) [] s1.ts 0)).2.workBusy 0 = false)) ∧
    (let s := adminIn { with3 obModel with adpt := { base.adpt with reg := adReg } } (.basePropose 3)
     let s1 := s.started q0 0
     AdminTurn s q0 (.basePropose 3) (ent (.basePropose 3)) ∧ s1.objOf 3 = some (3, obModel) ∧ s1.adpt.proposal = none ∧ s1.regRails = true ∧
       s1.adpt.reg.filter (fun (x : Nat × RegEntry) => x.2.regState == regPublished || x.2.regState == regTraining) = adReg) :=
  ⟨⟨adminTurn _ _ rfl rfl, by decide +kernel⟩, adminTurn _ _ rfl rfl, by decide +kernel⟩
theorem witness_BaseCommands_headers :
    let s2 : State := { adminIn (with3 obModel) (.basePropose 3) with adpt := { base.adpt with reg := adReg, proposal := some (zeros 16, [2]) } }
    let w := mkWork 0 (ent (.basePropose 3)) none none (.headers 3 [(5, 3)]) [⟨0, headLen 1, 0⟩] 100 0
    let r := reg0 regPublished caNative
    w.q = some 0 ∧ w.failed = [] ∧ s2.objs.get 3 = some obModel ∧ s2.adpt.proposal = some (obModel.digest.take 16, [2]) ∧ s2.regRails = true ∧ s2.adpt.reg.get 5 = some r ∧
      r.regState = regPublished ∧ r.object.toNat % 2 ^ 20 = 3 := by decide +kernel
theorem witness_BaseCommands_commit :
    (let s := adminIn { base with adpt := { base.adpt with proposal := some ([1], [2]) } } .baseCommit
     AdminTurn s q0 .baseCommit (ent .baseCommit) ∧ (s.started q0 0).adpt.proposal = some ([1], [2]) ∧ (s.started q0 0).regRails = true ∧ ((adminIn base .baseAbandon).started q0 0).regRails = true ∧ AdminTurn (adminIn base .baseAbandon) q0 .baseAbandon (ent .baseAbandon)) :=
  ⟨adminTurn _ _ rfl rfl, by decide +kernel, by decide +kernel, by decide +kernel, adminTurn _ _ rfl rfl⟩
def probeA : ProbeArgs := ⟨5, 3, 0⟩
/-- A report of two probes of 1.0 each. -/
def probeBase : State :=
  { withAd (reg0 regPublished caPending) (cache0 .resident []) with
    objs := [(3, ob 1 0 [pg 1 .valid])], hbm := Mem.writes [] (7 * 65536) (leBytes 4 0x3F800000 ++ leBytes 4 8 ++ leBytes 4 0x3F800000 ++ leBytes 4 8) }
theorem witness_BaseCommands_probe :
    (let s := hostIn probeBase (.probeReport probeA)
     let s1 := s.started q1 0
     let r := reg0 regPublished caPending
     HostTurn s q1 (.probeReport probeA) (ent (.probeReport probeA)) 0 cx ∧ s1.adpt.reg.get 5 = some r ∧ r.railOk = true ∧ cx.part = some r.owner ∧ (s1.ownObj 0 0 3).isSome = true ∧
       (s1.reportSets r).isSome = true ∧ (s1.startWork (mkWork (qKey q1) (ent (.probeReport probeA)) (some 0) cx.part (.report 5 3 0) (pageChunks 0 512) s1.ts 0)).2.workBusy 0 = true) :=
  ⟨hostTurn _ _ rfl rfl rfl, by decide +kernel⟩
/-- The block has come: it sets the carry, and while a proposal stands the next carry. -/
theorem witness_BaseCommands_report :
    ∀ pr ∈ [none, some (zeros 16, [2])],
      let s2 : State := { hostIn probeBase (.probeReport probeA) with adpt := { probeBase.adpt with proposal := pr } }
      let r := reg0 regPublished caPending
      let w : Work := { mkWork 65537 (ent (.probeReport probeA)) (some 0) (some 0) (.report 5 3 0) [⟨0, 16, 0⟩] 100 0 with got := [(0, s2.objRead 3 0 16)] }
      w.q = some 65537 ∧ w.failed = [] ∧ s2.adpt.reg.get 5 = some r ∧ r.railOk = true ∧ s2.reportSets r = some pr.isSome ∧ ∀ i, i < r.probes → fieldLE w.bytes (8 * i + 4) 4 ≠ 0 := by
  decide +kernel

/-! Rekey, snapshot, recipe, join, update sets. -/

theorem witness_RekeySnapshotRecipeJoin_rekey :
    (let s := hostIn keyed (.rekey 16)
     let s1 := s.started q1 0
     HostTurn s q1 (.rekey 16) (ent (.rekey 16)) 0 cx ∧ s.rekeyWaits (some 0) 16 = false ∧ s1.rekeyOk (some 0) 16 = true ∧ s1.sweepOf 16 = none) :=
  ⟨hostTurn _ _ rfl rfl rfl, by decide +kernel⟩
theorem witness_RekeySnapshotRecipeJoin_snapshot : HostTurn (hostIn base .snapshot) q1 .snapshot (ent .snapshot) 0 cx ∧ (base.net 0).running = none := ⟨turn _, rfl⟩

/-- Two words: write the working copy from the gradient, and END. -/
def recipeBytes : Bytes := [2, 0, 0, 0] ++ zeros 60 ++ leBytes 4 (mkUw 0x20 0 12 0 0) ++ leBytes 4 (mkUw 0x3F 0 0 0 0)
def recipe0 : Recipe := ⟨0, 0, 0, 0, [mkUw 0x20 0 12 0 0, mkUw 0x3F 0 0 0 0]⟩
def recA : RecipeArgs := ⟨4, 3, 0⟩
def holding (bs : Bytes) : State := { base with objs := [(3, ob 1 0 [pg 1 .valid])], hbm := Mem.writes [] (7 * 65536) bs }
theorem witness_RekeySnapshotRecipeJoin_recipe :
    (let s := hostIn (holding recipeBytes) (.recipeLoad recA)
     let s1 := s.started q1 0
     HostTurn s q1 (.recipeLoad recA) (ent (.recipeLoad recA)) 0 cx ∧ (s1.ownObj 0 0 3).isSome = true ∧ s1.recipeUsed 0 4 = false ∧
       readRecipe (s1.objRead 3 0 512) = some recipe0 ∧ (ob 1 0 [pg 1 .valid]).readVerdict 0 512 = .ok ∧ s1.keyServes 3 = true ∧ s1.rangeBad 3 0 512 = 0) :=
  ⟨hostTurn _ _ rfl rfl rfl, by decide +kernel⟩
/-- What `readable` asks is met by a range of an object that reads OK. -/
theorem readable_of (s : State) (k off len : Nat) (o : Obj) (h1 : s.objs.get k = some o) (h2 : off + len ≤ o.bytes) (h3 : s.keyServes k = true)
    (h4 : o.readVerdict off len = .ok) (h5 : s.rangeBad k off len = 0) : s.readable k off len :=
  ⟨o, h1, h2, h3, by simp [h4], h5⟩

/-- A group of two members on this device: member 0 in partition 0, member 1 in partition 1, both at position 5. -/
def grpEntry : Bytes := [9, 2, 0, 0xFF, 0, 0, 0, 0, 1, 0, 0, 0, 100] ++ zeros 51 ++ [5, 0] ++ zeros 30 ++ [5, 1] ++ zeros 30
def grp0 : Group := { Group.reset with st := .joining, entry := grpEntry, gen := 1 }
def inGroup (g : Group) : State := { base with groups := [(9, g)], rig := { Rig.reset with pos := some 5, placed := some 5 } }
def joinA : JoinArgs := ⟨9, 0, 1, 77, BitVec.ofNat 128 (fieldLE (sha384 grpEntry) 0 16)⟩
theorem witness_RekeySnapshotRecipeJoin_join :
    (let s := hostIn (inGroup grp0) (.groupJoin joinA)
     let s1 := s.started q1 0
     HostTurn s q1 (.groupJoin joinA) (ent (.groupJoin joinA)) 0 cx ∧
       (match s1.tryJoin 0 joinA.group.toNat joinA.member.toNat joinA.generation.toNat joinA.owner.toNat (leBytes 16 joinA.digest.toNat) with
        | .ok _ => true
        | _ => false) = true) :=
  ⟨hostTurn _ _ rfl rfl rfl, by decide +kernel⟩

/-- A set record, one descriptor of one row of 16 parameters in binary32, and a hyperparameter block, all in object 3; the tensor in object 4. -/
def setBytes : Bytes :=
  [0, 0, 0xFF, 0xFF, 1, 0, 0, 0] ++ leBytes 4 0x3F800000 ++ zeros 4 ++ leBytes 4 0x3F800000 ++ leBytes 4 0x3F800000 ++ leBytes 4 0x3F800000 ++ zeros 4 ++
    leBytes 4 3 ++ leBytes 4 3 ++ leBytes 8 64 ++ leBytes 8 128 ++ leBytes 4 3 ++ leBytes 4 192 ++
    ([4, 0, 0, 0] ++ leBytes 4 4 ++ leBytes 4 1 ++ leBytes 4 16 ++ leBytes 8 0 ++ leBytes 8 0 ++ leBytes 8 64 ++ zeros 24)
def tensorPg : Pte := mkPte (mkCtl 1 0 0 .zero false true) 8 (mkHandle 4 0)
def setBase : State :=
  { holding setBytes with objs := [(3, ob 1 0 [pg 1 .valid]), (4, { ob 1 0 [tensorPg, tensorPg] with trainable := true, paired := true })], recipes := [(4, recipe0)] }
def setA : SetArgs := ⟨15, 3, 0⟩
theorem witness_UpdateSetCommands_create :
    (let s := hostIn setBase (.updateSetCreate setA)
     let s1 := s.started q1 0
     let b := s1.objRead 3 0 64
     HostTurn s q1 (.updateSetCreate setA) (ent (.updateSetCreate setA)) 0 cx ∧ (s1.ownObj 0 0 3).isSome = true ∧ b = setBytes.take 64 ∧ u32At b 0x20 = 3 ∧ u32At b 0x24 = 3 ∧
       u32At b 0x38 = 3 ∧ fieldLE b 0x30 8 ≤ 65536 ∧ fieldLE b 0x3C 4 + 4 ≤ 65536 ∧
       govern (recordFails b ++ ((List.range (fieldLE b 4 2)).map (fun i => ((s1.objRead 3 (fieldLE b 0x28 8) (64 * fieldLE b 4 2)).drop (64 * i)).take 64)).flatMap
         (s1.descFails 0 0 0 (fieldLE b 0 1))) = none ∧ (15 : Nat) < 16 ∧ s1.usets.has (setKey 0 15) = false ∧ fieldLE b 2 2 = 0xFFFF ∧
       (ob 1 0 [pg 1 .valid]).readVerdict 0 128 = .ok ∧ s1.keyServes 3 = true ∧ s1.rangeBad 3 0 128 = 0) :=
  ⟨hostTurn _ _ rfl rfl rfl, by decide +kernel⟩

def uset0 (st : Nat) : USet :=
  ⟨0, 0, none, 0x3F800000, 0, 0x3F800000, 0x3F800000, 0, [readDesc ((setBytes.drop 64).take 64) 4], (3, 128), (3, 192), mkCommit 0 st false false false 0 false 0, ~~~(mkCommit 0 st false false false 0 false 0),
   0, 0, 0x3F800000, 0, none, none, 0, [], 0, [], [], [], [], [], [], false, 0, none, true, none, none, false, []⟩
theorem witness_UpdateSetCommands_destroy :
    (∀ u, HostTurn (hostIn { base with usets := [(setKey 0 15, u)] } (.updateSetDestroy 15)) q1 (.updateSetDestroy 15) (ent (.updateSetDestroy 15)) 0 cx) ∧
    (uset0 0).isOpen = false ∧ (uset0 1).isOpen = true ∧ (uset0 0).ctx = 0 := ⟨fun _ => hostTurn _ _ rfl rfl rfl, by decide +kernel⟩

/-! Admin queue commands. -/

theorem witness_AdminAndTables_contexts :
    (let a : CtxArgs := ⟨16, 0⟩
     let s1 := (adminIn base (.contextCreate a)).started q0 0
     AdminTurn (adminIn base (.contextCreate a)) q0 (.contextCreate a) (ent (.contextCreate a)) ∧ govern (s1.ctxCreateFails (some 0) a) = none ∧ (s1.newRing 0 (some 0) (32 * 2 ^ 16)).isSome = true ∧
       s1.ctxs.pickFree 1024 4000 = some 0) ∧
    (∀ c, AdminTurn (adminIn { base with ctxs := [(0, cx)] } (.contextDestroy c)) q0 (.contextDestroy c) (ent (.contextDestroy c))) ∧
    ((adminIn { base with ctxs := [(0, cx)] } (.contextDestroy 0)).started q0 0).adminCtx 0 0 = some cx ∧
    (∀ p, AdminTurn (adminIn base (.partitionAbort p)) q0 (.partitionAbort p) (ent (.partitionAbort p))) ∧ (15 : U8).toNat < 16 :=
  ⟨⟨adminTurn _ _ rfl rfl, by decide +kernel⟩, fun _ => adminTurn _ _ rfl rfl, by decide +kernel, fun _ => adminTurn _ _ rfl rfl, by decide⟩

/-- One context with one queue, and an admin command. -/
def adminQ (cmd : HostCmd) : State := { base with queues := [(0, qu none cmd), (65537, { qu (some 0) .snapshot with fetched := [] })], ctxs := [(0, cx)] }
theorem adminTurnQ (cmd : HostCmd) : AdminTurn (adminQ cmd) q0 cmd (ent cmd) := by
  have hk : qKey q0 = 0 := by decide
  exact ⟨rfl, qu none cmd, by simp [adminQ, Tbl.get, hk], rfl, rfl, rfl, compUp_all _ rfl _⟩
theorem witness_AdminAndTables_queues :
    (let a : QueueArgs := ⟨0, 6, 16⟩
     let s1 := (adminQ (.queueCreate a)).started q0 0
     AdminTurn (adminQ (.queueCreate a)) q0 (.queueCreate a) (ent (.queueCreate a)) ∧ s1.adminCtx 0 0 = some cx ∧ cx.st ≠ .draining ∧ (s1.ctxQueues 0).length < 64 ∧
       (s1.queues.filter (fun (y : Nat × Queue) => y.2.ctx.isSome)).length < 4096 ∧ (s1.newRing 1 (some 0) (128 * 2 ^ 6 + 32 * 2 ^ 16)).isSome = true) ∧
    (∀ a, AdminTurn (adminQ (.queueAbort a)) q0 (.queueAbort a) (ent (.queueAbort a)) ∧ AdminTurn (adminQ (.queueDestroy a)) q0 (.queueDestroy a) (ent (.queueDestroy a))) ∧
    ((adminQ (.queueAbort ⟨0, 1⟩)).started q0 0).namedQueue 0 ⟨0, 1⟩ = some (65537, cx) :=
  ⟨⟨adminTurnQ _, by decide +kernel⟩, fun _ => ⟨adminTurnQ _, adminTurnQ _⟩, by decide +kernel⟩

/-- A table in an object of the operator. -/
def obOp (n : Nat) : Obj := { ob 1 0 (List.replicate n (pg 1 .valid)) with part := none, owner := none }
def tabled (cmd : HostCmd) (bs : Bytes) : State :=
  adminIn { base with
    objs := [(3, obOp 1)], hbm := Mem.writes [] (7 * 65536) bs, groups := [(9, grp0)],
    rig := { Rig.reset with troupe := zeros 8 ++ [1] ++ zeros 55 ++ [5, 6, 5, 1] ++ zeros 28 } } cmd
def tabA : TableArgs := ⟨3, 0⟩
theorem tableAt_of (s : State) (a : TableArgs) (k n : Nat) (o : Obj) (h1 : s.objOf a.handle = some (k, o)) (h2 : o.part = none) (h3 : a.off.toNat + n ≤ o.bytes)
    (h4 : o.readVerdict a.off.toNat n = .ok) (h5 : s.keyServes k = true) (h6 : s.rangeBad k a.off.toNat n = 0) : s.tableAt a k n :=
  ⟨⟨o, h1, h2, h3, by simp [h4]⟩, h5, h6⟩
theorem tabled_at (cmd : HostCmd) (bs : Bytes) (n : Nat) (h : n = tableBytes ∨ n = entryBytes) : ((tabled cmd bs).started q0 0).tableAt tabA 3 n := by
  rcases h with rfl | rfl <;> exact tableAt_of _ _ _ _ (obOp 1) rfl rfl (by decide) (by decide +kernel) rfl rfl

theorem witness_AdminAndTables_tables :
    (∀ cmd bs, AdminTurn (tabled cmd bs) q0 cmd (ent cmd)) ∧
    troupeOk (((tabled (.troupeSet tabA) []).started q0 0).objRead 3 0 tableBytes) = false ∧
    (let s1 := (tabled (.groupSet tabA) []).started q0 0
     let b := s1.objRead 3 0 entryBytes
     s1.entryOk b (s1.lastGen (fieldLE b 0 1)) = false) ∧
    (let s1 := (tabled (.groupClear tabA) grpEntry).started q0 0
     fieldLE (s1.objRead 3 0 entryBytes) 0 1 = 9 ∧ entryClean (s1.objRead 3 0 entryBytes) = true ∧ (s1.abortGroup 9 .other).groups.has 9 = true) ∧
    entryClean (((tabled (.groupClear tabA) (grpEntry.set 6 1)).started q0 0).objRead 3 0 entryBytes) = false :=
  ⟨fun cmd bs => adminTurn _ _ rfl rfl, by decide +kernel⟩

/-- A group entry that passes its checks: two members, at position 5 in partitions 0 and 1, each the root of its own tree. -/
def goodHead : Bytes := [9, 2, 0, 0xFF, 0, 0, 0, 0, 2, 0, 0, 0, 100] ++ zeros 51 ++ [5, 0] ++ zeros 30 ++ [5, 1] ++ zeros 30
def goodTrees : Bytes := [0xFF, 0] ++ zeros 62 ++ [1, 0xFF]
def goodEntry : Bytes := goodHead ++ zeros (0x840 - 128) ++ goodTrees ++ zeros (entryBytes - 0x840 - 66)
theorem goodHead_length : goodHead.length = 128 := by decide +kernel
theorem goodTrees_length : goodTrees.length = 66 := by decide +kernel
/-- Bytes 128 to 0x83F and those past the trees are zero. -/
theorem good_mid (off n : Nat) (h1 : 128 ≤ off) (h2 : off + n ≤ 0x840) : fieldLE goodEntry off n = 0 := by
  have hl : (goodHead ++ zeros (0x840 - 128)).length = 0x840 := by simp [goodHead_length, zeros]
  rw [goodEntry, List.append_assoc, fieldLE_left _ _ _ _ (by rw [hl]; exact h2), fieldLE_right _ _ _ _ (by rw [goodHead_length]; exact h1), fieldLE_zeros]
theorem good_tree (t m : Nat) : geParent goodEntry t m = if 64 * t + m < 66 then fieldLE goodTrees (64 * t + m) 1 else 0 := by
  have hl : (goodHead ++ zeros (0x840 - 128)).length = 0x840 := by simp [goodHead_length, zeros]
  rw [geParent, goodEntry, List.append_assoc, fieldLE_right _ _ _ _ (by rw [hl]; omega), hl]
  have h0 : 0x840 + 64 * t + m - 0x840 = 64 * t + m := by omega
  rw [h0]
  split
  · rw [fieldLE_left _ _ _ _ (by rw [goodTrees_length]; omega)]
  · rw [fieldLE_right _ _ _ _ (by rw [goodTrees_length]; omega), fieldLE_zeros]
theorem good_trees : treesOk goodEntry = true := by
  have hn : geCount goodEntry = 2 := by decide +kernel
  have hr : ∀ t, geRoot goodEntry t = t := by
    intro t
    have h : geIsCommons goodEntry = false := by decide +kernel
    simp [geRoot, h]
  have h00 : geParent goodEntry 0 0 = 0xFF := by rw [good_tree]; decide +kernel
  have h01 : geParent goodEntry 0 1 = 0 := by rw [good_tree]; decide +kernel
  have h10 : geParent goodEntry 1 0 = 1 := by rw [good_tree]; decide +kernel
  have h11 : geParent goodEntry 1 1 = 0xFF := by rw [good_tree]; decide +kernel
  have hz : ∀ t m, t < 64 → m < 64 → ¬(t < 2 ∧ m < 2) → geParent goodEntry t m = 0 := by
    have hd : ∀ i, i < 66 → i ≠ 0 → i ≠ 64 → i ≠ 65 → fieldLE goodTrees i 1 = 0 := by decide +kernel
    intro t m ht hm h
    rw [good_tree]
    split
    · exact hd _ ‹_› (by omega) (by omega) (by omega)
    · rfl
  simp only [treesOk, List.all_eq_true, List.mem_range, hn]
  intro t ht m hm
  by_cases h : t < 2 ∧ m < 2
  · have h1 : t = 0 ∨ t = 1 := by omega
    have h2 : m = 0 ∨ m = 1 := by omega
    rcases h1 with rfl | rfl <;> rcases h2 with rfl | rfl <;> simp [treeReaches, h00, h01, h10, h11, hr, hn]
  · rw [if_neg (by simpa using h), hz t m ht hm h]; rfl
theorem good_entry : ((tabled (.groupSet tabA) goodEntry).started q0 0).entryOk goodEntry (some 1) = true := by
  have hn : geCount goodEntry = 2 := by decide +kernel
  have hres : (List.range 64).all (fun m => reservedZero goodEntry (0x50 + 32 * m) 16 && (m < geCount goodEntry || reservedZero goodEntry (0x40 + 32 * m) 2)) = true := by
    have h0 : fieldLE goodEntry 0x50 16 = 0 := by decide +kernel
    have h1 : fieldLE goodEntry 0x70 16 = 0 := by decide +kernel
    simp only [List.all_eq_true, List.mem_range, hn]
    intro m hm
    rcases Nat.lt_or_ge m 2 with h | h
    · have h2 : m = 0 ∨ m = 1 := by omega
      rcases h2 with rfl | rfl <;> simp [reservedZero, h0, h1]
    · simp [reservedZero, good_mid (0x50 + 32 * m) 16 (by omega) (by omega), good_mid (0x40 + 32 * m) 2 (by omega) (by omega)]
  have hcl : (List.range 64).all (fun m => reservedZero goodEntry (0x42 + 32 * m) 14) = true := by
    have h0 : fieldLE goodEntry 0x42 14 = 0 := by decide +kernel
    have h1 : fieldLE goodEntry 0x62 14 = 0 := by decide +kernel
    simp only [List.all_eq_true, List.mem_range]
    intro m hm
    rcases Nat.lt_or_ge m 2 with h | h
    · have h2 : m = 0 ∨ m = 1 := by omega
      rcases h2 with rfl | rfl <;> simp [reservedZero, h0, h1]
    · simp [reservedZero, good_mid (0x42 + 32 * m) 14 (by omega) (by omega)]
  have hclean : entryClean goodEntry = true := by
    unfold entryClean
    rw [hcl]
    decide +kernel
  unfold State.entryOk
  dsimp only
  rw [good_trees, hres, hclean]
  decide +kernel

theorem tabled_read (cmd : HostCmd) (bs : Bytes) (n : Nat) (h : bs.length = n) (hn : cutPages 0 n = [(0, n)]) : ((tabled cmd bs).started q0 0).objRead 3 0 n = bs := by
  subst h
  have ho : ((tabled cmd bs).started q0 0).objs.get 3 = some (obOp 1) := rfl
  have hp : (obOp 1).pte ((obOp 1).phys (0 / pageBytes)) = pg 1 .valid := by decide +kernel
  have h0 : (pg 1 .valid).st = .valid ∧ (pg 1 .valid).tier = 1 ∧ (pg 1 .valid).frameNo * pageBytes + 0 % pageBytes = 7 * 65536 := by decide +kernel
  have hm : ((tabled cmd bs).started q0 0).hbm = Mem.writes [] (7 * 65536) bs := rfl
  simp only [State.objRead, ho, hn, List.flatMap_cons, List.flatMap_nil, List.append_nil, hp, State.pageRead, h0.1, h0.2.1, h0.2.2, hm]
  simpa using reads_writes [] (7 * 65536) 0 [] bs [] rfl rfl
theorem witness_AdminAndTables_group :
    (let s1 := (tabled (.groupSet tabA) goodEntry).started q0 0
     let b := s1.objRead 3 0 entryBytes
     b = goodEntry ∧ s1.lastGen (fieldLE b 0 1) = some 1 ∧ s1.entryOk b (s1.lastGen (fieldLE b 0 1)) = true) := by
  have hr : ((tabled (.groupSet tabA) goodEntry).started q0 0).objRead 3 0 entryBytes = goodEntry :=
    tabled_read _ _ _ (by simp [goodEntry, goodHead_length, goodTrees_length, zeros, entryBytes]) (by decide +kernel)
  have hg : ((tabled (.groupSet tabA) goodEntry).started q0 0).lastGen (fieldLE goodEntry 0 1) = some 1 := by
    have h9 : fieldLE goodEntry 0 1 = 9 := by decide +kernel
    rw [h9]; rfl
  dsimp only
  rw [hr, hg]
  refine ⟨rfl, rfl, ?_⟩
  exact good_entry

/-! A troupe table that passes its checks. -/

/-- Sixteen members in eight pairs, each pair joined by ports 0 and 1; member 0, the head, is wired to the first member of every other pair. -/
def trPorts (p : Nat) : List Nat :=
  let q := if p % 2 = 0 then p + 1 else p - 1
  if p = 0 then [q, q, 2, 4, 6, 8, 10, 12, 14] else if p % 2 = 0 then [q, q, 0] else [q, q]
def trEnt (p : Nat) : Bytes :=
  leBytes 1 p ++ leBytes 1 (if p % 2 = 0 then p + 1 else p - 1) ++ leBytes 1 0 ++ leBytes 1 (if p = 0 then 1 else 0) ++ (trPorts p).map (BitVec.ofNat 8) ++ List.replicate (12 - (trPorts p).length) 0xFF ++ zeros 16
/-- The port by which flits for `d` leave `a`. -/
def trPort (a d : Nat) : Nat :=
  if a = d then 15 else if a % 2 = 1 then 0 else if d = a + 1 then 0 else if a = 0 then d / 2 + 1 else 2
def trRoute (a d : Nat) : Bytes := leBytes 2 (2 ^ 15 + trPort a d * 2 ^ 11 + 15 * 2 ^ 7)
def trFront : Bytes := zeros 8 ++ [16] ++ zeros 55 ++ (List.range 16).flatMap trEnt ++ zeros (2048 - 16 * 32)
def trRows : Bytes := (List.range 16).flatMap (fun a => (List.range 16).flatMap (trRoute a) ++ zeros 96)
def trTable : Bytes := trFront ++ (trRows ++ zeros (48 * 128))
def trVal (a d : Nat) : Nat := 2 ^ 15 + trPort a d * 2 ^ 11 + 15 * 2 ^ 7
def trNext (a d : Nat) : Nat := (trPorts a).getD (trPort a d) 0xFF
def trHops (d : Nat) : (fuel a : Nat) → Option Nat
  | 0, _ => none
  | k + 1, a => if a = d then some 0 else (trHops d k (trNext a d)).map (fun n => n + 1)
def trOuts (a d : Nat) : List (Nat × Nat) := if a = d then [] else [(a, trPort a d)]

def trRow (a : Nat) : Bytes := (List.range 16).flatMap (trRoute a) ++ zeros 96
theorem row_field (f : Nat → Bytes) (hf : ∀ x, (f x).length = 128) (off n : Nat) (h : off + n ≤ 128) : ∀ (l : List Nat) (a : Nat) (x : Nat), l[a]? = some x → fieldLE (l.flatMap f) (128 * a + off) n = fieldLE (f x) off n := by
  intro l
  induction l with
  | nil => intro a x h; simp at h
  | cons y r ih =>
    intro a x hx
    cases a with
    | zero =>
      have h2 : y = x := by simpa using hx
      subst h2
      rw [List.flatMap_cons, Nat.mul_zero, Nat.zero_add, fieldLE_left _ _ _ _ (by rw [hf]; exact h)]
    | succ a =>
      rw [List.flatMap_cons, fieldLE_right _ _ _ _ (by rw [hf]; omega), hf, ← ih a x (by simpa using hx)]
      congr 1
      omega
theorem tr_routes (a d : Nat) (ha : a < 16) (hd : d < 16) : tbRoute trTable a d = trVal a d := by
  have h1 : trFront.length = 2112 := by decide +kernel
  have h2 : ∀ x, (trRow x).length = 128 := by intro x; simp [trRow, List.length_flatMap, trRoute, leBytes_length, zeros] <;> rfl
  have h3 : ∀ a < 16, ∀ d < 16, fieldLE (trRow a) (2 * d) 2 = trVal a d := by decide +kernel
  have h4 : trRows.length = 2048 := by decide +kernel
  rw [tbRoute, trTable, fieldLE_right _ _ _ _ (by rw [h1]; omega), h1, fieldLE_left _ _ _ _ (by rw [h4]; omega)]
  have h5 : 64 + 2048 + 128 * a + 2 * d - 2112 = 128 * a + 2 * d := by omega
  rw [h5, ← h3 a ha d hd]
  exact row_field trRow h2 (2 * d) 2 (by omega) (List.range 16) a a (by simp [ha])
theorem tr_used : (tbUsed trTable).map tbPos = List.range 16 := by decide +kernel
theorem tr_wires : ∀ a < 16, ∀ d < 16, a ≠ d → tbWire trTable a (trPort a d) = trNext a d ∧ trNext a d < 16 ∧ (tbAt trTable (trNext a d)).isSome = true := by decide +kernel
theorem tr_vals : ∀ a < 16, ∀ d < 16, rtPrimary (trVal a d) = trPort a d ∧ rtAlternate (trVal a d) = 15 ∧ trVal a d % 128 = 0 ∧ rtValid (trVal a d) = true ∧ (a ≠ d → trPort a d < 12) := by decide +kernel
theorem tr_tableRoutes : tableRoutes trTable = true := by
  simp only [tableRoutes, tr_used, List.all_eq_true, List.mem_range]
  intro a ha d hd
  obtain ⟨h1, h2, h3, h4, h5⟩ := tr_vals a ha d hd
  rw [tr_routes a d ha hd, h1, h2, h3, h4]
  by_cases h : a = d
  · simp [h, trPort]
  · simp [h, h5 h]
theorem tr_hops (d : Nat) (hd : d < 16) : ∀ k a, a < 16 → tbHops trTable d k a = trHops d k a := by
  intro k
  induction k with
  | zero => intro a _; rfl
  | succ k ih =>
    intro a ha
    by_cases h : a = d
    · simp [tbHops, trHops, h]
    · obtain ⟨h1, h2, h3⟩ := tr_wires a ha d hd h
      have h4 : rtPrimary (tbRoute trTable a d) = trPort a d := by rw [tr_routes a d ha hd]; exact (tr_vals a ha d hd).1
      rw [tbHops, trHops, if_neg h, if_neg h]
      simp only [h4, h1]
      rw [if_neg (by intro h5; rw [Option.isNone_iff_eq_none] at h5; rw [h5] at h3; cases h3), ih _ h2]
theorem tr_reach : tableReach trTable = true := by
  have h : ∀ a < 16, ∀ d < 16, (trHops d 65 a).isSome = true := by decide +kernel
  simp only [tableReach, tr_used, List.all_eq_true, List.mem_range]
  intro a ha d hd
  rw [tr_hops d hd 65 a ha]
  exact h a ha d hd
theorem tr_depth : tableDepth trTable = true := by
  have h : ∀ a < 16, (match trHops 0 65 a with | some n => decide (n ≤ 4) | none => false) = true := by decide +kernel
  have h0 : (List.range 16).foldl min 255 = 0 := by decide +kernel
  simp only [tableDepth, tr_used, h0, List.all_eq_true, List.mem_range]
  intro a ha
  rw [tr_hops 0 (by omega) 65 a ha]
  exact h a ha
theorem tr_outs (a d : Nat) (ha : a < 16) (hd : d < 16) : tbOuts trTable a d = trOuts a d := by
  by_cases h : a = d
  · simp [tbOuts, trOuts, h]
  · obtain ⟨h1, h2, _, _, h5⟩ := tr_vals a ha d hd
    simp [tbOuts, trOuts, h, tr_routes a d ha hd, h1, h2, h5 h]
theorem flatMap_same {α β : Type} (l : List α) (f g : α → List β) (h : ∀ x ∈ l, f x = g x) : l.flatMap f = l.flatMap g := by
  induction l with
  | nil => rfl
  | cons a r ih => simp [h a (by simp), ih (fun x hx => h x (by simp [hx]))]
theorem deps_of (b : Bytes) (outs : Nat → Nat → List (Nat × Nat)) (next : Nat → Nat → Nat) (h0 : (tbUsed b).map tbPos = List.range 16) (h1 : ∀ a < 16, ∀ d < 16, tbOuts b a d = outs a d)
    (h2 : ∀ a < 16, ∀ d < 16, ∀ c ∈ outs a d, tbWire b c.1 c.2 = next a d ∧ next a d < 16) :
    tbDeps b = ((List.range 16).flatMap (fun d => (List.range 16).flatMap (fun a => (outs a d).flatMap (fun c => (outs (next a d) d).map (fun e => (c, e)))))).eraseDups := by
  simp only [tbDeps, h0]
  refine congrArg List.eraseDups ?_
  refine flatMap_same _ _ _ (fun d hd => flatMap_same _ _ _ (fun a ha => ?_))
  have hd : d < 16 := List.mem_range.1 hd
  have ha : a < 16 := List.mem_range.1 ha
  rw [h1 a ha d hd]
  refine flatMap_same _ _ _ (fun c hc => ?_)
  obtain ⟨h3, h4⟩ := h2 a ha d hd c hc
  rw [h3, h1 _ h4 d hd]
theorem tr_acyclic : acyclic 769 (tbDeps trTable) = true := by
  rw [deps_of trTable trOuts trNext tr_used (fun a ha d hd => tr_outs a d ha hd)]
  · decide +kernel
  · intro a ha d hd c hc
    by_cases h : a = d
    · simp [trOuts, h] at hc
    · obtain ⟨h1, h2, _⟩ := tr_wires a ha d hd h
      have h3 : c = (a, trPort a d) := by simpa [trOuts, h] using hc
      subst h3
      exact ⟨h1, h2⟩
theorem tr_ok : troupeOk trTable = true := by
  have h1 : tableCounts trTable = true := by decide +kernel
  have h2 : tableWires trTable = true := by decide +kernel
  simp [troupeOk, h1, h2, tr_tableRoutes, tr_reach, tr_acyclic, tr_depth]
theorem tr_length : trTable.length = tableBytes := by decide +kernel
theorem witness_AdminAndTables_troupe : troupeOk (((tabled (.troupeSet tabA) trTable).started q0 0).objRead 3 0 tableBytes) = true := by
  rw [tabled_read (.troupeSet tabA) trTable tableBytes tr_length (by decide +kernel)]
  exact tr_ok

/-! RUNs. -/

/-- The container has been read for a LOAD_IMAGE into slot 0. -/
def loadA : LoadArgs := ⟨3, 0, 0⟩
def loadW : Work := ⟨some 65537, 2, some 0, some 0, .loadImage loadA 0, [⟨0, 128, 0⟩, ⟨128, 512, 0⟩], [], [], none, 0, 1, [(0, header0 (body0 [])), (1, body0 [])]⟩
def loading0 : State := { withSlot (imgBase ctr0) (slot0 .loading none) with works := [(6, loadW)] }
theorem loadW_bytes : loadW.bytes = header0 (body0 []) ++ body0 [] := by
  change header0 (body0 []) ++ (body0 [] ++ []) = _
  rw [List.append_nil]
theorem header0_length : (header0 (body0 [])).length = 128 := by simp [header0, headerOf, sha384_length, leBytes_length, zeros]
theorem witness_RunsStartAndEnd_load :
    loading0.loadWork 0 0 = some (6, loadW) ∧ (readImage (body0 [])).tiles.any loading0.tileCut = false ∧ loading0.workBusy 6 = false ∧
    (let hdr := loadW.bytes.take 128
     let raw := loadW.bytes.drop 128
     loadFails loading0 0 hdr raw loading0.failedTiles = none ∧
       (loading0.keepBody 0 0 (plainBody (loading0.key (hdrKeySlot hdr)).key hdr raw)).isSome = true) := by
  refine ⟨rfl, by decide +kernel, rfl, ?_⟩
  dsimp only
  rw [loadW_bytes, List.take_left' header0_length, List.drop_left' header0_length]
  refine ⟨load_passes _ rfl, ?_⟩
  rw [plain0]
  have hr : ¬ loading0.hbmRoom 0 < ceilDiv 512 pageBytes := by decide +kernel
  simp [State.keepBody, body_length [] (by simp), hr]
  decide +kernel

def run0 (st : RunSt) : Run := ⟨65537, 0, 0, 0, 0, 5, false, 1, [], st, none, [0, 1], 0, 0, 50, 60, [], [], [], [], [], 0, [], [], none, none, 0, 0, [], []⟩
/-- A RUN of an image in slot 0 on tiles 0 and 1. -/
def runState (im : Image) (r : Run) : State :=
  { withSlot base (slot0 .loaded (some im)) with ctxs := [(0, cx)], runs := [(4, r)], pwr := { Pwr.reset with doms := [(0, ⟨true, none, 0⟩)] } }
theorem witness_RunsStartAndEnd_start :
    (let im := im0 [endWord]
     let r := run0 .queued
     let s := runState im r
     s.runs.get 4 = some r ∧ s.imgSlot 0 0 = some (slot0 .loaded (some im)) ∧ s.ctxs.get 0 = some cx ∧ s.dev.fault = none ∧ s.partRails 0 = true ∧ s.runBlocked 4 r im = false ∧
       s.allAwake (s.runDomains im r.args) = true ∧ s.pwr.holdSince = none ∧ r.heldForGroup = none ∧ (s.net 0).waitGroups = false ∧
       govern (s.runFails 0 50 0 ⟨0, false, 1, []⟩ ++ failIf (s.llcBytes 0 < im.stores) .bounds ++ s.groupFails 0 im) = none ∧ (s.part 0).led.armed = false) := by decide +kernel

/-- A tile of the RUN at its first word. -/
def tile0 : Sys2Proof.Machine.Tile := { Sys2Proof.Machine.Tile.reset with run := some 4 }
theorem witness_RunsStartAndEnd_complete :
    (let s := { runState (im0 [endWord]) (run0 .running) with tiles := [(0, { tile0 with ended := true }), (1, { tile0 with ended := true })] }
     s.runs.get 4 = some (run0 .running) ∧ s.runOver 4 (run0 .running) = true ∧ (∀ t ∈ (run0 .running).tiles, (s.tile t).tkt.voids = []) ∧ (run0 .running).closeSt = none) := by decide +kernel
/-- At the nanosecond at which the millisecond is full. -/
theorem witness_RunsStartAndEnd_watchdog :
    (let s := { runState (im0 [endWord]) (run0 .running) with ts := 1000060 }
     s.runs.get 4 = some (run0 .running) ∧ s.pwr.trip = false ∧ (run0 .running).lastMove + 1000000 ≤ s.ts ∧ s.runWaits 4 (run0 .running) = false) := by decide +kernel
/-- A RUN whose image exchanges in group 9, which is not ACTIVE, held since TS 40 for the 100 us of the entry's wait_limit. -/
theorem witness_RunsStartAndEnd_group :
    (let im := im0 [0xA000000900000000, 0, endWord]
     let r := { run0 .queued with heldForGroup := some 40 }
     let s := { runState im r with groups := [(9, grp0)], ts := 40 + 100000 }
     s.runs.get 4 = some r ∧ s.runImage r = some im ∧ 9 ∈ s.imageGroups 0 im ∧ s.groupReady 0 9 = false ∧ 40 + 1000 * geWait (s.group 9).entry ≤ s.ts) := by decide +kernel

/-! ### Instructions -/

/-- A RUN is under way and an instruction word stands first on tile 0. -/
def atWord (ws : List Nat) : State := { runState (im0 (ws ++ [endWord])) (run0 .running) with tiles := [(0, tile0)] }
def site0 (ws : List Nat) : Site := ⟨4, run0 .running, im0 (ws ++ [endWord]), 0, 0, 0⟩
theorem tileTurn (w : Nat) (ws : List Nat) : TileTurn (atWord (w :: ws)) 0 w (site0 (w :: ws)) := ⟨⟨rfl, rfl, rfl, rfl, rfl, rfl⟩, rfl⟩

/-! The vector unit. -/

def vx0 : Vx := ⟨0, 0, 0, 0, false, 0, 0, 1, 2, 3, 4, 0⟩
/-- A vector instruction of any opcode may stand first on tile 0 of a RUN, with no trip in force. -/
theorem vxTurn (op : Nat) (w : Vx) : TileTurn (atWord [vxWord op w]) 0 (vxWord op w) (site0 [vxWord op w]) ∧ (atWord [vxWord op w]).pwr.trip = false := ⟨tileTurn _ _, rfl⟩

theorem witness_VectorArithmeticAndCompares (x : Site) (t : Sys2Proof.Machine.Tile) :
    (∀ n fn, ∃ tl fl, vxArith n fn vx0 x t = .ok tl fl) ∧ (∀ n fn, ∃ tl fl, vxBits n fn vx0 x t = .ok tl fl) ∧ (∀ c, ∃ tl fl, vxCmp c vx0 x t = .ok tl fl) ∧
      (∀ fn, ∃ tl fl, vxGuard fn vx0 x t = .ok tl fl) ∧ ∃ tl fl, vxSel vx0 x t = .ok tl fl :=
  ⟨fun _ _ => ⟨_, _, rfl⟩, fun _ _ => ⟨_, _, rfl⟩, fun _ => ⟨_, _, rfl⟩, fun _ => ⟨_, _, rfl⟩, _, _, rfl⟩
theorem witness_VectorFunctionsAndMoves (x : Site) (t : Sys2Proof.Machine.Tile) :
    (∀ fn, ∃ tl fl, vxTrans fn vx0 x t = .ok tl fl) ∧ (∃ tl fl, vxCvt { vx0 with sfmt := 1 } x t = .ok tl fl) ∧ (∀ hi, ∃ tl fl, vxHalf hi vx0 x t = .ok tl fl) ∧
      (∀ g fn d, ∃ tl fl, vxReduce g fn d vx0 x t = .ok tl fl) ∧ (∃ tl fl, vxRand vx0 x t = .ok tl fl) ∧ (∀ fn, ∃ tl fl, vxRaw fn vx0 x t = .ok tl fl) ∧
      (∃ tl fl, vxRot vx0 x t = .ok tl fl) ∧ tile0.mxu = none :=
  ⟨fun _ => ⟨_, _, rfl⟩, ⟨_, _, rfl⟩, fun _ => ⟨_, _, rfl⟩, fun _ _ _ => ⟨_, _, rfl⟩, ⟨_, _, rfl⟩, fun _ => ⟨_, _, rfl⟩, ⟨_, _, rfl⟩, rfl⟩
/-- The last 1,024 bytes of tile memory, and a residual region of a stage that holds the same range. -/
def resImage : Image := { im0 [endWord] with stages := [⟨2, 1, 0, 255, 0, 8, 0, 1024, 0⟩, ⟨2, 1, 1, 255, 64, 8, 0, 0, 0⟩] }
def vxM : Vx := { vx0 with va := 0, vb := 0, vc := 0 }
def resSite : Site := { site0 [] with im := resImage }
theorem witness_VectorMemory :
    (site0 []).memOk (2 ^ 21 - 1024) 1024 = true ∧ (site0 []).memOk (2 ^ 21 - 1023) 1024 = false ∧ resSite.resOk 0 1024 = true ∧ resSite.memOk 0 1024 = false ∧
    (∃ tl, vxStore Site.memOk vxM (site0 []) tile0 = .ok tl 0) ∧ (∃ tl, vxStore Site.resOk vxM resSite tile0 = .ok tl 0) ∧ (∃ tl fl, vxRadd vxM resSite tile0 = .ok tl fl) :=
  ⟨by decide +kernel, by decide +kernel, by decide +kernel, by decide +kernel, ⟨_, rfl⟩, by unfold vxStore; dsimp only; rw [if_neg (by decide +kernel)]; exact ⟨_, rfl⟩, by unfold vxRadd; dsimp only; rw [if_neg (by decide +kernel)]; exact ⟨_, _, rfl⟩⟩
theorem witness_VectorMemoryFrame : tile0.mem.wf = true ∧ (tile0.vreg 1).length = 256 ∧ (∃ tl, vxStore Site.memOk vxM (site0 []) tile0 = .ok tl 0) ∧
    ∃ tl, vxLoad Site.memOk vxM (site0 []) tile0 = .ok tl 0 := ⟨rfl, by decide +kernel, ⟨_, rfl⟩, _, rfl⟩
theorem witness_GuardedWrites : (List.replicate 512 0).length = elemCount 16 ∧ (List.replicate 256 0).length = elemCount 32 ∧ (List.replicate 256 0).length = elemCount 64 ∧
    (tile0.vreg 62).length = 256 ∧ (tile0.vreg 63).length = 256 := by decide +kernel

/-! Streams, control, the memory port. -/

def zBeat : Beat := ⟨zeros 64, 0, 0, false, false, false, false, 0, none⟩
/-- Stage 0 sends to stage 1 on its port 0 and receives from it on its port 1; tensor 0 has four rows of 64 elements in binary16 in argument slot 0. -/
def tensor0 : TensorD := ⟨1, 0, 0, 255, 255, 0, 0, 0, 0, 4, 64, 0, 0, 0⟩
def imS (ws : List Nat) : Image :=
  { im0 (ws ++ [endWord]) with
    streams := [⟨0, 1, 1, 1, false, false, false, 0, 0, 64, 1, 0, 0, 128⟩, ⟨1, 0, 1, 1, false, false, false, 0, 1, 64, 1, 1, 65536, 128⟩],
    routes := [⟨0, 1, 255, [1, 5], 1⟩, ⟨1, 0, 255, [0, 5], 1⟩], tensors := [tensor0], args := [⟨2, 1, 0⟩] }
def runS (n : Nat) : Run := { run0 .running with args := [3], lanes := [(64, ⟨0, [], [], List.replicate n zBeat, 0, 0⟩)] }
/-- Words on tile 0 with `n` beats in the receive buffer of its in port 1. -/
def atS (ws : List Nat) (n : Nat) (tl : Sys2Proof.Machine.Tile) : State := { runState (imS ws) (runS n) with tiles := [(0, tl)], objs := [(3, ob 1 0 [pg 1 .valid])] }
def siteS (ws : List Nat) (n : Nat) : Site := ⟨4, runS n, imS ws, 0, 0, 0⟩
theorem tileHereS (w : Nat) (ws : List Nat) (n : Nat) (tl : Sys2Proof.Machine.Tile) (h1 : tl.run = some 4) (h2 : tl.ended = false) (h3 : tl.wait = none) (h4 : tl.pos = 0)
    (h5 : tl.patch0 = []) (h6 : tl.cur1 = false) (h7 : tl.sent = [] := by rfl) : TileHere (atS (w :: ws) n tl) 0 w (siteS (w :: ws) n) := by
  have ht : (atS (w :: ws) n tl).tile 0 = tl := rfl
  refine ⟨?_, rfl, by rw [ht, h2], by rw [ht, h3], by rw [ht]; simp [Site.slotFree, h7], by rw [ht, h4]; rfl⟩
  unfold State.site
  rw [ht, h1]
  simp only [h6, h5]
  rfl
theorem tileTurnS (w : Nat) (ws : List Nat) (n : Nat) (tl : Sys2Proof.Machine.Tile) (h1 : tl.run = some 4) (h2 : tl.ended = false) (h3 : tl.wait = none) (h4 : tl.pos = 0)
    (h5 : tl.patch0 = []) (h6 : tl.cur1 = false) (h7 : tl.sent = [] := by rfl) (h8 : tl.upsets = [] := by rfl) : TileTurn (atS (w :: ws) n tl) 0 w (siteS (w :: ws) n) :=
  ⟨tileHereS w ws n tl h1 h2 h3 h4 h5 h6 h7, h8⟩

def vxIn : Vx := { vx0 with vb := 1 }
def vxOut : Vx := { vx0 with vb := 0 }
/-- The only in port of tile 0 has a stream of one route, so `n` beats have arrived exactly when its buffer holds them. -/
theorem arrivedS (ws : List Nat) (n m : Nat) (h : m ≤ n) : (siteS ws n).arrived 1 m := by
  refine ⟨1, ⟨1, 0, 1, 1, false, false, false, 0, 1, 64, 1, 1, 65536, 128⟩, rfl, fun j => ?_⟩
  have hk : ∀ i : Nat, (inRoute ⟨1, 0, 1, 1, false, false, false, 0, 1, 64, 1, 1, 65536, 128⟩ ((siteS ws n).stageTiles 1) (siteS ws n).k i == j) = (0 == j) := fun _ => rfl
  by_cases hj : 0 = j
  · subst hj
    have hl : ((siteS ws n).run.lane (laneKey 1 0)).buf.length = n := by
      change (List.replicate n zBeat).length = n
      simp
    rw [hl]
    refine Nat.le_trans (Nat.mul_le_mul_right _ (List.length_filter_le _ _)) ?_
    simpa using h
  · have h0 : (0 == j) = false := by simp; omega
    rw [List.filter_eq_nil_iff.mpr (fun a _ => by rw [hk, h0]; decide)]
    simp
/-- The out port of tile 0 is free and its stream has no tickets. -/
theorem canSendS (ws : List Nat) (tl : Sys2Proof.Machine.Tile) (m : Nat) : (siteS ws 0).canSend tl 0 m :=
  ⟨0, ⟨0, 1, 1, 1, false, false, false, 0, 0, 64, 1, 0, 0, 128⟩, _, _, rfl, rfl, rfl, rfl, fun h => by cases h⟩
theorem witness_VectorStreamsAndTrip :
    (∀ op w n, TileTurn (atS [vxWord op w] n tile0) 0 (vxWord op w) (siteS [vxWord op w] n)) ∧ (siteS [vxWord 0x52 vxIn] 16).arrived 1 (streamBytes .f32 / 64) ∧
    (siteS [vxWord 0x54 { vxIn with fmt := 3 }] 4).arrived 1 (quantBytes .e4 / 64) ∧ (∀ w m, (siteS [w] 0).canSend tile0 0 m) ∧
    (atS [vxWord 0x52 vxIn] 15 tile0).readPort 0 1 (streamBytes .f32 / 64) (siteS [vxWord 0x52 vxIn] 15) = none ∧
    (atS [vxWord 0x54 { vxIn with fmt := 3 }] 3 tile0).readPort 0 1 (quantBytes .e4 / 64) (siteS [vxWord 0x54 { vxIn with fmt := 3 }] 3) = none ∧
    ({ base with pwr := { Pwr.reset with trip := true } } : State).pwr.trip = true :=
  ⟨fun op w n => tileTurnS _ _ _ _ rfl rfl rfl rfl rfl rfl, arrivedS _ _ _ (by decide +kernel), arrivedS _ _ _ (by decide +kernel), fun _ _ => canSendS _ _ _, by decide +kernel⟩
/-- A VSYNC beside an operation that drains to tile memory, and memory instructions whose tile memory has a parity error. -/
theorem witness_VectorMemory_parity :
    (let tl := { tile0 with upsets := [.mem 5] }
     TileHere (atS [vxWord 0x50 vxM] 0 tl) 0 (vxWord 0x50 vxM) (siteS [vxWord 0x50 vxM] 0) ∧ tl.parityOf (vxUses 0x50 vxM tl) = true) ∧
    (let tl := { tile0 with upsets := [.vec 1] }
     TileHere (atS [vxWord 0x51 vxM] 0 tl) 0 (vxWord 0x51 vxM) (siteS [vxWord 0x51 vxM] 0) ∧ tl.parityOf (vxUses 0x51 vxM tl) = true) :=
  ⟨⟨tileHereS _ _ _ _ rfl rfl rfl rfl rfl rfl, by decide +kernel⟩, tileHereS _ _ _ _ rfl rfl rfl rfl rfl rfl, by decide +kernel⟩

theorem witness_ControlInstructions (w : Nat) :
    TileTurn (atS [w] 0 tile0) 0 w (siteS [w] 0) ∧ TileTurn (atS [w] 0 { tile0 with loops := [(7, 2)] }) 0 w (siteS [w] 0) ∧ TileTurn (atS [w] 0 { tile0 with loops := [(7, 1)] }) 0 w (siteS [w] 0) :=
  ⟨tileTurnS _ _ _ _ rfl rfl rfl rfl rfl rfl, tileTurnS _ _ _ _ rfl rfl rfl rfl rfl rfl, tileTurnS _ _ _ _ rfl rfl rfl rfl rfl rfl⟩

/-- All four rows of the tensor, from row 0. -/
theorem witness_MemoryPortAndEnd_mrd :
    (let s := atS [wMem 0x88 0 0 4] 0 tile0
     let x := siteS [wMem 0x88 0 0 4] 0
     x.im.tensors[0]? = some tensor0 ∧ (s.tile 0).cursors.getD 0 0 + 4 ≤ tensor0.rows ∧ tensor0.elemSlot ≠ 255 ∧ tensor0.scaleSlot = 255 ∧
       (match s.tileReads 0 x [⟨0, 0, 4 * tensor0.rowElem⟩] with
        | .ok _ => true
        | .error _ => false) = true) := by decide +kernel
theorem tileReadyS (w : Nat) (ws : List Nat) (n : Nat) (a : After) (tl : Sys2Proof.Machine.Tile) (h1 : tl.run = some 4) (h2 : tl.ended = false) (h3 : tl.wait = some ⟨[], a, 0⟩) (h4 : tl.pos = 0)
    (h5 : tl.patch0 = []) (h6 : tl.cur1 = false) : TileReady (atS (w :: ws) n tl) 0 w (siteS (w :: ws) n) a := by
  have ht : (atS (w :: ws) n tl).tile 0 = tl := rfl
  refine ⟨?_, rfl, by rw [ht, h2], ⟨0, by rw [ht, h3]⟩, by rw [ht, h4]; rfl⟩
  unfold State.site
  rw [ht, h1]
  simp only [h6, h5]
  rfl
theorem tileBackS (w : Nat) (ws : List Nat) (n : Nat) (a : After) (tl : Sys2Proof.Machine.Tile) (h1 : tl.run = some 4) (h2 : tl.ended = false) (h3 : tl.wait = some ⟨[], a, 0⟩) (h4 : tl.pos = 0)
    (h5 : tl.patch0 = []) (h6 : tl.cur1 = false) (h8 : tl.upsets = [] := by rfl) : TileBack (atS (w :: ws) n tl) 0 w (siteS (w :: ws) n) a :=
  ⟨tileReadyS w ws n a tl h1 h2 h3 h4 h5 h6, h8⟩
def tileBack0 (a : After) : Sys2Proof.Machine.Tile := { tile0 with wait := some ⟨[], a, 0⟩ }
theorem witness_MemoryPortAndEnd_back :
    TileBack (atS [wMem 0x88 0 0 1] 0 (tileBack0 (.mrd 3))) 0 (wMem 0x88 0 0 1) (siteS [wMem 0x88 0 0 1] 0) (.mrd 3) ∧
    (let s := atS [wMem 0x88 0 0 1] 0 (tileBack0 (.mrd 3))
     let x := siteS [wMem 0x88 0 0 1] 0
     (s.sendPort 0 0 x ((List.range 1).flatMap (fun i => padRow (x.outRowBytes 0) (rowBeats tensor0.f (s.slotBytes x ⟨0, (3 + i) * tensor0.rowElem, tensor0.rowElem⟩) [])))).isSome = true) :=
  ⟨tileBackS _ _ _ _ _ rfl rfl rfl rfl rfl rfl, by decide +kernel⟩
/-- The first of two rows, which have come, into the tensor's last row but one. -/
theorem witness_MemoryPortAndEnd_mwr :
    (let s := atS [wMem 0x89 0 1 2] 4 { tile0 with cursors := [(0, 2)] }
     let x := siteS [wMem 0x89 0 1 2] 4
     let n := x.inRowBytes 1 / 64
     let s2 := s.collect 0 1 n x n
     n = 2 ∧ (s.tile 0).rowsDone < 2 ∧ n ≤ (s2.tile 0).rowBuf.length ∧ (s2.tile 0).cursors.getD 0 0 < tensor0.rows ∧ (s2.tile 0).rowsDone + 1 < 2 ∧
       (match (s2.setTile 0 { s2.tile 0 with rowBuf := [], rowsDone := (s2.tile 0).rowsDone + 1, cursors := (s2.tile 0).cursors.set 0 ((s2.tile 0).cursors.getD 0 0 + 1) }).tileWrite
           0 x tensor0.elemSlot (tensor0.elemOff + (s2.tile 0).cursors.getD 0 0 * tensor0.rowElem) (unRow tensor0.f tensor0.rowElem tensor0.blocksPerRow (s2.tile 0).rowBuf).1 with
        | .ok _ => true
        | .error _ => false) = true) := by decide +kernel
theorem witness_MemoryPortAndEnd_end : TileTurn (atS [wEnd] 0 tile0) 0 wEnd (siteS [wEnd] 0) ∧ tile0.mxu = none ∧ (atS [wEnd] 0 tile0).runs.get 4 = some (runS 0) :=
  ⟨tileTurnS _ _ _ _ rfl rfl rfl rfl rfl rfl, rfl, rfl⟩

/-! The matrix unit: binary16 operands, a stationary tensor of four rows of K 64, two streamed rows in tile memory, output on port 0. -/

def mode0 : Nat := 1 + 256 + 4096
def mxuA : MxuArgs := ⟨0, 0, 0, true, false, 0, 2, 0, 0, 0, BitVec.ofNat 32 mode0⟩
theorem witness_MatrixUnit_read :
    TileTurn (atS [wMxu0 mxuA, wMxu1 mxuA] 0 tile0) 0 (wMxu0 mxuA) (siteS [wMxu0 mxuA, wMxu1 mxuA] 0) ∧
    (let s := atS [wMxu0 mxuA, wMxu1 mxuA] 0 tile0
     let x := siteS [wMxu0 mxuA, wMxu1 mxuA] 0
     s.pwr.trip = false ∧ tile0.mxu = none ∧ x.word 1 = some (wMxu1 mxuA) ∧ x.gathered 0 = none ∧ x.im.tensors[0]? = some tensor0 ∧
       (match s.tensorSrc x tensor0 0 4 with
        | .ok w => w.sc.isNone && w.me.isNone && (match s.readAt 0 x w.held w.e with
          | .ok _ => true
          | .error _ => false)
        | .error _ => false) = true) := ⟨tileTurnS _ _ _ _ rfl rfl rfl rfl rfl rfl, by decide +kernel⟩
theorem witness_MatrixUnit_start :
    TileBack (atS [wMxu0 mxuA, wMxu1 mxuA] 0 (tileBack0 (.mxu none))) 0 (wMxu0 mxuA) (siteS [wMxu0 mxuA, wMxu1 mxuA] 0) (.mxu none) ∧
    tensor0.f.blockScaled = false ∧ tensor0.sparsity = 0 ∧ (fmtOf (mwOut mxuA.mode.toNat)).blockScaled = false ∧ mxuA.toMem = false := ⟨tileBackS _ _ _ _ _ rfl rfl rfl rfl rfl rfl, by decide +kernel⟩
def op0 : MxuOp := ⟨mxuA, 0, 2, none, zeros 512, [], [], 4, 64, 0x3F800000, 0x3F800000, 0x3F800000, [], [], 0, 0, [], false, 0⟩
theorem witness_MatrixUnit_tile :
    (let tl := { tile0 with mxu := some op0, pos := 2 }
     let s := atS [wMxu0 mxuA, wMxu1 mxuA] 0 tl
     let x := siteS [wMxu0 mxuA, wMxu1 mxuA] 0
     let s2 := s.takeRows 0 x (op0.tileRows 0 + 1) (op0.tileRows 0)
     (s.site 0).isSome = true ∧ op0.rowTile < op0.rowTiles ∧ tl.sets.length < 2 ∧ op0.tileRows 0 = 2 ∧ (match (s2.tile 0).mxu with
       | some o2 => decide (op0.tileRows 0 ≤ o2.xr.length)
       | none => false) = true) := by decide +kernel
/-- An operation over 300 columns, with the first block of its row tile finished. -/
def op1 : MxuOp := { op0 with wRows := 300, w := zeros 38400 }
theorem witness_MatrixUnit_drain :
    (let tl := { tile0 with mxu := some op1, pos := 2, sets := [⟨0, 0, List.replicate 256 0⟩] }
     let s := atS [wMxu0 mxuA, wMxu1 mxuA] 0 tl
     let x := siteS [wMxu0 mxuA, wMxu1 mxuA] 0
     mwCarry op1.m = 0 ∧ (1 ≠ op1.colBlocks) ∧ (s.takeCarry 0 x (op1.tileRows 0 + 1) (op1.tileRows 0)) = s) := ⟨by decide +kernel, by decide +kernel, rfl⟩
/-- The same with its rows from the in port: nothing of tile memory. -/
def mxuP : MxuArgs := { mxuA with fromMem := false }
theorem fitsP (o : MxuOp) (h : o.a = mxuP) (x : Site) : o.fits x tensor0 = true := by
  unfold MxuOp.fits
  rw [h]
  rfl
theorem witness_MatrixUnit_fits :
    (match (atS [wMxu0 mxuP, wMxu1 mxuP] 0 tile0).tensorSrc (siteS [wMxu0 mxuP, wMxu1 mxuP] 0) tensor0 0 tensor0.rows with
     | .ok _ => true
     | .error _ => false) = true ∧ tile0.parityOf (Uses.reg mxuP.reg.toNat) = false ∧
    (∀ o : MxuOp, o.a = mxuP → o.base = (tile0.sreg mxuP.reg.toNat).toNat → o.rows = mxuP.rows.toNat → o.wRows = tensor0.rows → o.wK = tensor0.kLen →
      o.fits (siteS [wMxu0 mxuP, wMxu1 mxuP] 0) tensor0 = true) :=
  ⟨by decide +kernel, by decide +kernel, fun o h _ _ _ _ => fitsP o h _⟩
/-- The stationary tile with a parity error, and an accumulator set with one. -/
theorem witness_MatrixUnit_parity : op0.parityAt { tile0 with upsets := [.stat] } = true ∧ op0.parityAt tile0 = false ∧
    ({ tile0 with upsets := [.acc] } : Sys2Proof.Machine.Tile).upsets.contains .acc = true := by decide +kernel
/-- The last block of a row tile that goes to tile memory. -/
def mxuM : MxuArgs := { mxuA with toMem := true }
theorem witness_MatrixUnit_toMem : mxuM.toMem = true ∧ { op0 with a := mxuM }.group = none ∧ { op0 with a := mxuM }.colBlocks = 1 := by decide +kernel
/-- A VSYNC beside an operation that drains to tile memory waits for it. -/
theorem witness_VectorMoves_vsync : TileTurn (atS [vxWord 0x7F vx0] 0 { tile0 with mxu := some { op0 with a := mxuM } }) 0 (vxWord 0x7F vx0) (siteS [vxWord 0x7F vx0] 0) ∧
    ({ op0 with a := mxuM } : MxuOp).a.toMem = true := ⟨tileTurnS _ _ _ _ rfl rfl rfl rfl rfl rfl, rfl⟩
theorem witness_ControlInstructions_parity :
    TileHere (atS [wAdds 3 7] 0 { tile0 with upsets := [.scalar 3] }) 0 (wAdds 3 7) (siteS [wAdds 3 7] 0) ∧
    ({ tile0 with upsets := [.scalar 3] } : Sys2Proof.Machine.Tile).parityOf (Uses.reg 3) = true := ⟨tileHereS _ _ _ _ rfl rfl rfl rfl rfl rfl, by decide +kernel⟩
/-- A tile that has ended with nothing under way is over; one that has not ended is not. -/
theorem witness_MemoryPortAndEnd_done :
    (let s := atS [wEnd] 0 { tile0 with ended := true }
     s.runImage (runS 0) = some (imS [wEnd]) ∧ s.partOver (runS 0) (imS [wEnd]) 0 = true ∧ (s.tile 0).regs.has cRunCycles = false) ∧
    (atS [wEnd] 0 tile0).partOver (runS 0) (imS [wEnd]) 0 = false := by decide +kernel

/-! Tickets: a stage with a table that groups windows of two tokens by expert, of four experts. -/

def table0 (role : Nat) : Bytes := leBytes 1 role ++ [1, 2, 0, 4] ++ zeros 43
/-- A ticket of partition `p` for expert 1 and no adapter. -/
def tkt0 (p : Nat) : Nat := p * 2 ^ 44 + 0xFFFF * 2 ^ 24 + 0xFF * 2 ^ 16 + 1 * 2 ^ 8 + 0xFF
def imT (ws : List Nat) : Image :=
  { imS ws with
    tables := [(0, table0 1)], stages := [⟨6, 1, 0, 0, 0, 8, 0, 0, 0⟩, ⟨2, 1, 1, 255, 64, 8, 0, 0, 0⟩],
    streams := (imS ws).streams ++ [⟨0, 1, 1, 1, false, false, false, 2, 2, 128, 1, 0, 131072, 4160⟩] }
def atT (ws : List Nat) (n : Nat) (tl : Sys2Proof.Machine.Tile) (bs : Bytes) : State :=
  { runState (imT ws) (runS n) with tiles := [(0, tl)], objs := [(3, ob 1 0 [pg 1 .valid])], hbm := Mem.writes [] (7 * 65536) bs }
def siteT (ws : List Nat) (n : Nat) : Site := ⟨4, runS n, imT ws, 0, 0, 0⟩
theorem tileHereT (w : Nat) (ws : List Nat) (n : Nat) (tl : Sys2Proof.Machine.Tile) (bs : Bytes) (h1 : tl.run = some 4) (h2 : tl.ended = false) (h3 : tl.wait = none) (h4 : tl.pos = 0)
    (h5 : tl.patch0 = []) (h6 : tl.cur1 = false) (h7 : tl.sent = [] := by rfl) : TileHere (atT (w :: ws) n tl bs) 0 w (siteT (w :: ws) n) := by
  have ht : (atT (w :: ws) n tl bs).tile 0 = tl := rfl
  refine ⟨?_, rfl, by rw [ht, h2], by rw [ht, h3], by rw [ht]; simp [Site.slotFree, h7], by rw [ht, h4]; rfl⟩
  unfold State.site
  rw [ht, h1]
  simp only [h6, h5]
  rfl
theorem tileTurnT (w : Nat) (ws : List Nat) (n : Nat) (tl : Sys2Proof.Machine.Tile) (bs : Bytes) (h1 : tl.run = some 4) (h2 : tl.ended = false) (h3 : tl.wait = none) (h4 : tl.pos = 0)
    (h5 : tl.patch0 = []) (h6 : tl.cur1 = false) (h7 : tl.sent = [] := by rfl) (h8 : tl.upsets = [] := by rfl) : TileTurn (atT (w :: ws) n tl bs) 0 w (siteT (w :: ws) n) :=
  ⟨tileHereT w ws n tl bs h1 h2 h3 h4 h5 h6 h7, h8⟩

theorem witness_TicketsAndGathers_plain (w : Nat) : TileTurn (atT [w] 0 tile0 []) 0 w (siteT [w] 0) := tileTurnT _ _ _ _ _ rfl rfl rfl rfl rfl rfl
theorem tileBackT (w : Nat) (ws : List Nat) (a : After) (bs : Bytes) : TileBack (atT (w :: ws) 0 (tileBack0 a) bs) 0 w (siteT (w :: ws) 0) a :=
  ⟨⟨rfl, rfl, rfl, ⟨0, rfl⟩, rfl⟩, rfl⟩
/-- One ticket of the RUN's partition at offset 16 of the argument. -/
theorem witness_TicketsAndGathers_tatt :
    TileBack (atT [wTatt 0 0 0 1] 0 (tileBack0 (.tatt 16)) (zeros 16 ++ leBytes 8 (tkt0 0) ++ leBytes 4 7)) 0 (wTatt 0 0 0 1) (siteT [wTatt 0 0 0 1] 0) (.tatt 16) ∧
    (let b := (atT [wTatt 0 0 0 1] 0 (tileBack0 (.tatt 16)) (zeros 16 ++ leBytes 8 (tkt0 0) ++ leBytes 4 7)).slotBytes (siteT [wTatt 0 0 0 1] 0) ⟨0, 16, 16⟩
     let l := (List.range 1).map (fun i => (fieldLE b (16 * i) 8, fieldLE b (16 * i + 8) 4))
     l = [(tkt0 0, 7)] ∧ ∀ k ∈ l, tkBad none k.1 = false ∧ tkPart k.1 = (siteT [wTatt 0 0 0 1] 0).run.part ∧ reservedZero b 12 4 = true) := ⟨tileBackT _ _ _ _, by decide +kernel⟩
/-- A full window. -/
def fullT : Sys2Proof.Machine.Tile := { tile0 with tkt := { TktUnit.reset with window := [⟨tkt0 0, 7, [zBeat, zBeat]⟩, ⟨tkt0 0, 8, [zBeat, zBeat]⟩] } }
theorem witness_TicketsAndGathers_tsort :
    TileHere (atT [wTsort 1 0 2] 0 fullT []) 0 (wTsort 1 0 2) (siteT [wTsort 1 0 2] 0) ∧
    (let s := atT [wTsort 1 0 2] 0 fullT []
     let x := siteT [wTsort 1 0 2] 0
     let s2 := s.fillWindow 0 1 2 x 3
     x.im.tableOf (x.im.stageAt x.st) = some (table0 1) ∧ tblKey (table0 1) = 1 ∧ tblWindow (table0 1) = 2 ∧ tblWindow (table0 1) ≤ (s2.tile 0).tkt.window.length ∧
       (s2.tile 0).upsets = [] ∧ (s2.tile 0).tkt.judged = none ∧ (∀ r ∈ (s2.tile 0).tkt.window, tkBad (some (table0 1)) r.tkt = false) ∧ ((s2.judgeWindow 0 [false, false]).emitWindow 0 x (table0 1) 1 0 2 (fun _ => false)).isSome = true) :=
  ⟨tileHereT _ _ _ _ _ rfl rfl rfl rfl rfl rfl, by decide +kernel⟩
theorem witness_TicketsAndGathers_temit : tile0.mxu = none ∧ fieldLE tile0.tkt.plan 4 2 = 0 ∧
    TileHere (atT [wTemit 0] 0 { tile0 with upsets := [.store] } []) 0 (wTemit 0) (siteT [wTemit 0] 0) ∧ ({ tile0 with upsets := [.store] } : Sys2Proof.Machine.Tile).upsets.contains .store = true :=
  ⟨rfl, by decide, tileHereT _ _ _ _ _ rfl rfl rfl rfl rfl rfl, by decide⟩
/-- A plan of one token: its row goes out with the ticket of the window's row. -/
def temitT : Sys2Proof.Machine.Tile := { tile0 with tkt := { TktUnit.reset with plan := [0, 0, 0, 0, 1, 0, 1, 0], cols := 64 } }
theorem witness_TicketsAndGathers_temitRows : TileTurn (atT [wTemit 0] 0 temitT []) 0 (wTemit 0) (siteT [wTemit 0] 0) ∧ fieldLE temitT.tkt.plan 4 2 = 1 ∧
    (∀ (tl : Sys2Proof.Machine.Tile) (m : Nat), (siteS [wTemit 0] 0).canSend tl 0 m) := ⟨tileTurnT _ _ _ _ _ rfl rfl rfl rfl rfl rfl, by decide, fun _ _ => canSendS _ _ _⟩
/-- A nanosecond past 2 ms. -/
theorem witness_TicketsAndGathers_timeout :
    (let s := { atT [wEnd] 0 { tile0 with tkt := { TktUnit.reset with waiting := some 3 } } [] with ts := 2000004 }
     (s.site 0).isSome = true ∧ (s.tile 0).tkt.waiting = some 3 ∧ 2000000 < s.ts - 3) := by decide +kernel

/-- The plan of one token has come on port 2, and the token, with a ticket of partition `p`, on port 1. -/
def gatherT (p : Nat) : Sys2Proof.Machine.Tile :=
  { tile0 with
    carryBuf := { zBeat with data := zeros 6 ++ [1] ++ zeros 57 } :: List.replicate 64 zBeat, rowBuf := [zBeat, zBeat], tkt := { TktUnit.reset with recv := [(1, [(tkt0 p, 7)])] } }
def gatherWs : List Nat := [wTgath 2 true false, wMxu0 { mxuA with sport := 1 }, wMxu1 mxuA]
theorem witness_TicketsAndGathers_tgath :
    (∀ p, TileHere (atT gatherWs 0 (gatherT p) []) 0 (wTgath 2 true false) (siteT gatherWs 0)) ∧
    (∀ p, p < 2 → (let s := atT gatherWs 0 (gatherT p) []
      let x := siteT gatherWs 0
      let s2 := s.collectCarry 0 2 65 x 65
      let pl := ((s2.tile 0).carryBuf.flatMap (fun c => c.data)).take 4160
      let s3 := (s2.setTile 0 { s2.tile 0 with tkt := (s2.tile 0).tkt.takePlan pl (s2.planTokens x 2 (s2.tile 0).tkt.plans pl), carryBuf := [] }).fillWindow 0 1 1 x 2
      x.word 1 = some (wMxu0 { mxuA with sport := 1 }) ∧ x.word 2 = some (wMxu1 mxuA) ∧ x.im.tableOf (x.im.stageAt x.st) = some (table0 1) ∧ 65 ≤ (s2.tile 0).carryBuf.length ∧
        (s.tile 0).tkt.taking = false ∧ (s2.tile 0).tkt.taking = false ∧ (s3.tile 0).upsets.contains .window = false ∧ fieldLE pl 6 2 = 1 ∧
        (mxu0Of (wMxu0 { mxuA with sport := 1 }) (wMxu1 mxuA)).sport.toNat = 1 ∧ 1 ≤ (s3.tile 0).tkt.window.length ∧
        (∀ r ∈ (s3.tile 0).tkt.window, tkBad (some (table0 1)) r.tkt = false ∧ tkPart r.tkt = p) ∧ x.run.part = 0 ∧ x.run.dispParts = [])) := by
  refine ⟨fun p => tileHereT _ _ _ _ _ rfl rfl rfl rfl rfl rfl, ?_⟩
  intro p hp
  have h : p = 0 ∨ p = 1 := by omega
  rcases h with rfl | rfl <;> decide +kernel

/-! Exchange and update feed. -/

/-- The group is ACTIVE, with the operations and windows given. -/
def actGrp (colls : List Coll) (disps : List Disp) : Group := { grp0 with st := .active, owners := [(0, 77), (1, 78)], colls := colls, disps := disps }
def atX (ws : List Nat) (n : Nat) (tl : Sys2Proof.Machine.Tile) (g : Group) : State :=
  { atT ws n tl [] with groups := [(9, g)], rig := { Rig.reset with pos := some 5, placed := some 5 } }
theorem tileTurnX (w : Nat) (n : Nat) (tl : Sys2Proof.Machine.Tile) (g : Group) (h1 : tl.run = some 4) (h2 : tl.ended = false) (h3 : tl.wait = none) (h4 : tl.pos = 0)
    (h5 : tl.patch0 = []) (h6 : tl.cur1 = false) (h7 : tl.sent = [] := by rfl) (h8 : tl.upsets = [] := by rfl) : TileTurn (atX [w] n tl g) 0 w (siteT [w] n) :=
  tileTurnT w [] n tl [] h1 h2 h3 h4 h5 h6 h7 h8
/-- An operation of 32 elements whose two shards have come and gone. -/
def coll0 (op : Nat) : Coll := ⟨0, op, 0, 0, 4, 32, 0, 0, 0, List.replicate 32 0, [0, 1], [(0, List.replicate 16 0), (1, List.replicate 16 0)], [], 0, 0, 0, false⟩
theorem witness_ExchangeAndDispatch_done :
    (∀ w g, TileTurn (atX [w] 0 tile0 g) 0 w (siteT [w] 0)) ∧
    (∀ op ∈ [0xA0, 0xA1, 0xA2], (let g := actGrp [coll0 op] []
      let s := atX [wX op 0 1 0 9 32] 0 tile0 g
      let x := siteT [wX op 0 1 0 9 32] 0
      g = s.group 9 ∧ s.memberOf g x.run.part = some 0 ∧ exchangeFail g (some 0) (some 0) = none ∧
        g.colls.find? (fun (c : Coll) => c.member == 0 && c.hi == x.k && c.op != 0xA8 && c.rid == x.rid) = some (coll0 op) ∧ g.complete (coll0 op) = true ∧ g.complete { coll0 op with spoiled := true } = true ∧
        mkBeats (packWire 0 (g.delivered (coll0 op))) [] 0 0 ≠ [] ∧ (s.sendPort 0 0 x (mkBeats (packWire 0 (g.delivered (coll0 op))) [] 0 0)).isSome = true)) :=
  ⟨fun _ _ => tileTurnX _ _ _ _ rfl rfl rfl rfl rfl rfl, by decide +kernel⟩
theorem witness_ExchangeAndDispatch_open :
    (∀ op ∈ [0xA0, 0xA1, 0xA2], (let g := actGrp [] []
      let s := atX [wX op 0 1 0 9 32] 2 tile0 g
      let x := siteT [wX op 0 1 0 9 32] 2
      s.memberOf g x.run.part = some 0 ∧ g.colls = [] ∧ tile0.beatsFor 1 (32 * wireBytes 0) = 2 ∧ 2 ≤ ((s.collect 0 1 2 x 2).tile 0).rowBuf.length)) := by decide +kernel
/-- A window of one token from each member, emitted or not, with the results back or not. -/
def disp0 (emitted : Bool) : Disp :=
  ⟨0, 0, 0, 4, [(0, ⟨tkt0 0, 7, []⟩), (1, ⟨tkt0 0, 8, []⟩)], [(0, [⟨tkt0 0, 7, [zBeat, zBeat]⟩]), (1, [⟨tkt0 1, 8, [zBeat, zBeat]⟩])], emitted, emitted,
   [(0, [[zBeat, zBeat]]), (1, [[zBeat, zBeat]])], 0, 0⟩
theorem witness_ExchangeAndDispatch_xdisp :
    (let g := actGrp [] [disp0 false]
     let s := atX [wX 0xA3 0 1 0 9 0] 0 tile0 g
     let x := siteT [wX 0xA3 0 1 0 9 0] 0
     let d := disp0 false
     let rows := (List.range g.n).flatMap (fun m => d.got.getD m [])
     g = s.group 9 ∧ s.memberOf g x.run.part = some 0 ∧ exchangeFail g none (some 0) = none ∧ x.im.tableOf (x.im.stageAt x.st) = some (table0 1) ∧
       g.disps.find? (fun (e : Disp) => e.member == 0 && e.lane == x.k && e.window == g.windows.getD 0 0) = some d ∧ (∀ m < g.n, d.got.has m = true) ∧ rows ≠ [] ∧
       (∀ r ∈ rows, tkBad (some (table0 1)) r.tkt = false) ∧ (∀ m < g.n, m ≠ 0 → ∀ r ∈ d.got.getD m [], tkPart r.tkt = gePart g.entry m) ∧
       (match (s.attachTo 0 0 x (rows.map (fun r => (r.tkt, r.gate)))).sendPort 0 0 x (rows.flatMap (fun r => padRow (x.outRowBytes 0) r.beats)) with
        | some s2 => (s2.runs.get x.rid).isSome
        | none => false) = true) := by decide +kernel
theorem witness_ExchangeAndDispatch_xcomb :
    (let g := actGrp [] [disp0 true]
     let s := atX [wX 0xA4 0 1 0 9 0] 0 tile0 g
     let x := siteT [wX 0xA4 0 1 0 9 0] 0
     let d := disp0 true
     let out := (d.rows.zipIdx).map (fun e => ((d.back.getD e.1.1 []).getD ((d.rows.take e.2).filter (fun r => r.1 == e.1.1)).length [], e.1.2))
     g.disps.find? (fun (e : Disp) => e.member == 0 && e.lane == x.k && e.emitted) = some d ∧ d.returned = true ∧ (∀ m < g.n, d.back.has m = true) ∧ out ≠ [] ∧
       ((s.attachTo 0 0 x (out.map (fun r => (r.2.tkt, r.2.gate)))).sendPort 0 0 x (out.flatMap (fun r => padRow (x.outRowBytes 0) r.1))).isSome = true) := by decide +kernel

/-- The set's attempt is open for the RUN on tile 0; the first 16 parameters of descriptor 0 are fed in binary32, one beat. -/
def openSet : USet := { uset0 1 with run := some 4 }
theorem witness_FeedsAndAttempts :
    (∀ w, TileTurn { atX [w] 1 tile0 grp0 with usets := [(setKey 0 15, openSet)] } 0 w (siteT [w] 1)) ∧
    (let w := wUfeed 0 1 15 0 16
     let s := { atX [w] 1 tile0 grp0 with usets := [(setKey 0 15, openSet)] }
     let x := siteT [w] 1
     let s2 := s.collect 0 1 1 x 1
     s.usets.get (setKey 0 15) = some openSet ∧ openSet.ctx = x.run.ctx ∧ openSet.railOk = true ∧ openSet.group = none ∧ openSet.run = some x.rid ∧ govern (s.ufeedFails x openSet 0 0 16) = none ∧
       s.stagingUsed (tileDie 0) + 16 * ufeedBytes 0 ≤ dieStaging ∧ tile0.beatsFor 1 (16 * ufeedBytes 0) = 1 ∧ 1 ≤ (s2.tile 0).rowBuf.length ∧ s2.usets.get (setKey 0 15) = some openSet) ∧ openSet.mode < 2 :=
  ⟨fun _ => ⟨⟨rfl, rfl, rfl, rfl, rfl, rfl⟩, rfl⟩, by decide +kernel⟩
/-- Twenty binary32 elements take two beats and leave 48 bytes, so four fewer are read for the next twenty (log entry 192). -/
theorem test_elements_left : (({ tile0 with rowBuf := [zBeat, zBeat] } : Sys2Proof.Machine.Tile).takeElems 1 80).beatsFor 1 80 = 1 ∧
    (({ tile0 with rowBuf := [zBeat, zBeat] } : Sys2Proof.Machine.Tile).takeElems 1 80).beatsFor 0 80 = 2 := by decide +kernel
theorem witness_RecipeWords : (∀ op ∈ [1, 2, 3, 4, 5, 6, 7, 8, 9, 0x0A, 0x0B, 0x20, 0x21, 0x22, 0x23, 0x24, 0x3F], uwOp (mkUw op 3 1 2 3) = op) ∧
    ((d32 0x7FC00000).isNan = true ∧ (d32 0).isNan = false ∧ (d32 0).isZero = true ∧ (d32 1).isNan = false ∧ (d32 1).isZero = false) := by decide
/-- Staging with no room, and a set whose hyperparameter object is gone. -/
def fullSet : USet := { openSet with staging := [⟨0, 0, 0, [], dieStaging, false⟩] }
def noHyper : USet := { uset0 0 with hyper := (9, 0) }
theorem witness_FeedsAndAttempts_stop :
    (∀ w u, TileTurn { atX [w] 1 tile0 grp0 with usets := [(setKey 0 15, u)] } 0 w (siteT [w] 1)) ∧
    (let w := wUfeed 0 1 15 0 16
     let x := siteT [w] 1
     (let s := { atX [w] 1 tile0 grp0 with usets := [(setKey 0 15, fullSet)] }
      fullSet.run = some x.rid ∧ govern (s.ufeedFails x fullSet 0 0 16) = none ∧ dieStaging < s.stagingUsed (tileDie 0) + 16 * ufeedBytes 0) ∧
     (let s := { atX [w] 1 tile0 grp0 with usets := [(setKey 0 15, noHyper)] }
      noHyper.ctx = x.run.ctx ∧ noHyper.run = none ∧ noHyper.mode = 0 ∧ govern (s.ufeedFails x noHyper 0 0 16) = none ∧
        s.stagingUsed (tileDie 0) + 16 * ufeedBytes 0 ≤ dieStaging ∧ governOf (s.hypFails noHyper) = some (.handle, .context))) :=
  ⟨fun _ _ => ⟨⟨rfl, rfl, rfl, rfl, rfl, rfl⟩, rfl⟩, by decide +kernel⟩

/-! Buckets. -/

def fourOb (p : Pte) : Obj := { ob 1 0 [p, tensorPg] with trainable := true, paired := true, inSet := some 0 }
/-- The set's descriptor 0 is the first row of 16 parameters of object 4, whose first page is `p`. -/
def updState (u : USet) (p : Pte) (g : Group) : State :=
  { setBase with
    objs := [(3, ob 1 0 [pg 1 .valid]), (4, fourOb p)], usets := [(setKey 0 15, u)], groups := [(9, g)], rig := { Rig.reset with pos := some 5, placed := some 5 } }
/-- An open attempt, with a bucket of 16 elements that hold `v`. -/
def fedSet (v : Nat) : USet := { uset0 1 with run := some 4, staging := [⟨0, 0, 0, List.replicate 16 v, 64, false⟩], hyp := [(4, List.replicate 16 0)] }
def isDone (a : Applied) : Bool :=
  match a with
  | .done s _ _ => (s.usets.get (setKey 0 15)).isSome
  | _ => false
theorem witness_BucketsAreApplied_local :
    (let s := updState (fedSet 0x3F800000) tensorPg grp0
     setKey 0 15 = setKey (0 : Sys2Proof.Part).val (15 : BitVec 4).toNat ∧ s.usets.get (setKey 0 15) = some (fedSet 0x3F800000) ∧ (fedSet 0x3F800000).railOk = true ∧
       isDone (s.applyBucket (setKey 0 15) 0 0 (List.replicate 16 0x3F800000)) = true) ∧
    (let s := updState { fedSet 0x3F800000 with scaleAt := (3, 192) } { tensorPg with ctlN := 0 } grp0
     (match s.applyBucket (setKey 0 15) 0 0 (List.replicate 16 0x3F800000) with
      | .fault _ _ _ => true
      | _ => false) = true) ∧
    { fedSet 0 with commitN := 0 }.railOk = false := by decide +kernel
/-- A UFEED of 64 bytes finds the die's staging full with another set's bucket (R310), and a bucket of 16-bit elements takes half the bytes. -/
def stagedSet (n : Nat) : USet := { uset0 1 with run := some 4, staging := [⟨0, 0, 0, [], n, false⟩] }
theorem witness_FeedsAndAttempts_full :
    (let w := wUfeed 0 1 15 0 16
     let s := { atX [w] 1 tile0 grp0 with usets := [(setKey 0 14, stagedSet (dieStaging - 32)), (setKey 0 15, openSet)] }
     govern (s.ufeedFails (siteT [w] 1) openSet 0 0 16) = none ∧ dieStaging < s.stagingUsed (tileDie 0) + 16 * ufeedBytes 0 ∧
       s.stagingUsed (tileDie 0) + 16 * ufeedBytes 2 ≤ dieStaging ∧ s.stagingUsed 1 = 0) := by decide +kernel
/-- A bucket of 16 elements in the group: the member at hand roots tree 0, whose whole sum has come. -/
def bucketColl : Coll := ⟨0, 0xA8, 0, 0, 4, 16, 0, 0, 0, List.replicate 16 0, [], [(0, List.replicate 16 0x3F800000)], [], 0, 0, 0, false⟩
def groupSet : USet := { fedSet 0 with group := some 9, staging := [] }
theorem witness_BucketsAreApplied_group :
    (let g := actGrp [bucketColl] []
     let s := updState groupSet tensorPg g
     let c := bucketColl
     g = s.group 9 ∧ s.memberOf g 0 = some 0 ∧ (g.colls.zipIdx).find? (fun (e : Coll × Nat) => e.1.op == 0xA8 && e.1.member == 0 && !(g.owed e.1).isEmpty) = some (c, 0) ∧
       (g.owed c).headD 0 = 0 ∧ c.results.get 0 = some (List.replicate 16 0x3F800000) ∧ groupSet.descs[c.hi]? = some (readDesc ((setBytes.drop 64).take 64) 4) ∧
       (match s.applyBucket (setKey 0 15) c.hi (c.seq + (shardOf c.count g.n 0).1) ((List.replicate 16 0x3F800000).map (widen32 (wireFmt c.wire))) with
        | .done _ wc _ => !wc.isEmpty
        | _ => false) = true) := by decide +kernel
/-- A staged bucket, and a whole sum, whose parity fails. -/
theorem witness_BucketsAreApplied_spoiled :
    (let u := { fedSet 0x3F800000 with staging := [⟨0, 0, 0, List.replicate 16 0x3F800000, 64, true⟩] }
     let s := updState u tensorPg grp0
     s.usets.get (setKey 0 15) = some u ∧ u.railOk = true ∧ s.shroud.railsOk = true ∧ u.group = none) ∧ bucketColl.spoiled = false := by decide +kernel
/-- The state a bucket needs is read first: with nothing asked yet the bucket waits for its reads, and so does a group's; with every read back, or nothing to read, it
is applied. Local set and group. -/
theorem witness_BucketsAreApplied_reads :
    (let ask (u : USet) (g : Group) := (updState u (mkPte (mkCtl 1 0 0 .valid false true) 8 (mkHandle 4 0)) g).fetchState (setKey 0 15) 0 0 (List.replicate 16 0x3F800000)
     (ask (fedSet 0x3F800000) grp0).isSome = true ∧ (ask groupSet (actGrp [bucketColl] [])).isSome = true ∧
       (ask { fedSet 0x3F800000 with fetch := some [7] } grp0).isSome = true ∧ (ask { fedSet 0x3F800000 with fetch := some [] } grp0) = none ∧
       (ask { groupSet with fetch := some [] } (actGrp [bucketColl] [])) = none) ∧
    ((updState (fedSet 0x3F800000) tensorPg grp0).stateReads (setKey 0 15) 0 0 [0x7F800000]).2 = [] := by decide +kernel
/-- A bucket-mode set with an infinite gradient. -/
theorem witness_BucketsAreApplied_nonfinite :
    (let u := { fedSet 0x7F800000 with mode := 1 }
     let s := updState u tensorPg grp0
     let d := readDesc ((setBytes.drop 64).take 64) 4
     s.usets.get (setKey 0 15) = some u ∧ u.descs[0]? = some d ∧ s.rangeWaits (setKey 0 15) d ((s.recipe (setKey 0 15 / 16) d.recipe).getD (fykorRecipe 0)) (d.blocksIn 0 16) = false ∧
       ((List.replicate 16 0x7F800000).map (fun g => (r32 (fdiv (d32 g) (d32 u.scale))).1)).any isNonfinite32 = true) := by decide +kernel

/-! The close of an attempt. -/

/-- Every tile has executed UEND and no bucket is left. -/
def closing (mode : Nat) (v : Option (Sys2Proof.Status × Nat × Nat)) : USet := { fedSet 0 with mode := mode, staging := [], ended := [0, 1], fed := [(0, 0, 16)], verdict := v }
def closeAt (u : USet) : State := { updState u tensorPg grp0 with runs := [(4, run0 .running)], tiles := [(0, tile0), (1, tile0)] }
theorem witness_AttemptCloses_decide : ∀ m < 2,
    (let u := closing m none
     let s := closeAt u
     s.usets.get (setKey 0 15) = some u ∧ u.railOk = true ∧ u.run.isSome = true ∧ u.ackAt = none ∧ u.verdict = none ∧ u.group = none ∧ s.partDone (setKey 0 15) u = true ∧ u.closeSent = false ∧ u.closeTs = 0 ∧
       s.roundBusy 0 15 = false ∧ s.scaleWaits u = false ∧ s.carryStop (setKey 0 15) u ≠ .waits) := by decide +kernel
theorem witness_AttemptCloses_commit : ∀ m < 2, ∀ st ∈ [Sys2Proof.Status.ok, Sys2Proof.Status.normReject],
    (let u := { closing m (some (st, 0, 0)) with carried := true }
     let s := closeAt u
     s.usets.get (setKey 0 15) = some u ∧ u.railOk = true ∧ u.run.isSome = true ∧ u.ackAt = none ∧ u.verdict = some (st, 0, 0) ∧ s.scaleWaits u = false ∧ u.carried = true ∧ u.writes = [] ∧
       s.isProbe (setKey 0 15) u = false ∧ (s.net (setKey 0 15 / 16)).st = .unpaired ∧ s.scaleStop u = .go) := by decide +kernel
/-- A PAIRED partition, which waits for the ACK of its COMMIT. -/
theorem witness_AttemptCloses_paired :
    (let u := { closing 0 (some (.ok, 0, 0)) with carried := true }
     let s := (closeAt u).setNet 0 { Net.reset with st := .paired }
     s.usets.get (setKey 0 15) = some u ∧ (s.net (setKey 0 15 / 16)).st = .paired ∧ s.scaleWaits u = false ∧ s.isProbe (setKey 0 15) u = false) := by decide +kernel
/-- Blocks that no bucket fed, of pages that hold data: they are read first, and once the reads are back they are written. -/
theorem witness_AttemptCloses_carry :
    (let p := mkPte (mkCtl 1 0 0 .valid false true) 8 (mkHandle 4 0)
     let at_ (u : USet) : State := { updState u p grp0 with objs := [(3, ob 1 0 [pg 1 .valid]), (4, { fourOb p with pages := [p, { p with frame := 9 }] })], runs := [(4, run0 .running)], tiles := [(0, tile0), (1, tile0)] }
     let u := { closing 0 (some (.ok, 0, 0)) with fed := [] }
     let w := { u with fetch := some [] }
     u.carried = false ∧ (at_ u).carryStop (setKey 0 15) u = .go ∧ u.fetch = none ∧ ((at_ u).fetchCarry (setKey 0 15) u).1 ≠ [] ∧ (at_ u).scaleWaits u = false ∧
       (at_ w).carryStop (setKey 0 15) w = .go ∧ (((at_ w).carryNow (setKey 0 15) w).usets.get (setKey 0 15)).any USet.carryDone = false) := by decide +kernel
/-- The least count of steps at which the scale is doubled, and a streak short of it. -/
theorem witness_AttemptCloses_growth : ({ fedSet 0 with growth := 1 } : USet).streak + 1 = ({ fedSet 0 with growth := 1 } : USet).growth ∧
    ({ fedSet 0 with growth := 2 } : USet).streak + 1 ≠ ({ fedSet 0 with growth := 2 } : USet).growth := by decide +kernel

/-! Beats and answers. -/

/-- Stream 0 of the image, from tile 0 to tile 1, with its lane as given. -/
def laneRun (l : Lane) : Run := { runS 0 with lanes := [(0, l)] }
def laneState (l : Lane) (dst : Sys2Proof.Machine.Tile) : State := { runState (imS []) (laneRun l) with tiles := [(0, tile0), (1, dst)] }
def lane0 (credits : Nat) (out flight : List Beat) : Lane := ⟨credits, out, flight, [], 1, 0⟩
theorem witness_BeatsAndCredits :
    (∀ l dst, (laneState l dst).runs.get 4 = some (laneRun l) ∧ (laneState l dst).runImage (laneRun l) = some (imS []) ∧ (imS []).streams[0]? = some ⟨0, 1, 1, 1, false, false, false, 0, 0, 64, 1, 0, 0, 128⟩ ∧
      (imS []).laneRoute 0 0 = some ⟨0, 1, 255, [1, 5], 1⟩ ∧ (imS []).tileAt 0 = 0 ∧ (imS []).tileAt 1 = 1 ∧ l = (laneRun l).lane (laneKey 0 0) ∧ (laneState l dst).bridgeShut 0 1 = false) ∧
    (lane0 1 [zBeat, zBeat] []).credits ≠ 0 ∧ (lane0 0 [zBeat, zBeat] []).credits = 0 ∧ (lane0 0 [] [zBeat]).flight = [zBeat] ∧ (lane0 0 [] [zBeat]).owed ≠ 0 ∧
    ((laneState (lane0 0 [] [zBeat]) { tile0 with ended := true }).tile 1).ended = true ∧ ((laneState (lane0 0 [] [zBeat]) tile0).tile 1).ended = false ∧
    (laneState (lane0 1 [zBeat, zBeat] []) tile0).linkTurn (laneRun (lane0 1 [zBeat, zBeat] [])) (imS []) 0 0 = some 0 ∧
    (laneState (lane0 1 [zBeat] []) tile0).linkTurn (laneRun (lane0 1 [zBeat] [])) (imS []) 0 0 = none ∧
    ({ laneState (lane0 0 [] [zBeat]) tile0 with dev := { base.dev with closedBridge := true } } : State).bridgeShut 0 80 = true ∧ tileDie 0 ≠ tileDie 80 :=
  ⟨fun _ _ => ⟨rfl, rfl, rfl, rfl, rfl, rfl, rfl, rfl⟩, by decide, by decide, rfl, by decide, rfl, rfl, by decide +kernel, by decide +kernel, by decide +kernel, by decide +kernel⟩
/-- Two streams with a beat and a credit for one link: it is not the turn of the one served last. -/
theorem witness_BeatsAndCredits_turn :
    (let im := { imS [] with streams := [⟨0, 1, 1, 1, false, false, false, 0, 0, 64, 1, 0, 0, 128⟩, ⟨0, 1, 1, 1, false, false, false, 0, 0, 64, 1, 0, 65536, 128⟩] }
     let l := lane0 1 [zBeat, zBeat] []
     let r := { laneRun l with lanes := [(laneKey 0 0, l), (laneKey 1 0, l)], turns := [(turnKey 0 0, 0)] }
     let s := { laneState l tile0 with runs := [(4, r)] }
     s.linkTurn r im 0 0 = some 1 ∧ isCopy ⟨0, 1, 1, 1, false, false, false, 0, 0, 64, 1, 0, 0, 128⟩ 0 = false) := by decide +kernel

def acc0 (kind : AccKind) (since : Nat) : Access := ⟨kind, .none, true, 3, 0, 64, zeros 64, 0, since, [], 0, true, since, 0⟩
def arr0 : Arrival := ⟨[], [], none, false⟩
def accState (a : Access) (p : Pte) : State := { base with accs := [(6, a)], objs := [(3, ob 1 0 [p])], ts := 10000000 }
/-- The rails of the tree's root differ. -/
def offRails (s : State) : State := { s with shroud := { s.shroud with rootN := [] } }
/-- Counter block 112, which guards the page's first line, is written with minor 1 and line 0 wrong; line 7168 is the first line of page 7. -/
def badLine (a : Access) : State :=
  { accState a (pg 1 .valid) with shroud := { Shroud.reset with bad := [7168], blocks := [(112, ⟨0, [(0, 1)]⟩)] } }
theorem witness_MemoryAndFlashAnswers_hbm :
    (∀ a p, a.adm = true → (accState a p).acc? 6 = some a) ∧ (accState (acc0 .hbmRead 0) (pg 1 .zero)).shroud.railsOk = true ∧
    (offRails (accState (acc0 .hbmRead 0) (pg 1 .zero))).shroud.railsOk = false ∧
    (let s := accState (acc0 .hbmRead 0) (pg 1 .valid)
     let s1 := s.settleMeta (s.accLines (acc0 .hbmRead 0))
     let s2 := s1.useMeta (s1.accPart (acc0 .hbmRead 0)) (s.accLines (acc0 .hbmRead 0))
     s.accLines (acc0 .hbmRead 0) = [7168] ∧ s.lockedFor [7168] = false ∧ s1.nodeOf [7168] none = none ∧ s1.nodeOf [7168] (some (0, 2)) = some (2, globalOf 112 / 64) ∧
       (linesAt [7168] (arr0.bad1.filter arr0.bad2.contains)).contains 7168 = false ∧ s2.shroud.lineBad 7168 = false ∧ s2.shroud.blockLost (7168 / 64) = false) ∧
    (let s := badLine (acc0 .hbmRead 0)
     let s1 := s.settleMeta [7168]
     let s2 := s1.useMeta (s1.accPart (acc0 .hbmRead 0)) [7168]
     s.acc? 6 = some (acc0 .hbmRead 0) ∧ s.lockedFor [7168] = false ∧ s1.nodeOf [7168] none = none ∧ s2.shroud.lineBad 7168 = true ∧ s2.shroud.blockLost (7168 / 64) = false) ∧
    (let v : Arrival := ⟨[0], [0], none, false⟩
     (linesAt [7168] (v.bad1.filter v.bad2.contains)).contains 7168 = true) ∧
    (let s := { accState (acc0 .hbmRead 0) (pg 1 .valid) with shroud := { Shroud.reset with sweeps := [(0, ⟨0, false, 1, 112, 0, 0, [], some (112, 10000000)⟩)] } }
     s.lockedFor [7168] = true ∧ s.shroud.railsOk = true) ∧
    ((acc0 .hbmRead 9996000).since + 4000 ≤ 10000000 ∧ 10000000 < (acc0 .hbmRead 9996001).since + 4000) ∧ ({ acc0 .hbmRead 0 with tries := 1 } : Access).tries ≠ 0 ∧
    (let s := accState (acc0 .hbmWrite 0) (pg 1 .valid)
     let s1 := s.settleMeta [7168]
     s.accLines (acc0 .hbmWrite 0) = [7168] ∧ s.lockedFor [7168] = false ∧ s1.accParts (acc0 .hbmWrite 0) = [(7168, false)] ∧ s1.nodeOf [7168] none = none ∧ (ob 1 0 [pg 1 .valid]).writeVerdict 0 64 = .ok) ∧
    (ob 1 0 [{ pg 1 .valid with ctlN := 0 }]).writeVerdict 0 64 ≠ .ok ∧ (ob 1 0 [{ pg 1 .valid with ctlN := 0 }]).writeVerdict 0 64 ≠ .waits := by
  refine ⟨?_, by decide +kernel⟩
  intro a p h
  simp [State.acc?, accState, Tbl.get, h]
/-- A write of half a line, which verifies. -/
theorem witness_MemoryAndFlashAnswers_partly :
    (let a := { acc0 .hbmWrite 0 with len := 32, data := zeros 32 }
     let s := accState a (pg 1 .valid)
     let s1 := s.settleMeta (s.accLines a)
     s1.accParts a = [(7168, true)] ∧ s1.shroud.blockLost (7168 / 64) = false ∧ s1.shroud.minor 7168 = 0 ∧
       (badLine a).shroud.minor 7168 ≠ 0 ∧ ({ badLine a with shroud := { (badLine a).shroud with bad := [] } } : State).shroud.lineBad 7168 = false) := by decide +kernel
/-- A page that a snapshot under way has still to copy. -/
theorem witness_MemoryAndFlashAnswers_waits : (ob 1 0 [mkPte (mkCtl 1 0 0 .valid false false + 6144) 7 0]).writeVerdict 0 64 = .waits := by decide +kernel
def row0 (out arrived late retried : List Nat) : RowRead := ⟨0, 0, 0, [0, 1], out, arrived, late, retried, false, [], [], []⟩
def flashAcc (r : RowRead) (since : Nat) : Access := { acc0 .flashRead since with rows := [r] }
theorem witness_MemoryAndFlashAnswers_flash :
    (∀ r n, (accState (flashAcc r n) (pg 2 .sealedPg)).acc? 6 = some (flashAcc r n) ∧ (flashAcc r n).partAt 0 = some r) ∧
    (row0 [0, 1] [] [] []).done = false ∧ (row0 [0, 1] [] [] []).out.contains (0 % 16) = true ∧ (row0 [1] [] [0] []).late.contains (0 % 16) = true ∧
    (row0 [0, 1] [] [] [0]).retried.contains (0 % 16) = true ∧ (row0 [0, 1] [] [] []).retried.contains (0 % 16) = false ∧
    (row0 [0, 1] [] [] []).sent.getD (0 % 16) (flashAcc (row0 [0, 1] [] [] []) 9940000).since + 60000 ≤ 10000000 ∧
    10000000 < ({ row0 [0, 1] [] [] [] with sent := [(0, 9940001)] } : RowRead).sent.getD (0 % 16) 0 + 60000 ∧
    (base.pwr.trip = false ∧ 2000000 < (accState (flashAcc (row0 [0, 1] [] [] []) 7999999) (pg 2 .sealedPg)).stallTime (flashAcc (row0 [0, 1] [] [] []) 7999999)) ∧
    (row0 [] [0, 1] [] []).ready = true ∧ (row0 [1] [0] [] []).ready = false ∧ (row0 [] (List.range 14) [0] []).ready = true ∧
    ((flashAcc (row0 [0, 1] [] [] []) 0).partWants (row0 [0, 1] [] [] []) 14 [] = []) ∧ (flashAcc (row0 [14] [] [] []) 0).partWants (row0 [14] [] [] []) 2 [0] = [0] ∧
    (let a := acc0 .flashWrite 0
     (accState a (pg 2 .filling)).flashVerdict a (ob 2 0 [pg 2 .filling]) = .ok ∧ (accState a (pg 2 .sealedPg)).flashVerdict a (ob 2 0 [pg 2 .sealedPg]) = .bad .bounds .context) :=
  ⟨fun _ _ => ⟨rfl, rfl⟩, by decide +kernel⟩

/-! Segments, loads, rebuilds. -/

/-- Segment 0 belongs to the region of partition 0's models, and holds the frames given. -/
def segState (used : Tbl Nat) : State := { base with flash := { Flash.reset with owner := [(0, regionTag 1 (some 0))], used := used }, objs := [(3, ob 2 1 [pg 2 .sealedPg])] }
theorem witness_SegmentsLoadsAndRebuilds_segments :
    (segState []).segmentDead 0 = true ∧ (10000 ≤ ({ Flash.reset with erases := [(0, 9999)] } : Flash).erases.getD 0 0 + 1 ∧ ({ Flash.reset with erases := [(0, 9998)] } : Flash).erases.getD 0 0 + 1 < 10000) ∧
    (segState []).flash.eraseCount 0 + 1 < 10000 ∧ snapTag (regionTag 1 (some 0)) = false ∧ snapTag (regionTag 4 (some 0)) = true ∧
    (let s := segState [(0, 3)]
     let s1 := s.growRegion (regionTag 1 (some 0)) 8 ((s.regionFree (regionTag 1 (some 0))).length + 1)
     s.flash.owner.get 0 = some (regionTag 1 (some 0)) ∧ (segFrames 0).filter (fun f => s.flash.used.has f) = [0] ∧ s.objs.has (s.flash.used.getD 0 0) = true ∧ s.shroud.badFlash = [] ∧
       (7 ∈ s1.regionFree (regionTag 1 (some 0)) ∧ segOf 7 ≠ 0)) ∧
    (({ base with wiping := [(7, 0)] } : State).wiping.has 7 = true ∧ base.shroud.railsOk = true) ∧
    (∀ slot ∈ [none, some 5], (let s : State := { base with adpt := { base.adpt with wipes := [(2, (100, 3, slot))] } }
     s.adpt.wipes.get 2 = some (100, 3, slot))) ∧ base.objs.get 3 = some (ob 1 0 [pg 1 .zero]) := by decide +kernel

/-- Cache entry 2 is being loaded, and a PIN waits for it. -/
def loadWork (failed : List Nat) : Work := ⟨none, 0, none, some 0, .adapterLoad 3 2, [], [], failed, if failed.isEmpty then none else some .integrity, 0, 0, []⟩
def loadState (failed : List Nat) : State :=
  { base with adpt := { base.adpt with cache := [(2, { cache0 .loading [] with waiters := [(65537, 0, 0)] })] }, works := [(6, loadWork failed)] }
theorem witness_SegmentsLoadsAndRebuilds_loads : ∀ l ∈ [[], [0]],
    (loadState l).adpt.cache.get 2 = some { cache0 .loading [] with waiters := [(65537, 0, 0)] } ∧
    (loadState l).works.find? (fun (x : Nat × Work) => match x.2.kind with | .adapterLoad _ i => i == 2 | _ => false) = some (6, loadWork l) ∧ (loadState l).workBusy 6 = false ∧
    ((loadWork l).failed = [] ∨ (loadWork l).status ≠ .ok) := by decide +kernel
def mirroredPg : Pte := mkPte (mkCtl 1 0 0 .valid true false) 7 (mkHandle 3 0)
theorem witness_SegmentsLoadsAndRebuilds_rebuilds :
    ({ base with shroud := { Shroud.reset with failed := [(1, 0)] } } : State).shroud.failed.contains (1, 0) = true ∧ ((ob 1 0 [mirroredPg]).pte 0).mirror = true ∧
    (Shroud.reset.failed.contains (1, 0) = false ∧ base.shroud.railsOk = true) ∧
    ((ob 1 0 [{ pg 1 .valid with sinceSnap := true }]).pte 0).sinceSnap = true ∧ ((ob 1 0 [pg 1 .valid]).pte 0).sinceSnap = false ∧ base.snapCopy 3 0 = none := by decide +kernel

/-! The Carousel and snapshots. -/

/-- A sweep of slot 0 with the boundary and kind given, and its REKEY under way. -/
def swept (kind boundary : Nat) (pages : List Pte) : State :=
  { base with
    shroud := { Shroud.reset with sweeps := [(1, ⟨kind, false, 0, boundary, 3, 6, [], none⟩)] }, works := [(6, ⟨some 65537, 0, some 0, some 0, .rekey 0, [], [], [], none, 0, 0, []⟩)]
    objs := [(3, ob kind 1 pages)], flash := { Flash.reset with owner := [(0, regionTag 1 (some 0))], used := [(7, 3)] } }
theorem witness_CarouselAndSnapshots_sweep :
    (let s := swept 1 120 [pg 1 .valid]
     s.sweep 1 = some ⟨1, false, 0, 120, 3, 6, [], none⟩ ∧ s.works.has 6 = true ∧ s.budgetRailOk 80 = true ∧ s.budgetLeft 80 = true ∧ s.shroud.railsOk = true ∧ s.nextBlock 0 120 = some 120 ∧ s.blockBusy 120 = false ∧
       (let s1 := (s.spend 80 1).settleMeta (blockLines 120)
        s1.shroud.blockLost 120 = false ∧ s1.nodeOf [64 * 120] (some (0, 3)) = some (3, globalOf 120 / 512))) ∧
    (let s := { swept 1 120 [pg 1 .valid] with accs := [(6, { acc0 .hbmRead 0 with off := 32768 })] }
     s.nextBlock 0 120 = some 120 ∧ s.blockBusy 120 = true) ∧
    (let s := { swept 1 120 [pg 1 .valid] with shroud := { (swept 1 120 []).shroud with failed := [(1, globalOf 120 / 8)] } }
     s.nextBlock 0 120 = some 120 ∧ s.blockBusy 120 = false ∧ ((s.spend 80 1).settleMeta (blockLines 120)).shroud.blockLost 120 = true) ∧
    (let x : Sweep := ⟨1, false, 0, 120, 3, 6, [], some (120, 50)⟩
     let s := { swept 1 120 [pg 1 .valid] with shroud := { Shroud.reset with sweeps := [(1, x)] } }
     s.sweep 1 = some x ∧ s.nextBlock 0 120 = some 120 ∧ ((s.spend 80 1).settleMeta (blockLines 120)).shroud.blockLost 120 = false) ∧
    (∀ b < 2, (let s := swept 2 b [pg 2 .sealedPg, { pg 2 .sealedPg with frame := 14 }]
      let s1 := s.spend 80 16
      s.sweep 1 = some ⟨2, false, 0, b, 3, 6, [], none⟩ ∧ s1.objs.get 3 = some (ob 2 1 [pg 2 .sealedPg, { pg 2 .sealedPg with frame := 14 }]) ∧ s1.shroud.badFlash = [] ∧
        (s1.pickFlash (regionTag 1 (some 0)) 1 [21]).isSome = true)) ∧
    (({ swept 1 120 [pg 1 .valid] with works := [] } : State).pauseSweep 1 ⟨1, false, 0, 120, 3, 6, [], none⟩ .integrity).sweep 1 = some ⟨1, true, 0, 120, 3, 6, [], none⟩ := by decide +kernel
def snapPg : Pte := mkPte (mkCtl 1 0 0 .valid false false + 6144) 7 (mkHandle 3 0)
def snap0 (todo : List (Nat × Nat)) (cmd : Option (Nat × Nat)) : Snap := ⟨1, 90, false, false, cmd, todo, [], JView.empty, [], 0, [], 0, [], [], false⟩
/-- A snapshot of partition 0 with its one page still to copy; its region holds segment 0. -/
def snapState (x : Snap) : State :=
  { base with
    objs := [(3, ob 1 0 [snapPg])], parts := [(0, { PartSt.reset with sess := ses, net := { Net.reset with running := some x } })]
    flash := { Flash.reset with owner := [(0, regionTag 4 (some 0))] } }
/-- The lines of the page. -/
def snapLines : List Nat := ((ob 1 0 [snapPg]).pte 0).lines
theorem witness_CarouselAndSnapshots_snapshot :
    (let x := snap0 [(3, 0)] none
     let s := snapState x
     (s.net 0).running = some x ∧ s.snapOrphan x = false ∧
       (let s1 := s.protect (x.todo.filter (fun e => match s.objs.get e.1 with | some o => !(o.pte e.2).snap | none => false))
        let o := ob 1 0 [snapPg]
        s1 = s ∧ s1.nextSnapPage 0 x = some (3, 0) ∧ s1.objs.get 3 = some o ∧ s1.lockedFor snapLines = false ∧ s1.shroud.railsOk = true ∧ (o.pte 0).readVerdict = .ok ∧ (o.pte 0).tier = 1 ∧
          s1.settleMeta snapLines = s1)) ∧
    (let s2 := (snapState (snap0 [(3, 0)] none)).useMeta (some 0) snapLines
     s2.keyServes 3 = true ∧ (s2.snapFrame 0).isSome = true ∧ s2.budgetRailOk 81 = true ∧ s2.budgetLeft 81 = true) ∧
    (snap0 [] none).again = false ∧ (snap0 [] (some (65537, 0))).todo = [] ∧ (snap0 [] (some (65537, 0))).cmd = some (65537, 0) ∧
    (let s := { base with dev := { base.dev with regs := [(0x100000 + 8 * 81, 5), (0x100004 + 8 * 81, 2 ^ 32 - 6)], used := [(81, 5)] } }
     s.budgetRailOk 81 = true ∧ s.budgetLeft 81 = false) := by decide +kernel
theorem witness_CarouselAndSnapshots_loaded : ((snapState (snap0 [(3, 0)] none)).useMeta (some 0) snapLines).shroud.badLines 7 0 pageBytes = [] :=
  State.useMeta_badLines _ _ _ _ _ _ rfl rfl

/-! Restores and SEC. -/

/-- Partition 0 with one context, whose object 3 takes the map, and snapshot 1 kept. -/
def restBase (n : Net) : State :=
  { base with ctxs := [(0, cx)], events := [], parts := [(0, { PartSt.reset with sess := ses, regs := [(rRestore, 2 ^ 32), (rRestoreMap, 3)], net := { n with snaps := [snap0 [] none] } })] }
theorem witness_RestoresAndReplays :
    (({ restBase Net.reset with ctxs := [] } : State).restorer 0 = none) ∧ ((restBase Net.reset).net 0).restore = none ∧ (restBase Net.reset).restorer 0 = some 0 ∧ (restBase Net.reset).ctxs.get 0 = some cx ∧
    (let s := restBase { Net.reset with restore := some ⟨1, 0⟩ }
     (s.net 0).restore = some ⟨1, 0⟩ ∧ (s.net 0).snap 1 = some (snap0 [] none) ∧ s.ctxs.has 0 = true ∧ (snap0 [] none).sealed = (s.part 0).sess.sealValue ∧
       { snap0 [] none with sealed := 1 }.sealed ≠ (s.part 0).sess.sealValue ∧ ((s.applyRestore 0 0 (snap0 [] none) false).2.ctxs.get 0).isSome = true) ∧
    base.compUp cpDigest = true ∧ ({ base with onlyn := { Onlyn.reset with comps := [(cpDigest, ⟨some (.timeout, 0), []⟩)] } } : State).compUp cpDigest = false := by decide +kernel

/-- The device runs: it has power, and start-up has ended. -/
def live (s : State) : State := { s with pwr := { s.pwr with off := false }, dev := { s.dev with regs := [(rStartup, 2 ^ 31)] } }
/-- Partition 0 stands in a session state. -/
def sessAt (x : Session) : State := live { base with parts := [(0, { PartSt.reset with sess := x })] }
def layOk : Layout := { lay0 with keyBase := 64, adapterPages := 0, flashSegments := 0, snapSegments := 0 }
theorem witness_MessagesWaitTheirTurn :
    base.doeOpen = false ∧ (live base).doeOpen = true ∧ (live base).mailWaits (.layoutClear hdr0) = false ∧
    ({ live base with sec := { Sec.reset with mailbox := [.sessionKey hdr0] } } : State).mailWaits (.layoutClear hdr0) = true ∧
    ({ live base with sec := { Sec.reset with down := some 0 } } : State).sec.down.isSome = true ∧ ({ live base with sec := { Sec.reset with wiping := some ⟨4, 0, 0, true⟩ } } : State).sec.wiping.isSome = true ∧
    ({ live base with boot := { Boot.reset with run := some ⟨[], [], [], [], false, false, [], [], true, true, true⟩ } } : State).boot.run.isSome = true ∧
    Instr.sessionKey hdr0 ∈ [Instr.sessionKey hdr0] ∧ msgPart (.sessionKey hdr0) = msgPart (.layoutClear hdr0) ∧ (msgPart (.layoutClear hdr0)).isSome = true := by decide +kernel
def asg : Session := { Session.none with st := .assigned, layout := some layOk, keyPair := 5, reports := [(7, 50)] }
theorem witness_LayoutsAndSessions_layouts :
    (∀ x, (sessAt x).doeOpen = true) ∧ (sessAt Session.none).mailWaits (.layoutSet hdr0 layOk) = false ∧ (sessAt Session.none).layoutFails hdr0 layOk = none ∧
    (sessAt Session.none).mailWaits (.layoutSet hdr0 lay0) = false ∧ (sessAt Session.none).layoutFails hdr0 lay0 = some .malformed ∧ 16 ≤ (⟨16, 0, 0, 0, 0⟩ : SecHdr).part.toNat ∧ 16 ≤ (⟨255, 0, 0, 0, 0⟩ : SecHdr).part.toNat ∧
    (15 : Nat) < 16 ∧ ((sessAt ses).part 0).sess.st = .bound ∧ ((sessAt { ses with st := .closing }).part 0).sess.st = .closing ∧
    (∀ x ∈ [asg, Session.none, ses], (sessAt x).mailWaits (.layoutClear hdr0) = false ∧ (sessAt x).mailWaits (.sessionKey hdr0) = false) ∧ ((sessAt asg).part 0).sess.st = .assigned ∧
    ((sessAt Session.none).part 0).sess.st = .free ∧ (sessAt asg).mailWaits (.sessionKey ⟨255, 0, 0, 0, 0⟩) = false := ⟨fun _ => rfl, by decide +kernel⟩

/-- A message whose tag is the one that a channel key of 9 gives. -/
def signed (seq : U64) (ty : Nat) (body : Bytes) : SecHdr := ⟨0, seq, tenantTag 9 ty ⟨0, seq, 0, 0, 0⟩ body, 0, 0⟩
/-- A BOUND session with channel key 9 whose last sequence number is 6. -/
def ses9 : Session := { ses with layout := some layOk, channel := some 9, lastSeq := 6 }
theorem tenantFails_none (s : State) (h : SecHdr) (ty : Nat) (body : Bytes) (x : Session) (kc : U256) (h1 : (s.part h.part.toNat).sess = x) (h2 : x.st = .bound) (h3 : x.channel = some kc)
    (h4 : h.tag = tenantTag kc ty h body) (h5 : x.lastSeq < h.seq.toNat) : s.tenantFails ty h body = none := by
  subst h1
  have h6 : ¬ h.seq.toNat ≤ (s.part h.part.toNat).sess.lastSeq := by omega
  simp [State.tenantFails, h2, h3, ← h4, h6]
theorem tenant_ok (ty : Nat) (body : Bytes) : (sessAt ses9).tenantFails ty (signed 7 ty body) body = none :=
  tenantFails_none _ _ _ _ ses9 9 rfl rfl rfl rfl (by show 6 < (7 : U64).toNat; decide)
def bindHdr (ct : Bytes) (report : U384) (masked : U256) : SecHdr := ⟨0, 0, tenantTag (bindKey 5 ct report) 0x04 ⟨0, 0, 0, 0, 0⟩ (ct ++ leBytes 48 report.toNat ++ leBytes 32 masked.toNat), 0, 0⟩
theorem bindFails_none (s : State) (h : SecHdr) (ct : Bytes) (report : U384) (masked : U256) (h1 : ¬ 16 ≤ h.part.toNat) (h2 : h.seq = 0) (h3 : (s.part h.part.toNat).sess.st = .assigned) (h4 : s.sec.life = 3)
    (h5 : (s.part h.part.toNat).sess.reports.any (fun r => r.1 == report && decide (s.ts ≤ r.2 + 60000000000)) = true)
    (h6 : h.tag = tenantTag (bindKey (s.part h.part.toNat).sess.keyPair ct report) 0x04 h (ct ++ leBytes 48 report.toNat ++ leBytes 32 masked.toNat)) (h7 : secClean h = true) : s.bindFails h ct report masked = none := by
  unfold State.bindFails
  simp only [h7, h1, h2, h3, h4, h5, ← h6, bne_self_eq_false]
  simp
theorem witness_LayoutsAndSessions_bind :
    (∀ ct masked, (sessAt asg).bindFails (bindHdr ct 7 masked) ct 7 masked = none ∧ (sessAt asg).mailWaits (.sessionBind (bindHdr ct 7 masked) ct 7 masked) = false) ∧ (sessAt asg).lifeOk = true ∧
    asg.layout = some layOk ∧ (∀ ct masked, (sessAt ses).bindFails (bindHdr ct 7 masked) ct 7 masked = some .key) ∧ ses.st ≠ .assigned ∧
    ({ sessAt asg with sec := { Sec.reset with lifeN := 0 } } : State).lifeOk = false :=
  ⟨fun ct masked => ⟨bindFails_none _ _ _ _ _ (by show ¬ 16 ≤ (0 : U8).toNat; decide) rfl rfl rfl (by show asg.reports.any (fun r => r.1 == 7 && decide ((100 : Nat) ≤ r.2 + 60000000000)) = true; decide +kernel) rfl rfl, rfl⟩, by decide +kernel, rfl, fun _ _ => rfl, by decide, by decide⟩
theorem witness_LayoutsAndSessions_tenant :
    (∀ ty body, (sessAt ses9).tenantFails ty (signed 7 ty body) body = none) ∧ ses9.st = .bound ∧ ses9.channel = some 9 ∧
    (∀ ty body, (signed 6 ty body).tag = tenantTag 9 ty (signed 6 ty body) body ∧ (signed 6 ty body).seq.toNat ≤ ses9.lastSeq) ∧
    (∀ ty body (h : SecHdr), h = { signed 6 ty body with tag := (signed 6 ty body).tag + 1 } → h.tag ≠ tenantTag 9 ty h body) ∧ (∀ h, (sessAt ses9).mailWaits (.sessionClose h) = false) ∧ asg.st ≠ .bound := by
  refine ⟨tenant_ok, rfl, rfl, fun ty body => ⟨rfl, ?_⟩, ?_, fun _ => rfl, by decide⟩
  · show (6 : U64).toNat ≤ 6
    decide
  · rintro ty body h rfl h2
    have h3 : (signed 6 ty body).tag + 1#256 = (signed 6 ty body).tag := h2
    have h4 := congrArg BitVec.toNat h3
    simp [BitVec.toNat_add] at h4
    have h5 := (signed 6 ty body).tag.isLt
    omega
/-- A reserved byte of a message that is not zero; a message like it that a tenant sends is tagged with it. -/
def dirty (seq : U64) (ty : Nat) (body : Bytes) : SecHdr := ⟨0, seq, tenantTag 9 ty ⟨0, seq, 0, 1, 0⟩ body, 1, 0⟩
theorem witness_LayoutsAndSessions_dirty :
    (∀ seq ty body, secClean (dirty seq ty body) = false) ∧ secClean hdr0 = true ∧ secClean { hdr0 with pad := 1 } = false ∧ (∀ ty body, (sessAt ses9).tenantFails ty (dirty 7 ty body) body = none) ∧
    (∀ l, (sessAt Session.none).mailWaits (.layoutClear (dirty 7 2 [])) = false ∧ (sessAt Session.none).mailWaits (.layoutSet (dirty 7 1 []) l) = false) :=
  ⟨fun _ _ _ => rfl, rfl, rfl, fun ty body => tenantFails_none _ _ _ _ ses9 9 rfl rfl rfl rfl (by show 6 < (7 : U64).toNat; decide), fun _ => ⟨rfl, rfl⟩⟩
/-- A layout with columns that a partition that was cleared still has zeroed. -/
def zeroingState : State := { sessAt Session.none with parts := [(1, { PartSt.reset with sess := { Session.none with layout := some layOk, clearing := true } })] }
theorem witness_LayoutsAndSessions_zeroing : zeroingState.layoutFails hdr0 layOk = none ∧ zeroingState.zeroing layOk = true ∧ zeroingState.mailWaits (.layoutSet hdr0 layOk) = true := by decide +kernel

/-! Key slots, consent, cores, the life cycle. -/

/-- The session after an accepted message 7. -/
def after7 : State := (sessAt ses9).setSess 0 { ses9 with lastSeq := 7 }
theorem witness_KeyMessages_slots :
    (∀ i, (msgPart i).isSome = true → (∀ h l, i ≠ .layoutSet h l) → (sessAt ses9).mailWaits i = false) ∧ (∀ ty body, (sessAt ses9).tenantFails ty (signed 7 ty body) body = none) ∧
    (∀ h : SecHdr, h.part = 0 → after7.slotFails h 65 = none ∧ after7.slotFails h 64 = some .bounds ∧ after7.slotFails h 10 = some .key) := by
  refine ⟨?_, tenant_ok, ?_⟩
  · intro i _ h2
    unfold State.mailWaits
    split
    · exact absurd rfl (h2 _ _)
    · simp [sessAt, live, base, State.reset, Sec.reset, Boot.reset]
  · intro h h1
    have h2 : ∀ k, after7.slotGranted h k = after7.slotGranted ⟨0, 0, 0, 0, 0⟩ k := by intro k; simp [State.slotGranted, h1]
    have h3 : ∀ k, after7.isMemorySlot h k = after7.isMemorySlot ⟨0, 0, 0, 0, 0⟩ k := by intro k; simp [State.isMemorySlot, h1]
    unfold State.slotFails
    simp only [h2, h3]
    decide +kernel
theorem witness_KeyMessages_withdraw :
    (let s1 := { after7 with keys := [(65, filledSlot .tier 1)] }
     s1.slotGranted ⟨0, 7, 0, 0, 0⟩ 65 = true ∧ s1.isMemorySlot ⟨0, 7, 0, 0, 0⟩ 65 = false ∧ (s1.key 65).st = .active) ∧ (∀ seq ty body, secClean (signed seq ty body) = true) ∧
    (let s := { after7 with keys := [(65, filledSlot .tier 1)] }
     s.regRails = true ∧ (s.endSweep 65).protectedBy 65 = [] ∧ (s.endSweep 65).regRails = true) := ⟨by decide +kernel, fun _ _ _ => rfl, by decide +kernel⟩
/-- The first token of the session, with seq 0, in force from now on. -/
def token0 : ConsentToken := ⟨0x31534E43, 0, 3, 0, 0, 0, 0, 0, 0, 0⟩
def token : ConsentToken := { token0 with tag := kmac256 (leBytes 32 (9 : U256).toNat) (tokenBytes token0) 256 "FKL CONSENT" }
theorem witness_KeyMessages_consent : after7.tokenFails 0 token = none := by
  have h1 : (after7.part 0).sess = { ses9 with lastSeq := 7 } := rfl
  have h2 : tokenBytes token = tokenBytes token0 := by simp only [tokenBytes, token]
  unfold State.tokenFails
  rw [h1, h2]
  simp [token, token0, ses9, ses, Session.none]
/-- The 64 bytes of zeros of object 3 are the code. -/
def coreA : CoreStartArgs := ⟨3, 0, 64, 0, BitVec.ofNat 384 (leNat (sha384 (zeros 64)))⟩
theorem witness_KeyMessages_core : ((after7.setKey 0 (filledSlot .memory 1)).coreFails 0 coreA) = none := by decide +kernel

/-- A life-cycle state. -/
def lifeAt (n : U32) : State := { sessAt Session.none with sec := { Sec.reset with life := n, lifeN := ~~~n } }
theorem witness_LifeCycle :
    (∀ e ∈ [((2 : U32), 3), (3, 4), (3, 5), (4, 5)], (lifeAt e.1).doeOpen = true ∧ (lifeAt e.1).lifeOk = true ∧ (lifeAt e.1).lifeFails e.2 [] = none) ∧
    (∀ h target token, (lifeAt 3).mailWaits (.lifecycle h target token) = false) ∧ secClean hdr0 = true ∧ secClean (dirty 7 11 []) = false ∧ (lifeAt 3).lifeFails 2 [] = some .malformed ∧ (sessAt ses).lifeFails 4 [] = some .bounds ∧
    ({ lifeAt 3 with sec := { Sec.reset with lifeN := 0 } } : State).lifeOk = false ∧ ({ lifeAt 3 with sec := { Sec.reset with wiping := some ⟨4, 0, 0, true⟩ } } : State).sec.wiping = some ⟨4, 0, 0, true⟩ ∧
    (∀ b, (let x := { ses with st := .closing, clearing := b }
      ((sessAt x).part 0).sess.st = .closing ∧ ((sessAt x).part 0).sess.layout = some lay0 ∧ ((sessAt x).part 0).sess.clearing = b)) ∧ (zeroingState.part 1).sess.st = .free ∧ (zeroingState.part 1).sess.clearing = true :=
  ⟨by decide +kernel, fun _ _ _ => rfl, rfl, rfl, by decide, by decide, by decide, rfl, fun _ => ⟨rfl, rfl, rfl⟩, rfl, rfl⟩

theorem witness_LifeCycle_start :
    (let s : State := { lifeAt 3 with boot := { Boot.reset with run := some ⟨[], [], [], [], false, false, [], [], true, true, true⟩, linked := true } }
     s.boot.run.isSome = true ∧ s.boot.held = false ∧ s.dev.fault = none ∧ s.boot.linked = true ∧ s.sec.life.toNat ≠ 1 ∧ ({ s with sec := { s.sec with record := some 2 } } : State).sec.record ≠ some s.sec.life.toNat) := by decide +kernel

/-- The SPDM connection in a state, with an answer being fetched in chunks. -/
def spdmAt (st : SpdmSt) (b : Bytes) : State := { live base with sec := { Sec.reset with spdm := st, large := some (5, b, 0) } }
def fnAt (f : FnSt) : State := { live base with fns := [(1, f)] }
theorem witness_SpdmMessages :
    (∀ st b, (spdmAt st b).doeOpen = true ∧ (∀ i, msgPart i = none → (spdmAt st b).mailWaits i = false) ∧ (spdmAt st b).sec.spdm = st ∧ (spdmAt st b).sec.large = some ((5 : U8).toNat, b, (0 : U16).toNat)) ∧
    (spdmAt .version []).sec.spdm ≠ .negotiated ∧ ((1 : U8).toNat < 2 ∧ (0 : U8).toNat < 2) ∧ (spdmAt .negotiated []).lifeOk = true ∧ subjectOf 0x40 = some (some 0) ∧ subjectOf 0x4F = some (some 15) ∧ subjectOf 0x50 = some none ∧
    (let f := fnAt { FnSt.reset with ide := .keyed, ideKey := some 1 }
     (f.fn 1).ideKey.isSome = true ∧ (f.fn 1).ide ≠ .insecure) ∧ ((live base).fn 1).tdisp = .configUnlocked ∧
    (let f := fnAt { FnSt.reset with ide := .secure, tdisp := .configLocked }
     (f.fn 1).tdisp = .configLocked ∧ (f.fn 1).ide = .secure) ∧ ((fnAt { FnSt.reset with tdisp := .configLocked }).fn 1).ide ≠ .secure ∧ ((fnAt { FnSt.reset with tdisp := .run }).fn 1).tdisp = .run ∧
    ({ live base with dev := { (live base).dev with closedPcie := true } } : State).doeOpen = false := by
  refine ⟨fun st b => ⟨rfl, ?_, rfl, rfl⟩, by decide +kernel⟩
  intro i h
  unfold State.mailWaits
  split
  · cases h
  · simp [h, spdmAt, live, base, State.reset, Sec.reset, Boot.reset]

/-! Components, registers, negotiation. -/

def compAt (c : Nat) (x : CompSt) : State := { live base with onlyn := { Onlyn.reset with comps := [(c, x)] } }
theorem witness_ComponentFaults :
    (live base).sec.down = none ∧ (live base).fourthFall cpSec = false ∧ ({ live base with sec := { Sec.reset with down := some 5 } } : State).sec.down.isSome = true ∧
    (∀ c ∈ [0, 2, 3, 4, 5, 6, 7, 8], c ≠ cpSec ∧ (compAt c ⟨none, [1, 2, 3]⟩).compUp c = true ∧ (compAt c ⟨none, [1, 2, 3]⟩).fourthFall c = true ∧ (compAt c ⟨none, [1, 2]⟩).fourthFall c = false) ∧
    (∀ c ∈ [2, 3, 4, 5, 6, 7, 8], (compAt c ⟨some (.timeout, 7), []⟩).onlyn.comps.get c = some ⟨some (.timeout, 7), []⟩ ∧ (compAt c ⟨some (.timeout, 7), []⟩).compUp cpBoot = true) := by decide +kernel

theorem witness_RegisterAccesses :
    (∀ f < 17, (false && f == 0) = false) ∧ (∀ f < 17, f ≠ 0 → (true && f == 0) = false) ∧ ((rPwrCap : Nat) % 8 = 0 ∧ (live base).bar0Open 0 rPwrCap = true ∧ (live base).served false 0 rPwrCap = true) ∧
    (live base).bar0Open 0 0x2000 = true ∧ (live base).served false 0 0x2000000 = false ∧ (live base).latchOf false 0 = none ∧ halves 0x2000 = false ∧ 0x2000 % 8 = 0 ∧
    ({ live base with fns := [(0, { FnSt.reset with latch := some (0x2004, 9) })] } : State).latchOf false 0 = some (0x2004, 9) ∧ base.pwr.off = true ∧ base.bar0Open 0 0 = false := by decide +kernel

theorem witness_RegisterAccesses_time :
    (live base).bar0Open 0 0x48 = true ∧ (∀ core, (live base).served core 0 0x48 = true) ∧ (offRails (live base)).bar0Open 0 0x103018 = true ∧ (offRails (live base)).shroud.railsOk = false := by decide +kernel
/-- Rails that differ: the high-water mark's, a budget word's, and those of set 0 of a partition that consents. -/
def offBudget : State := { live base with dev := { (live base).dev with regs := [(rStartup, 2 ^ 31), (0x100000, 5)] } }
def offCommit : State :=
  { live base with
    usets := [(0, { uset0 0 with commitN := 0 })], parts := [(0, { PartSt.reset with sess := { ses with consentFlags := 1 } })] }
theorem witness_RegisterAccesses_rails :
    (offRails (live base)).fnOpen 0 = true ∧ offBudget.fnOpen 0 = true ∧ offBudget.bar0Open 0 0x100000 = true ∧ offBudget.budgetRailOk 0 = false ∧
    offCommit.bar0Open 0 0x2003100 = true ∧ offCommit.served false 0 0x2003100 = true ∧ (offCommit.usets.get 0).map (fun u => u.railOk) = some false ∧
    (live base).readFault false 0 0x2000 = none ∧ (offCommit.readFault false 0 0x2003100).isSome = true := by decide +kernel
/-- A refusal leaves the agreement before it in force (R436). -/
theorem test_refused_negotiation :
    ({ live base with fns := [(0, { FnSt.reset with regs := [(0x44, 10), (0xA0, 0x1083)] })] } : State).featureOk 0 .snapshot = true ∧
    ({ live base with fns := [(0, { FnSt.reset with regs := [(0x44, 10)] })] } : State).featureOk 0 .snapshot = false := by decide +kernel
/-- Queue 1 of function 1, whose doorbell page stands at 0x1000. -/
theorem witness_RegisterAccesses_doorbell :
    (let s := { live (hostIn base .snapshot) with pins := { Pins.reset with vfEnable := true } }
     s.fnOpen 1 = true ∧ ∀ o ∈ [0x1000, 0x1004, 0x1008, 0x100C], (s.queues.get (65536 * 1 + o / 4096)).isSome = true) ∧
    halves rStartup = true := by decide +kernel

def offer (v : Nat) : State := { live base with fns := [(0, { FnSt.reset with regs := [(0x40, v * 256), (0x80, 0x1083)] })] }
/-- A debug select of tile 0's region 1 in a partition that consents, or does not. -/
def dbgAt (flags : Nat) (failed : Bool) : State :=
  { live base with
    dev := { (live base).dev with regs := [(rStartup, 2 ^ 31), (rDbgSel, 8)] }, parts := [(0, { PartSt.reset with sess := { ses with consentFlags := flags } })]
    tiles := [(0, { tile0 with failed := failed })] }
theorem witness_NegotiationAndDebug :
    (∀ v ∈ [3, 4, 5], (offer v).bar0Open 0 0x40 = true ∧ (offer v).ctxs = [] ∧ bitsOf (((offer v).fn 0).regs.getD 0x40 0) 8 8 = v) ∧ base.bar0Open 0 0x40 = false ∧
    (let s := dbgAt 2 false
     let s1 := s.setLatch false 0 none
     s.bar0Open 0 0x3000000 = true ∧ bitsOf (s.dreg rDbgSel 0) 8 8 = 0 ∧ bitsOf (s.dreg rDbgSel 0) 3 3 = 1 ∧ bitsOf (s.dreg rDbgSel 0) 6 2 = 0 ∧ 0x3200000 - 0x3200000 + 8 ≤ regionSize 1 ∧ (s1.tile 0).failed = false ∧
       s1.tileCut 0 = false ∧ s1.tilePart 0 = some 0 ∧ s1.consent 0 1 = true) ∧ ((dbgAt 1 false).setLatch false 0 none).consent 0 1 = false := by decide +kernel

theorem witness_NegotiationAndDebug_refused :
    (let s : State := { offer 4 with ctxs := [(0, { cx with fn := 1 })] }
     s.bar0Open (1 : Fn).val 0x40 = true ∧ ∃ e ∈ s.ctxs, e.2.fn = (1 : Fn).val) := by decide +kernel
theorem witness_NegotiationAndDebug_before : base.ready = false ∧ base.onlyn.recovery = false := by decide

/-! Time, power, resets. -/

theorem witness_TimeTicks : (live base).pwr.off = false ∧ base.pwr.off = true ∧ base.pwr.shut = false ∧ (live base).rig.steer = 0 ∧ (live base).pwr.frac < 2 ^ 32 ∧ (live base).pwr.sub ≤ 19 ∧ (live base).ts + 20 < 2 ^ 64 ∧ (live base).ts - (live base).pwr.sub + ((live base).pwr.frac + tickStep 0) / 2 ^ 32 < 2 ^ 64 ∧
    ({ base with pwr := { base.pwr with shut := true } } : State).pwr.shut = true := by decide +kernel
theorem witness_PowerLoops :
    ((live base).pwr.off = false ∧ ({ live base with pwr := { (live base).pwr with rails := [(0, 700)] } } : State).pwr.rails ≠ [] ∧
      ({ live base with dev := { (live base).dev with regs := [(0x100004, 7)] } } : State).budgetRailOk 0 = false) ∧
    (live base).pwrRuns = true ∧ (live base).pwr.asleep = false ∧ (live base).capWatts = 1650 ∧ (live base).budgetRailOk 80 = true ∧
    (let s : State := { live base with dev := { (live base).dev with regs := [(0x100000 + 8 * 80, 1000)], used := [(80, 1000)] } }
     s.budgetWord 80 % 2 ^ 20 ≠ 0xFFFFF ∧ s.dev.used.getD 80 0 ≤ s.budgetWord 80 % 2 ^ 20) ∧ (live base).pwr.trip = false ∧ ({ live base with pwr := { (live base).pwr with trip := true } } : State).pwr.trip = true := by decide +kernel
def domAt (d : Nat) (x : Dom) : State := { live base with ts := 10000000000, pwr := { (live base).pwr with doms := [(d, x)] } }
theorem witness_BrakeTripAndDomains :
    (∀ d < 96, ((domAt d ⟨false, some 0, 0⟩).dom d).waking = some 0 ∧ 0 + 10 * wakeLatency d ≤ (domAt d ⟨false, some 0, 0⟩).ts ∧
      ((domAt d ⟨false, some 9999999999, 0⟩).dom d).waking = some 9999999999 ∧ (domAt d ⟨false, some 9999999999, 0⟩).ts < 9999999999 + 10 * wakeLatency d) ∧
    (domAt 3 ⟨true, none, 0⟩).mayOff 3 = true ∧ ({ domAt 23 ⟨true, none, 0⟩ with parts := [] } : State).mayOff 23 = true := by decide +kernel
theorem witness_BrakeTripAndDomains_off : (domAt 3 ⟨false, none, 0⟩).mayOff 3 = false ∧ ((domAt 3 ⟨true, none, 0⟩).dom 3).waking = none := by decide +kernel
def good : StartupOutcome := ⟨[], [], [], [], false, false, [], [], true, true, true⟩
theorem witness_ResetsAndStartUp :
    State.reset.pins.pwrGood = false ∧ ({ live base with pins := { Pins.reset with pwrGood := true } } : State).pins.pwrGood = true ∧ (live base).boot.held = false ∧
    (let s : State := { live base with boot := { Boot.reset with run := some good, held := true } }
     s.boot.run = some good ∧ s.boot.held = true) ∧ ({ live base with pwr := { (live base).pwr with asleep := true } } : State).pwr.asleep = true ∧
    (let s : State := { live base with ts := 10000007, dev := { (live base).dev with fault := some (.parity, 7), regs := [(rRstCtrl, 0x20)] } }
     s.dev.fault = some (.parity, 7) ∧ bitOf (s.dreg rRstCtrl 0x20) 5 = true ∧ 7 + 10000000 ≤ s.ts) ∧ (live base).bar0Open 0 rRstCtrl = true ∧ (live base).bar0Open 0 0x620 = true ∧
    (∀ p < 16, (({ live base with parts := [] } : State).part p).sess.st = .free) ∧ { good with railsOk := false }.railsOk = false ∧ ({ live base with sec := { Sec.reset with lifeN := 0 } } : State).lifeOk = false ∧
    (let s : State := { live base with boot := { Boot.reset with run := some good, linked := true } }
     s.boot.run = some good ∧ s.boot.held = false ∧ s.dev.fault = none ∧ s.boot.linked = true ∧ s.sec.record = some s.sec.life.toNat) := by decide +kernel

/-! Firmware, host memory, functions, the sideband. -/

def fwAt (phase len : Nat) : State := { live base with dev := { (live base).dev with regs := [(rFwLen, len), (rFwStatus, phase * 256), (rStartup, 2 ^ 31)] } }
def fwImg : FwImage := ⟨[], true, true, 0xFFFF⟩
theorem witness_FirmwareUpdate :
    (∀ ph ∈ [0, 4], ∀ n ∈ [4096, 33554432], (fwAt ph n).bar0Open 0 0x100 = true ∧ (fwAt ph n).compUp cpBoot = true ∧ (fwAt ph n).fwPhase = ph ∧ (fwAt ph n).onlyn.recovery = false ∧ (fwAt ph n).ctxs = [] ∧
      4096 ≤ (fwAt ph n).dreg rFwLen 0 ∧ (fwAt ph n).dreg rFwLen 0 ≤ 33554432) ∧ ((fwAt 0 4095).dreg rFwLen 0 < 4096 ∧ 33554432 < (fwAt 0 33554433).dreg rFwLen 0) ∧
    (let s := { fwAt 3 4096 with onlyn := { Onlyn.reset with staged := some fwImg } }
     s.onlyn.staged = some fwImg ∧ s.fwPhase = 3 ∧ s.compUp cpBoot = true) ∧ (fwAt 2 4096).fwPhase = 2 ∧ (fwAt 2 4096).sec.down = none ∧ (fwImg.rsaOk && fwImg.slhOk) = true := by decide +kernel
theorem witness_FirmwareUpdate_power : (fwAt 4 4096).fwPhase ≠ 3 ∧ { good with railsOk := false }.railsOk = false ∧ (fwAt 3 4096).fwPhase = 3 := by decide
theorem witness_FirmwareUpdate_version : Config.rollbackFuse.toNat ≤ fwImg.securityVersion.toNat := by
  show Config.rollbackFuse.toNat ≤ (0xFFFF : BitVec 16).toNat
  have h := Config.rollbackFuse.isLt
  have h2 : (0xFFFF : BitVec 16).toNat = 65535 := by decide
  omega
/-- A COPY from host memory under slot 17 waits for its one block of 64 bytes. -/
def hostAcc : Access := ⟨.hostRead, .work 6, false, 0, 0, 64, [], 0, 0, [], 0, true, 0, 0⟩
def hostWork : Work := ⟨some 65537, 2, some 0, some 0, .copy ⟨0xFFFFFFFF, 3, 0, 0, 64, 0, 17⟩, [⟨0, 64, 0⟩], [], [], none, 0, 0, []⟩
def hostState (k : KeySlot) : State := { base with keys := [(17, k)], accs := [(9, hostAcc)], works := [(6, hostWork)], ts := 50000 }
def goodBlock : HostBlock := ⟨0, 0, 0, zeros 64, gcmTag 1 ((blockHeader 0 0 0 64).take 12) (blockHeader 0 0 0 64) (zeros 64)⟩
theorem witness_HostMemoryAnswers :
    (∀ k, (hostState k).acc? 9 = some hostAcc ∧ hostAcc.kind = .hostRead ∧ hostAcc.owner = .work 6 ∧ (hostState k).works.get 6 = some hostWork ∧ hostWork.chunks[hostAcc.chunk]? = some ⟨0, 64, 0⟩ ∧ wrapOf hostWork = some 17 ∧
      ((hostState k).dropAcc 9).key 17 = k ∧ ((hostState k).dropAcc 9).works.get 6 = some hostWork ∧ hostWork.ctx = some 0 ∧ hostWork.q = some 65537 ∧ hostAcc.since + 1000 * (hostState k).pins.ctoUs ≤ (hostState k).ts) ∧
    (filledSlot .transport 1).st = .active ∧ KeySlot.reset.st ≠ .active ∧ blockOk 1 (hostBase hostWork) ⟨0, 64, 0⟩ goodBlock = true ∧ blockOk 1 (hostBase hostWork) ⟨0, 64, 0⟩ { goodBlock with direction := 1 } = false ∧
    ({ hostState KeySlot.reset with ts := 49999 } : State).ts < hostAcc.since + 1000 * 50 := by
  refine ⟨fun k => ⟨rfl, rfl, rfl, rfl, rfl, rfl, rfl, rfl, rfl, rfl, ?_⟩, rfl, by decide, ?_, rfl, ?_⟩
  · show 0 + 1000 * 50 ≤ 50000
    decide
  · simp [blockOk, goodBlock, hostBase, hostWork, zeros]
  · show 49999 < 0 + 1000 * 50
    decide
theorem witness_FunctionsAndSideband :
    (live base).ready = true ∧ (∀ t ∈ [TdispSt.run, .configLocked], ((fnAt { FnSt.reset with ide := .secure, tdisp := t }).fn 1).ide = .secure ∧ ((fnAt { FnSt.reset with ide := .secure, tdisp := t }).fn 1).tdisp = t) ∧
    (live base).pwr.off = false ∧ (live base).pwr.asleep = false ∧ ({ live base with pins := { Pins.reset with perst := false } } : State).pins.perst = false ∧ (live base).aonOn = true ∧
    (∀ id < 35, id ≠ 0 → ((live base).thresholds id).isSome = true) ∧ (({ live base with pwr := { (live base).pwr with doms := (List.range 96).map (fun d => (d, ⟨true, none, 0⟩)) } } : State).sensor 1).isSome = true := by decide +kernel
theorem witness_FunctionsAndSideband_more :
    (live base).dev.closedPcie = false ∧ ({ live base with pins := { Pins.reset with perst := false } } : State).dev.closedPcie = false ∧ fieldLE [0, 0, 2] 2 1 ≠ 1 ∧ fieldLE [1, 0] 0 2 = 1 ∧
    (let s : State := { live base with pwr := { (live base).pwr with doms := [(40, ⟨false, none, 0⟩)] } }
     sensorDomain 3 = some 40 ∧ (s.dom 40).on = false) ∧
    (sensorDomain 1 = none ∧ (live base).thresholds 1 = some (1000, 1100) ∧ ¬((1000 : Int) ≤ 10 * 0 ↔ (1000 : Int) ≤ 10 * 105) ∧ ((1100 : Int) ≤ 10 * 0 ↔ (1100 : Int) ≤ 10 * 105) ∧
      ((1000 : Int) ≤ 10 * 105 ↔ (1000 : Int) ≤ 10 * 120) ∧ ¬((1100 : Int) ≤ 10 * 105 ↔ (1100 : Int) ≤ 10 * 120)) := by decide +kernel

/-! The Rigging. -/

def tbEnt (pos pair : Nat) (ports : Bytes) : Bytes := leBytes 1 pos ++ leBytes 1 pair ++ [5, 0] ++ ports ++ List.replicate (12 - ports.length) 0xFF ++ List.replicate 16 (BitVec.ofNat 8 pos)
/-- Three members: 5 and 6 are a pair whose head is 5, and 5 is wired to 6 and to 7. -/
def tb3 : Bytes := zeros 8 ++ [3] ++ zeros 55 ++ tbEnt 5 6 [6, 7] ++ tbEnt 6 5 [5] ++ tbEnt 7 0xFF [5]
/-- The device at a position of this troupe, with its port 0 as given. -/
def rigAt (here : Nat) (x : RPort) : State := { live base with ts := 20000000, rig := { Rig.reset with troupe := tb3, pos := some here, placed := some here, ports := [(0, x)] } }
def upPort : RPort := { RPort.reset with st := .up, rxSeq := 5, secret := 9 }
def flit (seq : Nat) : Flit := ⟨mkLink seq 0 false 0 0, 0, zeros 240, flitTag 9 1 seq (mkLink seq 0 false 0 0) 0 (zeros 240)⟩
theorem ne_succ (x : U64) : x ≠ x + 1#64 := by
  intro h
  have h4 := congrArg BitVec.toNat h
  simp [BitVec.toNat_add] at h4
  have h5 := x.isLt
  omega
theorem witness_FlitsInOrder :
    (∀ x, x = (rigAt 5 x).port 0) ∧ upPort.st = .up ∧ upPort.failed = none ∧
    (nearSeq 5 (lwSeq (flit 4).link) = 4 ∧ nearSeq 5 (lwSeq (flit 5).link) = 5 ∧ nearSeq 5 (lwSeq (flit 6).link) = 6) ∧
    (let s := rigAt 5 upPort
     ∀ f : Flit, f ∈ [flit 4, flit 5, flit 6] → (s.setRig { s.rig with rx := s.rig.rx.erase (0, f) }).port 0 = upPort) ∧
    (∀ n ∈ [4, 5, 6], flitTag 9 (1 - (rigAt 5 upPort).txDir 0) n (flit n).link (flit n).route (flit n).payload = (flit n).tag) ∧
    (∀ f : Flit, f = { flit 5 with tag := (flit 5).tag + 1 } → flitTag 9 (1 - (rigAt 5 upPort).txDir 0) 5 f.link f.route f.payload ≠ f.tag) ∧
    ({ upPort with failed := some 5 } : RPort).failed = some (nearSeq 5 (lwSeq (flit 5).link)) ∧
    (let x := { upPort with sent := List.replicate 1024 ⟨0, 0, [], none, 0, (0, 0), none⟩, ackTs := 19998000 }
     1024 ≤ x.sent.length ∧ x.ackTs + 2000 ≤ (rigAt 5 x).ts) ∧
    (let r := mkRoute 0 5 6 true true (9 * 16) 4
     roCls r ≠ 3 ∧ roUnits r ≠ 0 ∧ flowOk (roCls r) (roFlow r) = true ∧ (rigAt 5 upPort).rig.serves (roDst r) = true ∧ roFirst r = true ∧ roLast r = true ∧ kindReserved (roCls r) (roFlow r) = false ∧ (rigAt 5 upPort).rig.partials = []) := by
  have hd : (rigAt 5 upPort).txDir 0 = 0 := by decide +kernel
  refine ⟨fun _ => rfl, rfl, rfl, by decide +kernel, fun _ _ => rfl, ?_, ?_, by decide +kernel, by decide +kernel, by decide +kernel⟩
  · intro n h
    rw [hd]
    rfl
  · rintro f rfl h
    rw [hd] at h
    have h3 : (flit 5).tag = (flit 5).tag + 1#64 := h
    exact ne_succ _ h3

def hb0 (state : U8) : Heartbeat := ⟨1000, 1000000, 5, 5, state, 5, 0⟩
theorem witness_HeartbeatsAndTraining :
    upPort.hbNext * 1000 ≤ (rigAt 5 upPort).ts ∧ (hb0 0).state ≠ 1 ∧ (1000000 : U64).toNat ≤ 16 * ((hb0 0).k.toNat * 1000 + 250) ∧ (hb0 1).state = 1 ∧
    (upPort.hbGot ≤ (1000 : U64).toNat ∧ (1000 : U64).toNat * 1000 + 250 ≤ (rigAt 5 upPort).ts ∧ upPort.hbMiss < 2 ∧ 2 ≤ { upPort with hbMiss := 2 }.hbMiss) ∧
    (let s := { rigAt 5 upPort with rig := { (rigAt 5 upPort).rig with orphan := some 19989999 } }
     s.rig.orphan = some 19989999 ∧ 19989999 + 10000 < s.ts) ∧ ((hb0 0).tEcho ≠ 0 ∧ thetaOf (hb0 0) 1000000 = 0 ∧ (hb0 0).depth ≠ 0xFF) ∧
    (RPort.reset.st = .down ∧ (rigAt 5 RPort.reset).trainable 0 = true ∧ (rigAt 5 RPort.reset).compUp cpLink = true) ∧
    (let x := { RPort.reset with retrain := some 20000000 }
     x.st = .down ∧ x.retrain = some 20000000 ∧ 20000000 ≤ (rigAt 5 x).ts ∧ (rigAt 5 x).trainable 0 = true) ∧
    (let x := { RPort.reset with st := .training, since := 10000000 }
     x.st = .training ∧ x.since + 10000000 ≤ (rigAt 5 x).ts ∧ (rigAt 6 x).ts ≤ x.since + 10000000 ∧ (rigAt 6 x).txDir 0 = 1) := by decide +kernel

def authPort (a : Option AuthSt) (since : Nat) : RPort := { RPort.reset with st := .auth, auth := a, since := since }
/-- A HELLO of another position. -/
def stranger : AuthMsg := ⟨9, 0, 0, 0, [], [], []⟩
theorem identity_fails (s : State) (p : Nat) (m : AuthMsg) (h : (m.position.toNat == s.wired p) = false) : s.identityOk p m = false := by
  unfold State.identityOk
  rw [h]
  rfl
theorem witness_LinkAuthentication :
    (authPort none 0).st = .auth ∧ (rigAt 6 (authPort none 0)).txDir 0 ≠ 0 ∧ (authPort none 0).auth = none ∧ (rigAt 6 (authPort none 0)).identityOk 0 stranger = false ∧ (rigAt 5 (authPort none 0)).txDir 0 ≠ 1 ∧
    (rigAt 6 (authPort none 0)).tsRefused stranger = false ∧
    (let s := { rigAt 6 (authPort none 0) with rig := { (rigAt 6 (authPort none 0)).rig with ports := [(0, authPort none 0), (1, upPort)] } }
     s.tsRefused { stranger with ts := 20000011 } = true ∧ s.tsRefused { stranger with ts := 20000010 } = false) ∧
    (authPort (some ⟨[], 0, 0, 0, []⟩) 0).auth = some ⟨[], 0, 0, 0, []⟩ ∧
    ((rigAt 5 (authPort (some ⟨[], 0, 0, 0, []⟩) 0)).identityOk 0 stranger && Config.rsaVerify stranger.leaf ([] ++ authBytes stranger) stranger.signature) = false ∧
    (authPort none 18000000).since + 2000000 ≤ (rigAt 6 (authPort none 18000000)).ts := by
  have h1 := identity_fails (rigAt 6 (authPort none 0)) 0 stranger (by decide +kernel)
  have h2 := identity_fails (rigAt 5 (authPort (some ⟨[], 0, 0, 0, []⟩) 0)) 0 stranger (by decide +kernel)
  refine ⟨rfl, by decide +kernel, rfl, h1, by decide +kernel, by decide +kernel, by decide +kernel, rfl, ?_, by decide +kernel⟩
  rw [h2]
  rfl

/-! Forwarding, groups, mirrors. -/

theorem witness_Forwarding :
    (let s := hostIn base .snapshot
     s.farHead = none ∧ s.fwdQueue 1 = some 65537 ∧ s.queues.get 65537 = some (qu (some 0) .snapshot) ∧ (1 : U32).toNat = (qu (some 0) .snapshot).tail ∧ (qu (some 0) .snapshot).ready < (qu (some 0) .snapshot).sqSize) ∧
    (rigAt 5 RPort.reset).rig.fwdDone.contains (6, 1, 1) = false ∧
    (let s := { rigAt 5 RPort.reset with rig := { (rigAt 5 RPort.reset).rig with lost := [7], fwdDone := [(6, 1, 1)] } }
     s.rig.fwdDone.contains (6, 1, 1) = true ∧ s.rig.lost.contains (s.rig.server 7) = true ∧ s.rig.serves 7 = false) := by decide +kernel

theorem witness_Forwarding_route :
    (let s := { rigAt 5 RPort.reset with ts := 100003, rig := { (rigAt 5 RPort.reset).rig with noRoute := [(7, 3)] } }
     s.rig.noRoute.get 7 = some 3 ∧ 3 + 100000 ≤ s.ts ∧ s.rig.serves 7 = false) := by decide +kernel

/-- A message of member 1 for group 9, epoch 0, lane 0, tree 0. -/
def gm (op : U8) (epoch : U32) : GroupMsg := ⟨9, epoch, 4, op, 0, 1, 0, 32, 16, 0, 0, zeros 64⟩
def groupAt (g : Group) : State := { base with ts := 1000000, groups := [(9, g)], rig := { Rig.reset with pos := some 5, placed := some 5 } }
/-- The entry with its trees: member 1 is below member 0 in tree 0, and member 0 below member 1 in tree 1. -/
def treeEntry : Bytes := grpEntry ++ zeros (0x840 - 128) ++ goodTrees
def treeGrp (colls : List Coll) : Group := { actGrp colls [] with entry := treeEntry }
theorem witness_GroupMessages :
    (let g := treeGrp []
     let m := gm 0xA0 0
     let s := groupAt g
     ∀ k ∈ [kUp, kDown, kClose, kVerdict, kAbort, kDispatch, kCombine], (s.arrived k m).group 9 = g ∧ g.takes m = true ∧ m.op ≠ 0 ∧ geParent g.entry 0 1 = 0 ∧ ((s.arrived k m).locals g).contains 0 = true ∧
       m.wire.toNat = geWire g.entry ∧ m.epoch.toNat = g.epoch ∧ g.st = .active ∧ g.takes (gm 0xA0 1) = false ∧ (gm 0xA0 1).epoch.toNat ≠ g.epoch ∧
       ((s.arrived k m).stage 9 0 m).groupSet (gePart g.entry 0) 9 = none ∧ (s.arrived k m).admits 9 0 m = true ∧ (∀ c ∈ geChildren g.entry 0 1, (s.arrived k m).admits 9 c m = true)) ∧
    (let s := { groupAt (treeGrp []) with usets := [(setKey 1 15, stagedSet (dieStaging - 63))] }
     (s.arrived kUp (gm 0xA0 0)).admits 9 0 (gm 0xA0 0) = false ∧ (let m : GroupMsg := { gm 0xA0 0 with tree := 1 }
       0 ∈ (geChildren treeEntry 1 1) ∧ (s.arrived kDown m).admits 9 0 m = false)) ∧ (groupAt (treeGrp [])).overdue 9 = false ∧
    (let s := { groupAt (treeGrp []) with usets := [(setKey 0 15, { uset0 0 with group := some 9, epoch := 4 })] }
     s.groupSet (gePart treeEntry 0) 9 = some (setKey 0 15, { uset0 0 with group := some 9, epoch := 4 }) ∧ (0 : Nat) = geRoot treeEntry 0 ∧ (gm 0 0).key.toNat = 4 % 2 ^ 32) ∧
    (let s := groupAt (treeGrp [{ coll0 0xA0 with results := [] }])
     (s.group 9).st = .active ∧ s.overdue 9 = true) := by decide +kernel
def mm (mseq : U64) (body : Bytes) : MirrorMsg := ⟨0, mseq, body⟩
/-- A device of the pair, with its peer's PAIR body and NET's state. -/
def pairAt (here : Nat) (n : Net) : State := { rigAt here upPort with parts := [(0, { PartSt.reset with sess := ses, net := n })] }
def heardAt (here : Nat) (n : Net) : State := pairAt here { n with heard := some ((pairAt here n).pairBody 0) }
theorem caught_heard (here : Nat) (n : Net) : (heardAt here n).caught 0 = true := by
  have h1 : ((heardAt here n).net 0).heard = some ((heardAt here n).pairBody 0) := rfl
  have h2 : (heardAt here n).bound 0 = true := rfl
  unfold State.caught
  rw [h1, h2]
  simp
theorem receives_catcher : (heardAt 6 Net.reset).receives 0 = true := by
  have h : (heardAt 6 Net.reset).isCatcher = true := by decide +kernel
  unfold State.receives
  rw [h, caught_heard]
  rfl
theorem receives_flyer : (heardAt 5 Net.reset).receives 0 = false := by
  have h : (heardAt 5 Net.reset).isCatcher = false := by decide +kernel
  unfold State.receives
  rw [h]
  rfl
theorem witness_MirrorAndDigests_messages :
    (∀ k here m, (heardAt here Net.reset).mirrorArrived k m = heardAt here Net.reset) ∧ (heardAt 6 Net.reset).receives 0 = true ∧ (heardAt 5 Net.reset).receives 0 = false ∧
    (2 ≤ ((pairAt 6 { Net.reset with rxSeq := 2 }).net 0).rxSeq) ∧
    (∀ st ∈ [PairSt.paired, .resync], ((((pairAt 5 { Net.reset with st := st }).mirrorArrived mkAck (mm 0 (leBytes 8 3))).net 0).st = st)) ∧
    (heardAt 5 Net.reset).caught 0 = true ∧
    (let s := heardAt 5 Net.reset
     s.objOf (u32At (leBytes 4 3 ++ leBytes 4 0) 0) = some (3, ob 1 0 [pg 1 .zero]) ∧ fieldLE (leBytes 4 3 ++ leBytes 4 0) 4 4 < (ob 1 0 [pg 1 .zero]).logPages ∧ (s.part 0).rounds = []) ∧
    (let s1 := (pairAt 6 Net.reset).mirrorArrived mkPair (mm 2 [])
     s1.bound 0 = true ∧ s1.pairOf.isSome = true ∧ (mm 2 []).mseq ≠ 1) :=
  ⟨fun _ _ _ => rfl, receives_catcher, receives_flyer, by decide +kernel, by decide +kernel, caught_heard _ _, by decide +kernel, by decide +kernel⟩
theorem witness_MirrorAndDigests_states :
    (let s := pairAt 5 { Net.reset with st := .resync }
     let s2 := pairAt 5 { Net.reset with st := .resync, view := s.jview 0 }
     let s1 := s2.flushJournal 0
     (s2.net 0).st = .resync ∧ (s1.net 0).resync = [] ∧ (s1.net 0).out = [] ∧ (s1.net 0).unacked = [] ∧ s1.attemptOpen 0 = false) ∧ ((heardAt 6 Net.reset).net 0).st = .unpaired ∧
    (let s := { pairAt 5 { Net.reset with st := .fenced, fencedAt := some 19980000 } with rig := { (rigAt 5 upPort).rig with ports := [(0, upPort), (1, upPort)] } }
     (s.net 0).st = .fenced ∧ (s.net 0).fencedAt = some 19980000 ∧ 19980000 + 20000 ≤ s.ts ∧ s.thirdPort = true ∧ s.ts < 19980001 + 20000) ∧
    (let s := pairAt 5 { Net.reset with st := .fenced, fencedAt := some 19980000 }
     (s.net 0).st = .fenced ∧ (s.net 0).fencedAt = some 19980000 ∧ 19980000 + 20000 ≤ s.ts ∧ s.thirdPort = false) ∧
    ((pairAt 5 { Net.reset with st := .fenced }).net 0).st = .fenced ∧ ((pairAt 5 { Net.reset with st := .fenced }).net 0).fencedAt = none ∧
    (let s := { rigAt 7 upPort with rig := { (rigAt 7 upPort).rig with lost := [5] } }
     ((tbUsed s.rig.troupe).find? (fun e => (e.drop 16).take 16 == leBytes 16 (BitVec.ofNat 128 (leNat (List.replicate 16 6))).toNat)).map tbPos = some 6 ∧ tbPair s.rig.troupe 5 = 6 ∧ s.rig.server 5 ≠ 6 ∧
       s.rig.lost.contains (s.rig.server 5) = true ∧ s.rig.placed ≠ some (s.rig.server 5)) := by decide +kernel
def round0 : Round := ⟨4, [1], [], [], [], [], false, [], none, none, true, 0⟩
theorem witness_MirrorAndDigests_rounds :
    (let s := { groupAt (treeGrp []) with usets := [(setKey 0 15, { uset0 0 with group := some 9 })], parts := [(0, { PartSt.reset with sess := ses, rounds := [(15, round0)] })] }
     s.compUp cpDigest = true ∧ s.round 0 15 = some round0 ∧ s.usets.get (setKey 0 15) = some { uset0 0 with group := some 9 } ∧ s.memberOf (s.group 9) 0 = some 0 ∧ round0.running = true ∧ (0 : Nat) = geRoot (s.group 9).entry 0 ∧
       (List.replicate 17 (7 : U128)).length = 16 + round0.own.length ∧ (s.group 9).n = 2 ∧ ((round0.lists.set 1 [7]).has 0 = false) ∧ round0.todo.find? (fun x => x.1 == 0) = none) := by decide +kernel

/-! Whole-model statements. -/

theorem witness_MemoryReadsAndWrites : Mem.wf [] = true ∧ Tbl.wf ([] : Tbl Nat) = true ∧ Mem.wf (Mem.write [] 5 1) = true := by decide
theorem witness_EntryRoundTrip : (.seedSet 1 : HostCmd) ≠ .bad ∧ runA.wf = true ∧ (⟨0, false, 0, List.replicate 64 0⟩ : RunArgs).wf = true := by decide
theorem witness_LifeCycleMovesForward : ({ State.reset with pending := [.powerBrakeAssert] } : State).lifeOk = true ∧
    (match step { State.reset with pending := [.powerBrakeAssert] } with
     | .next _ => true
     | _ => false) = true := by decide +kernel

/-! ### Small checks against the manual -/

/-- The digest of no bytes, as FIPS 180-4's examples give it. -/
theorem test_sha384_empty : (sha384 []).take 8 = [0x38, 0xB0, 0x60, 0xA7, 0x51, 0xAC, 0x96, 0x38] := by decide +kernel

/-! ### The guarded memory (the worked example after R269) -/

/-- Line 9 of counter block 5 of frame 1,000,300, major 42, minor 17. -/
theorem test_guard_example :
    pairOf 1000300 = 108 ∧ pairSlot 1000300 = 3907 ∧ localBlock 1000300 5 = 62517 ∧ dataAddr 1000300 (5 * 64 + 9) = 0x3D0DB149 ∧
    inputBlock 0x3D0DB149 42 17 2 0 = 0x00003D0DB1490000000000002A230000 ∧ tagAddr 62517 9 = 0x71E86A48 ∧ blockAddr 62517 = 0x7E3D0D40 ∧
    nodeAddr 1 62517 = 0x7FC7A180 ∧ 62517 % 8 = 5 ∧ nodeAddr 2 62517 = 0x7FF8F400 := by decide +kernel
/-- GHASH of the second test case published with GCM: its subkey, its one block of ciphertext, and the lengths. -/
theorem test_ghash :
    ghash 0x66e94bd4ef8a2c3b884cfa59ca342b2e 2 (blockBytesBE 0x0388dace60b6a392f328c2b971b2fe78 ++ zeros 15 ++ [0x80]) 0 = 0xf38cbb1ad69223dcc3457ae5b6b0f885 := by
  decide +kernel
theorem test_top_nodes : topPlace 6 447 = (191, 0x7FFFFFC0) ∧ topPlace 7 0 = (192, 0x7FFFFFC0) ∧ topPlace 8 6 = (254, 0x7FFFFFC0) ∧ topPlace 6 0 = (0, 0x7FFFFF80) := by decide

/-! ### Symmetric functions and published vectors -/

def vecKey : U256 := BitVec.ofNat 256 (leNat ((List.range 32).map (fun i => BitVec.ofNat 8 i)))
/-- FIPS 197, appendix C.3. -/
theorem test_aes : aes256 vecKey 0x00112233445566778899aabbccddeeff = 0x8ea2b7ca516745bfeafc49904b496089 := by decide +kernel
/-- The GCM test case of a zero key, a zero nonce and one zero block. -/
theorem test_gcm : leBytes 16 (gcmTag 0 (zeros 12) [] (zeros 16)).toNat = (leBytes 16 0xd0d1c8a799996bf0265b98b5d48ab919).reverse := by decide +kernel
/-- The inverse cipher on the block of FIPS 197, appendix C.3. -/
theorem test_aes_inverse : leNat (bytesOf (aesInvBlock (keyBytes vecKey) (natsOf (blockBytesBE 0x8ea2b7ca516745bfeafc49904b496089)))).reverse = 0x00112233445566778899aabbccddeeff := by
  decide +kernel
/-- The first lane of Keccak-f of zeros. -/
theorem test_keccak : (keccakF (List.replicate 25 0)).headD 0 = 0xF1258F7940E1DDE7 := by decide +kernel

/-- A generator record of raw state 1 with one output: 0x81 after one step, times the multiplier (R56). -/
def genRec : Bytes :=
  leBytes 4 72 ++ [3, 0, 0, 0, 0, 0, 0xFF, 0, 0, 1, 0, 0] ++ leBytes 8 1 ++ zeros 8 ++ zeros 8 ++ leBytes 4 0 ++ leBytes 4 8 ++ leBytes 4 0 ++ leBytes 4 1 ++ zeros 8 ++
    leBytes 8 0xc8403d3905db6b9d
theorem test_generator_record : judgeRec genRec = .passed := by decide +kernel
/-- The same with a reserved rounding field, and with a length that its out_len does not give. -/
theorem test_malformed_record : judgeRec ((genRec.take 11) ++ [6] ++ genRec.drop 12) = .malformed ∧ judgeRec (leBytes 4 80 ++ genRec.drop 4 ++ zeros 8) = .malformed := by
  decide +kernel
/-- A file of that record, and the same file with another record count and with a changed byte. -/
def genFile (n : Nat) : Bytes := [0x4C, 0x56, 0x53, 0x31] ++ leBytes 2 0x100 ++ leBytes 2 80 ++ leBytes 4 n ++ leBytes 4 1 ++ [0xA1] ++ zeros 15 ++ sha384 genRec ++ genRec
def rejectedBy (b : Bytes) (f : FileFault) : Bool := match openFile b with
  | .error e => e == f
  | .ok _ => false
theorem test_vector_file : conforms [genFile 1] = true := by decide +kernel
theorem test_vector_file_rejected : rejectedBy (genFile 2) .records = true ∧ rejectedBy ((genFile 1).take 151 ++ [0]) .digest = true := by decide +kernel
/-- VADD of binary32 1.0 and 2.0 on one element. -/
def addRec : Bytes :=
  leBytes 4 88 ++ [1, 0, 1, 0, 0, 0, 0, 0, 0, 1, 0, 0] ++ leBytes 8 1 ++ zeros 8 ++ zeros 8 ++ leBytes 4 12 ++ leBytes 4 4 ++ leBytes 4 0 ++ leBytes 4 1 ++ zeros 8 ++
    leBytes 8 0x3F800000 ++ leBytes 8 0x40000000 ++ leBytes 8 0x40400000
theorem test_add_record : judgeRec addRec = .passed := by decide +kernel
/-- A product of one row and one column, 1.0 by 2.0 in binary32, in strict mode. -/
def mxRec : Bytes :=
  leBytes 4 136 ++ [2, 1, 1, 0, 0, 0, 0, 0, 0, 0, 0, 0] ++ leBytes 8 1 ++ zeros 8 ++ zeros 8 ++ leBytes 4 60 ++ leBytes 4 4 ++ leBytes 4 0 ++ leBytes 4 1 ++ zeros 8 ++
    (leBytes 4 1 ++ leBytes 4 1 ++ leBytes 4 1 ++ zeros 36) ++ leBytes 8 0x3F800000 ++ leBytes 8 0x40000000 ++ leBytes 8 0x40000000
theorem test_mx_record : judgeRec mxRec = .passed := by decide +kernel

end Sys2Proof.Tests
end

section
/-! ### Microwords of a recipe (R305, R306)

One equation of `microStep` per operation of R306's table, one of each helper that the table's rows name, and O28 put together from them. -/

namespace Sys2Proof.Machine

section Microwords
variable {mf w : Nat} {i : PIn} {o : POut}

/-! Operations that write a temporary. -/

theorem microStep_add (h : uwOp w = 0x01) :
    microStep mf i o w = { o with q := o.q.set (uwDst w) (r32 (fadd false (d32 (opnd i o (uwA w))) (d32 (opnd i o (uwB w))))).1 } := by
  simp only [microStep, h]

theorem microStep_sub (h : uwOp w = 0x02) :
    microStep mf i o w = { o with q := o.q.set (uwDst w) (r32 (fsub false (d32 (opnd i o (uwA w))) (d32 (opnd i o (uwB w))))).1 } := by
  simp only [microStep, h]

theorem microStep_mul (h : uwOp w = 0x03) :
    microStep mf i o w = { o with q := o.q.set (uwDst w) (r32 (fmul (d32 (opnd i o (uwA w))) (d32 (opnd i o (uwB w))))).1 } := by
  simp only [microStep, h]

/-- FMA rounds once: the product goes into the sum as it is. -/
theorem microStep_fma (h : uwOp w = 0x04) :
    microStep mf i o w =
      { o with q := o.q.set (uwDst w) (r32 (ffma false false false (d32 (opnd i o (uwA w))) (d32 (opnd i o (uwB w))) (d32 (opnd i o (uwC w))))).1 } := by
  simp only [microStep, h]

theorem microStep_div (h : uwOp w = 0x05) :
    microStep mf i o w = { o with q := o.q.set (uwDst w) (r32 (fdiv (d32 (opnd i o (uwA w))) (d32 (opnd i o (uwB w))))).1 } := by
  simp only [microStep, h]

theorem microStep_sqrt (h : uwOp w = 0x06) :
    microStep mf i o w = { o with q := o.q.set (uwDst w) (r32 (fsqrt (d32 (opnd i o (uwA w))))).1 } := by
  simp only [microStep, h]

theorem microStep_rsqrt (h : uwOp w = 0x07) :
    microStep mf i o w = { o with q := o.q.set (uwDst w) (r32 (trsqrt (d32 (opnd i o (uwA w))))).1 } := by
  simp only [microStep, h]

theorem microStep_max (h : uwOp w = 0x08) :
    microStep mf i o w = { o with q := o.q.set (uwDst w) (r32 (fmax (d32 (opnd i o (uwA w))) (d32 (opnd i o (uwB w))))).1 } := by
  simp only [microStep, h]

theorem microStep_min (h : uwOp w = 0x09) :
    microStep mf i o w = { o with q := o.q.set (uwDst w) (r32 (fmin (d32 (opnd i o (uwA w))) (d32 (opnd i o (uwB w))))).1 } := by
  simp only [microStep, h]

/-- ABS clears the sign bit of the code, and rounds nothing. -/
theorem microStep_abs (h : uwOp w = 0x0A) : microStep mf i o w = { o with q := o.q.set (uwDst w) (opnd i o (uwA w) % 2 ^ 31) } := by
  simp only [microStep, h]

theorem microStep_sgn (h : uwOp w = 0x0B) : microStep mf i o w = { o with q := o.q.set (uwDst w) (sgn32 (opnd i o (uwA w))) } := by
  simp only [microStep, h]

/-! Operations that write state: each changes its own value and may raise the mark of a value that is not finite. -/

theorem microStep_wupd (h : uwOp w = 0x20) :
    microStep mf i o w =
      { o with w := masterAdd i.w (opnd i o (uwA w)), nonfinite := o.nonfinite || isNonfinite32 (masterAdd i.w (opnd i o (uwA w)) / 65536) } := by
  simp only [microStep, h]

theorem microStep_stm1 (h : uwOp w = 0x21) :
    microStep mf i o w =
      { o with
        m1 := (convert (wireFmt mf) .rne 0 (d32 (opnd i o (uwA w)))).1,
        nonfinite := o.nonfinite || !(decode (wireFmt mf) (convert (wireFmt mf) .rne 0 (d32 (opnd i o (uwA w)))).1).isFin } := by
  simp only [microStep, h]

theorem microStep_stm2 (h : uwOp w = 0x22) :
    microStep mf i o w =
      { o with
        m2 := (convert (wireFmt mf) .rne 0 (d32 (opnd i o (uwA w)))).1,
        nonfinite := o.nonfinite || !(decode (wireFmt mf) (convert (wireFmt mf) .rne 0 (d32 (opnd i o (uwA w)))).1).isFin } := by
  simp only [microStep, h]

theorem microStep_racc (h : uwOp w = 0x23) :
    microStep mf i o w =
      { o with
        rf := factorAdd (nth0 i.h 3) o.rf (opnd i o (uwA w)) o.rfBegun, rfBegun := true,
        nonfinite := o.nonfinite || isNonfinite32 (factorAdd (nth0 i.h 3) o.rf (opnd i o (uwA w)) o.rfBegun) } := by
  simp only [microStep, h]

theorem microStep_cacc (h : uwOp w = 0x24) :
    microStep mf i o w =
      { o with
        cf := factorAdd (nth0 i.h 3) o.cf (opnd i o (uwA w)) o.cfBegun, cfBegun := true,
        nonfinite := o.nonfinite || isNonfinite32 (factorAdd (nth0 i.h 3) o.cf (opnd i o (uwA w)) o.cfBegun) } := by
  simp only [microStep, h]

/-- END stops the recipe, whatever words stand behind it. -/
theorem runRecipe_end (h : uwOp w = 0x3F) (r : List Nat) : runRecipe mf i (w :: r) o = o := by
  rw [runRecipe, if_pos h]

end Microwords

/-! What the rows of the table name: the addition to a factor, SGN, and the operations that are not reserved. -/

theorem factorAdd_begun (h3 f a : Nat) : factorAdd h3 f a true = (r32 (fadd false (d32 f) (d32 a))).1 := rfl

/-- The first addition of an attempt finds the factor times H3, itself rounded to binary32. -/
theorem factorAdd_first (h3 f a : Nat) :
    factorAdd h3 f a false = (r32 (fadd false (d32 (r32 (fmul (d32 h3) (d32 f))).1) (d32 a))).1 := rfl

theorem sgn32_of_isNan {a : Nat} (h : (d32 a).isNan = true) : sgn32 a = (r32 (FV.quieten (d32 a), 0)).1 := by
  unfold sgn32
  cases hv : d32 a with
  | nan n q p => rfl
  | inf n => simp [hv, FV.isNan] at h
  | fin n x => simp [hv, FV.isNan] at h

/-- Of what is no NaN, only a zero is its own sign. -/
theorem sgn32_of_not_isNan {a : Nat} (h : (d32 a).isNan = false) :
    sgn32 a = if (d32 a).isZero then a else if (d32 a).signBit then 0xBF800000 else 0x3F800000 := by
  unfold sgn32
  cases hv : d32 a with
  | nan n q p => simp [hv, FV.isNan] at h
  | inf n => rfl
  | fin n x => rfl

theorem uwArity_isSome_iff (op : Nat) :
    (uwArity op).isSome = true ↔ (1 ≤ op ∧ op ≤ 0x0B) ∨ (0x20 ≤ op ∧ op ≤ 0x24) ∨ op = 0x3F := by
  constructor
  · intro h
    unfold uwArity at h
    split at h
    case h_18 => cases h
    all_goals omega
  · intro h
    have named : ∀ n < 0x40, (1 ≤ n ∧ n ≤ 0x0B) ∨ (0x20 ≤ n ∧ n ≤ 0x24) ∨ n = 0x3F → (uwArity n).isSome = true := by decide
    exact named op (by omega) h

/-- Settles O28: each clause is the equation of its operation, of a factor's addition or of SGN, or the table's list of operations. -/
theorem recipeWords : Obligations.RecipeWords := by
  unfold Obligations.RecipeWords
  rintro mf w _ _ _ i o rfl rfl rfl
  refine ⟨microStep_add, microStep_sub, microStep_mul, microStep_fma, microStep_div, microStep_sqrt, microStep_rsqrt, microStep_max, microStep_min,
    microStep_sgn, microStep_abs, ?wupd, ?stm1, ?stm2, ?racc, ?cacc, fun h3 f a => ⟨factorAdd_begun h3 f a, factorAdd_first h3 f a⟩,
    ?sgnNonzero, ?sgnZero, fun a => sgn32_of_isNan, uwArity_isSome_iff, runRecipe_end⟩
  case wupd => intro h; simp [microStep_wupd h]
  case stm1 => intro h; simp [microStep_stm1 h]
  case stm2 => intro h; simp [microStep_stm2 h]
  case racc => intro h; simp [microStep_racc h]
  case cacc => intro h; simp [microStep_cacc h]
  case sgnNonzero => intro a hn hz; simp [sgn32_of_not_isNan hn, hz]
  case sgnZero => intro a hn hz; simp [sgn32_of_not_isNan hn, hz]

end Sys2Proof.Machine
end

section
/-! ### Flits on a port (R329, R330, R335, R337 to R339, R344, R345)

What a port's state reads after its updates, then one lemma for each operation of a port that O51 names: the FEC frame, a flit sent, a frame
and a flit received, a failure, a message delivered and taken, and the wait for an acknowledgement. -/

namespace Sys2Proof.Machine

/-! Ports in the state. -/

theorem Tbl.getD_set_self {α : Type} (t : Tbl α) (k : Nat) (a d : α) : (t.set k a).getD k d = a := by
  simp [Tbl.getD, Tbl.get_set_self]

@[simp] theorem State.port_setPort_self (s : State) (p : Nat) (x : RPort) : (s.setPort p x).port p = x := Tbl.getD_set_self ..

@[simp] theorem State.setPort_inbox (s : State) (p : Nat) (x : RPort) : (s.setPort p x).rig.inbox = s.rig.inbox := rfl

/-! The FEC frame (R329). -/

theorem fecFrame_length (w : Bytes) : (fecFrame w).length = 272 := by simp [fecFrame]

/-- The two codewords take the flit's even and odd bytes, and the frame interleaves them again: its first 256 bytes are the flit. -/
theorem fecFrame_take {w : Bytes} (h : w.length = 256) : (fecFrame w).take 256 = w := by
  apply List.ext_getElem
  · simp [fecFrame_length, h]
  · intro i hi hw
    have hlt : i < 256 := h ▸ hw
    have hpos : i / 2 < 128 := by omega
    have hback : 2 * (i / 2) + i % 2 = i := Nat.div_add_mod i 2
    simp [fecFrame, hlt, hpos, hback, hw]

section Port
variable {s s1 : State} {port : PortNo} {f : Flit} {n : Nat}

/-! Sending (R23, R335, R341). -/

theorem exec_rigFrameSlot_of_up (h : (s.port port.val).st = .up) :
    exec (.rigFrameSlot port) s = .next ((s.pumpMirror port.val).slot port.val) := by
  change execRigFrameSlot port s = _
  simp [execRigFrameSlot, h]

theorem State.emitFlit_wire (p : Nat) (g : TxFlit) (again : Bool) :
    (s.emitFlit p g again).rig.wire = s.rig.wire ++ [(p, fecFrame (flitWire (s.port p).secret (s.txDir p) g.seq
      (mkLink g.seq ((s.port p).rxSeq + 4095) ((s.port p).nak || (again && (s.port p).failed.isSome)) g.cred.1 g.cred.2) g.route g.payload))] := rfl

/-- A flit carries the port's request for a resend, which is then no longer due. -/
theorem State.emitFlit_port (p : Nat) (g : TxFlit) (again : Bool) : (s.emitFlit p g again).port p = { s.port p with nak := false } :=
  State.port_setPort_self ..

/-! Frames (R330). -/

theorem exec_rigFrameReceive_clean (h : (s.port port.val).st = .up) :
    exec (.rigFrameReceive port .clean f) s = .next (s.setRig { s.rig with rx := s.rig.rx ++ [(port.val, f)] }) := by
  change execRigFrameReceive port .clean f s = _
  simp [execRigFrameReceive, h]

theorem exec_rigFrameReceive_corrected (h : (s.port port.val).st = .up) (h1 : s1 = s.bumpPort port.val cFecCorr 1) :
    exec (.rigFrameReceive port .corrected f) s = .next (s1.setRig { s1.rig with rx := s1.rig.rx ++ [(port.val, f)] }) := by
  change execRigFrameReceive port .corrected f s = _
  simp [execRigFrameReceive, h, h1]

theorem exec_rigFrameReceive_uncorrectable (h : (s.port port.val).st = .up) :
    exec (.rigFrameReceive port .uncorrectable f) s = .next ((s.bumpPort port.val cFecUncorr 1).flitFails port.val f.link) := by
  change execRigFrameReceive port .uncorrectable f s = _
  simp [execRigFrameReceive, h]

/-! Failures (R337, R338). -/

theorem State.flitFails_first {p : Nat} {link : U32} (h : (s.port p).failed = none) :
    s.flitFails p link = s.setPort p { s.port p with failed := some (s.port p).rxSeq, nak := true } := by
  simp [State.flitFails, h]

theorem State.flitFails_again {p : Nat} {link : U32} (h : (s.port p).failed = some (nearSeq (s.port p).rxSeq (lwSeq link))) :
    s.flitFails p link = s.portDown p false := by
  simp [State.flitFails, h]

/-! Flits in their turn (R337). -/

/-- What an UP port does with a flit: its tag is looked at first, and then whether its number is behind, ahead of, or the one in turn. -/
theorem exec_flitReceive_of_up (h1 : s1 = s.setRig { s.rig with rx := s.rig.rx.erase (port.val, f) }) (h : (s1.port port.val).st = .up)
    (hn : n = nearSeq (s1.port port.val).rxSeq (lwSeq f.link)) :
    exec (.flitReceive port f) s = .next (
      if flitTag (s1.port port.val).secret (1 - s1.txDir port.val) n f.link f.route f.payload ≠ f.tag then
        (s1.bumpPort port.val cRigTagFail 1).flitFails port.val f.link
      else if n < (s1.port port.val).rxSeq then s1
      else if (s1.port port.val).rxSeq < n then
        if (s1.port port.val).failed.isSome then s1
        else s1.setPort port.val { s1.port port.val with failed := some (s1.port port.val).rxSeq, nak := true }
      else ((s1.setPort port.val { s1.port port.val with rxSeq := (s1.port port.val).rxSeq + 1, failed := none, nak := false }).applyLink
        port.val f.link).routeFlit port.val f) := by
  change execFlitReceive port f s = _
  subst h1 hn
  simp only [execFlitReceive, h, bne_self_eq_false, Bool.false_eq_true, if_false, bne_iff_ne]
  split
  · rfl
  · split
    · rfl
    · split <;> rfl

/-! Messages in the receive buffer (R339, R344, R345). -/

/-- A message of one flit that this device serves stands whole in the receive buffer, where no part of another one waits. -/
theorem State.routeFlit_whole {p : Nat} (hc : roCls f.route ≠ 3) (hu : roUnits f.route ≠ 0) (hflow : flowOk (roCls f.route) (roFlow f.route) = true)
    (hserves : s.rig.serves (roDst f.route) = true) (hfirst : roFirst f.route = true) (hlast : roLast f.route = true)
    (hkind : kindReserved (roCls f.route) (roFlow f.route) = false) (hpart : s.rig.partials = []) :
    s.routeFlit p f = s.setRig { s.rig with
      inbox := s.rig.inbox ++ [⟨⟨roCls f.route, roSrc f.route, roFlow f.route, f.payload.take (16 * roUnits f.route)⟩, [p]⟩] } := by
  have hroute : s.routeFlit p f = s.takeFlit p f := by simp [State.routeFlit, hc, hu, hflow, hserves]
  rw [hroute]
  simp [State.takeFlit, hfirst, hlast, hkind, hpart]

/-- The unit that takes the one message in the receive buffer empties it, and its flit's credit is owed at the port it came by. -/
theorem State.takeInbox_only {m : RigIn} {p : Nat} (h : s.rig.inbox = [⟨m, [p]⟩]) :
    s.takeInbox m = (s.setRig { s.rig with inbox := [] }).giveBack m.cls [p] := by
  simp [State.takeInbox, h]

theorem State.giveBack_one_inbox (cls p : Nat) : (s.giveBack cls [p]).rig.inbox = s.rig.inbox := rfl

theorem State.giveBack_one_port (cls p : Nat) :
    (s.giveBack cls [p]).port p = { s.port p with owed := (s.port p).owed.set cls ((s.port p).owed.getD cls 0 + 1) } := State.port_setPort_self ..

/-! The wait for an acknowledgement (R338). -/

theorem exec_rigAckTimeout_of_full (h : (s.port port.val).st = .up) (hfull : 1024 ≤ (s.port port.val).sent.length)
    (hlate : (s.port port.val).ackTs + 2000 ≤ s.ts) : exec (.rigAckTimeout port) s = .next (s.portDown port.val false) := by
  change execRigAckTimeout port s = _
  simp [execRigAckTimeout, h, hfull, hlate]

end Port

/-- Settles O51: each clause is the lemma of its operation; the four of a flit received are the branches of `exec_flitReceive_of_up`. -/
theorem flitsInOrder : Obligations.FlitsInOrder := by
  unfold Obligations.FlitsInOrder
  rintro s port f x rfl hup
  refine ⟨exec_rigFrameSlot_of_up hup, fun g again => ⟨State.emitFlit_wire port.val g again, ?nakSent⟩, fun w hw => ⟨fecFrame_length w, fecFrame_take hw⟩,
    exec_rigFrameReceive_clean hup, fun s1 => exec_rigFrameReceive_corrected hup, exec_rigFrameReceive_uncorrectable hup,
    State.flitFails_first, State.flitFails_again, ?flit, ?whole, ?taken, exec_rigAckTimeout_of_full hup⟩
  case nakSent => rw [State.emitFlit_port]
  case flit =>
    intro s1 n h1 hn hport
    rw [← hport] at hup hn ⊢
    rw [exec_flitReceive_of_up h1 hup hn]
    refine ⟨fun htag => ?_, fun htag => ⟨fun hbehind => ?_, fun hahead hfailed => ?_, fun hturn => ?_⟩⟩
    · rw [if_pos htag]
    · rw [if_neg (not_not_intro htag), if_pos hbehind]
    · rw [if_neg (not_not_intro htag), if_neg (Nat.lt_asymm hahead), if_pos hahead, hfailed, Option.isSome_none, if_neg Bool.false_ne_true]
    · rw [if_neg (not_not_intro htag), if_neg (Nat.not_lt_of_ge (Nat.le_of_eq hturn.symm)),
        if_neg (Nat.not_lt_of_ge (Nat.le_of_eq hturn))]
  case whole =>
    rintro r rfl
    exact State.routeFlit_whole
  case taken =>
    intro m hm
    rw [State.takeInbox_only hm]
    refine ⟨State.giveBack_one_inbox m.cls port.val, ?_⟩
    rw [State.giveBack_one_port, Tbl.getD_set_self]
    rfl

end Sys2Proof.Machine
end

section
/-! ### Events, fences and WAITs (R61, R404, R414 to R416)

How two positions of a fence lie to each other, what a signal does by how far it goes ahead, then one lemma for each command of an event, and O6 put together from them. -/

namespace Sys2Proof.Machine

/-! Positions of a fence: a target is at most 2^63 ahead of the value, or it is reached. -/

/-- A reached target is no target that WAIT refuses. -/
theorem not_tooFarAhead_of_reached {value target : U64} (h : (value - target).toNat < 2 ^ 63) :
    ¬(2 ^ 62 < (target - value).toNat ∧ (target - value).toNat < 2 ^ 63) := by
  bv_omega

theorem satisfied_of_reached {value target : U64} (h : (value - target).toNat < 2 ^ 63) : satisfied value target = true := decide_eq_true h

theorem satisfied_eq_false_of_ahead {value target : U64} (h0 : 0 < (target - value).toNat) (h : (target - value).toNat ≤ 2 ^ 63) :
    satisfied value target = false := by
  have hback : ¬(value - target).toNat < 2 ^ 63 := by bv_omega
  exact decide_eq_false hback

/-! Applying a signal (R415). -/

theorem signalStatus_eq (value v : U64) : signalStatus value v =
    if (v - value).toNat = 0 ∨ 2 ^ 63 ≤ (v - value).toNat then .stale else if 2 ^ 62 < (v - value).toNat then .malformed else .ok := by
  simp only [signalStatus, Bool.or_eq_true, decide_eq_true_eq]

theorem signalStatus_stale {value v : U64} (h : (v - value).toNat = 0 ∨ 2 ^ 63 ≤ (v - value).toNat) : signalStatus value v = .stale := by
  rw [signalStatus_eq, if_pos h]

theorem signalStatus_malformed {value v : U64} (h : 2 ^ 62 < (v - value).toNat) (h' : (v - value).toNat < 2 ^ 63) :
    signalStatus value v = .malformed := by
  rw [signalStatus_eq, if_neg (by omega), if_pos h]

theorem signalStatus_ok {value v : U64} (h0 : 0 < (v - value).toNat) (h : (v - value).toNat ≤ 2 ^ 62) : signalStatus value v = .ok := by
  rw [signalStatus_eq, if_neg (by omega), if_neg (Nat.not_lt_of_ge h)]

section Fence
variable {s : State} {ev : Nat} {value : U64} {v : Event}

theorem State.applySignal_fst (hv : s.events.get ev = some v) : (s.applySignal ev value).1 = signalStatus v.value value := by
  unfold State.applySignal
  cases h : signalStatus v.value value <;> simp [hv, h]

/-- A signal that is not applied leaves the state, and with it the fence, as it is. -/
theorem State.applySignal_snd_of_ne_ok (hv : s.events.get ev = some v) (h : signalStatus v.value value ≠ .ok) : (s.applySignal ev value).2 = s := by
  unfold State.applySignal
  cases hst : signalStatus v.value value with
  | ok => exact absurd hst h
  | _ => simp [hv, hst]

/-! What a fence's value does to the outstanding WAITs (R416). -/

theorem State.resolveWaits_of_none (h : s.waits.filter (fun w => w.event == ev && satisfied value w.target) = []) : s.resolveWaits ev value = s := by
  rw [State.resolveWaits, h, List.foldl_nil]

theorem State.resolveWaits_of_one {w : Wait} (h : s.waits.filter (fun w => w.event == ev && satisfied value w.target) = [w]) :
    s.resolveWaits ev value = ({ s with waits := s.waits.filter (fun x => x != w) } : State).complete w.q w.sub
      (Done.req (if w.deadline = 0 ∨ s.ts ≤ w.deadline then .ok else .timeout)) := by
  rw [State.resolveWaits, h, List.foldl_cons, List.foldl_nil]
  simp only [Bool.or_eq_true, beq_iff_eq, decide_eq_true_eq]

end Fence

theorem exec_waitDeadline_of_passed {s : State} {i : Nat} {w : Wait} (hw : s.waits[i]? = some w) (h0 : w.deadline ≠ 0) (hlate : w.deadline < s.ts) :
    exec (.waitDeadline i) s = .next (({ s with waits := s.waits.eraseIdx i } : State).complete w.q w.sub ⟨.timeout, .request, 0, 0, 0, 0, some w.deadline⟩) := by
  change execWaitDeadline i s = _
  simp [execWaitDeadline, hw, h0, hlate]

theorem started_waits (s : State) (q : QId) (n : Nat) : (s.started q n).waits = s.waits := by unfold State.started; split <;> rfl

/-- Only its owner's number decides whether a context may destroy an event. -/
theorem eventUsable_started (s : State) (q : QId) (n c ev : Nat) : (s.started q n).eventUsable c ev true = s.eventUsable c ev true := by
  simp [State.eventUsable, started_events]

section Turn
variable {s : State} {q : QId} {e : Entry} {c : Nat} {x : Ctx}

theorem exec_eventCreate_of_pick {a : EventArgs} {pick n : Nat} (h : HostTurn s q (.eventCreate a) e c x) (hn : s.events.pickFree 65536 pick = some n) :
    exec (.eventCreate q a pick) s = .next (({ s.started q e.sub with
      events := s.events.set n ⟨c, bitOf a.flags.toNat 0, a.initial, a.initial, a.cookie, a.vector, s.ts⟩ } : State).complete (qKey q) e.sub (Done.okay n 0)) := by
  refine (whenCtx_of_turn h _).trans ?_
  simp only [started_events, started_ts, hn]

theorem exec_eventDestroy_of_usable {ev : U32} (h : HostTurn s q (.eventDestroy ev) e c x) (hu : s.eventUsable c ev.toNat true = true) :
    exec (.eventDestroy q ev) s = .next (((s.started q e.sub).destroyEvent ev.toNat).complete (qKey q) e.sub (Done.okay 0 0)) := by
  refine (whenCtx_of_turn h _).trans ?_
  rw [eventUsable_started, if_pos hu]

theorem exec_eventQuery_of_get {ev : U32} {v : Event} (h : HostTurn s q (.eventQuery ev) e c x) (hv : s.events.get ev.toNat = some v) :
    exec (.eventQuery q ev) s = .next ((s.started q e.sub).complete (qKey q) e.sub (Done.okay 0 v.shown.toNat)) := by
  refine (whenCtx_of_turn h _).trans ?_
  simp only [started_events, hv]

theorem exec_seedSet_of_turn {seed : U64} (h : HostTurn s q (.seedSet seed) e c x) :
    exec (.seedSet q seed) s = .next (((s.started q e.sub).setCtx c { x with seed := seed }).complete (qKey q) e.sub (Done.okay 0 0)) :=
  whenCtx_of_turn h _

/-- WAIT looks first at whether its target may be named, then at the fence, then at the deadline, and is outstanding after that (R416). -/
theorem exec_wait_of_get {a : WaitArgs} {v : Event} (h : HostTurn s q (.wait a) e c x) (hv : s.events.get a.event.toNat = some v) :
    exec (.wait q a) s = .next (
      if 2 ^ 62 < (a.target - v.value).toNat ∧ (a.target - v.value).toNat < 2 ^ 63 then (s.started q e.sub).complete (qKey q) e.sub (Done.req .malformed)
      else if satisfied v.value a.target then (s.started q e.sub).complete (qKey q) e.sub (Done.req .ok)
      else if a.deadline ≠ 0 ∧ a.deadline.toNat < s.ts then (s.started q e.sub).complete (qKey q) e.sub (Done.req .timeout)
      else { s.started q e.sub with waits := s.waits ++ [⟨qKey q, e.sub, a.event.toNat, a.target, a.deadline.toNat⟩] }) := by
  refine (whenCtx_of_turn h _).trans ?_
  simp only [started_events, started_ts, started_waits, hv, Bool.and_eq_true, bne_iff_ne, decide_eq_true_eq]

/-- A SIGNAL completes with the fence's answer, and is counted when that is STALE (R415). -/
theorem exec_signal_of_get {a : SignalArgs} {v : Event} {st : Status} (h : HostTurn s q (.signal a) e c x) (hv : s.events.get a.event.toNat = some v)
    (hst : signalStatus v.value a.value = st) :
    exec (.signal q a) s = .next ((if st = .stale then ((s.started q e.sub).applySignal a.event.toNat a.value).2.bumpFn x.fn hqStale 1
      else ((s.started q e.sub).applySignal a.event.toNat a.value).2).complete (qKey q) e.sub (Done.req st)) := by
  refine (whenCtx_of_turn h _).trans ?_
  have hget : (s.started q e.sub).events.get a.event.toNat = some v := by rw [started_events, hv]
  simp only [hget, State.applySignal_fst hget, hst, beq_iff_eq]

/-- A signal that is not applied completes from the state in which the SIGNAL has started. -/
theorem exec_signal_of_ne_ok {a : SignalArgs} {v : Event} {st : Status} (h : HostTurn s q (.signal a) e c x) (hv : s.events.get a.event.toNat = some v)
    (hst : signalStatus v.value a.value = st) (hne : st ≠ .ok) :
    exec (.signal q a) s = .next ((if st = .stale then (s.started q e.sub).bumpFn x.fn hqStale 1 else s.started q e.sub).complete
      (qKey q) e.sub (Done.req st)) := by
  have hget : (s.started q e.sub).events.get a.event.toNat = some v := by rw [started_events, hv]
  rw [exec_signal_of_get h hv hst, State.applySignal_snd_of_ne_ok hget (hst ▸ hne)]

end Turn

/-- Settles O6: each clause is the lemma of its command; those of WAIT and SIGNAL are the branches of `exec_wait_of_get` and `exec_signal_of_get`,
told apart by how far the target or the value lies ahead. -/
theorem eventsAndWaits : Obligations.EventsAndWaits := by
  unfold Obligations.EventsAndWaits
  refine ⟨fun s q e c x => ⟨fun a pick n => exec_eventCreate_of_pick, fun ev => exec_eventDestroy_of_usable, fun ev v => exec_eventQuery_of_get,
      fun seed => exec_seedSet_of_turn⟩,
    ⟨?wait, fun s ev value => ⟨State.resolveWaits_of_none, fun w => State.resolveWaits_of_one⟩, fun s i w => exec_waitDeadline_of_passed⟩, ?signal⟩
  case wait =>
    intro s q a e c x v h hv
    rw [exec_wait_of_get h hv]
    refine ⟨fun hfar hlt => ?malformed, fun hreached => ?ok, fun hd h0 hdl hlate => ?timeout, fun hd h0 hopen => ?outstanding⟩
    case malformed => rw [if_pos ⟨hfar, hlt⟩]
    case ok => rw [if_neg (not_tooFarAhead_of_reached hreached), satisfied_of_reached hreached, if_pos rfl]
    case timeout =>
      rw [if_neg (by omega), satisfied_eq_false_of_ahead h0 (by omega), if_neg Bool.false_ne_true, if_pos ⟨hdl, hlate⟩]
    case outstanding =>
      have hnotLate : ¬(a.deadline ≠ 0 ∧ a.deadline.toNat < s.ts) := fun hl => hopen.elim hl.1 (Nat.not_le_of_lt hl.2)
      rw [if_neg (by omega), satisfied_eq_false_of_ahead h0 (by omega), if_neg Bool.false_ne_true, if_neg hnotLate]
  case signal =>
    intro s q a e c x v h hv
    refine ⟨fun hd => ?stale, fun hfar hlt => ?malformed, fun h0 hd => ?ok⟩
    case stale => rw [exec_signal_of_ne_ok h hv (signalStatus_stale hd) (by decide), if_pos rfl]
    case malformed => rw [exec_signal_of_ne_ok h hv (signalStatus_malformed hfar hlt) (by decide), if_neg (by decide)]
    case ok => rw [exec_signal_of_get h hv (signalStatus_ok h0 hd), if_neg (by decide)]

end Sys2Proof.Machine
end

section
/-! ### Objects and seals (R242, R244, R395, R396, R410 to R412)

One lemma for each outcome of OBJECT_CREATE, OBJECT_FREE and SEAL that O8 names, and O8 put together from them. -/

namespace Sys2Proof.Machine

section Turn
variable {s s1 s2 : State} {q : QId} {e : Entry} {c : Nat} {x : Ctx}

/-! Creation. -/

/-- No catcher is asked about an object that is not mirrored. -/
theorem State.catcherAnswer_unmirrored (s : State) (part : Option Nat) : s.catcherAnswer part false = (none, s) := by
  cases part <;> simp [State.catcherAnswer]

theorem exec_objectCreate_hbm {a : ObjectArgs} {pick : List Nat} {p i g : Nat} (h1 : s1 = s.started q e.sub) (h : HostTurn s q (.objectCreate a) e c x)
    (hp : x.part = some p) (hok : govern (s1.objectFails x.part a) = none) (htier : a.tier = 1) (hmirror : bitOf a.flags.toNat 0 = false)
    (hdouble : bitOf a.flags.toNat 3 = false) (hroom : a.pages.toNat ≤ s1.hbmRoom p) (hi : i = s1.objs.lowestFree (s1.objs.length + 1) 0)
    (hlt : i < 2 ^ 20) (hg : g = s1.nextGen i)
    (hnew : s1.newHbm i ⟨g, .object, some c, x.part, a.tier.toNat, a.kind.toNat, a.keySlot.toNat, false, bitOf a.flags.toNat 1, bitOf a.flags.toNat 2, false,
      none, [], false, [], 0, none, 0, none⟩ a.pages.toNat pick = some s2) :
    exec (.objectCreate q a pick) s =
      .next (({ s2 with objGens := s2.objGens.set i g } : State).complete (qKey q) e.sub (Done.okay (mkHandle i g).toNat 0)) := by
  refine (whenCtx_of_turn h _).trans ?_
  have hone : a.tier.toNat = 1 := by rw [htier]; rfl
  have hhbm : (a.tier != 1) = false := by simp [htier]
  have hfits : (decide (s1.hbmRoom p < a.pages.toNat) || decide (2 ^ 20 ≤ i)) = false := by
    rw [decide_eq_false (Nat.not_lt_of_ge hroom), decide_eq_false (Nat.not_le_of_lt hlt), Bool.or_self]
  subst h1 hg
  simp only [hok, hmirror, hdouble, State.catcherAnswer_unmirrored, ← hi, if_pos htier, Nat.mul_one, Bool.false_eq_true, if_false]
  simp only [hp, hone] at hnew ⊢
  simp only [hhbm, hfits, hnew, Bool.false_and, Bool.false_eq_true, if_false, Option.isSome_none]

/-! Freeing (R410 to R412). -/

/-- OBJECT_FREE of an object of the context refuses one in use, and else drains or drops it. -/
theorem exec_objectFree_of_ownObj {h : U32} {key : Nat} {o : Obj} (h1 : s1 = s.started q e.sub) (ht : HostTurn s q (.objectFree h) e c x)
    (ho : s1.ownObj c e.ts h = some (key, o)) :
    exec (.objectFree q h) s = .next (
      if o.inSet.isSome = true ∨ s1.trainPinned key = true ∨ s1.isBase o = true then s1.complete (qKey q) e.sub (Done.req .bounds)
      else if o.draining.isSome then s1.complete (qKey q) e.sub (Done.okay 0 0)
      else if s1.namedBefore c s1.ts key then (s1.setObj key { o with draining := some s1.ts }).complete (qKey q) e.sub (Done.okay 0 0)
      else (s1.dropPages key).complete (qKey q) e.sub (Done.okay 0 0)) := by
  refine (whenCtx_of_turn ht _).trans ?_
  subst h1
  simp only [ho, Bool.or_eq_true, or_assoc]

/-! Sealing (R244). -/

/-- SEAL of an object of the context that is not in HBM: what is sealed stays so, what is not written is refused, and else the object is read whole. Where that
needs no access, the seal ends at once. -/
theorem exec_sealObject_of_ownObj {h : U32} {key id : Nat} {o : Obj} (h1 : s1 = s.started q e.sub) (ht : HostTurn s q (.seal h) e c x)
    (ho : s1.ownObj c e.ts h = some (key, o)) (htier : o.tier ≠ 1)
    (hwork : s1.startWork (mkWork (qKey q) e (some c) x.part (.sealing key) (pageChunks 0 o.bytes) s1.ts 0) = (id, s2)) :
    exec (.sealObject q h) s = .next (
      if o.isSealed then s1.complete (qKey q) e.sub (Done.okay 0 0)
      else if ∃ p ∈ o.pages, p.st ≠ .written then s1.complete (qKey q) e.sub (Done.req .bounds)
      else if s2.workBusy id then s2
      else (s2.works.get id).elim s2 (fun w => s2.finishSeal id w key)) := by
  refine (whenCtx_of_turn ht _).trans ?_
  subst h1
  simp only [ho, if_neg htier, List.any_eq_true, bne_iff_ne, hwork]
  cases s2.workBusy id <;> cases s2.works.get id <;> rfl

end Turn

/-- A SEAL whose lines have all verified, on a partition whose catcher has nothing to say, seals the object with the digest of its bytes. -/
theorem State.finishSeal_verified {s : State} {id key qk : Nat} {w : Work} {o : Obj} (hq : w.q = some qk) (ho : s.objs.get key = some o)
    (hread : w.failed = []) (hcatch : ∀ p, w.part = some p → s.mirrors p = false)
    (hmodel : o.kind = 1 → modelHeaderOk w.bytes = true ∧ modelTableOk w.bytes = true) :
    s.finishSeal id w key = ((({ s with works := s.works.erase id } : State).fresh.2).setObj key
      { o with pages := o.pages.map (fun p => p.sealPage (o.kind == 1)), isSealed := true, digest := sha384 w.bytes }).complete qk w.sub (Done.okay 0 0) := by
  have hmirrors (p : Nat) : (({ s with works := s.works.erase id } : State).fresh.2).mirrors p = s.mirrors p := rfl
  have hobj : (({ s with works := s.works.erase id } : State).fresh.2).objs.get key = some o := ho
  have hform : (o.kind == 1 && !(modelHeaderOk w.bytes && modelTableOk w.bytes)) = false := by
    by_cases hk : o.kind = 1
    · simp [hmodel hk]
    · simp [hk]
  unfold State.finishSeal
  simp only [hq, ho, hread, hform, hmirrors]
  cases hp : w.part with
  | none => simp [State.sealObj, hobj]
  | some p => simp [State.sealObj, hobj, hcatch p hp]

/-- Settles O8: creation and the end of a SEAL are their lemmas, and the clauses of OBJECT_FREE and SEAL are the branches of
`exec_objectFree_of_ownObj` and `exec_sealObject_of_ownObj`. -/
theorem objectsAndSeals : Obligations.ObjectsAndSeals := by
  unfold Obligations.ObjectsAndSeals
  refine ⟨fun s s1 q e c x h1 => ⟨fun a pick p i g s2 => exec_objectCreate_hbm h1, fun h key o ht ho => ?free⟩,
    fun s s1 q e c x h key o h1 ht ho htier => ⟨fun hsealed => ?sealed, fun hopen hbad => ?unwritten, fun id s2 hopen hwritten hwork => ?read,
      fun s2 id w qk o2 => State.finishSeal_verified⟩⟩
  case free =>
    rw [exec_objectFree_of_ownObj h1 ht ho]
    refine ⟨fun huse => ?refused, fun hset hpin hbase hdrain => ?notInUse⟩
    case refused => rw [if_pos huse]
    case notInUse =>
      have hfree : ¬(o.inSet.isSome = true ∨ s1.trainPinned key = true ∨ s1.isBase o = true) := by simp [hset, hpin, hbase]
      rw [if_neg hfree, hdrain, Option.isSome_none, if_neg Bool.false_ne_true]
      refine ⟨fun hnamed => ?drains, fun hnamed => ?drops⟩
      case drains => rw [if_pos hnamed]
      case drops => rw [hnamed, if_neg Bool.false_ne_true]
  case sealed => rw [exec_sealObject_of_ownObj h1 ht ho htier rfl, if_pos hsealed]
  case unwritten => rw [exec_sealObject_of_ownObj h1 ht ho htier rfl, hopen, if_neg Bool.false_ne_true, if_pos hbad]
  case read =>
    have hnone : ¬∃ p ∈ o.pages, p.st ≠ .written := fun ⟨p, hp, hst⟩ => hst (hwritten p hp)
    rw [exec_sealObject_of_ownObj h1 ht ho htier hwork, hopen, if_neg Bool.false_ne_true, if_neg hnone]
    refine ⟨fun hbusy => ?busy, fun w hidle hw => ?idle⟩
    case busy => rw [if_pos hbusy]
    case idle => rw [hidle, if_neg Bool.false_ne_true, hw, Option.elim_some]

end Sys2Proof.Machine
end

section
/-! ### Negotiation, forwarded register requests and debug accesses (R356, R436, R437, R561, R597, R598)

What a function's agreement reads after NEG_GO and after the function's reset, then one lemma for each outcome of NEG_GO, of a forwarded
register request and of a debug access to a tile, and O43 put together from them. -/

namespace Sys2Proof.Machine

/-! Functions in the state. -/

@[simp] theorem State.fn_setFn_self (s : State) (f : Nat) (x : FnSt) : (s.setFn f x).fn f = x := Tbl.getD_set_self ..

theorem State.fn_congr {s t : State} (h : s.fns = t.fns) (f : Nat) : s.fn f = t.fn f := by rw [State.fn, State.fn, h]

/-- A key whose entries a filter drops is absent after it. -/
theorem Tbl.getD_filter_of_dropped {α : Type} {t : Tbl α} {p : Nat × α → Bool} {k : Nat} (h : ∀ v, p (k, v) = false) (d : α) :
    Tbl.getD (t.filter p) k d = d := by
  induction t with
  | nil => rfl
  | cons e r ih =>
    obtain ⟨j, v⟩ := e
    rw [List.filter_cons]
    split
    · rename_i hkept
      have hj : j ≠ k := by
        rintro rfl
        rw [h v] at hkept
        exact Bool.false_ne_true hkept
      simpa only [Tbl.getD, Tbl.get, if_neg hj] using ih
    · exact ih

/-! The agreement of a function: its state at 0x44, above bit 0, and the agreed features at 0xA0 (R436, R437). -/

/-- The machine once a function's NEG_CTRL.state and agreed mask are as given. -/
def State.setAgreement (s : State) (f st mask : Nat) : State :=
  s.setFn f { s.fn f with regs := ((s.fn f).regs.set 0x44 (2 * st)).set 0xA0 mask }

section Agreement
variable (s : State) (f st mask : Nat)

@[simp] theorem State.setAgreement_state : ((s.setAgreement f st mask).fn f).regs.getD 0x44 0 = 2 * st := by
  simp [State.setAgreement, Tbl.getD, Tbl.get_set_ne, Tbl.get_set_self]

@[simp] theorem State.setAgreement_features : ((s.setAgreement f st mask).fn f).regs.getD 0xA0 0 = mask := by
  simp [State.setAgreement, Tbl.getD_set_self]

@[simp] theorem State.setAgreement_ctxs : (s.setAgreement f st mask).ctxs = s.ctxs := rfl
@[simp] theorem State.setAgreement_queues : (s.setAgreement f st mask).queues = s.queues := rfl

end Agreement

/-! NEG_GO (R436, R439). -/

section NegGo
variable {s : State} {fn : Fn}

theorem exec_negGo_of_closed (h : s.bar0Open fn.val 0x40 = false) : exec (.negGo fn) s = .next s := by
  change execNegGo fn s = _
  simp [execNegGo, h]

theorem exec_negGo_of_context (h : s.bar0Open fn.val 0x40 = true) (hctx : ∃ e ∈ s.ctxs, e.2.fn = fn.val) :
    exec (.negGo fn) s = .next (s.setAgreement fn.val 5 ((s.fn fn.val).regs.getD 0xA0 0)) := by
  change execNegGo fn s = _
  have hany : s.ctxs.any (fun e => e.2.fn == fn.val) = true := by simpa using hctx
  simp [execNegGo, h, hany, State.setAgreement]

/-- NEG_CTRL's state for the driver's major version: agreed for 4, T5 subset for 3, recovery only for any other (R436). -/
def negotiatedState (version : Nat) : Nat := if version = 4 then 2 else if version = 3 then 3 else 4

/-- The agreed mask for that version: core is always in it for 4, core and T5 compatibility for 3 (R436, R437). -/
def negotiatedFeatures (version asked offered : Nat) : Nat :=
  if version = 4 then (asked &&& offered) ||| 1 else if version = 3 then (asked &&& 0x1083) ||| 0x1001 else 0

theorem negotiatedState_of_other {version : Nat} (h3 : version ≠ 3) (h4 : version ≠ 4) : negotiatedState version = 4 := by
  rw [negotiatedState, if_neg h4, if_neg h3]

theorem negotiatedFeatures_of_other {version asked offered : Nat} (h3 : version ≠ 3) (h4 : version ≠ 4) : negotiatedFeatures version asked offered = 0 := by
  rw [negotiatedFeatures, if_neg h4, if_neg h3]

theorem exec_negGo_of_no_context (h : s.bar0Open fn.val 0x40 = true) (hctx : ∀ e ∈ s.ctxs, e.2.fn ≠ fn.val) :
    exec (.negGo fn) s = .next (s.setAgreement fn.val (negotiatedState (bitsOf ((s.fn fn.val).regs.getD 0x40 0) 8 8))
      (negotiatedFeatures (bitsOf ((s.fn fn.val).regs.getD 0x40 0) 8 8) ((s.fn fn.val).regs.getD 0x80 0) (State.featOffer fn.val))) := by
  change execNegGo fn s = _
  have hany : s.ctxs.any (fun e => e.2.fn == fn.val) = false := by simpa using hctx
  simp only [execNegGo, h, hany, Bool.not_true, Bool.false_eq_true, if_false]
  split
  case h_1 hv => simp [hv, negotiatedState, negotiatedFeatures, State.setAgreement]
  case h_2 hv => simp [hv, negotiatedState, negotiatedFeatures, State.setAgreement]
  case h_3 hne4 hne3 => rw [negotiatedState_of_other hne3 hne4, negotiatedFeatures_of_other hne3 hne4, State.setAgreement]

/-- Until start-up has ended, none but the recovery loader serves the registers of the negotiation (R555). -/
theorem State.bar0Open_negotiation_of_not_ready {f : Nat} (hready : s.ready = false) (hrec : s.onlyn.recovery = false) :
    s.bar0Open f 0x40 = false := by
  unfold State.bar0Open
  by_cases hpower : (s.pwr.asleep || s.pwr.off) = true
  · simp [hpower]
  · have hstart : bitOf (s.dreg rStartup 0) 31 = false := by
      simp only [Bool.or_eq_true, not_or, Bool.not_eq_true] at hpower
      simpa [State.ready, hpower] using hready
    simp [hpower, hrec, hstart]

end NegGo

/-! A function's reset (R561). -/

/-- New pages of HBM change nothing of a function. -/
theorem State.newHbm_fns {s t : State} {key n : Nat} {o : Obj} {pick : List Nat} (h : s.newHbm key o n pick = some t) : t.fns = s.fns := by
  unfold State.newHbm at h
  split at h
  · exact absurd h (by simp)
  · rw [← Option.some.inj h]

/-- A ring for a function changes its BAR2 windows alone, of all that the function holds. -/
theorem State.newRing_regs {s t : State} {f bytes k b : Nat} {p : Option Nat} (h : s.newRing f p bytes = some (k, b, t)) :
    (t.fn f).regs = (s.fn f).regs := by
  simp only [State.newRing, Option.ite_none_left_eq_some, Option.map_eq_some_iff, Prod.mk.injEq] at h
  obtain ⟨-, u, hu, -, -, rfl⟩ := h
  rw [State.fn_setFn_self, State.fn_congr (State.newHbm_fns hu)]

theorem State.makeAdmin_regs (s : State) (f : Nat) : ((s.makeAdmin f).fn f).regs = (s.fn f).regs := by
  rw [State.makeAdmin]
  split
  next => rfl
  next k b t hring =>
    have hregs := State.newRing_regs hring
    rw [State.fn_setFn_self] at hregs
    rw [State.fn_congr (State.setQueue_fns ..)]
    exact hregs

/-- A function's reset clears the agreement: what NEG_GO has put into the state and the features. -/
theorem State.resetFn_agreement (s : State) (f : Nat) {k : Nat} (h : k = 0x44 ∨ k = 0xA0) :
    ((s.resetFn f).fn f).regs.getD k 0 = 0 := by
  unfold State.resetFn
  rw [State.makeAdmin_regs, State.fn_setFn_self]
  refine Tbl.getD_filter_of_dropped (fun v => ?_) 0
  obtain rfl | rfl := h <;> rfl

/-! Forwarded register requests (R356). -/

section Forwarded
variable {s s1 : State} {head : Pos} {off value : U64}

/-- FWD_REG_REQUEST as its sender wrote it: the offset and the value, in flow 3 of the control class. -/
def fwdRegMessage (head : Pos) (off value : U64) : RigIn := ⟨3, head.val, 3, leBytes 8 off.toNat ++ leBytes 8 value.toNat⟩

theorem exec_fwdRegRequest_write (h1 : s1 = (s.takeInbox (fwdRegMessage head off value)).fresh.2)
    (hodd : (Config.freeWord (s.takeInbox (fwdRegMessage head off value)).free).toNat % 2 = 1) :
    exec (.fwdRegRequest head off value) s =
      .next ((s1.writeReg false 0 off.toNat 8 value.toNat).sendControl head.val 4 (leBytes 8 off.toNat ++ leBytes 8 value.toNat)) := by
  change execFwdRegRequest head off value s = _
  subst h1
  have hwrite : ¬(Config.freeWord (s.takeInbox (fwdRegMessage head off value)).fresh.1).toNat % 2 = 0 := fun heven => by
    rw [State.fresh, hodd] at heven
    exact absurd heven (by decide)
  exact if_neg hwrite

theorem exec_fwdRegRequest_read {s2 : State} {v : Nat} (h1 : s1 = (s.takeInbox (fwdRegMessage head off value)).fresh.2)
    (heven : (Config.freeWord (s.takeInbox (fwdRegMessage head off value)).free).toNat % 2 = 0)
    (hread : (v, s2) = if off.toNat % 8 = 0 then s1.readReg false 0 off.toNat else (0, s1)) :
    exec (.fwdRegRequest head off value) s = .next (s2.sendControl head.val 4 (leBytes 8 off.toNat ++ leBytes 8 v)) := by
  change execFwdRegRequest head off value s = _
  subst h1
  have hv := congrArg Prod.fst hread
  have hs2 := congrArg Prod.snd hread
  dsimp only at hv hs2
  subst hv hs2
  exact if_pos heven

end Forwarded

/-! The latch of a reader's high words (R589). -/

/-- What BAR0 answers does not depend on a latch. -/
theorem State.setLatch_bar0Open (s : State) (f off : Nat) (v : Option (Nat × Nat)) : (s.setLatch false f v).bar0Open f off = s.bar0Open f off := by
  have hneg : (s.setLatch false f v).negState f = s.negState f := by simp [State.negState, State.setLatch]
  unfold State.bar0Open
  rw [hneg]
  rfl

/-! Debug accesses of 8 bytes to a tile (R597, R598). -/

section Debug
variable {s s1 : State} {off : U32} {value : U64} {idx p : Nat} {write : Bool}
variable (hopen : s.bar0Open 0 0x3000000 = true) (hlo : 0x3200000 ≤ off.toNat) (hhi : off.toNat < 0x3400000) (hal : off.toNat % 8 = 0)
variable (hidx : idx = bitsOf (s.dreg rDbgSel 0) 8 8) (hkind : bitsOf (s.dreg rDbgSel 0) 6 2 = 0) (hlt : idx < 160)
variable (h1 : s1 = s.setLatch false 0 none) (hpart : s1.tilePart idx = some p)
include hopen hlo hhi hal hidx hkind hlt h1 hpart

/-- Without the partition's consent a write is counted and reaches no tile, whatever region it names (R598). -/
theorem exec_dbgAccess_of_refused (hconsent : s1.consent p 1 = false) : exec (.dbgAccess off true 8 value) s = .next (s1.dbgRefused (some p)) := by
  change execDbgAccess off true 8 value s = _
  subst hidx h1
  have hcores : ¬off.toNat < 0x3100400 := by omega
  simp [execDbgAccess, State.setLatch_bar0Open, hopen, hlo, hhi, hal, hkind, hlt, hpart, hcores, hconsent]

/-- Inside a region of a tile that has not failed, in a partition that consents, the access is made. Regions 4 and 5, the banks of a program, are
left out: a tile that runs one does not let it be written. -/
theorem exec_dbgAccess_of_served {region : Nat} (hregion : region = bitsOf (s.dreg rDbgSel 0) 3 3) (hreglt : region < 4)
    (hsize : off.toNat - 0x3200000 + 8 ≤ regionSize region) (hworks : (s1.tile idx).failed = false) (hcut : s1.tileCut idx = false)
    (hconsent : s1.consent p 1 = true) :
    exec (.dbgAccess off write 8 value) s = .next (if write then s1.dbgWrite idx region (off.toNat - 0x3200000) 8 value.toNat
      else s1.answer false 0 off.toNat (s1.dbgRead idx region (off.toNat - 0x3200000) 8)) := by
  change execDbgAccess off write 8 value s = _
  subst hidx h1 hregion
  have hcores : ¬off.toNat < 0x3100400 := by omega
  have hbank4 : bitsOf (s.dreg rDbgSel 0) 3 3 ≠ 4 := by omega
  have hbank5 : bitsOf (s.dreg rDbgSel 0) 3 3 ≠ 5 := by omega
  have hregions : bitsOf (s.dreg rDbgSel 0) 3 3 < 6 := by omega
  cases write <;>
    simp [execDbgAccess, State.setLatch_bar0Open, hopen, hlo, hhi, hal, hkind, hlt, hpart, hcores, hconsent, hworks, hcut, hsize, hbank4, hbank5, hregions]

end Debug

/-- Settles O43: each clause is the lemma of its operation; the three versions are the branches of `negotiatedState` and
`negotiatedFeatures`, and a reading and a writing debug access those of `exec_dbgAccess_of_served`. -/
theorem negotiationAndDebug : Obligations.NegotiationAndDebug := by
  unfold Obligations.NegotiationAndDebug
  intro s
  refine ⟨?negotiates, ?context, fun fn => exec_negGo_of_closed,
    fun fn => ⟨State.resetFn_agreement s fn.val (.inl rfl), State.resetFn_agreement s fn.val (.inr rfl)⟩,
    fun hready hrec fn => exec_negGo_of_closed (State.bar0Open_negotiation_of_not_ready hready hrec),
    fun head off value s1 => exec_fwdRegRequest_write, fun head off value s1 s2 v => exec_fwdRegRequest_read, ?served,
    fun off value idx p s1 => exec_dbgAccess_of_refused⟩
  case negotiates =>
    intro fn hopen hctx
    refine ⟨_, _, exec_negGo_of_no_context hopen hctx, State.setAgreement_state .., State.setAgreement_ctxs .., State.setAgreement_queues .., ?_⟩
    rw [State.setAgreement_features]
    refine ⟨fun h4 => ?v4, fun h3 => ?v3, fun hne3 hne4 => ?other⟩
    case v4 => rw [h4]; exact ⟨rfl, rfl⟩
    case v3 => rw [h3]; exact ⟨rfl, rfl⟩
    case other => exact ⟨negotiatedState_of_other hne3 hne4, negotiatedFeatures_of_other hne3 hne4⟩
  case context =>
    intro fn hopen hctx
    exact ⟨_, exec_negGo_of_context hopen hctx, State.setAgreement_state .., State.setAgreement_features .., State.setAgreement_ctxs ..,
      State.setAgreement_queues ..⟩
  case served =>
    intro off value idx region p s1 hopen hlo hhi hal hidx hregion hkind hlt hreglt hsize h1 hworks hcut hpart hconsent
    have hserved (write : Bool) := exec_dbgAccess_of_served (value := value) (write := write) hopen hlo hhi hal hidx hkind hlt h1 hpart hregion hreglt hsize
      hworks hcut hconsent
    exact ⟨hserved false, hserved true⟩

end Sys2Proof.Machine
end

section
/-! ### The life cycle (R488 to R490)

A move of the life cycle wipes the device, and the wipe takes every port down; with a port the pair peer may go, and this device may take its
partitions over. So that the new state and the wipe that is owed survive the wipe itself, one frame lemma for each operation on that way: SEC
is left as it was. After them the wipe, LIFECYCLE, the end of a wipe, start-up and the loss of power, and O39 put together from them. -/

namespace Sys2Proof.Machine

/-! Conditionals, folds and recursions of updates that each leave SEC. -/

@[simp] theorem sec_ite (c : Prop) [Decidable c] (a b : State) : (if c then a else b).sec = if c then a.sec else b.sec := apply_ite ..

/-- What each update of a fold keeps, the fold keeps. -/
theorem foldl_keeps {α β : Type} (g : State → β) {f : State → α → State} (l : List α) (s : State) (h : ∀ s a, g (f s a) = g s) :
    g (l.foldl f s) = g s :=
  List.foldlRecOn l f (motive := fun t => g t = g s) rfl fun t ht a _ => (h t a).trans ht

@[simp] theorem foldl_sec {α : Type} {f : State → α → State} (l : List α) (s : State) (h : ∀ s a, (f s a).sec = s.sec) : (l.foldl f s).sec = s.sec :=
  foldl_keeps State.sec l s h

/-- A recursion on fuel, taken as the step function that it compiles to. -/
theorem brecOn_sec {F : (n : Nat) → Nat.below (motive := fun _ => State → State) n → State → State} (h0 : ∀ b s, (F 0 b s).sec = s.sec)
    (hs : ∀ n (b : Nat.below (motive := fun _ => State → State) (n + 1)) s, (∀ t, (b.1 t).sec = t.sec) → (F (n + 1) b s).sec = s.sec)
    (n : Nat) (s : State) : (Nat.brecOn (motive := fun _ => State → State) n F s).sec = s.sec := by
  induction n generalizing s with
  | zero => exact h0 _ s
  | succ n ih => exact hs n _ s ih

section SecFrame
variable (s : State)

/-! Charges, mirror messages, and what is read and written in pages. -/

@[simp] theorem State.fresh_sec : s.fresh.2.sec = s.sec := rfl
@[simp] theorem State.spend_sec (k n : Nat) : (s.spend k n).sec = s.sec := by simp [State.spend]

@[simp] theorem State.bumpPart?_sec (p : Option Nat) (off n : Nat) : (s.bumpPart? p off n).sec = s.sec := by
  cases p <;> rfl

@[simp] theorem State.touchLines_sec (part : Option Nat) (first n : Nat) : (s.touchLines part first n).sec = s.sec := by
  refine foldl_sec _ _ fun s i => ?_
  dsimp only
  split
  · cases part <;> simp
  · rfl

@[simp] theorem State.mirror_sec (p kind : Nat) (body : Bytes) : (s.mirror p kind body).sec = s.sec := rfl

@[simp] theorem State.mirrorLines_sec (p kind : Nat) (handle : U32) (page frame first n : Nat) (writer : Option (Nat × Nat)) :
    (s.mirrorLines p kind handle page frame first n writer).sec = s.sec := foldl_sec _ _ fun _ _ => rfl

@[simp] theorem State.mirrorFlash_sec (p : Nat) (handle : U32) (page off : Nat) (data : Bytes) :
    (s.mirrorFlash p handle page off data).sec = s.sec := foldl_sec _ _ fun _ _ => rfl

@[simp] theorem State.pageWrite_sec (key i off : Nat) (data : Bytes) (writer : Option (Nat × Nat)) :
    (s.pageWrite key i off data writer).sec = s.sec := by
  dsimp only [State.pageWrite]
  repeat' split
  all_goals simp

@[simp] theorem State.objWriteBy_sec (writer : Option (Nat × Nat)) (key off : Nat) (data : Bytes) :
    (s.objWriteBy writer key off data).sec = s.sec := by
  unfold State.objWriteBy
  split <;> simp

@[simp] theorem State.objWrite_sec (key off : Nat) (data : Bytes) : (s.objWrite key off data).sec = s.sec := by simp [State.objWrite]

@[simp] theorem State.markIncomplete_sec (key i : Nat) : (s.markIncomplete key i).sec = s.sec := by
  unfold State.markIncomplete
  split <;> simp

/-! Frames and pages. -/

@[simp] theorem State.growRegion_sec (tag : Nat) (fuel n : Nat) : (s.growRegion tag fuel n).sec = s.sec := by
  induction fuel generalizing s with
  | zero => rfl
  | succ k ih =>
    unfold State.growRegion
    split
    · rfl
    · split
      · rw [ih]
      · rfl

theorem State.pickFlash_sec {s : State} {tag n : Nat} {pick : List Nat} {l} (h : s.pickFlash tag n pick = some l) : l.2.sec = s.sec := by
  simp only [State.pickFlash] at h
  repeat' split at h
  all_goals simp only [Option.some.injEq, reduceCtorEq] at h
  all_goals rw [← h, State.growRegion_sec]

theorem State.newHbm_sec {s : State} {key : Nat} {o : Obj} {n : Nat} {pick : List Nat} {t : State} (h : s.newHbm key o n pick = some t) :
    t.sec = s.sec := by
  unfold State.newHbm at h
  split at h
  · exact absurd h (by simp)
  · rw [← Option.some.inj h]

theorem State.newFlash_sec {s : State} {key : Nat} {o : Obj} {n : Nat} {pick : List Nat} {t : State} (h : s.newFlash key o n pick = some t) :
    t.sec = s.sec := by
  unfold State.newFlash at h
  split at h
  · exact absurd h (by simp)
  next fs u hpick =>
    rw [← Option.some.inj h]
    exact State.pickFlash_sec hpick

@[simp] theorem State.dropPages_sec (key : Nat) : (s.dropPages key).sec = s.sec := by
  unfold State.dropPages
  split <;> simp

/-! Interrupts, records and messages on the Rigging. -/

@[simp] theorem State.raise_sec (f v : Nat) : (s.raise f v).sec = s.sec := by simp [State.raise]

@[simp] theorem State.putRec_sec (qk : Nat) (r : Rec) : (s.putRec qk r).sec = s.sec := by
  unfold State.putRec
  split <;> simp

@[simp] theorem State.setRig_sec (r : Rig) : (s.setRig r).sec = s.sec := rfl
@[simp] theorem State.setPort_sec (p : Nat) (x : RPort) : (s.setPort p x).sec = s.sec := rfl
@[simp] theorem State.toInbox_sec (m : RigIn) : (s.toInbox m).sec = s.sec := rfl
@[simp] theorem State.giveBack_sec (cls : Nat) (ports : List Nat) : (s.giveBack cls ports).sec = s.sec := foldl_sec _ _ fun _ _ => rfl
@[simp] theorem State.dropInbox_sec (f : RigIn → Bool) : (s.dropInbox f).sec = s.sec := by simp [State.dropInbox]
@[simp] theorem State.dropPartials_sec (f : RigIn → Bool) : (s.dropPartials f).sec = s.sec := by simp [State.dropPartials]
@[simp] theorem State.bumpPort_sec (p off n : Nat) : (s.bumpPort p off n).sec = s.sec := rfl

@[simp] theorem State.sendMsg_sec (cls dst src flow : Nat) (part : Option Nat) (data : Bytes) :
    (s.sendMsg cls dst src flow part data).sec = s.sec := by
  dsimp only [State.sendMsg]
  repeat' split
  all_goals simp

@[simp] theorem State.sendControl_sec (dst flow : Nat) (data : Bytes) : (s.sendControl dst flow data).sec = s.sec := by simp [State.sendControl]

/-! Collective groups and update sets. -/

@[simp] theorem State.setGroup_sec (g : Nat) (x : Group) : (s.setGroup g x).sec = s.sec := rfl
@[simp] theorem State.remoteJoins_sec (gi : Nat) : (s.remoteJoins gi).sec = s.sec := by simp [State.remoteJoins]

@[simp] theorem State.sendGroup_sec (kind sender dest : Nat) (m : GroupMsg) :
    (s.sendGroup kind sender dest m).sec = s.sec := by simp [State.sendGroup]

@[simp] theorem State.markAbort_sec (g : Nat) (c : GCause) : (s.markAbort g c).sec = s.sec := by simp [State.markAbort]

@[simp] theorem State.abortSteps_sec (g : Nat) : (s.abortSteps g).sec = s.sec := by
  dsimp only [State.abortSteps]
  repeat' split
  all_goals simp

@[simp] theorem State.setUset_sec (k : Nat) (u : USet) : (s.setUset k u).sec = s.sec := rfl
@[simp] theorem State.closeAttempts_sec (rid : Nat) : (s.closeAttempts rid).sec = s.sec := foldl_sec _ _ fun _ _ => rfl

/-! The adapter registry and its cache. -/

@[simp] theorem State.setReg_sec (slot : Nat) (e : RegEntry) : (s.setReg slot e).sec = s.sec := rfl
@[simp] theorem State.dropReg_sec (slot : Nat) : (s.dropReg slot).sec = s.sec := rfl
@[simp] theorem State.setCache_sec (i : Nat) (e : CacheEntry) : (s.setCache i e).sec = s.sec := rfl
@[simp] theorem State.dropCache_sec (i : Nat) : (s.dropCache i).sec = s.sec := rfl
@[simp] theorem State.dropLoad_sec (i : Nat) : (s.dropLoad i).sec = s.sec := rfl

@[simp] theorem State.freeRevoked_sec (slot : Nat) : (s.freeRevoked slot).sec = s.sec := by
  unfold State.freeRevoked
  split <;> simp

@[simp] theorem State.wipeEntry_sec (i : Nat) (revoked : Option Nat) : (s.wipeEntry i revoked).sec = s.sec := by
  dsimp only [State.wipeEntry]
  repeat' split
  all_goals simp

@[simp] theorem State.afterUnpin_sec (i : Nat) : (s.afterUnpin i).sec = s.sec := by
  unfold State.afterUnpin
  split <;> simp

@[simp] theorem State.releaseCtxPins_sec (c : Nat) : (s.releaseCtxPins c).sec = s.sec := by simp [State.releaseCtxPins]
@[simp] theorem State.endVoid_sec (i : Nat) (e : CacheEntry) : (s.endVoid i e).sec = s.sec := by simp [State.endVoid]
@[simp] theorem State.endHold_sec (rid : Nat) : (s.endHold rid).sec = s.sec := by simp [State.endHold]

/-! What is mirrored before it is shown, and what is shown. -/

@[simp] theorem State.flushJournal_sec (p : Nat) : (s.flushJournal p).sec = s.sec := by
  rw [State.flushJournal, State.setNet_sec, foldl_sec]
  exact fun _ _ => rfl

@[simp] theorem State.mirrorRing_sec (p ring off len : Nat) (writer : Nat × Nat) (big : List (Nat × Bytes)) :
    (s.mirrorRing p ring off len writer big).sec = s.sec := foldl_sec _ _ fun _ _ => rfl

@[simp] theorem State.eventRoom_sec (x : Ctx) : (s.eventRoom x).2.sec = s.sec := by
  unfold State.eventRoom
  split <;> simp

@[simp] theorem State.forwardEvent_sec (c ev : Nat) (cookie : U32) (value : U64) (st : Status) (ts : Nat) :
    (s.forwardEvent c ev cookie value st ts).sec = s.sec := by
  unfold State.forwardEvent
  split <;> simp

@[simp] theorem State.putEvent_sec (c ev : Nat) (cookie : U32) (value : U64) (st : Status) (ts : Nat) :
    (s.putEvent c ev cookie value st ts).sec = s.sec := by
  unfold State.putEvent
  split <;> simp

@[simp] theorem State.forwardRec_sec (q : Nat) (r : Rec) : (s.forwardRec q r).sec = s.sec := by
  unfold State.forwardRec
  split <;> simp

@[simp] theorem State.show_sec (x : HoldItem) : (s.show x).sec = s.sec := by
  dsimp only [State.show]
  repeat' split
  all_goals simp

@[simp] theorem State.mirrorItem_sec (p : Nat) (x : HoldItem) : (s.mirrorItem p x).sec = s.sec := by
  dsimp only [State.mirrorItem]
  repeat' split
  all_goals simp

@[simp] theorem State.emit_sec (p : Option Nat) (x : HoldItem) : (s.emit p x).sec = s.sec := by
  dsimp only [State.emit]
  repeat' split
  all_goals simp

@[simp] theorem State.record_sec (qk : Nat) (r : Rec) : (s.record qk r).sec = s.sec := by simp [State.record]

/-! Completion: what may go once a command has ended. -/

@[simp] theorem State.emptySlot_sec (p slot : Nat) : (s.emptySlot p slot).sec = s.sec := by
  unfold State.emptySlot
  split <;> simp

@[simp] theorem State.settleObjs_sec : s.settleObjs.sec = s.sec := by
  refine foldl_sec _ _ fun s e => ?_
  split <;> simp

@[simp] theorem State.settleSlots_sec : s.settleSlots.sec = s.sec := by
  refine foldl_sec _ _ fun s p => foldl_sec _ _ fun s e => ?_
  split <;> simp

@[simp] theorem State.settle_sec : s.settle.sec = s.sec := by simp [State.settle]

@[simp] theorem State.dropEntry_sec (qk sub : Nat) : (s.dropEntry qk sub).sec = s.sec := by
  unfold State.dropEntry
  split <;> simp

@[simp] theorem State.tallyFull_sec : s.tallyFull.sec = s.sec := by
  dsimp only [State.tallyFull]
  repeat' split
  all_goals simp

@[simp] theorem State.complete_sec (qk sub : Nat) (d : Done) : (s.complete qk sub d).sec = s.sec := by
  dsimp only [State.complete]
  repeat' split
  all_goals simp

/-! Runs, works and contexts that end. -/

@[simp] theorem State.fixCycles_sec (r : Run) (t : Nat) : (s.fixCycles r t).sec = s.sec := by simp [State.fixCycles]
@[simp] theorem State.settleLeaving_sec : s.settleLeaving.sec = s.sec := by simp [State.settleLeaving]
@[simp] theorem State.dropAccs_sec (f : Access → Bool) : (s.dropAccs f).sec = s.sec := by simp [State.dropAccs]
@[simp] theorem State.countStall_sec (p : Option Nat) (n : Nat) : (s.countStall p n).sec = s.sec := by simp [State.countStall]

@[simp] theorem State.releaseRun_sec (rid : Nat) : (s.releaseRun rid).sec = s.sec := by
  unfold State.releaseRun
  split
  · rfl
  · extract_lets stalled dropped touched stopped released
    have hdropped : dropped.sec = s.sec := by simp [dropped, stalled]
    have htouched : touched.sec = dropped.sec := foldl_sec _ _ fun _ _ => rfl
    have hstopped : stopped.sec = s.sec := by simp [stopped, htouched, hdropped]
    have hreleased : released.sec = stopped.sec := foldl_sec _ _ fun _ _ => rfl
    exact (State.endHold_sec ..).trans (hreleased.trans hstopped)

@[simp] theorem State.abortRun_sec (rid : Nat) : (s.abortRun rid).sec = s.sec := by simp [State.abortRun]

@[simp] theorem State.spoilWrites_sec (id : Nat) : (s.spoilWrites id).sec = s.sec := by
  refine foldl_sec _ _ fun s e => ?_
  split <;> simp

@[simp] theorem State.abortWork_sec (id : Nat) : (s.abortWork id).sec = s.sec := by
  dsimp only [State.abortWork]
  repeat' split
  all_goals simp

@[simp] theorem State.dropWaiter_sec (qk sub : Nat) : (s.dropWaiter qk sub).sec = s.sec := foldl_sec _ _ fun _ _ => rfl
@[simp] theorem State.endEntryWith_sec (qk sub : Nat) (d : Done) : (s.endEntryWith qk sub d).sec = s.sec := by simp [State.endEntryWith]
@[simp] theorem State.endEntry1_sec (qk sub : Nat) (st : Status) (sc : Scope) : (s.endEntry1 qk sub st sc).sec = s.sec := by simp [State.endEntry1]

@[simp] theorem State.endQueue1_sec (qk : Nat) (sel : Entry → Bool) (st : Status) (sc : Scope) (victim : Option (Nat × Nat × Status)) :
    (s.endQueue1 qk sel st sc victim).sec = s.sec := by
  unfold State.endQueue1
  split <;> simp

@[simp] theorem State.faultRecord_sec (f c : Nat) (st : Status) (sc : Scope) : (s.faultRecord f c st sc).sec = s.sec := by simp [State.faultRecord]

@[simp] theorem State.loseCtx1_sec (c : Nat) (st : Status) (sc : Scope) (victim : Option (Nat × Nat)) : (s.loseCtx1 c st sc victim).sec = s.sec := by
  unfold State.loseCtx1
  split <;> simp

@[simp] theorem State.groupEnd_sec (e : Nat × Run) (c : GCause) : (s.groupEnd e c).sec = s.sec := by
  dsimp only [State.groupEnd]
  repeat' split
  all_goals simp

/-! Faults of the four scopes. -/

@[simp] theorem State.drainGroups_sec (fuel : Nat) : (State.drainGroups fuel s).sec = s.sec := by
  induction fuel generalizing s with
  | zero => rfl
  | succ k ih =>
    unfold State.drainGroups
    split
    · rfl
    · simp [ih]

@[simp] theorem State.settleGroups_sec : s.settleGroups.sec = s.sec := by simp [State.settleGroups]

@[simp] theorem State.loseCtx_sec (c : Nat) (st : Status) (sc : Scope) (victim : Option (Nat × Nat)) :
    (s.loseCtx c st sc victim).sec = s.sec := by simp [State.loseCtx]

@[simp] theorem State.ctxFault_sec (c : Nat) (st : Status) (victim : Option (Nat × Nat)) :
    (s.ctxFault c st victim).sec = s.sec := by simp [State.ctxFault]

@[simp] theorem State.partFault_sec (p : Nat) (st : Status) (victim : Option (Nat × Nat)) :
    (s.partFault p st victim).sec = s.sec := by simp [State.partFault]

@[simp] theorem State.devFault_sec (st : Status) (victim : Option (Nat × Nat)) : (s.devFault st victim).sec = s.sec := by simp [State.devFault]

@[simp] theorem State.faultAt_sec (qk sub : Nat) (st : Status) (sc : Scope) : (s.faultAt qk sub st sc).sec = s.sec := by
  dsimp only [State.faultAt]
  repeat' split
  all_goals simp

/-! The log, power domains, and a fetched entry. -/

@[simp] theorem State.logRec_sec (x : LogItem) : (s.logRec x).sec = s.sec := by simp [State.logRec]
@[simp] theorem State.setDom_sec (d : Nat) (x : Dom) : (s.setDom d x).sec = s.sec := rfl

@[simp] theorem State.takeEntry_sec (qk sub t : Nat) (qu : Queue) (e : RawEntry) : (s.takeEntry qk sub t qu e).sec = s.sec := by
  dsimp only [State.takeEntry]
  repeat' split
  all_goals simp

/-! Sets, rings, queues and snapshots. -/

@[simp] theorem State.dropSet_sec (k : Nat) : (s.dropSet k).sec = s.sec := foldl_sec _ _ fun _ _ => rfl

theorem State.newRing_sec {s : State} {f : Nat} {p : Option Nat} {bytes : Nat} {l} (h : s.newRing f p bytes = some l) : l.2.2.sec = s.sec := by
  simp only [State.newRing, Option.ite_none_left_eq_some, Option.map_eq_some_iff] at h
  obtain ⟨-, u, hu, rfl⟩ := h
  rw [State.setFn_sec]
  exact State.newHbm_sec hu

@[simp] theorem State.dropRing_sec (f ring : Nat) : (s.dropRing f ring).sec = s.sec := by simp [State.dropRing]

@[simp] theorem State.dropQueue_sec (k : Nat) : (s.dropQueue k).sec = s.sec := by
  unfold State.dropQueue
  split <;> simp

@[simp] theorem State.freeSwept_sec (l : List Nat) : (s.freeSwept l).sec = s.sec := by simp [State.freeSwept]
@[simp] theorem State.setPreg_sec (p off v : Nat) : (s.setPreg p off v).sec = s.sec := rfl

@[simp] theorem State.protect_sec (l : List (Nat × Nat)) : (s.protect l).sec = s.sec := by
  refine foldl_sec _ _ fun s e => ?_
  repeat' split
  all_goals simp

@[simp] theorem State.startSnap_sec (p : Nat) (cmd : Option (Nat × Nat)) (at_ : Option (Nat × Nat)) :
    (s.startSnap p cmd at_).sec = s.sec := by simp [State.startSnap]

@[simp] theorem State.freeSnap_sec (l : List Nat) : (s.freeSnap l).sec = s.sec := by simp [State.freeSnap]

/-! Groups joined, and the rounds of digests. -/

theorem State.tryJoin_sec {s : State} {p gi m gen owner : Nat} {digest : Bytes} {t : State} (h : s.tryJoin p gi m gen owner digest = .ok t) :
    t.sec = s.sec := by
  unfold State.tryJoin at h
  dsimp only at h
  repeat' split at h
  all_goals simp at h
  simp [← h]

@[simp] theorem State.chargePair_sec (p : Nat) : (s.chargePair p).sec = s.sec := by simp [State.chargePair]
@[simp] theorem State.setRound_sec (p r : Nat) (x : Round) : (s.setRound p r x).sec = s.sec := rfl
@[simp] theorem State.setDigStatus_sec (p : Nat) (div : Bool) (loc : Nat) : (s.setDigStatus p div loc).sec = s.sec := rfl

@[simp] theorem State.endRound_sec (p r : Nat) : (s.endRound p r).sec = s.sec := by
  dsimp only [State.endRound]
  repeat' split
  all_goals simp

@[simp] theorem State.settleRound_sec (p r : Nat) : (s.settleRound p r).sec = s.sec := by
  unfold State.settleRound
  split <;> simp

@[simp] theorem State.locate_sec (p page line member : Nat) (a b : Bytes) : (s.locate p page line member a b).sec = s.sec := by simp [State.locate]
@[simp] theorem State.flipObjs_sec (k half : Nat) : (s.flipObjs k half).sec = s.sec := foldl_sec _ _ fun _ _ => rfl

/-! Segments of a SNAPSHOT region. -/

@[simp] theorem State.giveSegs_sec (p : Nat) (segs : List Nat) : (s.giveSegs p segs).sec = s.sec := by simp [State.giveSegs]

@[simp] theorem State.leaveSnaps_sec (p : Nat) (keep : Bool) : (s.leaveSnaps p keep).sec = s.sec := by
  dsimp only [State.leaveSnaps]
  repeat' split
  all_goals simp

/-! What a catcher applies. -/

@[simp] theorem State.sendAck_sec (p : Nat) : (s.sendAck p).sec = s.sec := rfl

@[simp] theorem State.takeAnswer_sec (p rn i : Nat) (b : Bytes) : (s.takeAnswer p rn i b).sec = s.sec := by
  unfold State.takeAnswer
  split <;> simp

@[simp] theorem State.catcherRound_sec (k : Nat) (u : USet) : (s.catcherRound k u).sec = s.sec := by simp [State.catcherRound]

@[simp] theorem State.compareDigests_sec (p set epoch : Nat) (l : List Nat) : (s.compareDigests p set epoch l).sec = s.sec := by
  unfold State.compareDigests
  dsimp only
  repeat' split
  · rfl
  · rfl
  · rw [State.settleRound_sec, foldl_sec, State.setRound_sec]
    intro s i
    repeat' split
    all_goals simp

@[simp] theorem State.applyObj_sec (k : Nat) (x : Obj) : (s.applyObj k x).sec = s.sec := by
  unfold State.applyObj
  extract_lets fresh dropped bare made
  have hdropped : dropped.sec = s.sec := State.dropPages_sec s k
  have hmade : made.sec = s.sec := by
    dsimp only [made]
    split
    · split
      next u h =>
        split at h
        · exact (State.newHbm_sec h).trans hdropped
        · exact (State.newFlash_sec h).trans hdropped
      next => exact hdropped
    · rfl
  split <;> exact hmade

@[simp] theorem State.applySet_sec (k : Nat) (x : USet) : (s.applySet k x).sec = s.sec := by
  dsimp only [State.applySet]
  repeat' split
  all_goals simp

@[simp] theorem State.applyRec_sec (p : Nat) (x : JRec) : (s.applyRec p x).sec = s.sec := by
  cases x with
  | ctx k x =>
    cases x with
    | some x =>
      simp only [State.applyRec]
      split
      · rfl
      · split
        next h => exact State.newRing_sec h
        next => rfl
    | none =>
      simp only [State.applyRec]
      split <;> simp
  | queue k x =>
    cases x with
    | some x =>
      simp only [State.applyRec, State.setNet_sec]
      split
      · rfl
      · split
        next h => exact State.newRing_sec h
        next => rfl
    | none => simp [State.applyRec]
  | event k x => cases x <;> rfl
  | obj k x => cases x <;> simp [State.applyRec]
  | slot k x => cases x <;> simp [State.applyRec]
  | reg k x => cases x <;> rfl
  | set k x => cases x <;> simp [State.applyRec]
  | recipe k x => cases x <;> rfl
  | groups l => rfl
  | key k x => cases x <;> simp [State.applyRec]
  | core a => rfl
  | cursors l => exact foldl_sec _ _ fun _ _ => rfl
  | digest set epoch l => exact State.compareDigests_sec s p set epoch l

@[simp] theorem State.noteWriter_sec (p k : Nat) (is : List Nat) (w : Option (Nat × Nat)) : (s.noteWriter p k is w).sec = s.sec := by
  unfold State.noteWriter
  split <;> simp

@[simp] theorem State.applyCommit_sec (p : Nat) (b : Bytes) : (s.applyCommit p b).sec = s.sec := by
  dsimp only [State.applyCommit]
  repeat' split
  all_goals simp

@[simp] theorem State.applyMirror_sec (p kind : Nat) (b : Bytes) : (s.applyMirror p kind b).sec = s.sec := by
  dsimp only [State.applyMirror]
  repeat' split
  all_goals simp

@[simp] theorem State.noteWait_sec (p kind : Nat) (b : Bytes) : (s.noteWait p kind b).sec = s.sec := by
  dsimp only [State.noteWait]
  repeat' split
  all_goals simp

@[simp] theorem State.drainMirror_sec (p : Nat) (ack : Bool) (fuel : Nat) : (s.drainMirror p ack fuel).sec = s.sec := by
  induction fuel generalizing s with
  | zero => rfl
  | succ k ih =>
    unfold State.drainMirror
    dsimp only
    repeat' split
    all_goals simp [ih]

@[simp] theorem State.mirrorIn_sec (p kind mseq : Nat) (b : Bytes) (ack : Bool) :
    (s.mirrorIn p kind mseq b ack).sec = s.sec := by simp [State.mirrorIn]

/-! The takeover. -/

@[simp] theorem State.groupsLose_sec (lost : Nat → Bool) : (s.groupsLose lost).sec = s.sec := by simp [State.groupsLose]

@[simp] theorem State.startCores_sec (p : Nat) (a : CoreStartArgs) (a0 : Nat) : (s.startCores p a a0).sec = s.sec := by
  dsimp only [State.startCores]
  split
  · rfl
  · rw [State.setSess_sec]
    refine foldl_sec _ _ fun s r => ?_
    split
    · refine foldl_sec _ _ fun s i => ?_
      split <;> simp
    · rfl

@[simp] theorem State.sendNotice_sec (flyer ts : Nat) : (s.sendNotice flyer ts).sec = s.sec := by simp [State.sendNotice]
@[simp] theorem State.applyWhole_sec (p : Nat) : (s.applyWhole p).sec = s.sec := by simp [State.applyWhole]
@[simp] theorem State.abandonSets_sec (p : Nat) : (s.abandonSets p).sec = s.sec := foldl_sec _ _ fun _ _ => rfl

@[simp] theorem State.adoptRecs_sec (qk : Nat) (fuel : Nat) : (s.adoptRecs qk fuel).sec = s.sec := by
  induction fuel generalizing s with
  | zero => rfl
  | succ k ih =>
    unfold State.adoptRecs
    split
    · rfl
    · simp [ih]

@[simp] theorem State.adoptEvents_sec (c : Nat) (fuel : Nat) : (s.adoptEvents c fuel).sec = s.sec := by
  induction fuel generalizing s with
  | zero => rfl
  | succ k ih =>
    unfold State.adoptEvents
    split
    · rfl
    · simp [ih]

@[simp] theorem State.spoilWritten_sec (p qk sub : Nat) : (s.spoilWritten p qk sub).sec = s.sec := by
  refine foldl_sec _ _ fun s w => ?_
  split <;> simp

@[simp] theorem State.classify_sec (p qk ts : Nat) (e : Entry) : (s.classify p qk ts e).sec = s.sec := by
  dsimp only [State.classify]
  repeat' split
  all_goals simp

/-- Goes by the step function of the recursion: in the equation for one more unit of fuel the kernel would evaluate `readEntry`, too deep for it. -/
@[simp] theorem State.classifyReady_sec (p qk ts : Nat) (fuel : Nat) : (s.classifyReady p qk ts fuel).sec = s.sec := by
  delta State.classifyReady
  refine brecOn_sec (F := State.classifyReady._f p qk ts) (fun _ _ => rfl) (fun n b s hb => ?_) fuel s
  delta State.classifyReady._f
  dsimp -zeta only
  split
  · rfl
  · split
    · rfl
    · split
      · rfl
      · extract_lets taken next
        rw [hb]
        dsimp only [next]
        split
        · exact State.takeEntry_sec ..
        · exact State.complete_sec ..

@[simp] theorem State.rebuildQueue_sec (p qk ts : Nat) : (s.rebuildQueue p qk ts).sec = s.sec := by
  dsimp only [State.rebuildQueue]
  repeat' split
  all_goals simp

@[simp] theorem State.rejoin_sec (p : Nat) : (s.rejoin p).sec = s.sec := by
  refine foldl_sec _ _ fun s m => ?_
  split
  next t h => exact State.tryJoin_sec h
  next => rfl

@[simp] theorem State.takePart_sec (ts p : Nat) : (s.takePart ts p).sec = s.sec := by
  unfold State.takePart
  extract_lets whole n solo slots events adopted queues core status joined
  have hslots : slots.sec = s.sec := by simp [slots, solo, whole]
  have hadopted : adopted.sec = s.sec := by
    refine (foldl_sec _ _ fun s c => ?_).trans hslots
    split <;> simp
  have hqueues : queues.sec = s.sec := by simp [queues, hadopted]
  have hcore : core.sec = s.sec := by
    dsimp only [core]
    repeat' split
    all_goals simp [hqueues]
  simp [joined, status, hcore]

@[simp] theorem State.noteTakeover_sec (flyer ts : Nat) (ps : List Nat) : (s.noteTakeover flyer ts ps).sec = s.sec := by simp [State.noteTakeover]
@[simp] theorem State.setServing_sec (f c flyerAt : Nat) : (s.setServing f c flyerAt).sec = s.sec := rfl

@[simp] theorem State.takeover_sec (ts : Nat) : (s.takeover ts).sec = s.sec := by
  unfold State.takeover
  split
  · extract_lets ps whole served
    have hserved : served.sec = s.sec := by simp [served, whole]
    split
    · rfl
    · split
      · exact foldl_sec _ _ fun _ _ => rfl
      · simp [hserved]
  · rfl

/-! A device lost, and a port that leaves UP. -/

@[simp] theorem State.fence_sec : s.fence.sec = s.sec := by
  refine foldl_sec _ _ fun s p => ?_
  dsimp only
  repeat' split
  all_goals simp

@[simp] theorem State.loseDevice_sec (d : Nat) : (s.loseDevice d).sec = s.sec := by simp [State.loseDevice]
@[simp] theorem State.noteRoutes_sec : s.noteRoutes.sec = s.sec := rfl

@[simp] theorem State.requeueMirror_sec : s.requeueMirror.sec = s.sec := by
  refine foldl_sec _ _ fun s p => ?_
  dsimp only
  split <;> simp

@[simp] theorem State.checkLost_sec (p : Nat) : (s.checkLost p).sec = s.sec := by simp [State.checkLost]
@[simp] theorem State.portPower_sec (p : Nat) (on : Bool) : (s.portPower p on).sec = s.sec := rfl
@[simp] theorem State.portDown_sec (p : Nat) (byLoss : Bool) : (s.portDown p byLoss).sec = s.sec := by simp [State.portDown]

end SecFrame

/-! The full wipe (R489). -/

@[simp] theorem State.fullWipe_sec (s : State) : s.fullWipe.sec = s.sec := by
  unfold State.fullWipe
  extract_lets closed
  have hclosed : closed.sec = s.sec := by
    refine foldl_sec _ _ fun s p => ?_
    split <;> simp
  clear_value closed
  exact hclosed

@[simp] theorem State.fullWipe_objs (s : State) : s.fullWipe.objs = [] := rfl
@[simp] theorem State.fullWipe_keys (s : State) : s.fullWipe.keys = State.reset.keys := rfl
@[simp] theorem State.fullWipe_hbm (s : State) : s.fullWipe.hbm = State.reset.hbm := rfl
@[simp] theorem State.fullWipe_queues (s : State) : s.fullWipe.queues = State.reset.queues := rfl
@[simp] theorem State.fullWipe_parts (s : State) : s.fullWipe.parts = State.reset.parts := rfl

/-! LIFECYCLE (R488, R489). -/

section Lifecycle
variable {s : State} {h : SecHdr} {target : U8} {token : Bytes}

/-- A LIFECYCLE that SEC takes up at once. -/
theorem exec_lifecycle (hopen : s.doeOpen = true) (hmail : s.mailWaits (.lifecycle h target token) = false) :
    exec (.lifecycle h target token) s = .next (s.doLifecycle h target token) := by
  change execLifecycle h target token s = _
  rw [execLifecycle, State.mail, hopen, hmail]
  rfl

/-- SEC once the fuses hold the new state and its wipe is owed. -/
def Sec.moved (x : Sec) (h : SecHdr) (target : U8) (ts : Nat) : Sec :=
  { x with life := target.setWidth 32, lifeN := ~~~(target.setWidth 32), wiping := some ⟨target.toNat, h.seq.toNat, ts, true⟩,
           secretGone := x.secretGone || target == 5 }

theorem State.doLifecycle_moves (hlife : s.lifeOk = true) (hclean : secClean h = true) (hnone : s.lifeFails target.toNat token = none) :
    s.doLifecycle h target token = { s with sec := s.sec.moved h target s.ts }.fullWipe := by
  simp [State.doLifecycle, hlife, hclean, hnone, Sec.moved]

theorem State.doLifecycle_refused {st : Status} (hlife : s.lifeOk = true) (hclean : secClean h = true) (hsome : s.lifeFails target.toNat token = some st) :
    s.doLifecycle h target token = s.reply 0x0B h none st [] := by
  simp [State.doLifecycle, hlife, hclean, hsome]

theorem State.doLifecycle_broken (hlife : s.lifeOk = false) : s.doLifecycle h target token = s.devFault .parity none := by
  simp [State.doLifecycle, hlife]

theorem State.doLifecycle_unclean (hlife : s.lifeOk = true) (hclean : secClean h = false) :
    s.doLifecycle h target token = s.reply 0x0B h none .malformed [] := by
  simp [State.doLifecycle, hlife, hclean]

end Lifecycle

/-! The ends of a wipe and of a partition's zeroing. -/

theorem exec_lifecycleWipeDone {s s0 s1 : State} {w : Wipe} (h : s.sec.wiping = some w)
    (h0 : s0 = { s with sec := { s.sec with wiping := none, record := some w.target } }.drawKeys)
    (h1 : s1 = (List.range 17).foldl State.makeAdmin (s0.newTable registryKey none 64)) :
    exec .lifecycleWipeDone s =
      .next (if w.answer then (s1.giveDoe (secResponse 0x0B 0xFF w.seq none w.accepted .ok [])).serveMail else s1.serveMail) := by
  change execLifecycleWipeDone s = _
  unfold execLifecycleWipeDone
  rw [h, h1, h0]
  dsimp only
  split <;> rfl

section PartitionReset
variable {s : State} {p : Part} {l : Layout}

theorem exec_partitionResetDone_of_clearing (hst : (s.part p.val).sess.st = .closing ∨ (s.part p.val).sess.st = .free)
    (hlayout : (s.part p.val).sess.layout = some l) (hclearing : (s.part p.val).sess.clearing = true) :
    exec (.partitionResetDone p) s = .next (((s.zeroPart p.val).setSess p.val Session.none).serveMail) := by
  change execPartitionResetDone p s = _
  obtain hst | hst := hst <;> simp [execPartitionResetDone, hst, hlayout, hclearing]

theorem exec_partitionResetDone_of_closed (hst : (s.part p.val).sess.st = .closing) (hlayout : (s.part p.val).sess.layout = some l)
    (hclearing : (s.part p.val).sess.clearing = false) :
    exec (.partitionResetDone p) s = .next (((s.zeroPart p.val).assign p.val l).serveMail) := by
  change execPartitionResetDone p s = _
  simp [execPartitionResetDone, hst, hlayout, hclearing]

end PartitionReset

/-- The moves that the life cycle has (R488). -/
theorem State.lifeFails_none {s : State} {n : Nat} {token : Bytes} (h : s.lifeFails n token = none) :
    (s.sec.life.toNat = 1 ∧ n = 2) ∨ (s.sec.life.toNat = 2 ∧ n = 3) ∨ (s.sec.life.toNat = 3 ∧ n = 4) ∨ (s.sec.life.toNat = 3 ∧ n = 5) ∨
      (s.sec.life.toNat = 4 ∧ n = 5) := by
  unfold State.lifeFails at h
  dsimp only at h
  split at h
  case h_6 => cases h
  all_goals simp [*]

/-! What the steps of start-up leave of SEC and of the time. -/

section StartUp
variable (s : State)

theorem State.bootOutcomes_sec (o : StartupOutcome) : (s.bootOutcomes o).sec = s.sec := foldl_sec _ _ fun _ _ => rfl
theorem State.bootOutcomes_ts (o : StartupOutcome) : (s.bootOutcomes o).ts = s.ts := foldl_keeps State.ts _ _ fun _ _ => rfl

theorem State.physicalWipe_sec : s.physicalWipe.sec = s.sec := by
  dsimp only [State.physicalWipe]
  split <;> rfl

theorem State.physicalWipe_ts : s.physicalWipe.ts = s.ts := by
  dsimp only [State.physicalWipe]
  split <;> rfl

theorem State.drawKeys_life : s.drawKeys.sec.life = s.sec.life := rfl
theorem State.drawKeys_record : s.drawKeys.sec.record = s.sec.record := rfl

theorem State.avsSet_sec : s.avsSet.sec = s.sec := by
  unfold State.avsSet
  split <;> rfl

theorem State.avsSet_ts : s.avsSet.ts = s.ts := by
  unfold State.avsSet
  split <;> rfl

end StartUp

/-! Start-up with a wipe owed (R490). -/

/-- The wipe that start-up repeats is one that no message asked for: it has no answer. -/
theorem exec_startupReady_of_owed {s : State} {o : StartupOutcome} (hrun : s.boot.run = some o) (hheld : s.boot.held = false) (hfault : s.dev.fault = none)
    (hlinked : s.boot.linked = true) (hlife : s.sec.life.toNat ≠ 1) (hrecord : s.sec.record ≠ some s.sec.life.toNat) :
    ∃ t : State, exec .startupReady s = .next t.fullWipe ∧ t.sec.wiping = some ⟨s.sec.life.toNat, 0, s.ts, false⟩ := by
  change ∃ t : State, execStartupReady s = .next t.fullWipe ∧ _
  unfold execStartupReady
  simp -zeta only [hrun, hheld, hfault, hlinked]
  rw [if_neg (by decide)]
  extract_lets drawn woken ready boot pins ended pwr railed life sec
  have hlifeDrawn : drawn.sec.life = s.sec.life := (State.drawKeys_life _).trans (by rw [State.physicalWipe_sec, State.bootOutcomes_sec])
  have hrecordDrawn : drawn.sec.record = s.sec.record := (State.drawKeys_record _).trans (by rw [State.physicalWipe_sec, State.bootOutcomes_sec])
  have htsDrawn : drawn.ts = s.ts := (State.physicalWipe_ts _).trans (State.bootOutcomes_ts s o)
  have hsecWoken : woken.sec = drawn.sec := foldl_sec _ _ fun _ _ => rfl
  have htsWoken : woken.ts = drawn.ts := foldl_keeps State.ts _ _ fun _ _ => rfl
  clear_value drawn woken
  have hsec : railed.sec = drawn.sec := (State.avsSet_sec _).trans hsecWoken
  have hts : railed.ts = s.ts := (State.avsSet_ts _).trans (htsWoken.trans htsDrawn)
  have hlifeNow : life = s.sec.life.toNat := by simp only [life, hsec, hlifeDrawn]
  have howed : (life != 1 && railed.sec.record != some life) = true := by
    simp [hlifeNow, hsec, hrecordDrawn, hlife, hrecord]
  rw [if_pos howed, hlifeNow, hts]
  exact ⟨_, rfl, rfl⟩

/-- While a wipe runs every message waits. -/
theorem State.mailWaits_of_wiping {s : State} {w : Wipe} (h : s.sec.wiping = some w) (i : Instr) : s.mailWaits i = true := by
  simp [State.mailWaits, h]

/-! A loss of power leaves the fuses and the boot flash (R454, R490). -/

theorem State.collapse_kept (s : State) (power fresh : Bool) :
    (s.collapse power fresh).sec.life = s.sec.life ∧ (s.collapse power fresh).sec.record = s.sec.record := by
  unfold State.collapse
  extract_lets r slot left
  have hleft : left.sec = s.sec := by simp [left]
  clear_value left
  rw [← hleft]
  exact ⟨rfl, rfl⟩

theorem State.losePower_sec (s : State) : s.losePower.sec = (s.collapse true true).sec := by
  simp only [State.losePower]

/-- Settles O39: the clauses of LIFECYCLE are the branches of `doLifecycle`, and a move's wipe leaves SEC as the move made it; the clauses of
start-up, of a wipe's end, of a loss of power and of PARTITION_RESET_DONE are their lemmas. -/
theorem lifeCycle : Obligations.LifeCycle := by
  unfold Obligations.LifeCycle
  intro s h
  refine ⟨?moves, ?refused, ?broken, ?unclean, fun n token => State.lifeFails_none, fun w s0 s1 => exec_lifecycleWipeDone, ?owed, ?life, ?record,
    fun p l => exec_partitionResetDone_of_clearing, fun p l => exec_partitionResetDone_of_closed⟩
  case moves =>
    intro target token hopen hmail hlife hclean hnone
    have hexec := exec_lifecycle hopen hmail
    rw [State.doLifecycle_moves hlife hclean hnone] at hexec
    have hsec := State.fullWipe_sec { s with sec := s.sec.moved h target s.ts }
    refine ⟨_, hexec, congrArg Sec.life hsec, ?rails, congrArg Sec.wiping hsec, State.fullWipe_objs _, State.fullWipe_keys _, State.fullWipe_hbm _,
      State.fullWipe_queues _, State.fullWipe_parts _⟩
    case rails =>
      rw [State.lifeOk, hsec]
      exact beq_self_eq_true _
  case refused =>
    intro target token st hopen hmail hlife hclean hsome
    rw [exec_lifecycle hopen hmail, State.doLifecycle_refused hlife hclean hsome]
  case broken =>
    intro target token hopen hmail hlife
    rw [exec_lifecycle hopen hmail, State.doLifecycle_broken hlife]
  case unclean =>
    intro target token hopen hmail hlife hclean
    rw [exec_lifecycle hopen hmail, State.doLifecycle_unclean hlife hclean]
  case owed =>
    intro o hrun hheld hfault hlinked hlife hrecord
    obtain ⟨t, hexec, ht⟩ := exec_startupReady_of_owed hrun hheld hfault hlinked hlife hrecord
    have hwiping : t.fullWipe.sec.wiping = _ := (congrArg Sec.wiping (State.fullWipe_sec t)).trans ht
    exact ⟨_, hexec, hwiping, State.fullWipe_objs t, State.fullWipe_parts t, State.fullWipe_hbm t, State.mailWaits_of_wiping hwiping⟩
  case life => rw [State.losePower_sec, (State.collapse_kept ..).1]
  case record => rw [State.losePower_sec, (State.collapse_kept ..).2]

end Sys2Proof.Machine
end

section
/-! ### The power brake, the thermal trip and domains (R545 to R547, R550 to R552)

What a device register reads after a write, and what an AVSBus request leaves alone; then one lemma for each outcome of the brake, of the trip and
of a domain that wakes, times out or idles, and O46 put together from them. -/

namespace Sys2Proof.Machine

/-! Device registers and AVSBus. -/

@[simp] theorem State.dreg_setDreg_self (s : State) (off v d : Nat) : (s.setDreg off v).dreg off d = v := Tbl.getD_set_self ..

theorem State.dreg_setDreg_ne (s : State) {k off : Nat} (v d : Nat) (h : k ≠ off) : (s.setDreg off v).dreg k d = s.dreg k d := by
  simp [State.dreg, State.setDreg, Tbl.getD, Tbl.get_set_ne h]

/-- A request on AVSBus adds to the list of requests and changes nothing else. -/
theorem State.avsSet_only (s : State) : ∃ l, s.avsSet = { s with pwr := { s.pwr with avs := l } } := by
  unfold State.avsSet
  split
  · exact ⟨s.pwr.avs, rfl⟩
  · exact ⟨_, rfl⟩

/-! The power brake (R550). -/

theorem exec_powerBrakeAssert (s : State) :
    ∃ l, exec .powerBrakeAssert s =
      .next { s with pwr := { s.pwr with brake := true, brakeDemand := max s.pwr.brakeDemand (s.dreg rPwrBrake 7 % 8), avs := l } } := by
  change ∃ l, execPowerBrakeAssert s = _
  rw [execPowerBrakeAssert]
  obtain ⟨l, hl⟩ := State.avsSet_only { s with pwr := { s.pwr with brake := true, brakeDemand := max s.pwr.brakeDemand (s.dreg rPwrBrake 7 % 8) } }
  exact ⟨l, congrArg _ hl⟩

theorem exec_powerBrakeRelease (s : State) : exec .powerBrakeRelease s = .next { s with pwr := { s.pwr with brake := false } } := rfl

/-! The thermal trip (R551, R552). -/

section Trip
variable {s : State} {c : Nat}

/-- The machine at a diode of 110 C or more: the demand for REEF7, the time it became hot, and the requests on AVSBus. -/
def State.hotAt (s : State) (l : List AvsReq) : State :=
  { s with pwr := { s.pwr with thermDemand := 7, hotSince := some (s.pwr.hotSince.getD s.ts), avs := l } }

/-- A hot diode of a machine with power passes the test of THERMAL_TRIP. -/
theorem hot_and_powered (hc : 110 ≤ c) (hoff : s.pwr.off = false) : ¬(c < 110 || s.pwr.off) = true := by
  simp [hoff, hc]

/-- A trip that begins is counted, and its time noted. -/
theorem exec_thermalTrip_of_begins (hc : 110 ≤ c) (hoff : s.pwr.off = false) (htrip : s.pwr.trip = false) :
    ∃ l, exec (.thermalTrip c) s =
      .next (State.hotAt { s.setDreg rTherm ((s.dreg rTherm 0 + 1) % 2 ^ 32) with pwr := { s.pwr with trip := true, tripAt := s.ts } } l) := by
  change ∃ l, execThermalTrip c s = _
  rw [execThermalTrip, if_neg (hot_and_powered hc hoff), if_neg (ne_true_of_eq_false htrip)]
  obtain ⟨l, hl⟩ := State.avsSet_only _
  exact ⟨l, congrArg _ hl⟩

/-- A trip in force is not counted again. -/
theorem exec_thermalTrip_of_tripped (hc : 110 ≤ c) (hoff : s.pwr.off = false) (htrip : s.pwr.trip = true) :
    ∃ l, exec (.thermalTrip c) s = .next (s.hotAt l) := by
  change ∃ l, execThermalTrip c s = _
  rw [execThermalTrip, if_neg (hot_and_powered hc hoff), if_pos htrip]
  obtain ⟨l, hl⟩ := State.avsSet_only _
  exact ⟨l, congrArg _ hl⟩

theorem exec_thermalTrip_of_cool (hc : c < 110) : exec (.thermalTrip c) s = .next s := by
  change execThermalTrip c s = _
  simp [execThermalTrip, hc]

/-- The end of a trip changes no object and leaves the demand at its level; RUNs and accesses go on from where the trip stopped them. -/
theorem exec_thermalTripClear_of_cool (hc : c < 100) (htrip : s.pwr.trip = true) :
    ∃ runs accs dev, exec (.thermalTripClear c) s =
      .next { s with runs := runs, accs := accs, dev := dev, pwr := { s.pwr with trip := false, hotSince := none } } := by
  change ∃ runs accs dev, execThermalTripClear c s = _
  simp only [execThermalTripClear, htrip, Nat.not_le.mpr hc, decide_false, Bool.not_true, Bool.or_self, Bool.false_eq_true, if_false]
  exact ⟨_, _, _, rfl⟩

theorem exec_thermalTripClear_of_hot (hc : 100 ≤ c) : exec (.thermalTripClear c) s = .next s := by
  change execThermalTripClear c s = _
  simp [execThermalTripClear, hc]

end Trip

/-! Domains that wake (R546, R547). -/

section Domains
variable {s : State} {d : Domain} {t : Nat}

/-- A domain that holds no column's tile memory. -/
theorem exec_domainAwake_of_waking (h : (s.dom d.val).waking = some t) (hcol : ¬(20 ≤ d.val ∧ d.val < 40)) :
    exec (.domainAwake d) s =
      .next ((s.setDom d.val ⟨true, none, s.ts⟩).bumpDev cWakeWait ((s.setDom d.val ⟨true, none, s.ts⟩).wakeWaits d.val)) := by
  change execDomainAwake d s = _
  simp [execDomainAwake, h, hcol]

/-- A column's retention domain comes on with the column's tile memory zero. -/
theorem exec_domainAwake_of_column {s1 : State} (h : (s.dom d.val).waking = some t) (hlo : 20 ≤ d.val) (hhi : d.val < 40)
    (h1 : s1 = (s.setDom d.val ⟨true, none, s.ts⟩).zeroColumn (d.val - 20)) :
    exec (.domainAwake d) s = .next (s1.bumpDev cWakeWait (s1.wakeWaits d.val)) := by
  change execDomainAwake d s = _
  simp [execDomainAwake, h, hlo, hhi, h1]

theorem exec_domainAwake_of_not_waking (h : (s.dom d.val).waking = none) : exec (.domainAwake d) s = .next s := by
  change execDomainAwake d s = _
  simp [execDomainAwake, h]

theorem exec_domainWakeTimeout_of_late (h : (s.dom d.val).waking = some t) (hlate : t + 10 * wakeLatency d.val ≤ s.ts) :
    exec (.domainWakeTimeout d) s = .next (s.devFault .timeout none) := by
  change execDomainWakeTimeout d s = _
  simp [execDomainWakeTimeout, h, hlate]

theorem exec_domainWakeTimeout_of_early (h : (s.dom d.val).waking = some t) (hearly : s.ts < t + 10 * wakeLatency d.val) :
    exec (.domainWakeTimeout d) s = .next s := by
  change execDomainWakeTimeout d s = _
  simp [execDomainWakeTimeout, h, Nat.not_le.mpr hearly]

/-! Domains that go off (R545). -/

theorem exec_domainIdle_of_kept (h : s.mayOff d.val = false) : exec (.domainIdle d) s = .next s := by
  change execDomainIdle d s = _
  simp [execDomainIdle, h]

/-- A domain that holds neither a column's tile memory nor core clusters. -/
theorem exec_domainIdle_of_plain (h : s.mayOff d.val = true) (hrange : d.val < 20 ∨ (40 ≤ d.val ∧ d.val < 65) ∨ 73 ≤ d.val) :
    exec (.domainIdle d) s = .next (s.setDom d.val { s.dom d.val with on := false, waking := none }) := by
  change execDomainIdle d s = _
  have hcol : ¬(20 ≤ d.val ∧ d.val < 40) := by omega
  have hcores : ¬(65 ≤ d.val ∧ d.val < 73) := by omega
  simp [execDomainIdle, h, hcol, hcores]

theorem exec_domainIdle_of_column (h : s.mayOff d.val = true) (hlo : 20 ≤ d.val) (hhi : d.val < 40) :
    exec (.domainIdle d) s = .next ((s.setDom d.val { s.dom d.val with on := false, waking := none }).zeroColumn (d.val - 20)) := by
  change execDomainIdle d s = _
  have hcores : ¬(65 ≤ d.val ∧ d.val < 73) := by omega
  simp [execDomainIdle, h, hlo, hhi, hcores]

end Domains

/-- Settles O46: each clause is the lemma of its operation; a trip is counted where `exec_thermalTrip_of_begins` meets it, and not where
`exec_thermalTrip_of_tripped` does. -/
theorem brakeTripAndDomains : Obligations.BrakeTripAndDomains := by
  unfold Obligations.BrakeTripAndDomains
  intro s
  refine ⟨?brake, ⟨_, exec_powerBrakeRelease s, rfl, rfl, rfl⟩, ?trip, fun c => exec_thermalTrip_of_cool, ?clear, fun c => exec_thermalTripClear_of_hot,
    fun d t => exec_domainAwake_of_waking, fun d t s1 => exec_domainAwake_of_column, fun d => exec_domainAwake_of_not_waking,
    fun d => exec_domainIdle_of_kept, fun d t => exec_domainWakeTimeout_of_late, fun d t => exec_domainWakeTimeout_of_early,
    fun d => exec_domainIdle_of_plain, fun d => exec_domainIdle_of_column⟩
  case brake =>
    obtain ⟨l, hexec⟩ := exec_powerBrakeAssert s
    exact ⟨_, hexec, rfl, rfl, rfl, rfl⟩
  case trip =>
    intro c hc hoff
    cases htrip : s.pwr.trip with
    | false =>
      obtain ⟨l, hexec⟩ := exec_thermalTrip_of_begins hc hoff htrip
      exact ⟨_, hexec, rfl, rfl, rfl, rfl, fun _ => ⟨State.dreg_setDreg_self s .., rfl⟩, Bool.false_ne_true.elim⟩
    | true =>
      obtain ⟨l, hexec⟩ := exec_thermalTrip_of_tripped hc hoff htrip
      exact ⟨_, hexec, htrip, rfl, rfl, rfl, Bool.false_ne_true.symm.elim, fun _ => rfl⟩
  case clear =>
    intro c hc htrip
    obtain ⟨runs, accs, dev, hexec⟩ := exec_thermalTripClear_of_cool hc htrip
    exact ⟨_, hexec, rfl, rfl, rfl, rfl⟩

end Sys2Proof.Machine
end

section
/-! ### Power good, resets, start-up and sleep (R543, R544, R553 to R559)

A collapse leaves neither a context nor a queue, so that a device fault found by the start-up that follows it records itself alone: that is
why the time base goes on through every reset. First what a collapse keeps and what it destroys, then start-up on what is left, the operations that
end in either, the end of start-up, and O47 put together from them. -/

namespace Sys2Proof.Machine

/-! What a collapse keeps and what it destroys (R543, R556). -/

section Collapse
variable (s : State)

theorem State.settleLeaving_kept : s.settleLeaving.ts = s.ts ∧ s.settleLeaving.pending = s.pending := by
  unfold State.settleLeaving
  dsimp only
  split <;> exact ⟨rfl, rfl⟩

theorem State.freeSnap_kept (l : List Nat) : (s.freeSnap l).ts = s.ts ∧ (s.freeSnap l).pending = s.pending :=
  State.settleLeaving_kept _

theorem State.giveSegs_kept (p : Nat) (segs : List Nat) : (s.giveSegs p segs).ts = s.ts ∧ (s.giveSegs p segs).pending = s.pending :=
  ⟨foldl_keeps State.ts _ _ fun _ _ => rfl, foldl_keeps State.pending _ _ fun _ _ => rfl⟩

theorem State.leaveSnaps_kept (p : Nat) (keep : Bool) : (s.leaveSnaps p keep).ts = s.ts ∧ (s.leaveSnaps p keep).pending = s.pending := by
  unfold State.leaveSnaps
  extract_lets n stopped bare segs owner held
  have hstopped : stopped.ts = s.ts ∧ stopped.pending = s.pending := by
    dsimp only [stopped]
    split
    · exact State.freeSnap_kept ..
    · exact ⟨rfl, rfl⟩
  split
  · exact (State.freeSnap_kept ..).imp (·.trans hstopped.1) (·.trans hstopped.2)
  · exact hstopped

/-- Power alone clears the time base; the commands that are to come stand through every collapse. -/
theorem State.collapse_ts_pending (power fresh : Bool) :
    (s.collapse power fresh).ts = (if power then 0 else s.ts) ∧ (s.collapse power fresh).pending = s.pending := by
  unfold State.collapse
  extract_lets r slot left
  have hts : left.ts = s.ts := foldl_keeps State.ts _ _ fun s p => (State.giveSegs_kept ..).1.trans (State.leaveSnaps_kept s p true).1
  have hpending : left.pending = s.pending :=
    foldl_keeps State.pending _ _ fun s p => (State.giveSegs_kept ..).2.trans (State.leaveSnaps_kept s p true).2
  clear_value left
  rw [← hts, ← hpending]
  exact ⟨rfl, rfl⟩

theorem State.collapse_ts_of_power (fresh : Bool) : (s.collapse true fresh).ts = 0 := (s.collapse_ts_pending true fresh).1
theorem State.collapse_ts_of_reset (fresh : Bool) : (s.collapse false fresh).ts = s.ts := (s.collapse_ts_pending false fresh).1
theorem State.collapse_pending (power fresh : Bool) : (s.collapse power fresh).pending = s.pending := (s.collapse_ts_pending power fresh).2

variable (power fresh : Bool)

theorem State.collapse_ctxs : (s.collapse power fresh).ctxs = [] := rfl
theorem State.collapse_queues : (s.collapse power fresh).queues = [] := rfl
theorem State.collapse_objs : (s.collapse power fresh).objs = [] := rfl
theorem State.collapse_hbm : (s.collapse power fresh).hbm = [] := rfl
theorem State.collapse_keys : (s.collapse power fresh).keys = State.reset.keys := rfl

end Collapse

/-! Start-up (R553 to R555). -/

section StartingUp
variable {s : State} {o : StartupOutcome}

/-- With no context and no queue a device fault has nothing to end. -/
theorem State.devFault_of_bare (hctxs : s.ctxs = []) (hqueues : s.queues = []) (st : Status) (victim : Option (Nat × Nat)) :
    s.devFault st victim = { s with dev := { s.dev with fault := some (s.dev.fault.getD (st, s.ts)) } } := by
  simp [State.devFault, hctxs, hqueues]

theorem State.bootOn_of_broken_life (hlife : s.lifeOk = false) (o : StartupOutcome) :
    s.bootOn o = ({ s with boot := { s.boot with held := false } }.atStep 1).devFault .parity none :=
  if_pos (by change (!(s.lifeOk && _)) = true; rw [hlife]; rfl)

/-- Whichever of its ends the first look takes, the time base goes on. -/
theorem State.bootOn_ts (hctxs : s.ctxs = []) (hqueues : s.queues = []) (o : StartupOutcome) : (s.bootOn o).ts = s.ts := by
  unfold State.bootOn
  extract_lets _ begun
  dsimp only [State.fresh]
  split
  · rw [State.devFault_of_bare (s := begun.atStep 1) hctxs hqueues]
    rfl
  · split
    · rfl
    · split <;> rfl

theorem State.startUp_ts (hctxs : s.ctxs = []) (hqueues : s.queues = []) (cause status : Nat) (o : StartupOutcome) (fresh : Bool) :
    (s.startUp cause status o fresh).ts = s.ts := by
  unfold State.startUp
  extract_lets _ _ begun
  split
  · exact State.bootOn_ts (s := begun) hctxs hqueues o
  · rfl

/-- A reset keeps the time base. -/
theorem State.deviceReset_ts (s : State) (cause status : Nat) (o : StartupOutcome) (fresh : Bool) :
    (s.deviceReset cause status o fresh).ts = s.ts :=
  (State.startUp_ts (State.collapse_ctxs ..) (State.collapse_queues ..) ..).trans (s.collapse_ts_of_reset fresh)

/-- What start-up begins with: the cause and the time are noted, and the rails decide whether it is held. -/
def State.startNoted (s : State) (cause status : Nat) (o : StartupOutcome) (fresh : Bool) : State :=
  { (s.setDreg rRstCause (status * 256 + cause)).setDreg rRstTs s.ts with
    boot := ⟨some o, !o.railsOk, fresh, !fresh || !s.pins.perst⟩, pwr := { s.pwr with shut := false } }

/-- Rails that are out hold start-up at step 1. -/
theorem State.startUp_of_rails_out (hrails : o.railsOk = false) (cause status : Nat) (fresh : Bool) :
    s.startUp cause status o fresh = (s.startNoted cause status o fresh).atStep 1 :=
  if_neg (ne_true_of_eq_false hrails)

theorem State.dreg_rstCause_of_held (s : State) (cause status : Nat) (o : StartupOutcome) (fresh : Bool) :
    ((s.startNoted cause status o fresh).atStep 1).dreg rRstCause 1 = status * 256 + cause := by
  rw [State.atStep, State.dreg_setDreg_ne _ _ _ (by decide)]
  exact (State.dreg_setDreg_ne _ _ _ (by decide)).trans (State.dreg_setDreg_self s ..)

theorem State.dreg_rstTs_of_held (s : State) (cause status : Nat) (o : StartupOutcome) (fresh : Bool) :
    ((s.startNoted cause status o fresh).atStep 1).dreg rRstTs 0 = s.ts := by
  rw [State.atStep, State.dreg_setDreg_ne _ _ _ (by decide)]
  exact State.dreg_setDreg_self (s.setDreg rRstCause _) ..

theorem exec_romRailRecheck_of_good (hrun : s.boot.run = some o) (hheld : s.boot.held = true) : exec (.romRailRecheck true) s = .next (s.bootOn o) := by
  change execRomRailRecheck true s = _
  simp [execRomRailRecheck, hrun, hheld]

theorem exec_romRailRecheck_of_out (hrun : s.boot.run = some o) : exec (.romRailRecheck false) s = .next s := by
  change execRomRailRecheck false s = _
  simp [execRomRailRecheck, hrun]

end StartingUp

/-! Power good and its loss (R543, R553, R573). -/

section Power
variable {s : State}

/-- A power-on reset: all is gone, and start-up begins with cause 1, or 6 after a thermal shutdown. -/
theorem exec_powerGood (o : StartupOutcome) (hpins : s.pins.pwrGood = false) :
    exec (.powerGood o) s = .next ({ s.collapse true true with pins := { (s.collapse true true).pins with pwrGood := true, i3c := none, eid := 0 } }.startUp
      (if s.pwr.shut then 6 else 1) 0 o true) :=
  if_neg (ne_true_of_eq_false hpins)

theorem exec_powerGoodLoss (hpins : s.pins.pwrGood = true) : exec .powerGoodLoss s = .next s.losePower := if_pos hpins

theorem State.losePower_ts (s : State) : s.losePower.ts = 0 := by
  rw [State.losePower, State.collapse_ts_of_power]

theorem State.losePower_pending (s : State) : s.losePower.pending = s.pending := by
  rw [State.losePower, State.collapse_pending]

section Rail
variable {r : Fin 19} (hpins : s.pins.pwrGood = true) (hheld : s.boot.held = false)
include hpins hheld

/-- Rails 0 and 1 feed the always-on domain. -/
theorem exec_railOutOfTolerance_of_alwaysOn (hr : r.val < 2) : exec (.railOutOfTolerance r) s = .next s.losePower := by
  change execRailOutOfTolerance r s = _
  simp [execRailOutOfTolerance, hpins, hheld, hr]

theorem exec_railOutOfTolerance_of_other (hr : 2 ≤ r.val) : exec (.railOutOfTolerance r) s = .next (s.devFault .parity none) := by
  change execRailOutOfTolerance r s = _
  simp [execRailOutOfTolerance, hpins, hheld, Nat.not_lt.mpr hr]

end Rail

/-! Resets (R544, R556, R559). -/

theorem exec_perstAssert (o : StartupOutcome) (hpins : s.pins.pwrGood = true) :
    exec (.perstAssert o) s =
      .next ({ s with pins := { s.pins with perst := true } }.deviceReset (if s.pwr.shut then 6 else if s.pwr.asleep then 7 else 2) 0 o true) :=
  if_pos hpins

theorem exec_wakeN (o : StartupOutcome) (hasleep : s.pwr.asleep = true) : exec (.wakeN o) s = .next (s.deviceReset 7 0 o true) := if_pos hasleep

theorem exec_warmReset (o : StartupOutcome) (hopen : s.bar0Open 0 rRstCtrl = true) : exec (.warmReset o) s = .next (s.deviceReset 3 0 o false) :=
  if_pos hopen

theorem exec_faultAutoReset (o : StartupOutcome) {st : Status} {t : Nat} (hfault : s.dev.fault = some (st, t))
    (hauto : bitOf (s.dreg rRstCtrl 0x20) 5 = true) (hlate : t + 10000000 ≤ s.ts) :
    exec (.faultAutoReset o) s = .next (s.deviceReset 5 (statusCode st) o false) := by
  change execFaultAutoReset o s = _
  simp [execFaultAutoReset, hfault, hauto, hlate]

/-! Deep sleep and thermal shutdown (R551, R557). -/

theorem exec_pwrStateSleep (hopen : s.bar0Open 0 0x620 = true) (hfree : ∀ p < 16, (s.part p).sess.st = .free) :
    exec .pwrStateSleep s = .next { s.collapse false true with pwr := { (s.collapse false true).pwr with asleep := true } } := by
  have hnone : (List.range 16).any (fun p => (s.part p).sess.st != .free) = false := by
    rw [List.any_eq_false]
    intro p hp
    simp [hfree p (List.mem_range.mp hp)]
  change execPwrStateSleep s = _
  rw [execPwrStateSleep, hopen, hnone]
  rfl

theorem exec_thermalShutdown {c : Nat} (hoff : s.pwr.off = false) (hc : 115 ≤ c) :
    exec (.thermalShutdown c) s = .next { s.collapse false true with pwr := { (s.collapse false true).pwr with off := true, shut := true } } :=
  if_neg (by simp [hoff, hc])

end Power

/-! The end of start-up (R554, R555). -/

section Ready
variable (s : State)

theorem State.avsSet_kept : s.avsSet.boot = s.boot ∧ s.avsSet.dev = s.dev ∧ s.avsSet.pins = s.pins := by
  obtain ⟨l, hl⟩ := s.avsSet_only
  rw [hl]
  exact ⟨rfl, rfl, rfl⟩

theorem State.bootOutcomes_pins (o : StartupOutcome) : (s.bootOutcomes o).pins = s.pins := foldl_keeps State.pins _ _ fun _ _ => rfl

theorem State.physicalWipe_pins : s.physicalWipe.pins = s.pins := by
  dsimp only [State.physicalWipe]
  split <;> rfl

end Ready

/-- STARTUP once start-up has ended: ready, and the number of failed tiles below. -/
theorem bitOf_startup_ready (n : Nat) : bitOf (2 ^ 31 + 10 * 2 ^ 24 + n % 256 * 65536) 31 = true := by
  rw [bitOf, beq_iff_eq]
  omega

/-- Once nothing holds it and no wipe is owed, start-up ends. -/
theorem exec_startupReady_of_done {s : State} {o : StartupOutcome} (hrun : s.boot.run = some o) (hheld : s.boot.held = false)
    (hfault : s.dev.fault = none) (hlinked : s.boot.linked = true) (hlife : s.sec.life = 1 ∨ s.sec.record = some s.sec.life.toNat) :
    ∃ v : State, exec .startupReady s = .next ((List.range 17).foldl State.makeAdmin (v.newTable registryKey none 64)).serveMail ∧
      v.boot.run = none ∧ bitOf (v.dreg rStartup 0) 31 = true ∧ v.pins.drs = s.pins.drs + 1 ∧ v.sec.life = s.sec.life := by
  change ∃ v : State, execStartupReady s = _ ∧ _
  unfold execStartupReady
  simp -zeta only [hrun, hheld, hfault, hlinked]
  rw [if_neg (by decide)]
  extract_lets drawn woken ready boot pins ended pwr railed life sec
  have hlifeDrawn : drawn.sec.life = s.sec.life := (State.drawKeys_life _).trans (by rw [State.physicalWipe_sec, State.bootOutcomes_sec])
  have hrecordDrawn : drawn.sec.record = s.sec.record := (State.drawKeys_record _).trans (by rw [State.physicalWipe_sec, State.bootOutcomes_sec])
  have hpinsDrawn : drawn.pins = s.pins := (State.physicalWipe_pins _).trans (State.bootOutcomes_pins s o)
  have hsecWoken : woken.sec = drawn.sec := foldl_sec _ _ fun _ _ => rfl
  have hpinsWoken : woken.pins = drawn.pins := foldl_keeps State.pins _ _ fun _ _ => rfl
  clear_value drawn woken
  have hsec : railed.sec = drawn.sec := (State.avsSet_sec _).trans hsecWoken
  obtain ⟨hboot, hdev, hpins⟩ : railed.boot = ended.boot ∧ railed.dev = ended.dev ∧ railed.pins = ended.pins := State.avsSet_kept _
  have hlifeNow : railed.sec.life = s.sec.life := by rw [hsec, hlifeDrawn]
  have hrecord : railed.sec.record = s.sec.record := by rw [hsec, hrecordDrawn]
  have hnotOwed : (life != 1 && railed.sec.record != some life) = false := by
    obtain hfirst | hwiped := hlife
    · simp [life, hlifeNow, hfirst]
    · simp [life, hlifeNow, hrecord, hwiped]
  rw [if_neg (ne_true_of_eq_false hnotOwed)]
  refine ⟨railed, rfl, congrArg Boot.run hboot, ?ready, ?drs, hlifeNow⟩
  case ready =>
    have hreg : railed.dreg rStartup 0 = _ := (congrArg (·.regs.getD rStartup 0) hdev).trans (State.dreg_setDreg_self woken ..)
    rw [hreg]
    exact bitOf_startup_ready _
  case drs =>
    rw [hpins, ← hpinsDrawn, ← hpinsWoken]
    rfl

/-- Settles O47: each clause is the lemma of its operation; the time base goes on through a reset by `deviceReset_ts` and starts again at power good
because a collapse by power clears it and start-up lets it be. -/
theorem resetsAndStartUp : Obligations.ResetsAndStartUp := by
  unfold Obligations.ResetsAndStartUp
  intro s o
  refine ⟨fun hpins => ⟨_, rfl, exec_powerGood o hpins⟩, ?restart, fun c st f => s.deviceReset_ts c st o f, exec_powerGoodLoss, ?lost,
    fun r hpins hheld => ⟨exec_railOutOfTolerance_of_alwaysOn hpins hheld, exec_railOutOfTolerance_of_other hpins hheld⟩,
    fun b => exec_romRailRecheck_of_good, fun hrun _ => exec_romRailRecheck_of_out hrun, fun hpins => ⟨_, rfl, exec_perstAssert o hpins⟩, rfl,
    exec_wakeN o, exec_warmReset o, fun st t => exec_faultAutoReset o, ?sleep, ?shutdown, ?railsOut, fun b hlife => State.bootOn_of_broken_life hlife b,
    fun b => exec_startupReady_of_done⟩
  case restart =>
    intro hpins
    exact ⟨_, exec_powerGood o hpins, (State.startUp_ts rfl rfl ..).trans (s.collapse_ts_of_power true)⟩
  case lost =>
    rintro u rfl
    exact ⟨s.losePower_ts, rfl, s.collapse_objs true true, s.collapse_hbm true true, s.collapse_queues true true, s.collapse_keys true true,
      s.losePower_pending⟩
  case sleep =>
    intro hopen hfree
    exact ⟨_, exec_pwrStateSleep hopen hfree, rfl, by rw [State.collapse_ts_of_reset], s.collapse_objs false true, s.collapse_queues false true⟩
  case shutdown =>
    intro c hoff hc
    exact ⟨_, exec_thermalShutdown hoff hc, rfl, rfl, by rw [State.collapse_ts_of_reset], s.collapse_objs false true⟩
  case railsOut =>
    intro c st f hrails
    rw [State.startUp_of_rails_out hrails]
    exact ⟨s.dreg_rstCause_of_held c st o f, s.dreg_rstTs_of_held c st o f, congrArg not hrails, rfl⟩

end Sys2Proof.Machine
end

section
/-! ### Function resets, the PCIe link, configuration space and the sideband (R561 to R563, R574, R578, R582 to R585)

What a record for LOG and a sideband message leave alone; then one lemma for each outcome of a function's reset, of the link, of a configuration
request, of I3C, MCTP and PLDM, and of a sensor's update, and O50 put together from them. -/

namespace Sys2Proof.Machine

/-! Functions (R561, R578). -/

section Functions
variable {s : State} {fn : Fn}

theorem exec_functionLevelReset_of_ready (hready : s.ready = true) : exec (.functionLevelReset fn) s = .next (s.resetFn fn.val) := by
  obtain ⟨⟨-, hoff⟩, hasleep⟩ : (bitOf (s.dreg rStartup 0) 31 = true ∧ s.pwr.off = false) ∧ s.pwr.asleep = false := by
    simpa [State.ready] using hready
  change execFunctionLevelReset fn s = _
  simp [execFunctionLevelReset, hoff, hasleep, hready]

/-- A stream that was Secure goes Insecure, and takes a function in RUN to ERROR. -/
theorem exec_ideCheckFail_of_secure (hide : (s.fn fn.val).ide = .secure) :
    exec (.ideCheckFail fn) s = .next ((s.setFn fn.val { s.fn fn.val with
      ide := .insecure, tdisp := if (s.fn fn.val).tdisp == .run then .error else (s.fn fn.val).tdisp }).resetFn fn.val) := by
  change execIdeCheckFail fn s = _
  simp [execIdeCheckFail, hide]

/-- Which of the two states a function takes as it leaves RUN is a free value. -/
theorem exec_tdispLeaveRun_of_run (hvirtual : fn.val ≠ 0) (hrun : (s.fn fn.val).tdisp = .run) :
    exec (.tdispLeaveRun fn) s =
      .next (s.fresh.2.leaveRun fn.val (if (Config.freeWord s.free).toNat % 2 = 0 then .error else .configUnlocked)) := by
  have hleaves : ¬(decide (fn.val = 0) || (s.fn fn.val).tdisp != .run) = true := by simp [hvirtual, hrun]
  exact if_neg hleaves

end Functions

/-! The link (R562, R563). -/

/-- A record for LOG changes nothing outside Onlyn. -/
theorem State.logRec_only (s : State) (x : LogItem) : ∃ o, s.logRec x = { s with onlyn := o } := by
  unfold State.logRec
  dsimp only
  split
  · exact ⟨_, rfl⟩
  · split <;> exact ⟨_, rfl⟩

/-- LINK_STATUS for a rate, a width and the flit mode: four lanes or fewer are a degraded link. -/
def linkStatus (rate : BitVec 3) (width : BitVec 5) (flit : Bool) : Nat :=
  b2n (decide (width.toNat ≤ 4)) * 2048 + rate.toNat * 256 + width.toNat * 8 + b2n flit * 4

/-- A change of the link writes LINK_STATUS and, besides the record of a degraded link, nothing else. -/
theorem exec_pcieLinkChange_of_powered {s : State} (hoff : s.pwr.off = false) (hasleep : s.pwr.asleep = false) (rate : BitVec 3) (width : BitVec 5)
    (flit : Bool) : ∃ o, exec (.pcieLinkChange rate width flit) s = .next { s.setDreg rLink (linkStatus rate width flit) with onlyn := o } := by
  change ∃ o, execPcieLinkChange rate width flit s = _
  simp only [execPcieLinkChange, hoff, hasleep, Bool.or_self, Bool.false_eq_true, if_false]
  split
  · obtain ⟨o, ho⟩ := State.logRec_only (s.setDreg rLink (linkStatus rate width flit)) .degraded
    exact ⟨o, congrArg _ ho⟩
  · exact ⟨s.onlyn, rfl⟩

/-! Configuration space (R574, R575). -/

section Configuration
variable {s : State} (fn : Fn) (hserved : ¬(s.pwr.off || s.pwr.asleep || s.pins.perst || s.dev.closedPcie) = true)
include hserved

theorem exec_pcieConfigRequest_read (off : U16) : exec (.pcieConfigRequest fn (.read off)) s =
    .next (s.configAnswer fn.val off.toNat (s.pins.config.getD (65536 * fn.val + off.toNat) 0)) := if_neg hserved

theorem exec_pcieConfigRequest_write (off : U16) (v : U32) : exec (.pcieConfigRequest fn (.write off v)) s =
    .next { s with pins := { s.pins with config := s.pins.config.set (65536 * fn.val + off.toNat) v.toNat } } := if_neg hserved

/-- Virtual functions are enabled by function 0, and not in recovery. -/
theorem exec_pcieConfigRequest_vfEnable (on : Bool) : exec (.pcieConfigRequest fn (.vfEnable on)) s =
    .next (if fn.val = 0 ∧ s.onlyn.recovery = false then { s with pins := { s.pins with vfEnable := on } } else s) := by
  refine (if_neg hserved).trans (congrArg _ (ite_congr ?_ (fun _ => rfl) (fun _ => rfl)))
  simp only [Bool.and_eq_true, decide_eq_true_eq, Bool.not_eq_true']

theorem exec_pcieConfigRequest_dState (d : Bool) : exec (.pcieConfigRequest fn (.dState d)) s =
    .next (s.setFn fn.val { s.fn fn.val with d3hot := d }) := if_neg hserved

theorem exec_pcieConfigRequest_ctoRange (us : U32) : exec (.pcieConfigRequest fn (.ctoRange us)) s =
    .next { s with pins := { s.pins with ctoUs := max 50 (min 64000 us.toNat) } } := if_neg hserved

end Configuration

/-! The sideband: I3C, MCTP and PLDM (R582, R583, R585). -/

section Message
variable (s : State) (content : Bytes)

@[simp] theorem State.sendSide_sensors : (s.sendSide content).pins.sensors = s.pins.sensors := rfl
@[simp] theorem State.sendSide_objs : (s.sendSide content).objs = s.objs := rfl
@[simp] theorem State.sendSide_ts : (s.sendSide content).ts = s.ts := rfl

end Message

section Sideband
variable {s : State} (hon : s.aonOn = true)
include hon

theorem exec_i3cDaa_of_on (addr : BitVec 7) : exec (.i3cDaa addr) s = .next { s with pins := { s.pins with i3c := some addr.toNat } } := if_pos hon

/-- A request other than Set Endpoint ID is answered under the endpoint that stands. -/
theorem exec_mctpControl_of_not_set {request : Bytes} (hcmd : fieldLE request 2 1 ≠ 1) :
    exec (.mctpControl request) s = .next (s.sendSide (0 :: leBytes 1 s.pins.eid ++ request)) := by
  change execMctpControl request s = _
  simp [execMctpControl, hon, hcmd]

theorem exec_pldmRequest_fru (command : U8) (arg : Bytes) :
    exec (.pldmRequest 4 command arg) s = .next (s.sendSide ([4, command, 0] ++ s.fru)) := by
  change execPldmRequest 4 command arg s = _
  simp [execPldmRequest, hon]

/-- The PLDM types are base, platform monitoring and control, and FRU data. -/
theorem exec_pldmRequest_of_no_type {type : U8} (command : U8) (arg : Bytes) (hbase : type ≠ 0) (hplatform : type ≠ 2) (hfru : type ≠ 4) :
    exec (.pldmRequest type command arg) s = .next (s.sendSide [type, command, 0x20]) := by
  have hnone : (!(type == 0 || type == 2 || type == 4)) = true := by
    rw [beq_eq_false_iff_ne.mpr hbase, beq_eq_false_iff_ne.mpr hplatform, beq_eq_false_iff_ne.mpr hfru]
    rfl
  change execPldmRequest type command arg s = _
  exact (if_neg (by simp [hon])).trans (if_pos hnone)

/-- GetSensorReading of a sensor that has a value. -/
theorem exec_pldmRequest_reading {arg : Bytes} {v : Int} (hlo : 1 ≤ fieldLE arg 0 2) (hhi : fieldLE arg 0 2 ≤ 36)
    (hvalue : s.sensor (fieldLE arg 0 2) = some v) : exec (.pldmRequest 2 0x11 arg) s = .next (s.sendSide ([2, 0x11, 0, 0] ++ intBytes v)) := by
  change execPldmRequest 2 0x11 arg s = _
  simp [execPldmRequest, hon, effecterCmd, hlo, hhi, hvalue]

end Sideband

/-! Sensors (R584). -/

theorem exec_sensorUpdate_of_domain_off {s : State} {id d : Nat} (v : Int) (hdom : sensorDomain id = some d) (hoff : (s.dom d).on = false) :
    exec (.sensorUpdate id v) s = .next s := by
  change execSensorUpdate id v s = _
  simp [execSensorUpdate, hdom, hoff]

/-- Every sensor that is measured has its two thresholds. -/
theorem State.thresholds_of_measured (s : State) {id : Nat} (hlo : 1 ≤ id) (hhi : id ≤ 34) : ∃ w c, s.thresholds id = some (w, c) := by
  simp only [State.thresholds, Bool.or_eq_true, Bool.and_eq_true, decide_eq_true_eq]
  repeat' split
  case isFalse => omega
  all_goals exact ⟨_, _, rfl⟩

/-- The machine with a sensor's value as given. -/
def State.setSensor (s : State) (id : Nat) (v : Int) : State := { s with pins := { s.pins with sensors := s.pins.sensors.set id v } }

/-- A platform event where the value passes from one side of a threshold, in tenths, to the other. -/
def State.crossing (s : State) (id : Nat) (old v threshold : Int) (level : U8) : State :=
  if threshold ≤ 10 * old ↔ threshold ≤ 10 * v then s else s.sendSide ([2, 0x0A] ++ leBytes 2 id ++ [level] ++ intBytes v)

section Crossing
variable (s : State) (id : Nat) {old v t : Int} (level : U8)

theorem State.crossing_of_same_side (h : t ≤ 10 * old ↔ t ≤ 10 * v) : s.crossing id old v t level = s := if_pos h

theorem State.crossing_of_crossed (h : ¬(t ≤ 10 * old ↔ t ≤ 10 * v)) :
    s.crossing id old v t level = s.sendSide ([2, 0x0A] ++ leBytes 2 id ++ [level] ++ intBytes v) := if_neg h

@[simp] theorem State.crossing_sensors : (s.crossing id old v t level).pins.sensors = s.pins.sensors := by
  unfold State.crossing
  split <;> simp

@[simp] theorem State.crossing_objs : (s.crossing id old v t level).objs = s.objs := by
  unfold State.crossing
  split <;> simp

@[simp] theorem State.crossing_ts : (s.crossing id old v t level).ts = s.ts := by
  unfold State.crossing
  split <;> simp

end Crossing

section Measured
variable {s : State} {id : Nat} {v w c : Int} (hon : s.aonOn = true) (hlo : 1 ≤ id) (hhi : id ≤ 34)
variable (hdom : ∀ d, sensorDomain id = some d → (s.dom d).on = true) (hthr : s.thresholds id = some (w, c))
include hon hlo hhi hdom hthr

/-- The value is kept, and the warning and the critical threshold each tell whether it has crossed them. -/
theorem exec_sensorUpdate_of_measured : exec (.sensorUpdate id v) s =
    .next (((s.setSensor id v).crossing id (s.pins.sensors.getD id 0) v w 1).crossing id (s.pins.sensors.getD id 0) v c 2) := by
  have hpowered : (sensorDomain id).any (fun d => !(s.dom d).on) = false := by
    cases hd : sensorDomain id with
    | none => rfl
    | some d => simp [hdom d hd]
  have hserved : ¬(id = 0 || 36 < id || !s.aonOn || (sensorDomain id).any (fun d => !(s.dom d).on)) = true := by
    simp only [hpowered, hon, Bool.not_true, Bool.or_false, Bool.or_eq_true, decide_eq_true_eq]
    omega
  have h35 : id ≠ 35 := by omega
  have h36 : id ≠ 36 := by omega
  change execSensorUpdate id v s = _
  unfold execSensorUpdate
  simp only [if_neg hserved, hthr, if_neg h35, if_neg h36, State.crossing, bne_iff_ne, ne_eq, decide_eq_decide, ite_not]
  rfl

end Measured

/-- Settles O50: each clause is the lemma of its operation; the two of a stream's failed check are the branches of `exec_ideCheckFail_of_secure`, and
those of a sensor that is measured follow from the two thresholds of `exec_sensorUpdate_of_measured`. -/
theorem functionsAndSideband : Obligations.FunctionsAndSideband := by
  unfold Obligations.FunctionsAndSideband
  intro s fn
  refine ⟨exec_functionLevelReset_of_ready, ?running, ?notRunning, ?leaves, ?link, ?config, rfl, ?sideband⟩
  case running =>
    intro hide hrun
    rw [exec_ideCheckFail_of_secure hide, hrun]
    rfl
  case notRunning =>
    intro hide hrun
    rw [exec_ideCheckFail_of_secure hide, if_neg (by simpa using hrun)]
  case leaves =>
    intro hvirtual hrun
    rw [exec_tdispLeaveRun_of_run hvirtual hrun]
    split
    · exact .inl rfl
    · exact .inr rfl
  case link =>
    intro rate width flit hoff hasleep
    obtain ⟨o, ho⟩ := exec_pcieLinkChange_of_powered hoff hasleep rate width flit
    exact ⟨_, ho, State.dreg_setDreg_self s .., rfl⟩
  case config =>
    intro hoff hasleep hperst hclosed
    have hserved : ¬(s.pwr.off || s.pwr.asleep || s.pins.perst || s.dev.closedPcie) = true := by simp [hoff, hasleep, hperst, hclosed]
    exact ⟨exec_pcieConfigRequest_read fn hserved, exec_pcieConfigRequest_write fn hserved, exec_pcieConfigRequest_vfEnable fn hserved,
      exec_pcieConfigRequest_dState fn hserved, exec_pcieConfigRequest_ctoRange fn hserved⟩
  case sideband =>
    intro hon
    refine ⟨exec_i3cDaa_of_on hon, fun _ => exec_mctpControl_of_not_set hon, exec_pldmRequest_fru hon,
      fun _ => exec_pldmRequest_of_no_type hon, ?reading, fun _ v _ => exec_sensorUpdate_of_domain_off v, ?measured⟩
    case reading =>
      rintro arg _ v rfl
      exact exec_pldmRequest_reading hon
    case measured =>
      rintro id v _ _ hlo hhi hdom rfl rfl
      refine ⟨?kept, fun w c hthr hw hc => ?none, fun w c hthr hw hc => ?warning, fun w c hthr hw hc => ?critical⟩
      case kept =>
        obtain ⟨w, c, hthr⟩ := s.thresholds_of_measured hlo hhi
        refine ⟨_, exec_sensorUpdate_of_measured hon hlo hhi hdom hthr, ?_⟩
        simp [State.setSensor]
      all_goals rw [exec_sensorUpdate_of_measured hon hlo hhi hdom hthr]
      case none =>
        rw [State.crossing_of_same_side _ _ _ hc, State.crossing_of_same_side _ _ _ hw]
        rfl
      case warning =>
        rw [State.crossing_of_same_side _ _ _ hc, State.crossing_of_crossed _ _ _ hw]
        rfl
      case critical =>
        rw [State.crossing_of_crossed _ _ _ hc, State.crossing_of_same_side _ _ _ hw]
        rfl

end Sys2Proof.Machine
end

section
/-! ### Submission entries (R402 to R404): written and read back

Fields of a byte string that is written as one string after another, the bytes that are named, then the entries of each command and of a RUN, and
O59 put together from them. -/

namespace Sys2Proof.Machine

/-! Fields of byte strings. -/

@[simp] theorem leBytes_length (n v : Nat) : (leBytes n v).length = n := by
  induction n generalizing v with
  | zero => rfl
  | succ n ih => simp [leBytes, ih]

@[simp] theorem zeros_length (n : Nat) : (zeros n).length = n := List.length_replicate

theorem leNat_leBytes (n v : Nat) : leNat (leBytes n v) = v % 256 ^ n := by
  induction n generalizing v with
  | zero => simp [leBytes, leNat, Nat.mod_one]
  | succ n ih => rw [leBytes, leNat, ih, BitVec.toNat_ofNat, Nat.pow_succ' (m := 256), Nat.mod_mul]

theorem leNat_zeros (n : Nat) : leNat (zeros n) = 0 := by
  induction n with
  | zero => rfl
  | succ n ih =>
    rw [zeros] at ih
    rw [zeros, List.replicate_succ, leNat, ih]
    rfl

theorem fieldLE_zeros (k off n : Nat) : fieldLE (zeros k) off n = 0 := by
  rw [fieldLE, zeros, List.drop_replicate, List.take_replicate]
  exact leNat_zeros _

theorem fieldLE_zeros_append (n : Nat) (b : Bytes) : fieldLE (zeros n ++ b) 0 n = 0 := by
  rw [fieldLE, List.drop_zero, List.take_left' (zeros_length n), leNat_zeros]

/-- A field behind a string that does not reach it. -/
theorem fieldLE_append_right {a b : Bytes} {off : Nat} (h : a.length ≤ off) (n : Nat) : fieldLE (a ++ b) off n = fieldLE b (off - a.length) n := by
  rw [fieldLE, fieldLE, List.drop_append, List.drop_eq_nil_of_le h, List.nil_append]

/-- The field at the start of a string is the number written there. -/
theorem fieldLE_leBytes_append (n v : Nat) (b : Bytes) : fieldLE (leBytes n v ++ b) 0 n = v % 256 ^ n := by
  rw [fieldLE, List.drop_zero, List.take_left' (leBytes_length n v), leNat_leBytes]

theorem fieldLE_word_append {w n : Nat} (h : w = 8 * n) (x : BitVec w) (b : Bytes) : fieldLE (leBytes n x.toNat ++ b) 0 n = x.toNat := by
  have hx : x.toNat < 256 ^ n := by
    rw [show (256 : Nat) = 2 ^ 8 from rfl, ← Nat.pow_mul, ← h]
    exact x.isLt
  rw [fieldLE_leBytes_append, Nat.mod_eq_of_lt hx]

theorem padTo_of_le {n : Nat} {bs : Bytes} (h : bs.length ≤ n) : padTo n bs = bs ++ zeros (n - bs.length) :=
  List.take_of_length_le (by simp; omega)

@[simp] theorem padTo_length (n : Nat) (bs : Bytes) : (padTo n bs).length = n := by
  simp [padTo]
  omega

/-- Behind the end of a list stands the default. -/
theorem getD_of_length_le {α : Type} {l : List α} {i : Nat} (h : l.length ≤ i) (d : α) : l.getD i d = d := by
  rw [List.getD_eq_getElem?_getD, List.getElem?_eq_none h, Option.getD_none]

theorem getD_append_of_lt {α : Type} {a : List α} {i : Nat} (h : i < a.length) (b : List α) (d : α) : (a ++ b).getD i d = a.getD i d := by
  rw [List.getD_eq_getElem?_getD, List.getD_eq_getElem?_getD, List.getElem?_append_left h]

theorem getD_append_add {α : Type} (a b : List α) (i : Nat) (d : α) : (a ++ b).getD (a.length + i) d = b.getD i d := by
  rw [List.getD_eq_getElem?_getD, List.getD_eq_getElem?_getD, List.getElem?_append_right (Nat.le_add_right ..), Nat.add_sub_cancel_left]

/-! Named bytes (R11). -/

/-- Every byte of a string that stands at `off` of an entry lies in one of the ranges or is zero. -/
def NamedAt (rs : List (Nat × Nat)) (off : Nat) (bs : Bytes) : Prop :=
  ∀ i, rs.any (fun r => r.1 ≤ off + i && off + i < r.1 + r.2) = true ∨ bs.getD i 0 = 0

theorem onlyNamed_of_namedAt {rs : List (Nat × Nat)} {bs : Bytes} (h : NamedAt rs 0 bs) : onlyNamed bs rs = true := by
  refine List.all_eq_true.mpr fun i _ => ?_
  have hi := h i
  rw [Nat.zero_add] at hi
  simpa [Bool.or_eq_true] using hi

theorem namedAt_append_iff {rs : List (Nat × Nat)} {off : Nat} {a b : Bytes} :
    NamedAt rs off (a ++ b) ↔ NamedAt rs off a ∧ NamedAt rs (off + a.length) b := by
  have hleft {i : Nat} (hi : i < a.length) : (a ++ b).getD i 0 = a.getD i 0 := getD_append_of_lt hi b 0
  have hright (i : Nat) : (a ++ b).getD (a.length + i) 0 = b.getD i 0 := getD_append_add a b i 0
  constructor
  · intro h
    refine ⟨fun i => ?_, fun i => hright i ▸ Nat.add_assoc off a.length i ▸ h (a.length + i)⟩
    by_cases hi : i < a.length
    · exact hleft hi ▸ h i
    · exact .inr (getD_of_length_le (by omega) _)
  · intro ⟨ha, hb⟩ i
    by_cases hi : i < a.length
    · rw [hleft hi]
      exact ha i
    · obtain ⟨j, rfl⟩ := Nat.exists_eq_add_of_le (Nat.le_of_not_lt hi)
      rw [hright, ← Nat.add_assoc]
      exact hb j

theorem namedAt_nil (rs : List (Nat × Nat)) (off : Nat) : NamedAt rs off [] := fun _ => .inr rfl

theorem namedAt_zeros (rs : List (Nat × Nat)) (off n : Nat) : NamedAt rs off (zeros n) :=
  fun i => .inr (by by_cases h : i < n <;> simp [zeros, List.getD, h])

/-- A string that one of the ranges covers is named. -/
theorem namedAt_of_covered {rs : List (Nat × Nat)} {off : Nat} {bs : Bytes}
    (h : rs.any (fun r => r.1 ≤ off && off + bs.length ≤ r.1 + r.2) = true) : NamedAt rs off bs := by
  intro i
  by_cases hi : i < bs.length
  · obtain ⟨r, hr, hin⟩ := List.any_eq_true.mp h
    simp only [Bool.and_eq_true, decide_eq_true_eq] at hin
    refine .inl (List.any_eq_true.mpr ⟨r, hr, ?_⟩)
    simp only [Bool.and_eq_true, decide_eq_true_eq]
    omega
  · exact .inr (getD_of_length_le (by omega) _)

theorem namedAt_mono {rs ss : List (Nat × Nat)} {off : Nat} {bs : Bytes} (hsub : rs ⊆ ss) (h : NamedAt rs off bs) : NamedAt ss off bs := fun i =>
  (h i).imp_left fun hi => by
    obtain ⟨r, hr, hin⟩ := List.any_eq_true.mp hi
    exact List.any_eq_true.mpr ⟨r, hsub hr, hin⟩

/-! The first entry of a command (R402). -/

section Head
variable (op : Nat) (barrier : Bool) (tag : U32) (hostTs : U64) (args : Bytes)

@[simp] theorem headBytes_length : (headBytes op barrier tag hostTs args).length = 128 := by simp [headBytes]

theorem headBytes_opcode : fieldLE (headBytes op barrier tag hostTs args) 0 1 = op % 256 := by
  simp [headBytes, fieldLE_leBytes_append]

theorem headBytes_flags : fieldLE (headBytes op barrier tag hostTs args) 1 1 = b2n barrier := by
  cases barrier <;> simp [headBytes, b2n, fieldLE_append_right, fieldLE_leBytes_append]

theorem headBytes_tag : u32At (headBytes op barrier tag hostTs args) 4 = tag := by
  simp [u32At, headBytes, fieldLE_append_right, fieldLE_word_append]

theorem headBytes_hostTs : u64At (headBytes op barrier tag hostTs args) 8 = hostTs := by
  simp [u64At, headBytes, fieldLE_append_right, fieldLE_word_append]

/-- A field of the arguments. -/
theorem headBytes_arg {off : Nat} (h : 16 ≤ off) (n : Nat) : fieldLE (headBytes op barrier tag hostTs args) off n = fieldLE (padTo 112 args) (off - 16) n := by
  have hlen : (leBytes 1 op ++ leBytes 1 (b2n barrier) ++ zeros 2 ++ leBytes 4 tag.toNat ++ leBytes 8 hostTs.toNat).length = 16 := by simp
  rw [headBytes, fieldLE_append_right (by omega), hlen]

/-- The bytes of a first entry are named when those of its arguments are. -/
theorem headBytes_named {rs : List (Nat × Nat)} (h : NamedAt rs 16 (padTo 112 args)) :
    onlyNamed (headBytes op barrier tag hostTs args) ([(0, 2), (4, 12)] ++ rs) = true := by
  refine onlyNamed_of_namedAt (namedAt_append_iff.mpr ⟨namedAt_mono (List.subset_append_left ..) ?_, namedAt_mono (List.subset_append_right ..) ?_⟩)
  · simp [namedAt_append_iff, namedAt_zeros, namedAt_of_covered]
  · simpa using h

end Head

/-! The arguments of each command (R404), RUN apart. -/

theorem argBytes_length_le (c : HostCmd) : (argBytes c).length ≤ 112 := by
  cases c <;> simp [argBytes]


/-- The command, and the ranges that its opcode names, in an entry that holds its arguments from byte 0x10 on. -/
theorem entryArgs_of_args {c : HostCmd} {bs : Bytes} (hrun : ∀ a, c ≠ .run a) (hbad : c ≠ .bad)
    (hargs : ∀ off n, 16 ≤ off → fieldLE bs off n = fieldLE (argBytes c ++ zeros (112 - (argBytes c).length)) (off - 16) n) :
    ∃ rs, entryArgs bs (cmdOpcode c) = some (rs, c) ∧ NamedAt rs 16 (argBytes c) := by
  cases c
  case run a => exact absurd rfl (hrun a)
  case bad => exact absurd rfl hbad
  all_goals
    refine ⟨_, congrArg some (Prod.ext rfl ?command), ?named⟩
    case command => simp [u8At, u16At, u32At, u64At, u128At, hargs, argBytes, fieldLE_append_right, fieldLE_word_append]
    case named => simp [argBytes, namedAt_append_iff, namedAt_zeros, namedAt_of_covered, namedAt_nil]

/-! The argument slots of a RUN (R403). -/

/-- The bytes of argument slots, 8 for each. -/
def slotBytes (l : List U64) : Bytes := l.flatMap (fun x => leBytes 8 x.toNat)

/-- The slots of an entry that has place for `m` of them: unused ones are zero. -/
def padSlots (m : Nat) (l : List U64) : List U64 := l.take m ++ List.replicate (m - l.length) 0

@[simp] theorem slotBytes_length (l : List U64) : (slotBytes l).length = 8 * l.length := by
  induction l with
  | nil => rfl
  | cons x l ih =>
    have hcons : slotBytes (x :: l) = leBytes 8 x.toNat ++ slotBytes l := List.flatMap_cons
    rw [hcons, List.length_append, leBytes_length, ih, List.length_cons]
    omega

theorem fieldLE_slotBytes (l : List U64) (z i : Nat) : fieldLE (slotBytes l ++ zeros z) (8 * i) 8 = (l.getD i 0).toNat := by
  induction l generalizing i with
  | nil => simp [slotBytes, fieldLE_zeros]
  | cons x l ih =>
    have hcons : slotBytes (x :: l) ++ zeros z = leBytes 8 x.toNat ++ (slotBytes l ++ zeros z) := by simp [slotBytes]
    rw [hcons]
    cases i with
    | zero => exact fieldLE_word_append (n := 8) rfl x _
    | succ i => rw [fieldLE_append_right (by rw [leBytes_length]; omega), leBytes_length, Nat.mul_succ, Nat.add_sub_cancel, ih, List.getD_cons_succ]

/-- The slots that are read where the first `m` of a list have been written. -/
theorem slots_read {bs : Bytes} {base m : Nat} {l : List U64} (z : Nat)
    (hbs : ∀ off n, base ≤ off → fieldLE bs off n = fieldLE (slotBytes (l.take m) ++ zeros z) (off - base) n) :
    (List.range m).map (fun i => u64At bs (base + 8 * i)) = padSlots m l := by
  apply List.ext_getElem
  · simp [padSlots]
    omega
  · intro i hi _
    have him : i < m := by simpa using hi
    rw [List.getElem_map, List.getElem_range, u64At, hbs _ _ (Nat.le_add_right ..), Nat.add_sub_cancel_left, fieldLE_slotBytes, BitVec.ofNat_toNat, BitVec.setWidth_eq]
    by_cases hl : i < l.length
    · have htake : i < (l.take m).length := by
        rw [List.length_take]
        omega
      simp only [padSlots]
      rw [List.getElem_append_left htake, List.getD_eq_getElem?_getD, List.getElem?_eq_getElem htake, Option.getD_some]
    · have htake : (l.take m).length ≤ i := by
        rw [List.length_take]
        omega
      simp only [padSlots]
      rw [List.getElem_append_right htake, List.getElem_replicate, getD_of_length_le htake]

/-- What stands behind the first `m` of a list is taken behind them. -/
theorem take_padSlots_append {m : Nat} {l rest : List U64} (h : rest.take (l.drop m).length = l.drop m) :
    (padSlots m l ++ rest).take l.length = l := by
  by_cases hm : l.length ≤ m
  · rw [padSlots, List.take_of_length_le hm, List.append_assoc, List.take_left]
  · have hlen : (l.take m).length = m := by simp; omega
    have hsum : l.length = (l.take m).length + (l.drop m).length := by simp; omega
    rw [padSlots, Nat.sub_eq_zero_of_le (by omega), List.replicate_zero, List.append_nil, hsum, List.take_length_add_append, h, List.take_append_drop]

/-! The further entries of a RUN (R403). -/

/-- A further entry of a RUN. -/
theorem moreEntries_succ (k : Nat) {l : List U64} (h : l ≠ []) :
    moreEntries (k + 1) l = (leBytes 1 0xFF ++ zeros 15 ++ padTo 112 (slotBytes (l.take 14))) :: moreEntries k (l.drop 14) := by
  simp [moreEntries, slotBytes, h]

theorem moreEntries_nil (k : Nat) : moreEntries k [] = [] := by cases k <;> rfl

theorem moreEntries_length {k : Nat} {l : List U64} (h : l.length ≤ 14 * k) : (moreEntries k l).length = ceilDiv l.length 14 := by
  induction k generalizing l with
  | zero => simp [moreEntries, List.eq_nil_of_length_eq_zero (by omega : l.length = 0), ceilDiv]
  | succ k ih =>
    by_cases hl : l = []
    · simp [hl, moreEntries_nil, ceilDiv]
    · have hpos := List.length_pos_iff.mpr hl
      rw [moreEntries_succ k hl, List.length_cons, ih (by simp; omega), List.length_drop]
      simp only [ceilDiv]
      omega

theorem moreEntries_ok {k : Nat} {l : List U64} : ∀ b ∈ moreEntries k l, b.length = 128 ∧ contOk b = true := by
  induction k generalizing l with
  | zero => simp [moreEntries]
  | succ k ih =>
    by_cases hl : l = []
    · simp [hl, moreEntries_nil]
    · rw [moreEntries_succ k hl]
      refine List.forall_mem_cons.mpr ⟨⟨by simp, ?_⟩, ih⟩
      simp [contOk, reservedZero, fieldLE_append_right, fieldLE_leBytes_append, fieldLE_zeros_append]

/-- The slots of the further entries, the first ones of them, are those that were written. -/
theorem moreEntries_slots {k : Nat} {l : List U64} (h : l.length ≤ 14 * k) :
    ((moreEntries k l).flatMap (fun b => (List.range 14).map (fun i => u64At b (0x10 + 8 * i)))).take l.length = l := by
  induction k generalizing l with
  | zero => simp [List.eq_nil_of_length_eq_zero (by omega : l.length = 0)]
  | succ k ih =>
    by_cases hl : l = []
    · simp [hl]
    · rw [moreEntries_succ k hl, List.flatMap_cons, slots_read (m := 14) (l := l) (112 - (slotBytes (l.take 14)).length)]
      · exact take_padSlots_append (ih (by simp; omega))
      · intro off n hoff
        rw [fieldLE_append_right (by simpa using hoff), padTo_of_le (by simp; omega)]
        simp

/-! Entries read back. -/

section RoundTrip
variable (barrier : Bool) (tag : U32) (hostTs : U64) (more : List Bytes)

theorem b2n_lt_two (b : Bool) : b2n b < 2 := by cases b <;> decide
theorem b2n_mod_two (b : Bool) : (b2n b % 2 == 1) = b := by cases b <;> rfl
theorem b2n_beq_one (b : Bool) : (b2n b == 1) = b := by cases b <;> rfl

theorem encodeEntry_of_not_run {c : HostCmd} (hrun : ∀ a, c ≠ .run a) :
    encodeEntry barrier tag hostTs c = [headBytes (cmdOpcode c) barrier tag hostTs (argBytes c)] := by
  cases c with
  | run a => exact absurd rfl (hrun a)
  | _ => rfl

theorem cmdOpcode_lt (c : HostCmd) : cmdOpcode c < 256 := by cases c <;> simp [cmdOpcode]

theorem cmdOpcode_ne_one {c : HostCmd} (hrun : ∀ a, c ≠ .run a) : cmdOpcode c ≠ 1 := by
  cases c with
  | run a => exact absurd rfl (hrun a)
  | _ => simp [cmdOpcode]

/-- A command of one entry is read back. -/
theorem readEntry_encodeEntry_of_not_run {c : HostCmd} (hrun : ∀ a, c ≠ .run a) (hbad : c ≠ .bad) :
    readEntry (encodeEntry barrier tag hostTs c ++ more) = some ⟨cmdOpcode c, barrier, tag, hostTs, c, 1⟩ := by
  have hpad := padTo_of_le (argBytes_length_le c)
  obtain ⟨rs, hargs, hnamed⟩ := entryArgs_of_args (bs := headBytes (cmdOpcode c) barrier tag hostTs (argBytes c)) hrun hbad
    fun off n hoff => by rw [headBytes_arg _ _ _ _ _ hoff, hpad]
  have hall := headBytes_named (cmdOpcode c) barrier tag hostTs (argBytes c) (hpad ▸ namedAt_append_iff.mpr ⟨hnamed, namedAt_zeros _ _ _⟩)
  rw [encodeEntry_of_not_run barrier tag hostTs hrun, List.singleton_append, readEntry]
  simp only [headBytes_opcode, headBytes_flags, headBytes_tag, headBytes_hostTs, Nat.mod_eq_of_lt (cmdOpcode_lt c), cmdOpcode_ne_one hrun,
    if_false, hargs, hall, b2n_lt_two, b2n_mod_two, Bool.true_and, decide_true, if_true]

/-- The arguments of a RUN's first entry. -/
def runArgBytes (a : RunArgs) (n : Nat) : Bytes :=
  leBytes 1 a.imageSlot.toNat ++ leBytes 1 (b2n a.strict) ++ leBytes 1 n ++ leBytes 1 a.slots.length ++ leBytes 3 a.stream.toNat ++ zeros 1 ++
    slotBytes (a.slots.take 13)

theorem encodeEntry_run (a : RunArgs) : encodeEntry barrier tag hostTs (.run a) =
    headBytes 1 barrier tag hostTs (runArgBytes a (1 + (moreEntries 4 (a.slots.drop 13)).length)) :: moreEntries 4 (a.slots.drop 13) := rfl

/-- What is read where the first entry of a RUN holds its arguments. -/
theorem runFields_of_args {bs : Bytes} {a : RunArgs} {n z : Nat} (hlen : a.slots.length ≤ 64) (hn : n < 256)
    (hargs : ∀ off k, 16 ≤ off → fieldLE bs off k = fieldLE (runArgBytes a n ++ zeros z) (off - 16) k) :
    u8At bs 0x10 = a.imageSlot ∧ fieldLE bs 0x11 1 = b2n a.strict ∧ fieldLE bs 0x12 1 = n ∧ fieldLE bs 0x13 1 = a.slots.length ∧
      BitVec.ofNat 24 (fieldLE bs 0x14 3) = a.stream ∧ fieldLE bs 0x17 1 = 0 ∧
      (List.range 13).map (fun i => u64At bs (0x18 + 8 * i)) = padSlots 13 a.slots := by
  have hstrict := b2n_lt_two a.strict
  refine ⟨?slot, ?strict, ?entries, ?slots, ?stream, ?reserved, slots_read z fun off k hoff => ?_⟩
  case slot => simp [u8At, hargs, runArgBytes, fieldLE_word_append]
  case stream => simp [hargs, runArgBytes, fieldLE_append_right, fieldLE_word_append]
  case reserved => simp [hargs, runArgBytes, fieldLE_append_right, fieldLE_zeros_append]
  case strict | entries | slots =>
    simp only [hargs, runArgBytes, List.append_assoc, fieldLE_append_right, leBytes_length, fieldLE_leBytes_append, Nat.reduceLeDiff, Nat.reduceSub]
    omega
  rw [hargs off k (by omega), runArgBytes, List.append_assoc, fieldLE_append_right (by simp; omega)]
  simp [Nat.sub_sub]

/-- A RUN is read back. -/
theorem readEntry_encodeEntry_run {a : RunArgs} (h : a.slots.length ≤ 64) :
    readEntry (encodeEntry barrier tag hostTs (.run a) ++ more) =
      some ⟨1, barrier, tag, hostTs, .run a, 1 + (moreEntries 4 (a.slots.drop 13)).length⟩ := by
  have hdrop : (a.slots.drop 13).length ≤ 14 * 4 := by simp; omega
  have hcount := moreEntries_length hdrop
  have hok : (moreEntries 4 (a.slots.drop 13)).all contOk = true := List.all_eq_true.mpr fun b hb => (moreEntries_ok b hb).2
  have hmore := moreEntries_slots hdrop
  rw [encodeEntry_run, List.cons_append, readEntry]
  generalize moreEntries 4 (a.slots.drop 13) = rest at *
  have hfew : rest.length ≤ 4 := by
    rw [hcount, ceilDiv]
    omega
  have hlen : (runArgBytes a (1 + rest.length)).length ≤ 112 := by simp [runArgBytes]; omega
  obtain ⟨hslot, hstrict, hn, hslots, hstream, hzero, hfirst⟩ :=
    runFields_of_args (bs := headBytes 1 barrier tag hostTs (runArgBytes a (1 + rest.length))) (n := 1 + rest.length) h (by omega)
      fun off n hoff => by rw [headBytes_arg _ _ _ _ _ hoff, padTo_of_le hlen]
  have hnamed := headBytes_named 1 barrier tag hostTs (runArgBytes a (1 + rest.length)) (rs := [(0x10, 112)]) (namedAt_of_covered (by simp))
  have hruns : runSlots (headBytes 1 barrier tag hostTs (runArgBytes a (1 + rest.length))) rest a.slots.length = a.slots := by
    rw [runSlots, hfirst]
    exact take_padSlots_append hmore
  have hentries : 1 + rest.length = runEntries a.slots.length := by
    rw [hcount, List.length_drop, runEntries]
  have hone : fieldLE (headBytes 1 barrier tag hostTs (runArgBytes a (1 + rest.length))) 0 1 = 1 := headBytes_opcode ..
  simp only [hone, headBytes_flags, headBytes_tag, headBytes_hostTs, hslot, hstrict, hn, hslots, hstream, hzero, if_true]
  rw [if_neg (by simp; omega), if_neg (by simp), Nat.add_sub_cancel_left, List.take_left]
  rw [List.cons_append, List.cons_append, List.nil_append] at hnamed
  rw [if_pos]
  · rw [hruns, b2n_mod_two, b2n_beq_one]
  · have hbarrier := b2n_lt_two barrier
    have hflag := b2n_lt_two a.strict
    simp [hnamed, h, ← hentries, hok]
    omega

end RoundTrip

/-- Settles O59. -/
theorem entryRoundTrip : Obligations.EntryRoundTrip := by
  intro c barrier tag hostTs more hbad hwf
  by_cases hrun : ∀ a, c ≠ .run a
  · rw [readEntry_encodeEntry_of_not_run barrier tag hostTs more hrun hbad, encodeEntry_of_not_run barrier tag hostTs hrun]
    simp
  · obtain ⟨a, rfl⟩ : ∃ a, c = .run a := by simpa using hrun
    have hslots : a.slots.length ≤ 64 := by simpa [RunArgs.wf] using hwf a rfl
    refine ⟨?_, by rw [readEntry_encodeEntry_run barrier tag hostTs more hslots, encodeEntry_run, List.length_cons, Nat.add_comm]; rfl⟩
    rw [encodeEntry_run]
    exact List.forall_mem_cons.mpr ⟨headBytes_length .., fun b hb => (moreEntries_ok b hb).1⟩

end Sys2Proof.Machine
end

section
/-! ### Memories and finite maps

What clearing a range, removing a key and comparing canonical forms come to, and O58 put together from them and from the laws of memory. -/

namespace Sys2Proof.Machine

/-! Memories. -/

theorem Mem.read_filter {m : Mem} {b : Nat} (p : Nat → Bool) (hm : Mem.canonFrom b m = true) (x : Nat) :
    Mem.read (m.filter fun c => p c.1) x = if p x then m.read x else 0 := by
  induction m generalizing b with
  | nil => simp [Mem.read]
  | cons e r ih =>
    obtain ⟨k, v⟩ := e
    simp only [Mem.canonFrom, Bool.and_eq_true, decide_eq_true_eq] at hm
    have hr := ih hm.2
    by_cases hk : k = x
    · subst hk
      by_cases hp : p k
      · simp [hp, Mem.read]
      · simp [hp, hr]
    · by_cases hp : p k <;> simp [hp, hk, hr, Mem.read]

/-- A cleared range reads zero, and every other byte as before. -/
theorem Mem.read_clear {m : Mem} (a n : Nat) (hm : m.wf = true) (x : Nat) :
    (m.clear a n).read x = if x < a ∨ a + n ≤ x then m.read x else 0 := by
  simpa [Mem.clear] using Mem.read_filter (fun c => c < a || a + n ≤ c) hm x

theorem Mem.reads_writes_self {m : Mem} (a : Nat) (l : Bytes) (hm : m.wf = true) : (m.writes a l).reads a l.length = l := by
  simpa using reads_writes m a 0 [] l [] hm rfl

/-- A canonical memory that lists a cell reads no zero there, and zero below it. -/
theorem Mem.read_head {k b : Nat} {v : U8} {r : Mem} (hm : Mem.canonFrom b ((k, v) :: r) = true) :
    v ≠ 0 ∧ Mem.canonFrom (k + 1) r = true ∧ Mem.read ((k, v) :: r) k = v := by
  simp only [Mem.canonFrom, Bool.and_eq_true, bne_iff_ne] at hm
  exact ⟨hm.1.2, hm.2, by simp [Mem.read]⟩

theorem Mem.eq_of_read_from {m n : Mem} {b c : Nat} (hm : Mem.canonFrom b m = true) (hn : Mem.canonFrom c n = true) (h : ∀ a, m.read a = n.read a) :
    m = n := by
  induction m generalizing b c n with
  | nil =>
    cases n with
    | nil => rfl
    | cons e r =>
      obtain ⟨hv, -, hread⟩ := Mem.read_head hn
      exact absurd (hread.symm.trans (h e.1).symm) hv
  | cons e r ih =>
    obtain ⟨k, v⟩ := e
    obtain ⟨hv, hr, hread⟩ := Mem.read_head hm
    cases n with
    | nil => exact absurd (hread.symm.trans (h k)) hv
    | cons e' r' =>
      obtain ⟨k', v'⟩ := e'
      obtain ⟨hv', hr', hread'⟩ := Mem.read_head hn
      have hbelow {j i : Nat} {w u : U8} {q : Mem} (hq : Mem.canonFrom (j + 1) q = true) (hlt : i < j) (hi : Mem.read ((j, w) :: q) i = u) : u = 0 := by
        rw [← hi, Mem.read, if_neg (by omega), Mem.read_below hq (by omega)]
      have hkk : k = k' := by
        rcases Nat.lt_trichotomy k k' with hlt | heq | hlt
        · exact absurd (hbelow hr' hlt ((h k).symm.trans hread)) hv
        · exact heq
        · exact absurd (hbelow hr hlt ((h k').trans hread')) hv'
      subst hkk
      have hvv : v = v' := hread.symm.trans ((h k).trans hread')
      have htail : ∀ a, Mem.read r a = Mem.read r' a := by
        intro a
        by_cases ha : a < k + 1
        · rw [Mem.read_below hr ha, Mem.read_below hr' ha]
        · have hne : ¬ k = a := by omega
          simpa [Mem.read, hne] using h a
      rw [hvv, ih hr hr' htail]

/-- Canonical memories that read alike are the same. -/
theorem Mem.eq_of_read {m n : Mem} (hm : m.wf = true) (hn : n.wf = true) (h : ∀ a, m.read a = n.read a) : m = n :=
  Mem.eq_of_read_from hm hn h

/-! Finite maps. -/

section Erase
variable {α : Type}

theorem Tbl.get_below {t : Tbl α} {b i : Nat} (ht : Tbl.risingFrom b t = true) (h : i < b) : t.get i = none := by
  induction t generalizing b with
  | nil => rfl
  | cons e r ih =>
    obtain ⟨k, v⟩ := e
    simp only [Tbl.risingFrom, Bool.and_eq_true, decide_eq_true_eq] at ht
    rw [Tbl.get, if_neg (by omega)]
    exact ih ht.2 (by omega)

theorem Tbl.get_erase_self {t : Tbl α} (i : Nat) (ht : Tbl.wf t = true) : (Tbl.erase t i).get i = none := by
  suffices h : ∀ b, Tbl.risingFrom b t = true → (Tbl.erase t i).get i = none from h 0 ht
  induction t with
  | nil => exact fun _ _ => rfl
  | cons e r ih =>
    obtain ⟨k, v⟩ := e
    intro b hb
    simp only [Tbl.risingFrom, Bool.and_eq_true, decide_eq_true_eq] at hb
    by_cases hk : k = i
    · simpa [Tbl.erase, hk] using Tbl.get_below hb.2 (by omega)
    · simpa [Tbl.erase, Tbl.get, hk] using ih (Tbl.risingFrom_mono (Nat.zero_le _) hb.2) _ hb.2

theorem Tbl.get_erase_ne (t : Tbl α) {i j : Nat} (h : j ≠ i) : (Tbl.erase t i).get j = t.get j := by
  induction t with
  | nil => rfl
  | cons e r ih =>
    obtain ⟨k, v⟩ := e
    by_cases hk : k = i
    · have hj : ¬ i = j := fun hij => h hij.symm
      simp [Tbl.erase, Tbl.get, hk, hj]
    · simp [Tbl.erase, Tbl.get, hk, ih]

end Erase

/-- Settles O58, from the laws of memory, of clearing, and of the finite maps. -/
theorem memoryReadsAndWrites : Obligations.MemoryReadsAndWrites := by
  refine ⟨?write, ?writes, ?clear, fun m n hm hn h => Mem.eq_of_read hm hn h, ?maps⟩
  case write =>
    intro m a b hm
    refine ⟨Mem.write_wf a b hm, ?_, fun x hx => ?_⟩
    · rw [Mem.read_write a b hm, if_pos rfl]
    · rw [Mem.read_write a b hm, if_neg hx]
  case writes =>
    intro m a l hm
    exact ⟨Mem.writes_wf a l hm, Mem.reads_writes_self a l hm, fun x hx => Mem.read_writes_of_out hm hx⟩
  case clear =>
    intro m a n hm
    refine ⟨Mem.clear_wf a n hm, fun x h1 h2 => ?_, fun x hx => ?_⟩
    · rw [Mem.read_clear a n hm, if_neg (by omega)]
    · rw [Mem.read_clear a n hm, if_pos hx]
  case maps =>
    intro t k v ht
    exact ⟨Tbl.set_wf k v ht, Tbl.get_set_self t k v, fun j hj => Tbl.get_set_ne hj, Tbl.erase_wf k ht, Tbl.get_erase_self k ht,
      fun j hj => Tbl.get_erase_ne t hj⟩

end Sys2Proof.Machine
end

section
/-! ### Registers written under a guard, and tile memory as LD and ST reach it (R108, R111, R115)

What a register reads as after its elements were written, and a memory after the bytes of its active lanes were; O20 and O19 put together from them. -/

namespace Sys2Proof.Machine

/-! Registers. -/

@[simp] theorem Tile.vreg_setVreg_self (t : Tile) (n : Nat) (l : List U32) : (t.setVreg n l).vreg n = l := Tbl.getD_set_self ..

theorem Tile.vreg_setVreg_ne (t : Tile) {n m : Nat} (l : List U32) (h : m ≠ n) : (t.setVreg n l).vreg m = t.vreg m := by
  simp [Tile.vreg, Tile.setVreg, Tbl.getD, Tbl.get_set_ne h]

/-! Elements of a register (R108). -/

section Elements
variable {t : Tile} {width n : Nat} {l : List Nat}

theorem Tile.elems_length (hw : width = 16 ∨ width = 32 ∨ width = 64) (hn : (t.vreg n).length = 256) (hpair : width = 64 → (t.vreg (n + 1)).length = 256) :
    (t.elems width n).length = elemCount width := by
  rcases hw with rfl | rfl | rfl
  · simp [Tile.elems, elemCount, hn]
  · simp [Tile.elems, elemCount, hn]
  · simp [Tile.elems, elemCount, hn, hpair rfl]

theorem Tile.elems_lt (hw : width = 16 ∨ width = 32 ∨ width = 64) {v : Nat} (h : v ∈ t.elems width n) : v < 2 ^ width := by
  rcases hw with rfl | rfl | rfl <;> simp only [Tile.elems, if_true, if_false, Nat.reduceEqDiff, List.mem_append, List.mem_map] at h
  · obtain ⟨x, -, rfl⟩ | ⟨x, -, rfl⟩ := h <;> omega
  · obtain ⟨x, -, rfl⟩ := h
    exact x.isLt
  · obtain ⟨x, -, rfl⟩ := h
    omega

/-- What has been written to the elements of a register is read from them, cut to the format. -/
theorem Tile.elems_setElems (hw : width = 16 ∨ width = 32 ∨ width = 64) (hl : l.length = elemCount width) :
    (t.setElems width n l).elems width n = l.map (· % 2 ^ width) := by
  rcases hw with rfl | rfl | rfl
  · obtain ⟨a, b, ha, hb, rfl⟩ : ∃ a b : List Nat, a.length = 256 ∧ b.length = 256 ∧ l = a ++ b :=
      ⟨l.take 256, l.drop 256, by rw [List.length_take, hl]; rfl, by rw [List.length_drop, hl]; rfl, (List.take_append_drop ..).symm⟩
    have hlow (x : Nat × Nat) : (BitVec.ofNat 32 (x.1 % 65536 + x.2 % 65536 * 65536)).toNat % 65536 = x.1 % 65536 := by
      rw [BitVec.toNat_ofNat]
      omega
    have hhigh (x : Nat × Nat) : (BitVec.ofNat 32 (x.1 % 65536 + x.2 % 65536 * 65536)).toNat / 65536 = x.2 % 65536 := by
      rw [BitVec.toNat_ofNat]
      omega
    have hfst : (a.zip b).map (fun x => x.1 % 65536) = a.map (· % 65536) := by
      have hmap := congrArg (List.map (· % 65536)) (List.map_fst_zip (l₁ := a) (l₂ := b) (by omega))
      rwa [List.map_map] at hmap
    have hsnd : (a.zip b).map (fun x => x.2 % 65536) = b.map (· % 65536) := by
      have hmap := congrArg (List.map (· % 65536)) (List.map_snd_zip (l₁ := a) (l₂ := b) (by omega))
      rwa [List.map_map] at hmap
    simp only [Tile.elems, Tile.setElems, if_true, Tile.vreg_setVreg_self, List.take_left' ha, List.drop_left' ha, List.map_map, Function.comp_def, hlow, hhigh,
      hfst, hsnd, List.map_append, Nat.reducePow]
  · simp [Tile.elems, Tile.setElems]
  · have hne : n ≠ n + 1 := by omega
    have hjoin (x : Nat) : (BitVec.ofNat 32 x).toNat + (BitVec.ofNat 32 (x / 2 ^ 32)).toNat * 2 ^ 32 = x % 2 ^ 64 := by
      rw [BitVec.toNat_ofNat, BitVec.toNat_ofNat]
      omega
    simp only [Tile.elems, Tile.setElems, if_true, if_false, Nat.reduceEqDiff, Tile.vreg_setVreg_self, Tile.vreg_setVreg_ne _ _ hne, List.zip_map', List.map_map,
      Function.comp_def, hjoin]

/-- Only the register, or in binary64 the register pair, is written. -/
theorem Tile.vreg_setElems_ne {m : Nat} (hm : m ≠ n) (hpair : width = 64 → m ≠ n + 1) : (t.setElems width n l).vreg m = t.vreg m := by
  unfold Tile.setElems
  split
  · exact Tile.vreg_setVreg_ne _ _ hm
  · split
    next h => rw [Tile.vreg_setVreg_ne _ _ (hpair h), Tile.vreg_setVreg_ne _ _ hm]
    · exact Tile.vreg_setVreg_ne _ _ hm

/-- An active element takes its result, an inactive one keeps its value. -/
theorem Tile.elems_putActive {w : Vx} (hw : width = 16 ∨ width = 32 ∨ width = 64) (hl : l.length = elemCount width)
    (ht : (t.elems width n).length = elemCount width) {e : Nat} (he : e < elemCount width) :
    ((t.putActive w width n l).elems width n).getD e 0 = if t.active w e then l.getD e 0 % 2 ^ width else (t.elems width n).getD e 0 := by
  have hel : e < l.length := by rw [hl]; exact he
  have het : e < (t.elems width n).length := by rw [ht]; exact he
  by_cases hgen : w.gen = true
  · have hlen : (((t.elems width n).zip l).mapIdx (fun e x => if t.active w e then x.2 else x.1)).length = elemCount width := by simp [hl, ht]
    have hlt := Tile.elems_lt hw (List.getElem_mem het)
    rw [Tile.putActive, if_pos hgen, Tile.elems_setElems hw hlen]
    have hzip : ((t.elems width n).zip l)[e]? = some ((t.elems width n)[e], l[e]) := by
      rw [List.getElem?_eq_getElem (by rw [List.length_zip]; omega), List.getElem_zip]
    rw [List.getD_eq_getElem?_getD, List.getElem?_map, List.getElem?_mapIdx, hzip]
    by_cases hact : t.active w e <;> simp [List.getD, hel, het, hact, Nat.mod_eq_of_lt hlt]
  · have hact : t.active w e = true := by simp [Tile.active, hgen]
    rw [Tile.putActive, if_neg hgen, Tile.elems_setElems hw hl, if_pos hact]
    simp [List.getD, hel]

/-- Writing under a guard writes elements of the register. -/
theorem Tile.putActive_cases (w : Vx) : ∃ l', t.putActive w width n l = t.setElems width n l' := by
  unfold Tile.putActive
  split
  · exact ⟨_, rfl⟩
  · exact ⟨_, rfl⟩

/-- Writing elements changes vector registers alone. -/
theorem Tile.setElems_eq_v : ∃ v, t.setElems width n l = { t with v := v } := by
  unfold Tile.setElems
  split
  · exact ⟨_, rfl⟩
  · split <;> exact ⟨_, rfl⟩

theorem Tile.putActive_eq_v (w : Vx) : ∃ v, t.putActive w width n l = { t with v := v } := by
  obtain ⟨l', hl'⟩ := Tile.putActive_cases (t := t) (width := width) (n := n) (l := l) w
  exact hl' ▸ Tile.setElems_eq_v

theorem Tile.vreg_putActive_ne (w : Vx) {m : Nat} (hm : m ≠ n) (hpair : width = 64 → m ≠ n + 1) : (t.putActive w width n l).vreg m = t.vreg m := by
  obtain ⟨l', hl'⟩ := Tile.putActive_cases (t := t) (width := width) (n := n) (l := l) w
  exact hl' ▸ Tile.vreg_setElems_ne hm hpair

end Elements

/-- Settles O20, from what is read of the elements that were written and from the frame of the write. -/
theorem guardedWrites : Obligations.GuardedWrites := by
  intro tl w width n l hw hl hn hn1
  refine ⟨fun e he => Tile.elems_putActive hw hl (Tile.elems_length hw hn fun _ => hn1) he, fun m hm hpair => Tile.vreg_putActive_ne w hm hpair, ?_⟩
  obtain ⟨v, hv⟩ := Tile.putActive_eq_v (t := tl) (width := width) (n := n) (l := l) w
  rw [hv]
  exact ⟨rfl, rfl, rfl, rfl, rfl⟩

/-! Tile memory: the active lanes of a register stored one behind the other (R111). -/

/-- The memory after the active lanes of a list have been stored, lane `k` of the register the list's first. -/
def storeLanes (act : Nat → Bool) (a : Nat) (m : Mem) (l : List U32) (k : Nat) : Mem :=
  (l.zipIdx k).foldl (fun m y => if act y.2 then m.writes (a + 4 * y.2) (leBytes 4 y.1.toNat) else m) m

section StoreLanes
variable {act : Nat → Bool} {a : Nat} {m : Mem}

theorem storeLanes_cons (x : U32) (l : List U32) (k : Nat) :
    storeLanes act a m (x :: l) k = storeLanes act a (if act k then m.writes (a + 4 * k) (leBytes 4 x.toNat) else m) l (k + 1) := rfl

/-- A byte that no active lane covers is as before. -/
theorem read_storeLanes_out (hm : m.wf = true) {l : List U32} {k b : Nat}
    (hb : ∀ j, k ≤ j → j < k + l.length → act j = true → b < a + 4 * j ∨ a + 4 * j + 4 ≤ b) : (storeLanes act a m l k).read b = m.read b := by
  induction l generalizing k m with
  | nil => rfl
  | cons x l ih =>
    have htail : ∀ j, k + 1 ≤ j → j < k + 1 + l.length → act j = true → b < a + 4 * j ∨ a + 4 * j + 4 ≤ b := fun j h1 h2 =>
      hb j (by omega) (by simp; omega)
    rw [storeLanes_cons]
    split
    next hk =>
      rw [ih (Mem.writes_wf _ _ hm) htail, Mem.read_writes_of_out hm]
      simpa using hb k (Nat.le_refl k) (by simp) hk
    · exact ih hm htail

theorem leBytes_getElem {n v i : Nat} (h : i < (leBytes n v).length) : (leBytes n v)[i] = BitVec.ofNat 8 (v / 256 ^ i) := by
  induction n generalizing v i with
  | zero => simp at h
  | succ n ih =>
    cases i with
    | zero => simp [leBytes]
    | succ i =>
      have hi : i < (leBytes n (v / 256)).length := by simpa using h
      have hstep : (leBytes (n + 1) v)[i + 1] = (leBytes n (v / 256))[i] := rfl
      rw [hstep, ih hi, Nat.div_div_eq_div_mul, Nat.pow_succ']

/-- A byte of an active lane is the lane's. -/
theorem read_storeLanes_in (hm : m.wf = true) {l : List U32} {k j i : Nat} (hj : j < l.length) (hi : i < 4) (hact : act (k + j) = true) :
    (storeLanes act a m l k).read (a + 4 * (k + j) + i) = BitVec.ofNat 8 ((l.getD j 0).toNat / 256 ^ i) := by
  induction l generalizing k j m with
  | nil => simp at hj
  | cons x l ih =>
    rw [storeLanes_cons]
    cases j with
    | zero =>
      have hlen : i < (leBytes 4 x.toNat).length := by simpa using hi
      simp only [Nat.add_zero] at hact ⊢
      rw [if_pos hact, read_storeLanes_out (Mem.writes_wf _ _ hm) (fun j h1 _ _ => by omega), Mem.read_writes_of_in hm hlen]
      exact leBytes_getElem ..
    | succ j =>
      rw [show k + (j + 1) = k + 1 + j by omega] at hact ⊢
      have hstored := ih (m := if act k then m.writes (a + 4 * k) (leBytes 4 x.toNat) else m) (k := k + 1) (j := j)
        (by split <;> simp only [Mem.writes_wf _ _ hm, hm]) (by simpa using hj) hact
      simpa using hstored

end StoreLanes

/-- What ST does where it ends without a fault. -/
theorem vxStore_eq_ok {ok : Site → Nat → Nat → Bool} {w : Vx} {x : Site} {t t' : Tile} {fl : Flags} (h : vxStore ok w x t = .ok t' fl) :
    t' = { t with mem := storeLanes (t.active w) (t.memAddr w) t.mem (t.vreg w.vd.toNat) 0 } := by
  unfold vxStore at h
  dsimp only at h
  split at h
  · cases h
  · cases h
    rfl

/-- What LD does where it ends without a fault. -/
theorem vxLoad_eq_ok {ok : Site → Nat → Nat → Bool} {w : Vx} {x : Site} {t t' : Tile} {fl : Flags} (h : vxLoad ok w x t = .ok t' fl) :
    t' = t.putActive w 32 w.vd.toNat ((lanesOf (t.mem.reads (t.memAddr w) 1024)).map BitVec.toNat) := by
  unfold vxLoad at h
  dsimp only at h
  split at h
  · cases h
  · cases h
    rfl

/-- A lane of a register, as its element in a 32-bit format. -/
theorem Tile.vreg_getD_toNat (t : Tile) (n l : Nat) : ((t.vreg n).getD l 0).toNat = (t.elems 32 n).getD l 0 := by
  simp only [Tile.elems, Nat.reduceEqDiff, if_false]
  rw [List.getD_eq_getElem?_getD, List.getD_eq_getElem?_getD, List.getElem?_map]
  cases (t.vreg n)[l]? <;> rfl

/-- Settles O19, from what LD and ST do where they end without a fault. -/
theorem vectorMemoryFrame : Obligations.VectorMemoryFrame := by
  intro w x tl tl' hmem hlen
  refine ⟨fun hst => ?store, fun hld => ?load⟩
  case store =>
    rw [vxStore_eq_ok hst]
    refine ⟨rfl, rfl, rfl, fun l i hl hi hact => ?_, fun a ha => read_storeLanes_out hmem fun l _ hl hact => ha l (by omega) hact⟩
    simpa using read_storeLanes_in hmem (k := 0) (hlen ▸ hl) hi (by simpa using hact)
  case load =>
    rw [vxLoad_eq_ok hld]
    obtain ⟨v, hv⟩ := Tile.putActive_eq_v (t := tl) (width := 32) (n := w.vd.toNat)
      (l := (lanesOf (tl.mem.reads (tl.memAddr w) 1024)).map BitVec.toNat) w
    refine ⟨by rw [hv], by rw [hv], by rw [hv], fun n hn => Tile.vreg_putActive_ne w hn (by omega), fun l hl => BitVec.eq_of_toNat_eq ?_⟩
    rw [Tile.vreg_getD_toNat, Tile.elems_putActive (.inr (.inl rfl)) (by simp [lanesOf, elemCount])
      (Tile.elems_length (.inr (.inl rfl)) hlen (by omega)) hl]
    split
    · simp [lanesOf, hl, List.getD]
    · exact (Tile.vreg_getD_toNat ..).symm

end Sys2Proof.Machine
end

section
/-! ### The front command, the order of a ring, and what the queue engine does (R397 to R401, R405, R418, R419)

When an entry of a queue may start; records and their bytes; doorbells, consumer indices and ring windows; and an entry fetched from its ring. -/

namespace Sys2Proof.Machine

/-- Settles O1: both halves are what a step is. -/
theorem stepRunsTheFrontCommand : Obligations.StepRunsTheFrontCommand := by
  refine ⟨fun s c r h => ?_, fun s h => ?_⟩
  · rw [step, h]
  · rw [step, h]

/-! The order of a ring (R401). -/

theorem span_loop_eq {α : Type} (p : α → Bool) (l acc : List α) : List.span.loop p l acc = (acc.reverse ++ l.takeWhile p, l.dropWhile p) := by
  induction l generalizing acc with
  | nil => simp [List.span.loop]
  | cons a l ih => cases h : p a <;> simp [List.span.loop, h, ih]

theorem span_eq {α : Type} (p : α → Bool) (l : List α) : l.span p = (l.takeWhile p, l.dropWhile p) := span_loop_eq p l []

theorem of_mem_takeWhile {α : Type} {p : α → Bool} {l : List α} {x : α} (h : x ∈ l.takeWhile p) : p x = true := by
  induction l with
  | nil => exact absurd h (by simp)
  | cons a l ih =>
    rw [List.takeWhile_cons] at h
    split at h
    next ha =>
      obtain rfl | htail := List.mem_cons.1 h
      · exact ha
      · exact ih htail
    next => exact absurd h (by simp)

/-- A list cut at its first element that has not started. -/
theorem span_started_eq {l before after : List Entry} {e : Entry} :
    l.span (fun x => x.st == .started) = (before, e :: after) ↔ l = before ++ e :: after ∧ (∀ x ∈ before, x.st = .started) ∧ e.st = .waiting := by
  have hne (x : Entry) : (x.st == .started) = false ↔ x.st = .waiting := by cases x.st <;> decide
  rw [span_eq]
  constructor
  · intro h
    obtain ⟨htake, hdrop⟩ := Prod.mk.inj h
    refine ⟨?_, fun x hx => ?_, ?_⟩
    · rw [← htake, ← hdrop, List.takeWhile_append_dropWhile]
    · have := of_mem_takeWhile (htake ▸ hx)
      exact eq_of_beq this
    · have := List.head?_dropWhile_not (fun x : Entry => x.st == .started) l
      rw [hdrop] at this
      exact (hne e).mp (by simpa using this)
  · rintro ⟨rfl, hb, he⟩
    have hb' : ∀ x ∈ before, (x.st == .started) = true := fun x hx => by simp [hb x hx]
    rw [List.takeWhile_append_of_pos hb', List.dropWhile_append_of_pos hb', List.takeWhile_cons_of_neg (by simp [he]),
      List.dropWhile_cons_of_neg (by simp [he]), List.append_nil]

/-- An entry may start exactly when all before it have started, none of them is an outstanding WAIT, and a barrier stands at the front. -/
theorem Queue.startable_eq_some {q : Queue} {e : Entry} :
    q.startable = some e ↔ ∃ before after, q.fetched = before ++ e :: after ∧ (∀ x ∈ before, x.st = .started) ∧ e.st = .waiting ∧
      (∀ x ∈ before, ∀ a, x.cmd ≠ .wait a) ∧ (e.barrier = true → before = []) := by
  unfold Queue.startable
  constructor
  · intro h
    split at h
    next before e' after hspan =>
      obtain ⟨hf, hst, hw⟩ := span_started_eq.mp hspan
      split at h
      · cases h
      next hany =>
        split at h
        · cases h
        next hbar =>
          obtain rfl := Option.some.inj h
          refine ⟨before, after, hf, hst, hw, fun x hx a hcmd => hany (List.any_eq_true.mpr ⟨x, hx, by rw [hcmd]⟩), fun hb => ?_⟩
          simpa [hb] using hbar
    next => cases h
  · rintro ⟨before, after, hf, hst, hw, hwaits, hbar⟩
    rw [span_started_eq.mpr ⟨hf, hst, hw⟩]
    dsimp only
    rw [if_neg, if_neg]
    · cases hb : e.barrier
      · simp
      · simp [hbar hb]
    · intro hany
      obtain ⟨x, hx, hm⟩ := List.any_eq_true.mp hany
      split at hm
      next a hcmd => exact hwaits x hx a hcmd
      next => cases hm

/-- Settles O2. -/
theorem commandsStartInRingOrder : Obligations.CommandsStartInRingOrder := by
  intro s q cmd k e t
  constructor
  · intro h
    obtain ⟨hk, hcmd, ht, qu, hq, hruns, hstart, hup⟩ := start_cases h
    obtain ⟨before, after, horder⟩ := Queue.startable_eq_some.mp hstart
    exact ⟨hk, hcmd, ht, hup, qu, before, after, hq, hruns, horder⟩
  · rintro ⟨rfl, rfl, rfl, hup, qu, before, after, hq, hruns, horder⟩
    have hstart := Queue.startable_eq_some.mpr ⟨before, after, horder⟩
    simp [State.start, State.started, hq, hruns, hstart, hup]

/-! Records (R405). -/

theorem State.queuePart_of_get {s : State} {qk : Nat} {q : Queue} (h : s.queues.get qk = some q) : s.queuePart qk = s.ctxPart q.ctx := by
  rw [State.queuePart, h]

/-- The record of a queue without a partition, on a device that is no far member, goes into its ring. -/
theorem State.record_of_shown {s : State} {qk : Nat} {q : Queue} {r : Rec} (hq : s.queues.get qk = some q) (hpart : s.ctxPart q.ctx = none)
    (hfar : s.farHead = none) : s.record qk r = s.putRec qk { r with flags := r.flags ||| s.overflowFlag qk } := by
  rw [State.record, State.queuePart_of_get hq, hpart, State.emit, State.show, State.forwardRec, hfar]

/-- The completion of such a queue's entry: the record in its place, the entry off the queue, and what its retirement releases. -/
theorem State.complete_of_shown {s : State} {qk sub : Nat} {d : Done} {q : Queue} {e : Entry} (hq : s.queues.get qk = some q)
    (he : q.fetched.find? (fun (x : Entry) => x.sub == sub) = some e) (hpart : s.ctxPart q.ctx = none) (hfar : s.farHead = none) :
    s.complete qk sub d = (((s.putRec qk ⟨sub, d.st, d.sc, d.flags ||| s.overflowFlag qk, d.stage, e.tag, d.result, d.ts.getD s.ts, d.detail⟩).dropEntry
      qk sub).settle).tallyFull := by
  have hbump : s.bumpPart? (s.queuePart qk) cAdRefused (b2n (d.st != Status.ok)) = s := by rw [State.queuePart_of_get hq, hpart, State.bumpPart?]
  unfold State.complete
  simp only [hq, he, hbump]
  split <;> rw [State.record_of_shown hq hpart hfar]

theorem fieldLE_leBytes (n v : Nat) : fieldLE (leBytes n v) 0 n = v % 256 ^ n := by
  simpa using fieldLE_leBytes_append n v []

theorem fieldLE_byte_cons (x : U8) (l : Bytes) : fieldLE (x :: l) 0 1 = x.toNat := by simp [fieldLE, leNat]

theorem fieldLE_cons_succ (x : U8) (l : Bytes) (off n : Nat) : fieldLE (x :: l) (off + 1) n = fieldLE l off n := by simp [fieldLE]

theorem statusCode_lt (st : Status) : statusCode st < 256 := by cases st <;> decide
theorem scopeCode_lt (sc : Scope) : scopeCode sc < 256 := by cases sc <;> decide

/-- Settles O3. -/
theorem recordsAndLayout : Obligations.RecordsAndLayout := by
  refine ⟨fun s qk sub d q e hq he hpart hfar => ?_, fun r i size _ hflags hstage hsub hresult hts hdetail => ?_⟩
  · rw [State.complete_of_shown hq he hpart hfar, State.putRec, hq]
    rfl
  · have hstatus := statusCode_lt r.st
    have hscope := scopeCode_lt r.sc
    have htag : r.tag.toNat < 2 ^ 32 := r.tag.isLt
    refine ⟨?length, ?sub, ?status, ?flags, ?scope, ?stage, ?tag, ?result, ?ts, ?detail⟩
    case length => simp [recBytes]
    all_goals
      simp only [recBytes, List.append_assoc, List.cons_append, List.nil_append, fieldLE_append_right, fieldLE_cons_succ, fieldLE_byte_cons, leBytes_length,
        fieldLE_leBytes_append, fieldLE_leBytes, BitVec.toNat_ofNat, Nat.reduceLeDiff, Nat.reduceSub, Nat.reducePow]
    case flags => split <;> omega
    all_goals omega

/-! Doorbells, consumer indices and ring windows (R397, R399, R400). -/

section Doorbell
variable {s : State} {q : QId} {v : U32} {qu : Queue}

theorem exec_doorbell_unheard (h : s.fnOpen q.fn.val = false ∨ s.queues.get (qKey q) = none) : exec (.doorbell q v) s = .next s := by
  change execDoorbell q v s = _
  unfold execDoorbell
  rcases h with h | h <;> simp [h]

/-- What a doorbell that is heard does, by the tail that it gives. -/
theorem exec_doorbell_heard (hopen : s.fnOpen q.fn.val = true) (hq : s.queues.get (qKey q) = some qu) :
    exec (.doorbell q v) s = .next (
      if v.toNat = qu.tail then s
      else if qu.sqSize < diff32 v.toNat qu.head then
        match qu.ctx with
        | some c => s.ctxFault c .malformed none
        | none => s.bumpFn q.fn.val hqBadHead 1
      else if diff32 v.toNat qu.head < diff32 qu.tail qu.head then s.bumpFn q.fn.val hqBadHead 1
      else (s.setQueue (qKey q) { qu with tail := v.toNat, stamps := qu.stamps ++ [(v.toNat, s.ts)] }).lookAhead
        { qu with tail := v.toNat, stamps := qu.stamps ++ [(v.toNat, s.ts)] }) := by
  change execDoorbell q v s = _
  simp only [execDoorbell, hopen, if_true, hq]
  split
  · rfl
  · split
    · cases qu.ctx <;> rfl
    · split <;> rfl

/-- What a consumer index does: one ahead of the records written is ignored, and a wait for a slot that it ends is counted. -/
theorem exec_cqHeadWrite (hopen : s.fnOpen q.fn.val = true) (hq : s.queues.get (qKey q) = some qu) :
    exec (.cqHeadWrite q v) s = .next (
      if diff32 qu.written qu.cqHead < diff32 v.toNat qu.cqHead then s.bumpFn q.fn.val hqBadHead 1
      else if qu.cqSize ≤ s.slotsUsed (qKey q) { qu with cqHead := v.toNat } then s.setQueue (qKey q) { qu with cqHead := v.toNat }
      else match qu.blockedSince with
        | some b => (s.setQueue (qKey q) { qu with cqHead := v.toNat, blockedSince := none }).bumpFn q.fn.val hqBackpressure (s.ts - b)
        | none => s.setQueue (qKey q) { qu with cqHead := v.toNat, blockedSince := none }) := by
  change execCqHeadWrite q v s = _
  have hsize : ({ qu with cqHead := v.toNat } : Queue).cqSize = qu.cqSize := rfl
  simp only [execCqHeadWrite, hopen, if_true, hq, hsize]
  split
  · rfl
  · split
    · rfl
    · cases qu.blockedSince <;> rfl

end Doorbell

section Window
variable {s : State} {fn : Fn} {off : U64} {data : Bytes}

theorem exec_ringWindowWrite_mapped {m : Nat × Nat × Nat} (hopen : s.fnOpen fn.val = true)
    (hm : (s.fn fn.val).maps.find? (fun (m : Nat × Nat × Nat) => m.1 ≤ off.toNat && off.toNat + data.length ≤ m.1 + m.2.1) = some m) :
    exec (.ringWindowWrite fn off data) s = .next ((s.objWrite m.2.2 (off.toNat - m.1) data).mirrorHostWrite m.2.2 (off.toNat - m.1) data.length) := by
  change execRingWindowWrite fn off data s = _
  simp only [execRingWindowWrite, hopen, if_true, State.ringAt, hm]

theorem exec_ringWindowWrite_unmapped (h : s.fnOpen fn.val = false ∨
      (s.fn fn.val).maps.find? (fun (m : Nat × Nat × Nat) => m.1 ≤ off.toNat && off.toNat + data.length ≤ m.1 + m.2.1) = none) :
    exec (.ringWindowWrite fn off data) s = .next s := by
  change execRingWindowWrite fn off data s = _
  unfold execRingWindowWrite
  rcases h with h | h <;> simp [State.ringAt, h]

end Window

/-- Settles O4. -/
theorem ringWrites : Obligations.RingWrites := by
  refine ⟨fun s q v => ⟨exec_doorbell_unheard, ?doorbell⟩, ?consumer, fun s fn off data => ⟨fun m => exec_ringWindowWrite_mapped, exec_ringWindowWrite_unmapped⟩⟩
  case doorbell =>
    intro qu hopen hq
    rw [exec_doorbell_heard hopen hq]
    refine ⟨fun heq => ?_, fun c hne hpast hctx => ?_, fun hne hin hbehind => ?_, fun hne hin hahead => ?_⟩
    · rw [if_pos heq]
    · rw [if_neg hne, if_pos hpast, hctx]
    · rw [if_neg hne, if_neg (by omega), if_pos hbehind]
    · rw [if_neg hne, if_neg (by omega), if_neg (by omega)]
  case consumer =>
    intro s q v qu hopen hq
    rw [exec_cqHeadWrite hopen hq]
    refine ⟨fun hahead => ?_, fun hin hfree => ?_, fun t hin hblocked hfull => ?_, fun t hin hblocked hroom => ?_⟩
    · rw [if_pos hahead]
    · rw [if_neg (by omega)]
      simp only [hfree, ite_self]
    · rw [if_neg (by omega), if_pos hfull]
    · rw [if_neg (by omega), if_neg (by omega), hblocked]

/-! An entry fetched from its ring (R400, R409, R418, R419). -/

section Fetch
variable {s : State} {q : QId} {qu : Queue} {c : Nat} {x : Ctx} {r : RawEntry}

/-- What the queue engine does with the next entry of a context's queue, where the queue is open and a completion slot free. -/
theorem exec_entryFetch_of_ready (hq : s.queues.get (qKey q) = some qu) (hst : qu.st = .active) (hctx : qu.ctx = some c) (hx : s.ctxs.get c = some x)
    (hdraining : x.st ≠ .draining) (hrestoring : x.restoring = false) (hfenced : s.fencedCtx x = false) (hready : qu.ready ≠ 0)
    (hslots : s.slotsUsed (qKey q) qu < qu.cqSize) (hr : readEntry (s.readyBytes qu 5) = some r) :
    exec (.entryFetch q) s = .next (
      if s.ringRails qu = false then s.devFault .parity none
      else if s.entryLines qu r.span = false then s.ctxFault c .integrity none
      else if isControl r.cmd = true ∧ 256 ≤ s.ringDepth then s
      else ((s.setQueue (qKey q) (qu.take r)).takeEntry (qKey q) qu.head (qu.stamp qu.head) qu r).tallyFull) := by
  change execEntryFetch q s = _
  have hopen : (x.st != .draining && !x.restoring && !s.fencedCtx x) = true := by simp [hdraining, hrestoring, hfenced]
  have hroom : ¬ qu.cqSize ≤ s.slotsUsed (qKey q) qu := by omega
  simp only [execEntryFetch, hq, hst, hctx, hx, hopen, hready, hr, hroom, BEq.rfl, Bool.and_self, Bool.not_true, Bool.false_or, decide_false, if_false,
    Bool.false_eq_true]
  cases hrails : s.ringRails qu
  · simp
  · cases hlines : s.entryLines qu r.span
    · simp
    · simp
      split <;> rfl

section Taken
variable {s : State} {qk sub t : Nat} {qu : Queue} {c : Nat} {x : Ctx} {r : RawEntry} (hctx : qu.ctx = some c) (hx : s.ctxs.get c = some x)
include hctx hx

theorem State.takeEntry_of_deviceFault (hdev : s.dev.fault.isSome = true) :
    s.takeEntry qk sub t qu r = s.complete qk sub (Done.of .contextLost .device) := by
  simp only [State.takeEntry, hctx, hx, hdev, if_true]

theorem State.takeEntry_of_lost (hdev : s.dev.fault = none) (hst : x.st = .lost) :
    s.takeEntry qk sub t qu r = s.complete qk sub (Done.of .contextLost .context) := by
  simp [State.takeEntry, hctx, hx, hdev, hst]

theorem State.takeEntry_of_badWords (hdev : s.dev.fault = none) (hst : x.st = .active) (hrails : x.part.all s.partRails = false) :
    s.takeEntry qk sub t qu r = s.faultAt qk sub .parity .partition := by
  simp [State.takeEntry, hctx, hx, hdev, hst, hrails]

theorem State.takeEntry_of_feature (hdev : s.dev.fault = none) (hst : x.st = .active) (hrails : x.part.all s.partRails = true)
    (h : s.agreement (qFn qk) = false ∨ (r.cmd ≠ .bad ∧ queueKind r.cmd = .ctx ∧ s.featureOk (qFn qk) r.cmd = false)) :
    s.takeEntry qk sub t qu r = s.complete qk sub (Done.req .feature) := by
  rcases h with h | ⟨hbad, hkind, hfeat⟩
  · simp [State.takeEntry, hctx, hx, hdev, hst, hrails, h]
  · simp [State.takeEntry, hctx, hx, hdev, hst, hrails, hbad, hkind, hfeat]

/-- An entry that passes what stands before its own checks is judged by them. -/
theorem State.takeEntry_of_served (hdev : s.dev.fault = none) (hst : x.st = .active) (hrails : x.part.all s.partRails = true)
    (hagreed : s.agreement (qFn qk) = true) (hfeat : r.cmd = .bad ∨ queueKind r.cmd ≠ .ctx ∨ s.featureOk (qFn qk) r.cmd = true) :
    s.takeEntry qk sub t qu r = match govern (s.fetchFails qu c t x.part r.cmd) with
      | some st => (s.bumpFn (qFn qk) hqFetchFault 1).ctxFault c st (some (qk, sub))
      | none => s := by
  have hno : (r.cmd != .bad && queueKind r.cmd == .ctx && !s.featureOk (qFn qk) r.cmd) = false := by
    rcases hfeat with h | h | h <;> simp [h]
  simp only [State.takeEntry, hctx, hx, hdev, hst, hrails, hagreed, hno]
  simp <;> rfl

end Taken

/-- Settles O5. -/
theorem entryFetchAdmits : Obligations.EntryFetchAdmits := by
  intro s q qu c x r hq hst hctx hx hdraining hrestoring hfenced hready hslots hr
  rw [exec_entryFetch_of_ready hq hst hctx hx hdraining hrestoring hfenced hready hslots hr]
  refine ⟨fun hrails => by rw [if_pos hrails], fun hrails hlines => by rw [if_neg (by simp [hrails]), if_pos hlines], fun hrails hlines hring => ?_⟩
  rw [if_neg (by simp [hrails]), if_neg (by simp [hlines]), if_neg (hring.elim (fun h => by simp [h]) (fun h => by omega))]
  have hx' : (s.setQueue (qKey q) (qu.take r)).ctxs.get c = some x := hx
  refine ⟨fun hdev => ?_, fun hdev hlost => ?_, fun hdev hact hwords => ?_, fun hdev hact hwords hfeat => ?_, fun hdev hact hwords hagreed hfeat => ?_⟩
  · rw [State.takeEntry_of_deviceFault hctx hx' hdev]
  · rw [State.takeEntry_of_lost hctx hx' hdev hlost]
  · rw [State.takeEntry_of_badWords hctx hx' hdev hact hwords]
  · rw [State.takeEntry_of_feature hctx hx' hdev hact hwords hfeat]
  · rw [State.takeEntry_of_served hctx hx' hdev hact hwords hagreed hfeat, State.fetchFails]
    refine ⟨fun st hfirst hgov => ?_, fun hfirst hgov => ?_, fun hfirst => ?_⟩
    · simp [hfirst, hgov]
    · simp [hfirst, hgov]
    · simp [hfirst, govern]

end Fetch

end Sys2Proof.Machine
end

section
/-! ### Commands of a context queue (R180, R181, R213, R218 to R225, R254, R285, R304, R372, R403, R404, R483, R509)

One lemma for each way a command of a context queue acts in its turn; O7, O9, O10 and O12 put together from them. -/

namespace Sys2Proof.Machine

section Turn
variable {s : State} {q : QId} {e : Entry} {c : Nat} {x : Ctx} {p : Nat}

theorem queuePart_of_hostTurn {cmd : HostCmd} (h : HostTurn s q cmd e c x) : s.queuePart (qKey q) = x.part := by
  obtain ⟨qu, hq, -, -, -, -, hctx, hx⟩ := h
  simp only [State.queuePart, hq, State.ctxPart, hctx, hx]

theorem imgSlot_started (n p slot : Nat) : (s.started q n).imgSlot p slot = s.imgSlot p slot := by
  rw [State.imgSlot, State.part, started_parts]
  rfl

theorem key_started (n k : Nat) : (s.started q n).key k = s.key k := by rw [State.key, started_keys]; rfl

/-! COPY and FILL (R254, R404, R483). -/

theorem exec_fill_of_turn {a : FillArgs} (h : HostTurn s q (.fill a) e c x) : exec (.fill q a) s =
    .next (((s.started q e.sub).startWork (mkWork (qKey q) e (some c) x.part (.fill a) (pageChunks a.off.toNat a.len.toNat) s.ts 0)).2.settleTransfer
      (s.started q e.sub).workId) := by
  refine (whenCtx_of_turn h _).trans ?_
  rw [started_ts]
  rfl

/-- A COPY that does not go to the host. -/
theorem exec_copy_inward {a : CopyArgs} (h : HostTurn s q (.copy a) e c x) (hdst : a.dst ≠ 0xFFFFFFFF) : exec (.copy q a) s =
    .next (((s.started q e.sub).startWork (mkWork (qKey q) e (some c) x.part (.copy a) (copyChunks a) s.ts (s.key a.wrap.toNat).outCount)).2.settleTransfer
      (s.started q e.sub).workId) := by
  refine (whenCtx_of_turn h _).trans ?_
  have hout : (a.dst == 0xFFFFFFFF) = false := by simpa using hdst
  simp only [hout, Bool.false_and, Bool.false_eq_true, if_false, key_started, started_ts]
  rfl

theorem exec_copy_outward {a : CopyArgs} (h : HostTurn s q (.copy a) e c x) (hdst : a.dst = 0xFFFFFFFF) (hcount : (s.key a.wrap.toNat).outCount < 2 ^ 24) :
    exec (.copy q a) s =
      .next ((((s.started q e.sub).setKey a.wrap.toNat { s.key a.wrap.toNat with outCount := (s.key a.wrap.toNat).outCount + 1 }).startWork
        (mkWork (qKey q) e (some c) x.part (.copy a) (copyChunks a) s.ts (s.key a.wrap.toNat).outCount)).2.settleTransfer (s.started q e.sub).workId) := by
  refine (whenCtx_of_turn h _).trans ?_
  have hout : (a.dst == 0xFFFFFFFF) = true := by simpa using hdst
  have hlow : ¬ 2 ^ 24 ≤ (s.key a.wrap.toNat).outCount := by omega
  simp only [hout, hlow, Bool.true_and, decide_false, Bool.false_eq_true, if_false, if_true, key_started, State.setKey_ts, started_ts]
  rfl

theorem exec_copy_exhausted {a : CopyArgs} (h : HostTurn s q (.copy a) e c x) (hdst : a.dst = 0xFFFFFFFF) (hcount : 2 ^ 24 ≤ (s.key a.wrap.toNat).outCount) :
    exec (.copy q a) s = .next ((s.started q e.sub).complete (qKey q) e.sub (Done.req .key)) := by
  refine (whenCtx_of_turn h _).trans ?_
  have hout : (a.dst == 0xFFFFFFFF) = true := by simpa using hdst
  simp only [hout, hcount, Bool.true_and, decide_true, if_true, key_started]

end Turn

/-- Settles O7. -/
theorem transfersStart : Obligations.TransfersStart := fun _ _ _ _ _ =>
  ⟨fun _ h => exec_fill_of_turn h, fun _ h => exec_copy_inward h, fun _ h => exec_copy_outward h, fun _ h => exec_copy_exhausted h⟩

section Turn
variable {s s1 : State} {q : QId} {e : Entry} {c : Nat} {x : Ctx} {p : Nat} (hs1 : s1 = s.started q e.sub) (hpart : x.part = some p)
include hs1 hpart

/-! Image slots (R180, R181, R403). -/

theorem exec_loadImage_of_fits {a : LoadArgs} {key : Nat} {o : Obj} (h : HostTurn s q (.loadImage a) e c x)
    (hown : s1.ownObj c e.ts a.handle = some (key, o)) (hslot : a.slot.toNat < 64) (hempty : s1.imgSlot p a.slot.toNat = none)
    (hfits : s1.containerFits key a.off.toNat 128 = true) {id : Nat} {s2 : State}
    (hwork : (({ s1 with free := s1.free + 1 } : State).setPart p
          { s1.part p with slots := (s1.part p).slots.set a.slot.toNat ⟨.loading, c, s1.free, none, [], 0, 0, [], 0⟩ }).startWork
        (mkWork (qKey q) e (some c) x.part (.loadImage a a.slot.toNat) (pageChunks a.off.toNat 128) s1.ts 0) = (id, s2)) :
    exec (.loadImage q a) s = .next (s2.readBody id) := by
  refine (whenCtx_of_turn h _).trans ?_
  rw [← hs1]
  have hlow : ¬ 64 ≤ a.slot.toNat := by omega
  rw [hpart] at hwork
  simp only [hpart, hown, hlow, hempty, hfits, Option.isSome_none, decide_false, Bool.or_self, Bool.not_true, Bool.false_eq_true, if_false]
  rw [show s2 = (id, s2).2 from rfl, ← hwork]
  exact congrArg _ (congrArg _ (congrArg Prod.fst hwork))

theorem exec_unloadImage_of_loaded {slot : U8} {y : ImgSlot} (h : HostTurn s q (.unloadImage slot) e c x) (hy : s.imgSlot p slot.toNat = some y)
    (howner : y.owner = c) (hst : y.st = .loaded) : exec (.unloadImage q slot) s = .next (
      if s1.slotRunBefore c s1.ts slot.toNat then
        (s1.setPart p { s1.part p with slots := (s1.part p).slots.set slot.toNat { y with st := .draining, unloadTs := s1.ts } }).complete (qKey q) e.sub (Done.okay 0 0)
      else (s1.emptySlot p slot.toNat).complete (qKey q) e.sub (Done.okay 0 0)) := by
  change execUnloadImage q slot s = _
  have hpq : s.queuePart (qKey q) = some p := (queuePart_of_hostTurn h).trans hpart
  have hy1 : s1.imgSlot p slot.toNat = some y := hs1 ▸ (imgSlot_started ..).trans hy
  have hbeq : (SlotSt.loaded == SlotSt.loading) = false := rfl
  simp only [execUnloadImage, hpq, hy, hst, hbeq, Bool.false_eq_true, if_false]
  refine (whenCtx_of_turn h _).trans ?_
  rw [← hs1]
  simp only [hpart, hy1, howner, hst, bne_self_eq_false, Bool.or_self, Bool.false_eq_true, if_false]

theorem exec_run_of_passes {a : RunArgs} {pick : Nat} {y : ImgSlot} {r : Run} (h : HostTurn s q (.run a) e c x)
    (hgov : govern (s1.runFails c e.ts p a) = none) (hy : s1.imgSlot p a.imageSlot.toNat = some y)
    (hr : r = ⟨qKey q, e.sub, c, p, a.imageSlot.toNat, y.load, a.strict, a.stream.toNat, a.slots, .queued, none, [], x.seed, 0, s1.ts, s1.ts,
      [], [], [], [], [], 0, [], [], none, none, 0, 0, [], []⟩) :
    exec (.run q a pick) s = .next (({ s1 with runs := s1.runs.set (s1.runs.pickAny pick) r } : State).wakeAll (s1.cmdDomains c (.run a))) := by
  refine (whenCtx_of_turn h _).trans ?_
  rw [← hs1]
  simp only [hpart, hgov, hy, hr]

end Turn

/-- Settles O9. -/
theorem imageCommands : Obligations.ImageCommands := by
  intro s s1 q e c x p hs1 hpart
  refine ⟨fun a key o id s2 h hown hslot hempty hfits hwork => exec_loadImage_of_fits hs1 hpart h hown hslot hempty hfits hwork, fun slot y h hy howner hst => ?_,
    fun a pick y r h hgov hy hr => exec_run_of_passes hs1 hpart h hgov hy hr⟩
  rw [exec_unloadImage_of_loaded hs1 hpart h hy howner hst]
  exact ⟨fun hrun => by rw [if_pos hrun], fun hrun => by simp [hrun]⟩

section Adapters
variable {s s1 : State} {q : QId} {e : Entry} {c : Nat} {x : Ctx} {p : Nat} (hs1 : s1 = s.started q e.sub) (hpart : x.part = some p)

/-! Adapters (R213, R218 to R222, R225). -/

/-- A registry slot that holds an entry of the partition is used. -/
theorem State.withReg_of_regOf {p c qk sub slot : Nat} {r : RegEntry} (h : s.regOf p slot r) (f : RegEntry → State) : s.withReg p c qk sub slot f = f r := by
  obtain ⟨hget, hrail, hst, howner⟩ := h
  simp only [State.withReg, hget, hrail, hst, howner, Bool.not_true, Bool.false_eq_true, bne_self_eq_false, if_false]

include hs1 in
theorem exec_publish_of_own {a : PublishArgs} {key : Nat} {o : Obj} (h : HostTurn s q (.publish a) e c x) (hpart : x.part = some p)
    (hown : s1.ownObj c e.ts a.handle = some (key, o)) {id : Nat} {s2 : State}
    (hwork : s1.startWork (mkWork (qKey q) e (some c) x.part (.publish key a.keySlot.toNat none) (pageChunks 0 o.bytes) s1.ts 0) = (id, s2)) :
    (s2.workBusy id = true → exec (.publish q a) s = .next s2) ∧
    (∀ w, s2.workBusy id = false → s2.works.get id = some w → exec (.publish q a) s = .next (s2.publishRead id w key a.keySlot.toNat)) := by
  rw [hpart] at hwork
  refine ⟨fun hbusy => (whenCtx_of_turn h _).trans ?_, fun w hbusy hw => (whenCtx_of_turn h _).trans ?_⟩
  · rw [← hs1]
    simp only [hown, hpart, hwork, hbusy]
  · rw [← hs1]
    simp only [hown, hpart, hwork, hbusy, hw]

include hs1 hpart

/-- What a serve-form PIN of a served adapter in the cache does. -/
theorem exec_pinAdapter_of_served {a : PinArgs} {r : RegEntry} {i : Nat} {en : CacheEntry} (h : HostTurn s q (.pinAdapter a) e c x) (hform : a.form = 0)
    (hreg : s1.regOf p a.slot.toNat r) (hst : r.regState = regPublished) (hserve : serveOk r.carry r.allowDrifted = true)
    (hentry : s1.entryOf a.slot.toNat = some (i, en)) (htotal : en.total < 65535) :
    (en.st = .resident → exec (.pinAdapter q a) s =
      .next (((s1.setCache i (en.pin c)).bumpPart p cAdHits 1).complete (qKey q) e.sub (Done.okay a.slot.toNat 0))) ∧
    (en.st = .loading → exec (.pinAdapter q a) s = .next (s1.setCache i { en.pin c with waiters := en.waiters ++ [(qKey q, e.sub, c)] })) := by
  have hrev : ¬ r.regState = regRevoked := by rw [hst]; decide
  have hlow : ¬ 65535 ≤ en.total := by omega
  constructor <;> intro hen <;> refine (whenCtx_of_turn h _).trans ?_ <;> rw [← hs1] <;>
    simp only [hpart, hform, if_true, State.pinServe, State.withReg_of_regOf hreg, hrev, if_false, hserve, Bool.not_true, Bool.false_eq_true, hentry, hen, hlow]

theorem exec_unpinAdapter_of_pinned {slot : U16} {r : RegEntry} {i : Nat} {en : CacheEntry} (h : HostTurn s q (.unpinAdapter slot) e c x)
    (hreg : s1.regOf p slot.toNat r) (hst : r.regState ≠ regRevoked) (hentry : s1.entryOf slot.toNat = some (i, en)) (hvoid : en.st ≠ .void)
    (hpins : en.pins.getD c 0 ≠ 0) :
    exec (.unpinAdapter q slot) s = .next (((s1.setCache i (en.unpin c)).afterUnpin i).complete (qKey q) e.sub (Done.okay 0 0)) := by
  have hvoid' : (en.st == .void) = false := by simpa using hvoid
  refine (whenCtx_of_turn h _).trans ?_
  rw [← hs1]
  simp only [hpart, State.withReg_of_regOf hreg, hst, hentry, hvoid', hpins, if_false, Bool.false_eq_true]

/-- EVICT of a resident adapter waits while it is in use. -/
theorem exec_evictAdapter_of_resident {slot : U16} {r : RegEntry} {i : Nat} {en : CacheEntry} (h : HostTurn s q (.evictAdapter slot) e c x)
    (hreg : s1.regOf p slot.toNat r) (hst : r.regState = regPublished) (hentry : s1.entryOf slot.toNat = some (i, en)) (hen : en.st = .resident) :
    (en.total ≠ 0 → exec (.evictAdapter q slot) s =
      .next (((s1.setCache i { en with evict := true, byCommand := true }).bumpPart p cAdDefer (b2n (!en.evict))).complete (qKey q) e.sub (Done.okay 0 0))) ∧
    (en.total = 0 → exec (.evictAdapter q slot) s = .next (((s1.wipeEntry i).bumpPart p cAdEvict 1).complete (qKey q) e.sub (Done.okay 0 0))) := by
  have hvoid : (CacheSt.resident == .void) = false := rfl
  have hloading : (CacheSt.resident == .loading) = false := rfl
  have hexec {b : Bool} (hb : (en.total != 0) = b) : exec (.evictAdapter q slot) s = .next (if b then
        ((s1.setCache i { en with evict := true, byCommand := true }).bumpPart p cAdDefer (b2n (!en.evict))).complete (qKey q) e.sub (Done.okay 0 0)
      else ((s1.wipeEntry i).bumpPart p cAdEvict 1).complete (qKey q) e.sub (Done.okay 0 0)) := by
    refine (whenCtx_of_turn h _).trans ?_
    rw [← hs1]
    simp only [hpart, State.withReg_of_regOf hreg, hst, hentry, hen, hvoid, hloading, hb, bne_self_eq_false, Bool.or_false, Bool.false_eq_true, if_false]
  exact ⟨fun hused => hexec (bne_iff_ne.mpr hused), fun hfree => hexec (bne_eq_false_iff_eq.mpr hfree)⟩

end Adapters

/-- Settles O10. -/
theorem adapterCommands : Obligations.AdapterCommands := by
  intro s s1 q e c x p hs1 hpart
  refine ⟨fun a key o id s2 h hown hwork => exec_publish_of_own hs1 h hpart hown hwork,
    fun a r i en h hform hreg hst hserve hentry htotal => exec_pinAdapter_of_served hs1 hpart h hform hreg hst hserve hentry htotal,
    fun slot r i en h hreg hst hentry hvoid hpins => exec_unpinAdapter_of_pinned hs1 hpart h hreg hst hentry hvoid hpins,
    fun slot r i en h hreg hst hentry hen => exec_evictAdapter_of_resident hs1 hpart h hreg hst hentry hen⟩

section Sweeps
variable {s s1 : State} {q : QId} {e : Entry} {c : Nat} {x : Ctx} {p : Nat} (hs1 : s1 = s.started q e.sub)

/-! REKEY, SNAPSHOT, RECIPE_LOAD and GROUP_JOIN (R285, R304, R372, R509). -/

/-- The bytes of a readable range are handed on. -/
theorem State.withBytes_of_readable {qk sub c key off len : Nat} (h : s.readable key off len) (f : Bytes → State → State) :
    s.withBytes qk sub c key off len f = f (s.objRead key off len) s := by
  obtain ⟨o, ho, hlen, hkey, hverdict, hbad⟩ := h
  have hin : ¬ o.bytes < off + len := by omega
  simp only [State.withBytes, ho, hin, if_false, hkey, Bool.not_true, Bool.false_eq_true, hbad, bne_self_eq_false]

include hs1

theorem exec_rekey_of_new {k : U16} (h : HostTurn s q (.rekey k) e c x) (hwaits : s.rekeyWaits x.part k.toNat = false)
    (hok : s1.rekeyOk x.part k.toNat = true) (hsweep : s1.sweepOf k.toNat = none) {id : Nat} {s2 : State}
    (hwork : (({ s1 with free := s1.free + 1 } : State).setKey k.toNat { s1.key k.toNat with next := some (Config.trng s1.free) }).startWork
        (mkWork (qKey q) e (some c) x.part (.rekey k.toNat) [] s1.ts 0) = (id, s2)) :
    exec (.rekey q k) s = .next ((s2.onward (s2.shroud.sweeps.lowestFree 8 0) ⟨1, false, k.toNat, 0, 0, id, [], none⟩).lockNext (s2.shroud.sweeps.lowestFree 8 0)) := by
  change execRekey q k s = _
  simp only [execRekey, queuePart_of_hostTurn h, hwaits, Bool.false_eq_true, if_false]
  refine (whenCtx_of_turn h _).trans ?_
  rw [← hs1]
  simp only [hok, hsweep, Bool.not_true, Bool.false_eq_true, if_false]
  obtain ⟨rfl, rfl⟩ := Prod.mk.inj hwork
  rfl

theorem exec_snapshot_of_partition (h : HostTurn s q .snapshot e c x) (hpart : x.part = some p) :
    exec (.snapshot q) s = .next (if (s1.net p).running.isSome then s1.complete (qKey q) e.sub (Done.req .bounds)
      else s1.startSnap p (some (qKey q, e.sub)) none) := by
  refine (whenCtx_of_turn h _).trans ?_
  rw [← hs1]
  simp only [hpart]

theorem exec_recipeLoad_of_readable {a : RecipeArgs} {key : Nat} {o : Obj} {r : Recipe} (h : HostTurn s q (.recipeLoad a) e c x) (hpart : x.part = some p)
    (hown : s1.ownObj c e.ts a.handle = some (key, o)) (hlow : 4 ≤ a.entry.toNat) (hhigh : a.entry.toNat < 16) (hfree : s1.recipeUsed p a.entry.toNat = false)
    (hread : s1.readable key a.off.toNat 512) (hr : readRecipe (s1.objRead key a.off.toNat 512) = some r) :
    exec (.recipeLoad q a) s = .next (({ s1 with recipes := s1.recipes.set (16 * p + a.entry.toNat) r } : State).complete (qKey q) e.sub (Done.okay 0 0)) := by
  refine (whenCtx_of_turn h _).trans ?_
  rw [← hs1]
  have h16 : ¬ 16 ≤ a.entry.toNat := by omega
  have h4 : ¬ a.entry.toNat < 4 := by omega
  simp only [hpart, hown, h16, h4, hfree, decide_false, Bool.or_self, Bool.false_eq_true, if_false, State.withBytes_of_readable hread, hr]

theorem exec_groupJoin_of_joins {a : JoinArgs} {s2 : State} (h : HostTurn s q (.groupJoin a) e c x) (hpart : x.part = some p)
    (hjoin : s1.tryJoin p a.group.toNat a.member.toNat a.generation.toNat a.owner.toNat (leBytes 16 a.digest.toNat) = .ok s2) :
    exec (.groupJoin q a) s = .next (s2.complete (qKey q) e.sub (Done.okay 0 0)) := by
  refine (whenCtx_of_turn h _).trans ?_
  rw [← hs1]
  simp only [hpart, hjoin]

end Sweeps

/-- Settles O12. -/
theorem rekeySnapshotRecipeJoin : Obligations.RekeySnapshotRecipeJoin := by
  intro s s1 q e c x p hs1 hpart
  refine ⟨fun k h hwaits hok hsweep => ⟨_, _, rfl, exec_rekey_of_new hs1 h (hpart ▸ hwaits) hok hsweep rfl⟩, fun h => ?snapshot,
    fun a key o r h hown hlow hhigh hfree hread hr => exec_recipeLoad_of_readable hs1 h hpart hown hlow hhigh hfree hread hr,
    fun a s2 h hjoin => exec_groupJoin_of_joins hs1 h hpart hjoin⟩
  case snapshot =>
    rw [exec_snapshot_of_partition hs1 h hpart]
    exact ⟨fun hnone => by rw [if_neg (by simp [hnone])], fun hsome => by rw [if_pos (by simpa [Option.isSome_iff_ne_none] using hsome)]⟩

end Sys2Proof.Machine
end

section
/-! ### Admin commands and the operator's tables (R354, R355, R366 to R370, R395 to R397, R408, R420 to R422)

One lemma for each admin command in its turn, and O14 put together from them. -/

namespace Sys2Proof.Machine

section Admin
variable {s s1 : State} {q : QId} {e : Entry} (hs1 : s1 = s.started q e.sub)
include hs1

/-! Contexts, queues and aborts (R395 to R397, R408, R420 to R422). -/

theorem exec_contextCreate_of_ring {a : CtxArgs} {pick : Nat} {p : Option Nat} {k b c : Nat} {s2 : State} (h : AdminTurn s q (.contextCreate a) e)
    (hp : p = if q.fn.val = 0 then (if a.part = 0xFF then none else some a.part.toNat) else fnPart q.fn.val)
    (hgov : govern (s1.ctxCreateFails p a) = none) (hring : s1.newRing q.fn.val p (32 * 2 ^ a.evLog2.toNat) = some (k, b, s2))
    (hc : s1.ctxs.pickFree 1024 pick = some c) :
    exec (.contextCreate q a pick) s = .next ((({ s2 with free := s2.free + 1 } : State).setCtx c
      ⟨.active, q.fn.val, p, (Config.trng s2.free).setWidth 64, a.evLog2.toNat, k, b, 0, false, false⟩).complete (qKey q) e.sub (Done.okay c b)) := by
  refine (whenAdmin_of_turn h _).trans ?_
  rw [← hs1]
  simp only [← hp, hgov, hring, hc, State.fresh]

theorem exec_queueCreate_of_ring {a : QueueArgs} {pick : Nat} {x : Ctx} {k b : Nat} {s2 : State} (h : AdminTurn s q (.queueCreate a) e)
    (hsq : 6 ≤ a.sqLog2.toNat ∧ a.sqLog2.toNat ≤ 16) (hcq : 6 ≤ a.cqLog2.toNat ∧ a.cqLog2.toNat ≤ 16) (hx : s1.adminCtx q.fn.val a.ctx.toNat = some x)
    (hst : x.st ≠ .draining) (hmine : (s1.ctxQueues a.ctx.toNat).length < 64)
    (hall : (s1.queues.filter (fun (y : Nat × Queue) => y.2.ctx.isSome)).length < 4096)
    (hring : s1.newRing x.fn x.part (128 * 2 ^ a.sqLog2.toNat + 32 * 2 ^ a.cqLog2.toNat) = some (k, b, s2)) :
    exec (.queueCreate q a pick) s = .next ((s2.setQueue (x.fn * 65536 + s2.queueIndex x.fn pick)
      ⟨some a.ctx.toNat, a.sqLog2.toNat, a.cqLog2.toNat, k, b, 0, 0, [], 0, 0, .active, 0, [], none⟩).complete (qKey q) e.sub
        (Done.okay (s2.queueIndex x.fn pick) b)) := by
  refine (whenAdmin_of_turn h _).trans ?_
  rw [← hs1]
  have hst' : (x.st == .draining) = false := by simpa using hst
  have hmine' : ¬ 64 ≤ (s1.ctxQueues a.ctx.toNat).length := by omega
  have hall' : ¬ 4096 ≤ (s1.queues.filter (fun (y : Nat × Queue) => y.2.ctx.isSome)).length := by omega
  simp [hsq, hcq, hx, hst', hmine', hall', hring, failIf, govern]

theorem exec_queueAbort_of_active {a : QueueRef} {k : Nat} {x : Ctx} (h : AdminTurn s q (.queueAbort a) e) (hx : s1.namedQueue q.fn.val a = some (k, x))
    (hst : x.st = .active) : exec (.queueAbort q a) s = .next ((s1.abortQueue k .aborted .request).complete (qKey q) e.sub (Done.okay 0 0)) := by
  refine (whenAdmin_of_turn h _).trans ?_
  rw [← hs1]
  simp [hx, hst]

theorem exec_queueDestroy_of_active {a : QueueRef} {k : Nat} {x : Ctx} (h : AdminTurn s q (.queueDestroy a) e) (hx : s1.namedQueue q.fn.val a = some (k, x))
    (hst : x.st = .active) :
    exec (.queueDestroy q a) s = .next (((s1.abortQueue k .aborted .request).dropQueue k).complete (qKey q) e.sub (Done.okay 0 0)) := by
  refine (whenAdmin_of_turn h _).trans ?_
  rw [← hs1]
  simp [hx, hst]

theorem exec_contextDestroy_of_adminCtx {c : U16} {x : Ctx} (h : AdminTurn s q (.contextDestroy c) e) (hx : s1.adminCtx q.fn.val c.toNat = some x) :
    exec (.contextDestroy q c) s = .next ((s1.destroyCtx c.toNat).complete (qKey q) e.sub (Done.okay 0 0)) := by
  refine (whenAdmin_of_turn h _).trans ?_
  rw [← hs1]
  simp only [hx]

theorem exec_partitionAbort_of_own {p : U8} (h : AdminTurn s q (.partitionAbort p) e) (hp : p.toNat < 16)
    (hown : q.fn.val = 0 ∨ fnPart q.fn.val = some p.toNat) :
    exec (.partitionAbort q p) s = .next ((s1.abortPartition p.toNat .aborted).complete (qKey q) e.sub (Done.okay 0 0)) := by
  refine (whenAdmin_of_turn h _).trans ?_
  rw [← hs1]
  have hlow : ¬ 16 ≤ p.toNat := by omega
  have hnot : (q.fn.val != 0 && fnPart q.fn.val != some p.toNat) = false := by
    rcases hown with hown | hown <;> simp [hown]
  simp only [hlow, hnot, Bool.false_eq_true, if_false]

end Admin

section Tables
variable {s s1 : State} {q : QId} {e : Entry} {a : TableArgs} {key : Nat} (hs1 : s1 = s.started q e.sub)

/-! Tables in an object of the operator (R354, R355, R366 to R370). -/

/-- The bytes of a table that can be read are handed on. -/
theorem State.withTable_of_tableAt {qk sub len : Nat} (h : s.tableAt a key len) (f : Bytes → State → State) :
    s.withTable qk sub a len f = f (s.objRead key a.off.toNat len) s := by
  obtain ⟨⟨o, ho, hpart, hlen, hverdict⟩, hkey, hbad⟩ := h
  have hin : ¬ o.bytes < a.off.toNat + len := by omega
  simp only [State.withTable, ho, hpart, Option.isSome_none, Bool.false_eq_true, hin, if_false, hkey, Bool.not_true, hbad, bne_self_eq_false]

include hs1

theorem exec_troupeSet_of_tableAt (h : AdminTurn s q (.troupeSet a) e) (htable : s1.tableAt a key tableBytes) :
    exec (.troupeSet q a) s = .next (if troupeOk (s1.objRead key a.off.toNat tableBytes) then
        (s1.installTroupe (s1.objRead key a.off.toNat tableBytes)).complete (qKey q) e.sub (Done.okay 0 0)
      else s1.complete (qKey q) e.sub (Done.req .malformed)) := by
  refine (whenAdmin_of_turn h _).trans ?_
  rw [← hs1, State.withTable_of_tableAt htable]

theorem exec_groupSet_of_tableAt {b : Bytes} (h : AdminTurn s q (.groupSet a) e) (htable : s1.tableAt a key entryBytes)
    (hb : b = s1.objRead key a.off.toNat entryBytes) :
    exec (.groupSet q a) s = .next (if s1.entryOk b (s1.lastGen (fieldLE b 0 1)) then (s1.installGroup b).complete (qKey q) e.sub (Done.okay 0 0)
      else s1.complete (qKey q) e.sub (Done.req .malformed)) := by
  refine (whenAdmin_of_turn h _).trans ?_
  rw [← hs1, State.withTable_of_tableAt htable, ← hb]

theorem exec_groupClear_of_unclean (h : AdminTurn s q (.groupClear a) e) (htable : s1.tableAt a key entryBytes)
    (hclean : entryClean (s1.objRead key a.off.toNat entryBytes) = false) :
    exec (.groupClear q a) s = .next (s1.complete (qKey q) e.sub (Done.req .malformed)) := by
  refine (whenAdmin_of_turn h _).trans ?_
  rw [← hs1, State.withTable_of_tableAt htable, hclean]
  rfl

theorem exec_groupClear_of_clean {g : Nat} (h : AdminTurn s q (.groupClear a) e) (htable : s1.tableAt a key entryBytes)
    (hclean : entryClean (s1.objRead key a.off.toNat entryBytes) = true) (hg : g = fieldLE (s1.objRead key a.off.toNat entryBytes) 0 1)
    (hhas : (s1.abortGroup g .other).groups.has g = true) :
    exec (.groupClear q a) s = .next (((s1.abortGroup g .other).setGroup g { Group.reset with gen := ((s1.abortGroup g .other).group g).gen }).complete
      (qKey q) e.sub (Done.okay 0 0)) := by
  refine (whenAdmin_of_turn h _).trans ?_
  rw [← hs1, State.withTable_of_tableAt htable]
  simp only [hclean, ← hg, hhas, Bool.not_true, Bool.false_eq_true, if_false, if_true]

end Tables

/-- Settles O14. -/
theorem adminAndTables : Obligations.AdminAndTables := by
  refine ⟨fun s s1 q e hs1 => ⟨?_, ?_, ?_, ?_, ?_, ?_⟩, fun s s1 q e a key hs1 => ⟨?troupe, ?group, ?_, ?_⟩⟩
  · exact fun a pick p k b s2 c h hp hgov hring hc => exec_contextCreate_of_ring hs1 h hp hgov hring hc
  · exact fun a pick x k b s2 h h6 h16 h6' h16' hx hst hmine hall hring => exec_queueCreate_of_ring hs1 h ⟨h6, h16⟩ ⟨h6', h16'⟩ hx hst hmine hall hring
  · exact fun a k x h hx hst => exec_queueAbort_of_active hs1 h hx hst
  · exact fun a k x h hx hst => exec_queueDestroy_of_active hs1 h hx hst
  · exact fun c x h hx => exec_contextDestroy_of_adminCtx hs1 h hx
  · exact fun p h hp hown => exec_partitionAbort_of_own hs1 h hp hown
  case troupe =>
    intro h htable
    rw [exec_troupeSet_of_tableAt hs1 h htable]
    exact ⟨fun hok => by rw [if_pos hok], fun hok => by rw [if_neg (by simp [hok])]⟩
  case group =>
    intro b h htable hb
    rw [exec_groupSet_of_tableAt hs1 h htable hb]
    exact ⟨fun hok => by rw [if_pos hok], fun hok => by rw [if_neg (by simp [hok])]⟩
  · exact fun h htable hclean => exec_groupClear_of_unclean hs1 h htable hclean
  · exact fun g h htable hclean hg hhas => exec_groupClear_of_clean hs1 h htable hclean hg hhas

end Sys2Proof.Machine
end

section
/-! ### The vector unit on a tile (R107 to R130, R142, R144, R191, R551)

What an instruction of the vector unit comes to in its turn, once for all of them, and the same of the stream instructions; what a port gives and
takes; O16, O17, O18 and O21 put together from them. -/

namespace Sys2Proof.Machine

/-! Issue (R114, R129, R551). -/

section Issue
variable {s : State} {t : Sys2Proof.Tile} {op : Nat} {w : Vx} {x : Site}

theorem TileTurn.parityOf {t w : Nat} (h : TileTurn s t w x) (u : Uses) : (s.tile t).parityOf u = false := by
  rw [Tile.parityOf, h.2]
  rfl

theorem runVx_of_trip {f : Site → Tile → VxRes} (h : s.pwr.trip = true) : runVx t op w f s = .next s := if_pos h

/-- A vector instruction in its turn, by its result on the tile. -/
theorem runVx_of_turn {f : Site → Tile → VxRes} (htrip : s.pwr.trip = false) (h : TileTurn s t.val (vxWord op w) x) : runVx t op w f s = .next (
    match f x (s.tile t.val) with
    | .ok tl fl => vxNext s t.val op w tl fl
    | .fault st => s.runFault x st) := by
  have hstop : ¬ s.issueStopped = true := by simp [State.issueStopped, htrip]
  rw [runVx, if_neg hstop, whenWord_of_turn h.1, h.parityOf]
  cases f x (s.tile t.val) <;> rfl

theorem runVx_of_ok {f : Site → Tile → VxRes} {tl : Tile} {fl : Flags} (htrip : s.pwr.trip = false) (h : TileTurn s t.val (vxWord op w) x)
    (hf : f x (s.tile t.val) = .ok tl fl) : runVx t op w f s = .next (vxNext s t.val op w tl fl) := by
  rw [runVx_of_turn htrip h, hf]

theorem runVx_of_fault {f : Site → Tile → VxRes} {st : Status} (htrip : s.pwr.trip = false) (h : TileTurn s t.val (vxWord op w) x)
    (hf : f x (s.tile t.val) = .fault st) : runVx t op w f s = .next (s.runFault x st) := by
  rw [runVx_of_turn htrip h, hf]

theorem runVx_of_parity {f : Site → Tile → VxRes} (htrip : s.pwr.trip = false) (h : TileHere s t.val (vxWord op w) x)
    (hpar : (s.tile t.val).parityOf (vxUses op w (s.tile t.val)) = true) : runVx t op w f s = .next (s.runFault x .parity) := by
  have hstop : ¬ s.issueStopped = true := by simp [State.issueStopped, htrip]
  rw [runVx, if_neg hstop, whenWord_of_turn h, if_pos hpar]
  rfl

theorem runStream_of_trip {bytes links : Site → Nat} {f : Site → Tile → State → Option State} (h : s.pwr.trip = true) :
    runStream t op w bytes links f s = .next s := if_pos h

/-- A stream instruction in its turn moves its beats, or stalls. -/
theorem runStream_of_turn {bytes links : Site → Nat} {f : Site → Tile → State → Option State} (htrip : s.pwr.trip = false)
    (h : TileTurn s t.val (vxWord op w) x) : runStream t op w bytes links f s = .next (
      (f x (s.tile t.val) s).elim (s.vxStall t.val) fun s2 => streamNext s s2 t.val op w (bytes x) (links x)) := by
  have hstop : ¬ s.issueStopped = true := by simp [State.issueStopped, htrip]
  rw [runStream, if_neg hstop, whenWord_of_turn h.1, h.parityOf]
  cases f x (s.tile t.val) s <;> rfl

end Issue

/-- Settles O16: every instruction of the family is a vector instruction in its turn. -/
theorem vectorArithmeticAndCompares : Obligations.VectorArithmeticAndCompares := by
  refine ⟨fun s t w x tl fl htrip => ?_, fun s t w x tl fl htrip => ?_⟩
  all_goals and_intros
  all_goals exact fun h hf => runVx_of_ok htrip h hf

section Vsync
variable {s : State} {t : Sys2Proof.Tile} {w : Vx} {x : Site}

/-- VSYNC goes on where no operation drains to tile memory (R128). -/
theorem exec_vsync_of_idle (htrip : s.pwr.trip = false) (h : TileTurn s t.val (vxWord 0x7F w) x)
    (hmxu : ∀ m, (s.tile t.val).mxu = some m → m.a.toMem = false) : exec (.vsync t w) s = .next (vxNext s t.val 0x7F w (s.tile t.val) 0) := by
  change execVsync t w s = _
  unfold execVsync
  rw [if_neg]
  · exact runVx_of_ok htrip h rfl
  · split
    next m hm => simp [hmxu m hm]
    · exact Bool.false_ne_true

theorem exec_vsync_of_draining {m : MxuOp} (htrip : s.pwr.trip = false) (h : TileTurn s t.val (vxWord 0x7F w) x) (hm : (s.tile t.val).mxu = some m)
    (hmem : m.a.toMem = true) : exec (.vsync t w) s = .next (s.bumpTile t.val cVxuBusy 1) := by
  change execVsync t w s = _
  have hstop : ¬ s.issueStopped = true := by simp [State.issueStopped, htrip]
  simp only [execVsync, hm, hmem, if_true]
  rw [if_neg hstop, whenWord_of_turn h.1]

end Vsync

/-- Settles O17: every instruction of the family but VSYNC is a vector instruction in its turn. -/
theorem vectorFunctionsAndMoves : Obligations.VectorFunctionsAndMoves := by
  refine ⟨fun s t w x tl fl htrip => ?functions, fun s t w x tl fl htrip => ⟨?_, ?_, ?_, ?_, ?_, ?_, ?_, ?_, ?_, ?_, ?_, ?_, ?_, ?_, ?vsync⟩⟩
  case vsync => exact fun h => ⟨exec_vsync_of_idle htrip h, fun m hm hmem => exec_vsync_of_draining htrip h hm hmem⟩
  case functions =>
    and_intros
    all_goals exact fun h hf => runVx_of_ok htrip h hf
  all_goals exact fun h hf => runVx_of_ok htrip h hf

/-! Tile memory and the residual region (R111, R123, R124). -/

section Memory
variable {ok : Site → Nat → Nat → Bool} {w : Vx} {x : Site} {t : Tile}

theorem vxLoad_of_allowed (h : ok x (t.memAddr w) 1024 = true) :
    vxLoad ok w x t = .ok (t.putActive w 32 w.vd.toNat ((lanesOf (t.mem.reads (t.memAddr w) 1024)).map BitVec.toNat)) 0 := by
  simp [vxLoad, h]

theorem vxLoad_of_refused (h : ok x (t.memAddr w) 1024 = false) : vxLoad ok w x t = .fault .bounds := by simp [vxLoad, h]

theorem vxStore_of_refused (h : ok x (t.memAddr w) 1024 = false) : vxStore ok w x t = .fault .bounds := by simp [vxStore, h]

end Memory

/-- Settles O18. -/
theorem vectorMemory : Obligations.VectorMemory := by
  intro s t w x htrip
  refine ⟨?_, ?_, ?_, ?_, ?_, ?_, ?_, ?_, ?_, ?_⟩
  · exact fun h hok => runVx_of_ok (f := vxLoad Site.memOk w) htrip h (vxLoad_of_allowed hok)
  · exact fun h hok => runVx_of_ok (f := vxLoad Site.resOk w) htrip h (vxLoad_of_allowed hok)
  · exact fun tl h hst => runVx_of_ok (f := vxStore Site.memOk w) htrip h hst
  · exact fun tl h hst => runVx_of_ok (f := vxStore Site.resOk w) htrip h hst
  · exact fun tl fl h hadd => runVx_of_ok htrip h hadd
  · exact fun h hno => runVx_of_fault (f := vxLoad Site.memOk w) htrip h (vxLoad_of_refused hno)
  · exact fun h hno => runVx_of_fault (f := vxStore Site.memOk w) htrip h (vxStore_of_refused hno)
  · exact fun h hno => runVx_of_fault (f := vxLoad Site.resOk w) htrip h (vxLoad_of_refused hno)
  · exact fun h hpar => runVx_of_parity (f := vxLoad Site.memOk w) htrip h hpar
  · exact fun h hpar => runVx_of_parity (f := vxStore Site.memOk w) htrip h hpar

/-! Beats that a consumer's receive buffers give (R135, R136, R144). -/

/-- The beats of route `j` among the next `n` that a consumer reads from byte `pos` on. -/
def routeCount (d : StreamD) (np k pos n j : Nat) : Nat := ((List.range n).filter (fun i => inRoute d np k (pos + 64 * i) == j)).length

theorem routeCount_succ (d : StreamD) (np k pos n j : Nat) :
    routeCount d np k pos (n + 1) j = (if inRoute d np k pos = j then 1 else 0) + routeCount d np k (pos + 64) n j := by
  have hshift : (fun i => inRoute d np k (pos + 64 * i) == j) ∘ Nat.succ = fun i => inRoute d np k (pos + 64 + 64 * i) == j := by
    funext i
    simp only [Function.comp_apply, Nat.succ_eq_add_one, Nat.mul_add, Nat.mul_one]
    rw [show pos + (64 * i + 64) = pos + 64 + 64 * i by omega]
  rw [routeCount, List.range_succ_eq_map, List.filter_cons, List.filter_map, hshift]
  by_cases h : inRoute d np k pos = j
  · simp [h, routeCount, Nat.add_comm]
  · simp [h, routeCount]

@[simp] theorem Run.lane_setLane_self (r : Run) (key : Nat) (l : Lane) : (r.setLane key l).lane key = l := Tbl.getD_set_self ..

theorem Run.lane_setLane_ne (r : Run) {key j : Nat} (l : Lane) (h : j ≠ key) : (r.setLane key l).lane j = r.lane j := by
  simp [Run.lane, Run.setLane, Tbl.getD, Tbl.get_set_ne h]

theorem laneKey_ne {si i j : Nat} (h : i ≠ j) : laneKey si i ≠ laneKey si j := by
  simp only [laneKey]
  omega

/-- What remains to be read after the first beat, on the route that gave it and on the others. -/
theorem routeCount_rest {r r' : Run} {d : StreamD} {si np k n m : Nat} {rest : List Beat} {o : Nat}
    (h : ∀ j, routeCount d np k (r.inPos.getD (laneKey si k) 0) (n + 1) j * m ≤ (r.lane (laneKey si j)).buf.length)
    (hr' : r' = { r.setLane (laneKey si (inRoute d np k (r.inPos.getD (laneKey si k) 0)))
        { r.lane (laneKey si (inRoute d np k (r.inPos.getD (laneKey si k) 0))) with buf := rest, owed := o } with
      inPos := r.inPos.set (laneKey si k) (r.inPos.getD (laneKey si k) 0 + 64) })
    (hrest : rest.length + m = (r.lane (laneKey si (inRoute d np k (r.inPos.getD (laneKey si k) 0)))).buf.length) (j : Nat) :
    routeCount d np k (r'.inPos.getD (laneKey si k) 0) n j * m ≤ (r'.lane (laneKey si j)).buf.length := by
  generalize hpos : r.inPos.getD (laneKey si k) 0 = pos at *
  have hj := h j
  rw [routeCount_succ] at hj
  have hin : r'.inPos.getD (laneKey si k) 0 = pos + 64 := by
    rw [hr']
    exact Tbl.getD_set_self ..
  rw [hin]
  by_cases hroute : inRoute d np k pos = j
  · have hlane : (r'.lane (laneKey si j)).buf = rest := by
      rw [hr', ← hroute]
      exact congrArg Lane.buf (Run.lane_setLane_self ..)
    rw [if_pos hroute, Nat.add_mul, Nat.one_mul, ← hroute, ← hrest, hroute] at hj
    rw [hlane]
    omega
  · have hlane : r'.lane (laneKey si j) = r.lane (laneKey si j) := by
      rw [hr']
      exact Run.lane_setLane_ne _ _ (laneKey_ne (Ne.symm hroute))
    rw [if_neg hroute, Nat.zero_add] at hj
    rw [hlane]
    exact hj

/-- A consumer reads `n` beats where each of its routes holds the ones it reads there. -/
theorem Run.receive_isSome {r : Run} {si np nc k n : Nat} {d : StreamD}
    (h : ∀ j, routeCount d np k (r.inPos.getD (laneKey si k) 0) n j * (if d.ticketed && rowOr (laneRow d np nc) 64 == 64 then 2 else 1) ≤
      (r.lane (laneKey si j)).buf.length) : (r.receive si d np nc k n).isSome = true := by
  induction n generalizing r with
  | zero => rfl
  | succ n ih =>
    have hfirst := h (inRoute d np k (r.inPos.getD (laneKey si k) 0))
    rw [routeCount_succ, if_pos rfl, Nat.add_mul, Nat.one_mul] at hfirst
    rw [Run.receive]
    dsimp only
    split
    next hempty =>
      rw [hempty] at hfirst
      split at hfirst <;> simp at hfirst
    next b rest hbuf =>
      split
      next hpad =>
        rw [hbuf, hpad] at hfirst
        simp only [if_true, List.length_singleton] at hfirst
        omega
      next p rest hpad =>
        rw [Option.isSome_map]
        simp only [hpad] at h ih
        exact ih (routeCount_rest h rfl (by rw [hbuf]; rfl))
      next hpad =>
        rw [Option.isSome_map]
        simp only [hpad] at h ih
        exact ih (routeCount_rest h rfl (by rw [hbuf]; rfl))

/-- A port gives `n` beats where they have arrived (R144). -/
theorem State.readPort_of_arrived {s : State} {t port n : Nat} {x : Site} (hrun : s.runs.get x.rid = some x.run) (h : x.arrived port n) :
    ∃ bs s2, s.readPort t port n x = some (bs, s2) := by
  obtain ⟨si, d, hin, hbuf⟩ := h
  obtain ⟨⟨bs, r⟩, hr⟩ := Option.isSome_iff_exists.mp (Run.receive_isSome (r := x.run) (si := si) (k := x.k) (n := n) hbuf)
  simp only [State.readPort, hin, hrun, hr]
  exact ⟨_, _, rfl⟩

/-- The RUN of a tile's place is the one in the state. -/
theorem State.run_of_site {s : State} {t : Nat} {x : Site} (h : s.site t = some x) : s.runs.get x.rid = some x.run := by
  unfold State.site at h
  split at h
  · cases h
  · split at h
    · cases h
    next r hr =>
      split at h
      · cases h
      · split at h
        · cases h
        · obtain ⟨p, -, rfl⟩ := Option.map_eq_some_iff.mp h
          exact hr

/-- The rows of a send of `n` bytes from byte `pos` on: each starts before the send's end, the first before `pos` where it is under way. -/
theorem rows_of_send {pos R n i : Nat} (h : i < (pos % R + n + R - 1) / R) :
    (pos / R + i) * R < pos + n ∧ (i = 0 → pos % R ≠ 0 → (pos / R + i) * R < pos) ∧ ((i = 0 → pos % R = 0) → pos ≤ (pos / R + i) * R) := by
  rcases Nat.eq_zero_or_pos R with rfl | hR
  · simp at h
  · have hle : (i + 1) * R ≤ pos % R + n + R - 1 := (Nat.le_div_iff_mul_le hR).mp h
    have hmod := Nat.mod_lt pos hR
    have hpos : pos / R * R + pos % R = pos := by rw [Nat.mul_comm, Nat.div_add_mod]
    rw [Nat.add_mul, Nat.one_mul] at hle
    rw [Nat.add_mul]
    refine ⟨by omega, fun hi hne => ?_, fun hzero => ?_⟩
    · subst hi
      omega
    · rcases Nat.eq_zero_or_pos i with rfl | hi
      · have := hzero rfl
        omega
      · have : R ≤ i * R := Nat.le_mul_of_pos_left R hi
        omega

/-- A port takes beats where it holds none of an earlier send and the tickets of their rows are at hand (R144, R191). -/
theorem State.sendPort_of_canSend {s : State} {t port : Nat} {x : Site} {bs : List Beat} (hrun : s.runs.get x.rid = some x.run)
    (h : x.canSend (s.tile t) port bs.length) : ∃ s2, s.sendPort t port x bs = some s2 := by
  obtain ⟨si, d, pos, R, hout, hheld, hpos, hR, htickets⟩ := h
  simp only [State.sendPort, hout, hrun, hheld, Bool.false_eq_true, if_false, ← hpos, ← hR]
  rw [if_neg]
  · exact ⟨_, rfl⟩
  · simp only [Bool.and_eq_true, List.any_eq_true, List.mem_range, Option.isNone_iff_eq_none, not_and, not_exists]
    intro htick i hi hnone
    obtain ⟨hend, hunder, hnew⟩ := rows_of_send hi
    obtain ⟨hcur, hticket⟩ := htickets htick _ (Nat.le_add_right ..) hend
    split at hnone
    next hfirst =>
      obtain ⟨hi0, hmod⟩ : i = 0 ∧ pos % R ≠ 0 := by simpa using hfirst
      have := hcur (hunder hi0 hmod)
      rw [hnone] at this
      exact absurd this (by simp)
    next hlater =>
      have hzero : i = 0 → pos % R = 0 := by simpa using hlater
      have := hticket (hnew hzero)
      rw [hnone] at this
      exact absurd this (by simp)

section Streams
variable {s : State} {t : Sys2Proof.Tile} {w : Vx} {x : Site} {f : Fmt}

theorem TileTurn.run {t w : Nat} (h : TileTurn s t w x) : s.runs.get x.rid = some x.run := State.run_of_site h.1.1

theorem exec_sin_of_turn (htrip : s.pwr.trip = false) (hf : f = vxF w) (h : TileTurn s t.val (vxWord 0x52 w) x) :
    exec (.sin t w) s = .next ((s.readPort t.val w.vb.toNat (streamBytes f / 64) x).elim (s.vxStall t.val) fun b =>
      streamNext s (b.2.setTile t.val ((b.2.tile t.val).putActive w f.width w.vd.toNat (streamElems f (inBytes b.1)))) t.val 0x52 w
        (streamBytes f) (x.inLinks w.vb.toNat)) := by
  refine (runStream_of_turn htrip h).trans ?_
  rw [hf]
  cases s.readPort t.val w.vb.toNat (streamBytes (vxF w) / 64) x <;> rfl

theorem exec_sout_of_turn (htrip : s.pwr.trip = false) (hf : f = vxF w) (h : TileTurn s t.val (vxWord 0x53 w) x) {bs : List Beat}
    (hbs : bs = mkBeats ((s.tile t.val).streamOut f w.vd.toNat) [] ((s.tile t.val).zeroMask f w.vd.toNat) (elemCount f.width / 16 / 8)) :
    exec (.sout t w) s = .next ((s.sendPort t.val w.vb.toNat x bs).elim (s.vxStall t.val) fun s2 =>
      streamNext s ((s2.bumpTile t.val cVxuZ (popBits ((s.tile t.val).zeroMask f w.vd.toNat) (elemCount f.width / 16))).sentBy t.val w.vb.toNat) t.val 0x53 w
        (streamBytes f) (x.outLinks w.vb.toNat)) := by
  refine (runStream_of_turn htrip h).trans ?_
  rw [hbs, hf]
  dsimp only
  cases s.sendPort t.val w.vb.toNat x (mkBeats ((s.tile t.val).streamOut (vxF w) w.vd.toNat) [] ((s.tile t.val).zeroMask (vxF w) w.vd.toNat)
    (elemCount (vxF w).width / 16 / 8)) <;> rfl

theorem exec_sinq_of_turn (htrip : s.pwr.trip = false) (hf : f = vxF w) (h : TileTurn s t.val (vxWord 0x54 w) x) :
    exec (.sinq t w) s = .next ((s.readPort t.val w.vb.toNat (quantBytes f / 64) x).elim (s.vxStall t.val) fun b =>
      streamNext s (b.2.setTile t.val (((b.2.tile t.val).setRegBytes w.vd.toNat ((b.2.tile t.val).codesUnder w f (inBytes b.1))).setRegBytes w.vc.toNat
        (inScales b.1 ++ leBytes 2 (inMask b.1)))) t.val 0x54 w (quantBytes f) (x.inLinks w.vb.toNat)) := by
  refine (runStream_of_turn htrip h).trans ?_
  rw [hf]
  cases s.readPort t.val w.vb.toNat (quantBytes (vxF w) / 64) x <;> rfl

theorem exec_soutq_of_turn (htrip : s.pwr.trip = false) (hf : f = vxF w) (h : TileTurn s t.val (vxWord 0x55 w) x) {bs : List Beat}
    (hbs : bs = mkBeats (((s.tile t.val).regBytes w.vd.toNat).take (quantBytes f)) (((s.tile t.val).regBytes w.vc.toNat).take 16)
      (fieldLE ((s.tile t.val).regBytes w.vc.toNat) 16 2) 2) :
    exec (.soutq t w) s = .next ((s.sendPort t.val w.vb.toNat x bs).elim (s.vxStall t.val) fun s2 =>
      streamNext s ((s2.bumpTile t.val cVxuZ (popBits (fieldLE ((s.tile t.val).regBytes w.vc.toNat) 16 2) 16)).sentBy t.val w.vb.toNat) t.val 0x55 w
        (quantBytes f) (x.outLinks w.vb.toNat)) := by
  refine (runStream_of_turn htrip h).trans ?_
  rw [hbs, hf]
  dsimp only
  cases s.sendPort t.val w.vb.toNat x (mkBeats (((s.tile t.val).regBytes w.vd.toNat).take (quantBytes (vxF w))) (((s.tile t.val).regBytes w.vc.toNat).take 16)
    (fieldLE ((s.tile t.val).regBytes w.vc.toNat) 16 2) 2) <;> rfl

end Streams

/-- Settles O21. -/
theorem vectorStreamsAndTrip : Obligations.VectorStreamsAndTrip := by
  refine ⟨fun s t w x f htrip hf => ⟨fun h => ?sin, fun bs h hbs hsend => ?sout, fun h => ?sinq, fun bs h hbs hsend => ?soutq⟩, fun s t w htrip => ?trip⟩
  case sin =>
    rw [exec_sin_of_turn htrip hf h]
    refine ⟨fun harrived => ?_, fun hnone => by rw [hnone]; rfl⟩
    obtain ⟨bs, s2, hread⟩ := State.readPort_of_arrived h.run harrived
    exact ⟨bs, s2, hread, by rw [hread]; rfl⟩
  case sout =>
    obtain ⟨s2, hsent⟩ := State.sendPort_of_canSend h.run hsend
    exact ⟨s2, hsent, by rw [exec_sout_of_turn htrip hf h hbs, hsent]; rfl⟩
  case sinq =>
    rw [exec_sinq_of_turn htrip hf h]
    refine ⟨fun harrived => ?_, fun hnone => by rw [hnone]; rfl⟩
    obtain ⟨bs, s2, hread⟩ := State.readPort_of_arrived h.run harrived
    exact ⟨bs, s2, hread, by rw [hread]; rfl⟩
  case soutq =>
    obtain ⟨s2, hsent⟩ := State.sendPort_of_canSend h.run hsend
    exact ⟨s2, hsent, by rw [exec_soutq_of_turn htrip hf h hbs, hsent]; rfl⟩
  case trip =>
    exact ⟨show execVadd t w s = _ from runVx_of_trip htrip, show execVfma t w s = _ from runVx_of_trip htrip,
      show execVexp t w s = _ from runVx_of_trip htrip, show execCvt t w s = _ from runVx_of_trip htrip,
      show execLd t w s = _ from runVx_of_trip htrip, show execSt t w s = _ from runVx_of_trip htrip,
      show execSin t w s = _ from runStream_of_trip htrip, show execSout t w s = _ from runStream_of_trip htrip,
      show execVrsum t w s = _ from runVx_of_trip htrip, show execVmov t w s = _ from runVx_of_trip htrip⟩

end Sys2Proof.Machine
end

section
/-! ### The control unit on a tile (R107, R129, R153, R171, R172, R174, R176)

Scalar registers and loops, rows through the memory port, and the end of a tile's program; O22 and O23 put together from them. -/

namespace Sys2Proof.Machine

/-! Scalar registers and loops (R107, R171, R172). -/

section Scalar
variable {s : State} {t : Sys2Proof.Tile} {x : Site} {reg : BitVec 5}

theorem Tile.sreg_setSreg (tl : Tile) (r : Nat) (v : U64) (n : Nat) : (tl.setSreg r v).sreg n = if n = r then v else tl.sreg n := by
  by_cases h : n = r
  · simp [Tile.sreg, Tile.setSreg, h, Tbl.getD_set_self]
  · simp [Tile.sreg, Tile.setSreg, Tbl.getD, Tbl.get_set_ne h, h]

theorem exec_sets_of_turn {imm : U32} (h : TileHere s t.val (wSets reg.toNat imm.toNat) x) :
    exec (.sets t reg imm) s = .next (s.done1 t.val (((s.tile t.val).setSreg reg.toNat (imm.setWidth 64)).cleaned (Uses.reg reg.toNat))) := by
  change execSets t reg imm s = _
  exact whenWord_of_turn h _

theorem exec_args_of_turn {slot : BitVec 6} (h : TileHere s t.val (wArgs reg.toNat slot.toNat) x) :
    exec (.args t reg slot) s = .next (s.done1 t.val (((s.tile t.val).setSreg reg.toNat (x.run.args.getD slot.toNat 0)).cleaned (Uses.reg reg.toNat))) := by
  change execArgs t reg slot s = _
  exact whenWord_of_turn h _

theorem exec_adds_of_turn {imm : U32} (h : TileTurn s t.val (wAdds reg.toNat imm.toNat) x) :
    exec (.adds t reg imm) s = .next (s.done1 t.val ((s.tile t.val).setSreg reg.toNat ((s.tile t.val).sreg reg.toNat + imm.signExtend 64))) := by
  change execAdds t reg imm s = _
  refine (whenWord_of_turn h.1 _).trans ?_
  rw [h.parityOf, if_neg Bool.false_ne_true]

theorem exec_adds_of_parity {imm : U32} (h : TileHere s t.val (wAdds reg.toNat imm.toNat) x) (hpar : (s.tile t.val).parityOf (Uses.reg reg.toNat) = true) :
    exec (.adds t reg imm) s = .next (s.runFault x .parity) := by
  change execAdds t reg imm s = _
  refine (whenWord_of_turn h _).trans ?_
  rw [hpar]
  rfl

/-- LOOP enters its body with its count, or goes on past the matching ENDLOOP. -/
theorem exec_loop_of_turn {useReg : Bool} {count : U32} {n p : Nat} (h : TileTurn s t.val (wLoop useReg reg.toNat count.toNat) x)
    (hn : n = if useReg then ((s.tile t.val).sreg reg.toNat).toNat else count.toNat)
    (hp : p = skipLoop ((x.im.progs.getD x.st []).length + 1) 0 ((s.tile t.val).pos + 1) ((x.im.progs.getD x.st []).drop ((s.tile t.val).pos + 1))) :
    exec (.loop t useReg reg count) s = .next (if n = 0 then (s.setTile t.val { s.tile t.val with pos := p }).moved x.rid
      else s.done1 t.val { s.tile t.val with loops := ((s.tile t.val).pos + 1, n) :: (s.tile t.val).loops }) := by
  change execLoop t useReg reg count s = _
  refine (whenWord_of_turn h.1 _).trans ?_
  simp only [h.parityOf, Bool.and_false, Bool.false_eq_true, if_false, ← hn, ← hp]

/-- ENDLOOP goes back while passes are left. -/
theorem exec_endloop_of_turn {start n : Nat} {r : List (Nat × Nat)} (h : TileTurn s t.val wEndloop x) (hr : (s.tile t.val).loops = (start, n) :: r) :
    exec (.endloop t) s = .next (if 1 < n then (s.setTile t.val { s.tile t.val with pos := start, loops := (start, n - 1) :: r }).moved x.rid
      else s.done1 t.val { s.tile t.val with loops := r }) := by
  change execEndloop t s = _
  refine (whenWord_of_turn h.1 _).trans ?_
  simp only [hr]

end Scalar

/-- Settles O22. -/
theorem controlInstructions : Obligations.ControlInstructions := by
  refine ⟨fun s t x reg => ⟨fun imm => exec_sets_of_turn, fun imm => exec_adds_of_turn, fun slot => exec_args_of_turn, fun imm => exec_adds_of_parity,
    fun tl v n => ⟨Tile.sreg_setSreg tl reg.toNat v n, rfl, rfl, rfl, rfl⟩⟩, fun s t x => ⟨fun useReg reg count n h hn => ?loop, fun start n r h hr => ?endloop⟩⟩
  case loop =>
    exact ⟨fun hne => by rw [exec_loop_of_turn h hn rfl, if_neg hne], fun hzero p hp => by rw [exec_loop_of_turn h hn hp, if_pos hzero]⟩
  case endloop =>
    rw [exec_endloop_of_turn h hr]
    exact ⟨fun hleft => by rw [if_pos hleft], fun hlast => by rw [if_neg (by omega)]⟩

/-! Rows through the memory port (R174, R176). -/

section Rows
variable {s : State} {t : Sys2Proof.Tile} {x : Site} {tensor : U8} {port : BitVec 4} {rows : U32} {d : TensorD}

theorem exec_mrd_issues {l : List Nat} {s2 : State} {c : Nat} (h : TileTurn s t.val (wMem 0x88 tensor.toNat port.toNat rows.toNat) x)
    (hd : x.im.tensors[tensor.toNat]? = some d) (hc : c = (s.tile t.val).cursors.getD tensor.toNat 0) (hrows : c + rows.toNat ≤ d.rows)
    (helem : d.elemSlot ≠ 255) (hscale : d.scaleSlot = 255)
    (hreads : s.tileReads t.val x [⟨d.elemSlot, d.elemOff + c * d.rowElem, rows.toNat * d.rowElem⟩] = .ok (l, s2)) :
    exec (.mrd t tensor port rows) s = .next (((s2.setTile t.val { s.tile t.val with cursors := (s.tile t.val).cursors.set tensor.toNat (c + rows.toNat) }).await
      t.val l (.mrd c)).moved x.rid) := by
  change execMrd t tensor port rows s = _
  refine whenRead_of_turn h.1 _ _ ?_
  have hin : ¬ d.rows < c + rows.toNat := by omega
  simp only [hd, ← hc, hin, helem, hscale, decide_false, Bool.or_self, Bool.false_eq_true, if_false, if_true, List.append_nil, hreads]

theorem exec_mrd_sends {c : Nat} {s2 : State} (h : TileBack s t.val (wMem 0x88 tensor.toNat port.toNat rows.toNat) x (.mrd c))
    (hd : x.im.tensors[tensor.toNat]? = some d) (hscale : d.scaleSlot = 255)
    (hsend : s.sendPort t.val port.toNat x ((List.range rows.toNat).flatMap (fun i =>
        padRow (x.outRowBytes port.toNat) (rowBeats d.f (s.slotBytes x ⟨d.elemSlot, d.elemOff + (c + i) * d.rowElem, d.rowElem⟩) []))) = some s2) :
    exec (.mrd t tensor port rows) s = .next ((s2.setTile t.val { s2.tile t.val with wait := none }).advance t.val 1) := by
  change execMrd t tensor port rows s = _
  refine (whenRead_of_back h.1 _ _).trans ?_
  simp only [hd, hscale, if_true, hsend]

/-- MWR with a row of the tensor collected writes it; without its last row it stays (R174). -/
theorem exec_mwr_writes {n : Nat} {s2 s3 : State} (h : TileTurn s t.val (wMem 0x89 tensor.toNat port.toNat rows.toNat) x)
    (hd : x.im.tensors[tensor.toNat]? = some d) (hrows : rows ≠ 0) (hdone : (s.tile t.val).rowsDone < rows.toNat) (hn : n = x.inRowBytes port.toNat / 64)
    (hn0 : n ≠ 0) (hs2 : s.collect t.val port.toNat n x n = s2) (hrow : n ≤ (s2.tile t.val).rowBuf.length)
    (hcursor : (s2.tile t.val).cursors.getD tensor.toNat 0 < d.rows) (helem : d.elemSlot ≠ 255) (hscale : d.scaleSlot = 255)
    (hleft : (s2.tile t.val).rowsDone + 1 < rows.toNat)
    (hwrite : (s2.setTile t.val { s2.tile t.val with rowBuf := [], rowsDone := (s2.tile t.val).rowsDone + 1, cursors := (s2.tile t.val).cursors.set tensor.toNat ((s2.tile t.val).cursors.getD tensor.toNat 0 + 1) }).tileWrite
        t.val x d.elemSlot (d.elemOff + (s2.tile t.val).cursors.getD tensor.toNat 0 * d.rowElem)
        (unRow d.f d.rowElem d.blocksPerRow (s2.tile t.val).rowBuf).1 = .ok s3) :
    exec (.mwr t tensor port rows) s = .next (s3.moved x.rid) := by
  change execMwr t tensor port rows s = _
  refine (whenWord_of_turn h.1 _).trans ?_
  have hmore : ¬ rows.toNat ≤ (s.tile t.val).rowsDone := by omega
  have hfull : ¬ (s2.tile t.val).rowBuf.length < n := by omega
  have hin : ¬ d.rows ≤ (s2.tile t.val).cursors.getD tensor.toNat 0 := by omega
  have hnot : ¬ rows.toNat ≤ (s2.tile t.val).rowsDone + 1 := by omega
  simp only [hd, hrows, hmore, ← hn, hs2, hfull, hn0, hin, helem, hscale, hnot, hwrite, decide_false, Bool.or_self, Bool.false_eq_true, if_false, if_true]

end Rows

theorem State.tile_setTile_self (s : State) (t : Nat) (tl : Tile) : (s.setTile t tl).tile t = tl := Tbl.getD_set_self ..

theorem State.tile_setTile_ne (s : State) {t n : Nat} (tl : Tile) (h : n ≠ t) : (s.setTile t tl).tile n = s.tile n := by
  simp [State.tile, Tbl.getD, Tbl.get_set_ne h]

/-! The end of a tile's program, and of its part (R153, R155). -/

section End
variable {s u : State} {t : Sys2Proof.Tile} {x : Site} {rid : Nat} {r : Run} {im : Image}

theorem exec_endProgram_of_turn (hmxu : (s.tile t.val).mxu = none) (h : TileHere s t.val wEnd x) (hr : s.runs.get x.rid = some r)
    (hu : u = ((({ s with free := s.free + 1 } : State).setTile t.val { s.tile t.val with ended := true, rowBuf := [], carryBuf := [], regs := (s.tile t.val).regs.set cMemStall (Config.freeWord s.free).toNat }).setRun x.rid { r.closeInputs x.im x.st x.k with lastMove := s.ts })) :
    exec (.endProgram t) s = .next (u.tileDone x.rid t.val) := by
  change execEndProgram t s = _
  rw [execEndProgram, hmxu, if_neg (by simp)]
  refine (whenWord_of_turn h _).trans ?_
  rw [hu]
  simp only [State.fresh, State.setTile_runs, hr, State.setTile_ts]

theorem State.tileDone_of_over (hr : u.runs.get rid = some r) (him : u.runImage r = some im) (hover : u.partOver r im t.val = true) :
    u.tileDone rid t.val = u.fixCycles r t.val := by
  simp only [State.tileDone, hr, him, hover, if_true]

theorem State.tileDone_of_under (hr : u.runs.get rid = some r) (him : u.runImage r = some im) (hover : u.partOver r im t.val = false) :
    u.tileDone rid t.val = u := by
  simp only [State.tileDone, hr, him, hover, Bool.false_eq_true, if_false]

end End

/-- Settles O23. -/
theorem memoryPortAndEnd : Obligations.MemoryPortAndEnd := by
  intro s t x
  refine ⟨fun tensor port rows d l s2 cs h hd hrows helem hscale hreads hcs => ?reads,
    fun tensor port rows d c s2 h hd hscale hsend => exec_mrd_sends h hd hscale hsend,
    fun tensor port rows d n s2 s3 h hd hrows hdone hn hn0 hs2 hrow hcursor helem hscale hleft hwrite =>
      exec_mwr_writes h hd hrows hdone hn hn0 hs2 hrow hcursor helem hscale hleft hwrite,
    fun r u hmxu h hr hu => exec_endProgram_of_turn hmxu h hr hu,
    fun u rid r im hr him => ⟨fun hover hcycles => ?cycles, fun hunder => State.tileDone_of_under hr him hunder⟩⟩
  case reads =>
    rw [hcs]
    exact exec_mrd_issues h hd rfl hrows helem hscale hreads
  case cycles =>
    rw [State.tileDone_of_over hr him hover, State.fixCycles, if_neg (by simp [hcycles])]
    refine ⟨?_, ?_, rfl, fun n hn => State.tile_setTile_ne u _ hn⟩
    · rw [State.tile_setTile_self]
      rfl
    · rw [State.tile_setTile_self]

end Sys2Proof.Machine
end

section
/-! ### The matrix unit on a tile (R98 to R105, R173)

What an issue and a bump leave of a tile, then MXU_OP, the start of a row tile and a drain, and O24 put together from them. -/

namespace Sys2Proof.Machine

/-! What the end of an instruction leaves (R114, R148). -/

section Frame
variable (s : State)

@[simp] theorem State.moved_tiles (rid : Nat) : (s.moved rid).tiles = s.tiles := by unfold State.moved; split <;> rfl
@[simp] theorem State.moved_objs (rid : Nat) : (s.moved rid).objs = s.objs := by unfold State.moved; split <;> rfl
@[simp] theorem State.moved_hbm (rid : Nat) : (s.moved rid).hbm = s.hbm := by unfold State.moved; split <;> rfl
@[simp] theorem State.moved_tile (rid t : Nat) : (s.moved rid).tile t = s.tile t := by simp [State.tile]

@[simp] theorem State.tile_bumpTile_self (t o n : Nat) : (s.bumpTile t o n).tile t = { s.tile t with regs := bump (s.tile t).regs o n } :=
  State.tile_setTile_self ..

@[simp] theorem State.advance_objs (t n : Nat) : (s.advance t n).objs = s.objs := by
  unfold State.advance
  dsimp only
  split <;> simp

theorem State.tile_advance_self (t n : Nat) : (s.advance t n).tile t = { s.tile t with pos := (s.tile t).pos + n } := by
  unfold State.advance
  dsimp only
  split <;> simp [State.tile_setTile_self]

end Frame

/-! MXU_OP (R173). -/

section Operation
variable {s : State} {t : Sys2Proof.Tile} {x : Site} {a : MxuArgs}

theorem Site.nextGroup_of_not_gathered {tl : Tile} (h : x.gathered tl.pos = none) : x.nextGroup tl = some none := by
  simp [Site.nextGroup, h]

/-- A part of an operand that the image does not store is not read. -/
theorem State.readAt_none (s : State) (t : Nat) (x : Site) (held : Bool) : s.readAt t x held none = .ok ([], s) := rfl

theorem exec_mxuOp_reads {d : TensorD} {w : WSrc} {l : List Nat} {s2 : State} (htrip : s.pwr.trip = false) (hmxu : (s.tile t.val).mxu = none)
    (h : TileTurn s t.val (wMxu0 a) x) (hword : x.word ((s.tile t.val).pos + 1) = some (wMxu1 a)) (hgather : x.gathered (s.tile t.val).pos = none)
    (hd : x.im.tensors[a.stat.toNat]? = some d) (hw : s.tensorSrc x d 0 d.rows = .ok w) (hsc : w.sc = none) (hme : w.me = none)
    (hread : s.readAt t.val x w.held w.e = .ok (l, s2)) : exec (.mxuOp t a) s = .next ((s2.await t.val l (.mxu none)).moved x.rid) := by
  change execMxuOp t a s = _
  have hstop : (s.issueStopped || (s.tile t.val).mxu.isSome) = false := by simp [State.issueStopped, htrip, hmxu]
  simp only [execMxuOp, hstop, h.1.1, hword, Bool.false_eq_true, if_false, bne_self_eq_false]
  refine whenRead_of_turn h.1 _ _ ?_
  simp only [Site.nextGroup_of_not_gathered hgather, hd, State.weights, hw, hread, hsc, hme, State.readAt_none, List.append_nil]

theorem exec_mxuOp_starts {g : Option Nat} (htrip : s.pwr.trip = false) (hmxu : (s.tile t.val).mxu = none) (h : TileBack s t.val (wMxu0 a) x (.mxu g))
    (hword : x.word ((s.tile t.val).pos + 1) = some (wMxu1 a)) (hgather : x.gathered (s.tile t.val).pos = none) :
    exec (.mxuOp t a) s = .next (s.startMxu t.val x a none) := by
  change execMxuOp t a s = _
  have hstop : (s.issueStopped || (s.tile t.val).mxu.isSome) = false := by simp [State.issueStopped, htrip, hmxu]
  simp only [execMxuOp, hstop, h.1.1, hword, Bool.false_eq_true, if_false, bne_self_eq_false]
  refine (whenRead_of_back h.1 _ _).trans ?_
  simp only [Site.nextGroup_of_not_gathered hgather]

@[simp] theorem State.rangeOr_tile (s : State) (r : Option (Nat × Nat × Nat)) (n t : Nat) : (s.rangeOr r n).2.tile t = s.tile t := by
  cases r <;> rfl

/-- An operation without block scales and without sparsity is handed to the unit, and the program goes on by two words. -/
theorem State.startMxu_of_fits {d xd : TensorD} {w : WSrc} (hd : x.im.tensors[a.stat.toNat]? = some d) (hxd : x.im.tensors[a.streamT.toNat]? = some xd)
    (hblock : d.f.blockScaled = false) (hxblock : xd.f.blockScaled = false) (hsparse : d.sparsity = 0) (hout : (fmtOf (mwOut a.mode.toNat)).blockScaled = false)
    (hw : s.tensorSrc x d 0 d.rows = .ok w) (hpar : (s.tile t.val).parityOf (Uses.reg a.reg.toNat) = false)
    (hfits : ∀ o : MxuOp, o.a = a → o.base = ((s.tile t.val).sreg a.reg.toNat).toNat → o.rows = a.rows.toNat → o.wRows = d.rows → o.wK = d.kLen →
      o.fits x d = true) :
    ∃ u o, s.startMxu t.val x a none = (State.setTile u t.val { u.tile t.val with mxu := some o, sets := [], wait := none }).advance t.val 2 ∧ o.a = a ∧
      o.rows = a.rows.toNat ∧ o.wRows = d.rows ∧ o.wK = d.kLen ∧ o.base = ((s.tile t.val).sreg a.reg.toNat).toNat ∧ o.rowTile = 0 ∧ o.colBlock = 0 ∧
      u.tile t.val = s.tile t.val := by
  simp only [State.startMxu, hd, hxd, State.weights, hw, hblock, hxblock, hsparse, hout, hpar, metaOk, Bool.false_eq_true, if_false, if_true, BEq.rfl, Bool.true_or,
    Bool.false_and, Bool.and_false, Bool.not_true, Bool.or_self, Option.isSome_none]
  rw [hfits _ rfl rfl rfl rfl rfl, ← State.rangeOr_tile s w.e (d.rows * d.rowElem) t.val]
  exact ⟨_, _, rfl, rfl, rfl, rfl, rfl, rfl, rfl, rfl, rfl⟩

end Operation

section Tiles
variable {s s2 : State} {t : Sys2Proof.Tile} {x : Site} {o o2 : MxuOp}

/-! The start of an output tile (R103, R105). -/

theorem exec_mxuTileStart_of_parity (htrip : s.pwr.trip = false) (hsite : s.site t.val = some x) (hmxu : (s.tile t.val).mxu = some o)
    (hrow : o.rowTile < o.rowTiles) (hset : (s.tile t.val).sets.length < 2) (hs2 : s.takeRows t.val x (o.tileRows o.rowTile + 1) (o.tileRows o.rowTile) = s2)
    (hmxu2 : (s2.tile t.val).mxu = some o2) (hrows : o.tileRows o.rowTile ≤ o2.xr.length) (hpar : o2.parityAt (s2.tile t.val) = true) :
    exec (.mxuTileStart t) s = .next (s2.runFault x .parity) := by
  change execMxuTileStart t s = _
  have hgo : (decide (o.rowTiles ≤ o.rowTile) || decide (2 ≤ (s.tile t.val).sets.length)) = false := by simp; omega
  have hall : ¬ o2.xr.length < o.tileRows o.rowTile := by omega
  simp only [execMxuTileStart, State.issueStopped, htrip, hsite, hmxu, hgo, hs2, hmxu2, hall, hpar, Bool.false_eq_true, if_false, if_true]
  rfl

/-- Without a parity error the tile accumulates in a set of its own. -/
theorem exec_mxuTileStart_accumulates (htrip : s.pwr.trip = false) (hsite : s.site t.val = some x) (hmxu : (s.tile t.val).mxu = some o)
    (hrow : o.rowTile < o.rowTiles) (hset : (s.tile t.val).sets.length < 2) (hs2 : s.takeRows t.val x (o.tileRows o.rowTile + 1) (o.tileRows o.rowTile) = s2)
    (hmxu2 : (s2.tile t.val).mxu = some o2) (hrows : o.tileRows o.rowTile ≤ o2.xr.length) (hpar : o2.parityAt (s2.tile t.val) = false) :
    ∃ u set, exec (.mxuTileStart t) s = .next u ∧ (u.tile t.val).sets = (s2.tile t.val).sets ++ [set] ∧ set.rowTile = o2.rowTile ∧ set.colBlock = o2.colBlock ∧
      set.acc = (o2.xr.map (fun r => (List.range (min o2.cols (o2.colBlock * setCols o2.m + setCols o2.m) - o2.colBlock * setCols o2.m)).map
        (fun j => o2.dot x.run.strict r (o2.colBlock * setCols o2.m + j)))).flatten ∧ u.objs = s2.objs ∧ u.hbm = s2.hbm := by
  change ∃ u set, execMxuTileStart t s = .next u ∧ _
  have hgo : (decide (o.rowTiles ≤ o.rowTile) || decide (2 ≤ (s.tile t.val).sets.length)) = false := by simp; omega
  have hall : ¬ o2.xr.length < o.tileRows o.rowTile := by omega
  simp only [execMxuTileStart, State.issueStopped, htrip, hsite, hmxu, hgo, hs2, hmxu2, hall, hpar, Bool.false_eq_true, if_false]
  refine ⟨_, ⟨o2.rowTile, o2.colBlock, _⟩, rfl, ?_, rfl, rfl, rfl, ?_, ?_⟩
  · simp only [State.moved_tile, State.tile_bumpTile_self, State.tile_setTile_self]
  · simp
  · simp

/-! A drain (R98 to R105). -/

theorem State.deliver_of_memory {rowTile : Nat} {rows : List XRow} (hmem : o.a.toMem = true) (hgroup : o.group = none) :
    s.deliver t.val x o rowTile rows = some s := by
  simp [State.deliver, hmem, hgroup]

variable {set : AccSet} {rest : List AccSet}

theorem exec_mxuDrain_of_parity (hsite : s.site t.val = some x) (hmxu : (s.tile t.val).mxu = some o) (hsets : (s.tile t.val).sets = set :: rest)
    (hcarry : mwCarry o.m = 0) (hs2 : s.takeCarry t.val x (o.tileRows set.rowTile + 1) (o.tileRows set.rowTile) = s2) (hmxu2 : (s2.tile t.val).mxu = some o)
    (hpar : (s2.tile t.val).upsets.contains .acc = true) : exec (.mxuDrain t) s = .next (s2.runFault x .parity) := by
  change execMxuDrain t s = _
  simp only [execMxuDrain, hsite, hmxu, hsets, hs2, hmxu2, Option.getD_some, hcarry, bne_self_eq_false, Bool.false_and, Bool.false_eq_true, if_false, hpar, if_true]
  rfl

/-- The set is gone and memory as it was, unless its rows leave by a port: before the last columns of its rows none do, and rows for tile memory never do. -/
theorem exec_mxuDrain_takes_set (hsite : s.site t.val = some x) (hmxu : (s.tile t.val).mxu = some o) (hsets : (s.tile t.val).sets = set :: rest)
    (hcarry : mwCarry o.m = 0) (hs2 : s.takeCarry t.val x (o.tileRows set.rowTile + 1) (o.tileRows set.rowTile) = s2) (hmxu2 : (s2.tile t.val).mxu = some o)
    (hpar : (s2.tile t.val).upsets.contains .acc = false) (hstays : set.colBlock + 1 ≠ o.colBlocks ∨ (o.a.toMem = true ∧ o.group = none)) :
    ∃ u, exec (.mxuDrain t) s = .next u ∧ (u.tile t.val).sets = rest ∧ u.objs = s2.objs ∧ u.hbm = s2.hbm := by
  change ∃ u, execMxuDrain t s = .next u ∧ _
  simp only [execMxuDrain, hsite, hmxu, hsets, hs2, hmxu2, Option.getD_some, hcarry, bne_self_eq_false, Bool.false_and, Bool.false_eq_true, if_false, hpar]
  obtain hlast | ⟨hmem, hgroup⟩ := hstays
  · simp only [beq_false_of_ne hlast, Bool.false_eq_true, if_false]
    exact ⟨_, rfl, by simp [State.tile_setTile_self], by simp, by simp⟩
  · by_cases hlast : set.colBlock + 1 = o.colBlocks
    · simp only [hlast, BEq.rfl, if_true, State.deliver_of_memory hmem hgroup]
      exact ⟨_, rfl, by simp [State.tile_setTile_self], by simp, by simp⟩
    · simp only [beq_false_of_ne hlast, Bool.false_eq_true, if_false]
      exact ⟨_, rfl, by simp [State.tile_setTile_self], by simp, by simp⟩

end Tiles

/-- Settles O24: what an operation reads, what it hands to the unit, a row tile's sums and a drain's set are lemmas of their own; the parity errors end the context. -/
theorem matrixUnit : Obligations.MatrixUnit := by
  intro s t x
  refine ⟨?reads, ?starts, ?hands, ?rowTile, ?drain⟩
  case reads => intro a d w l s2 htrip hmxu h hword hgather hd hw hsc hme hread; exact exec_mxuOp_reads htrip hmxu h hword hgather hd hw hsc hme hread
  case starts => intro a g htrip hmxu h hword hgather; exact exec_mxuOp_starts htrip hmxu h hword hgather
  case hands => intro a d xd w hd hxd hblock hxblock hsparse hout hw hpar hfits; exact State.startMxu_of_fits hd hxd hblock hxblock hsparse hout hw hpar hfits
  case rowTile =>
    intro o s2 o2 htrip hsite hmxu hrow hset hs2 hmxu2 hrows
    exact ⟨exec_mxuTileStart_of_parity htrip hsite hmxu hrow hset hs2 hmxu2 hrows,
      exec_mxuTileStart_accumulates htrip hsite hmxu hrow hset hs2 hmxu2 hrows⟩
  case drain =>
    intro o set rest s2 hsite hmxu hsets hcarry hs2 hmxu2
    exact ⟨exec_mxuDrain_of_parity hsite hmxu hsets hcarry hs2 hmxu2, exec_mxuDrain_takes_set hsite hmxu hsets hcarry hs2 hmxu2⟩

end Sys2Proof.Machine
end

section
/-! ### Tickets (R187 to R209)

The ticket unit's short instructions, TSORT's emission, TEMIT, the wait for an adapter and TGATH, and O25 put together from them. -/

namespace Sys2Proof.Machine

/-! The instructions that set a field of the ticket unit, and TATT (R187, R189, R191, R192). -/

section Fields
variable {s : State} {t : Sys2Proof.Tile} {x : Site}

theorem exec_tsrc_of_turn {port : BitVec 4} (h : TileTurn s t.val (wTsrc port.toNat) x) :
    exec (.tsrc t port) s = .next (s.done1 t.val { s.tile t.val with tkt := { (s.tile t.val).tkt with source := port.toNat } }) := by
  change execTsrc t port s = _
  exact whenWord_of_turn h.1 _

theorem exec_troute_of_turn {port : BitVec 4} {reg : BitVec 5} (h : TileTurn s t.val (wTroute port.toNat reg.toNat) x) :
    exec (.troute t port reg) s = .next (s.done1 t.val { s.tile t.val with
      tkt := { (s.tile t.val).tkt with route := (s.tile t.val).tkt.route.set port.toNat ((s.tile t.val).sreg reg.toNat).toNat } }) := by
  change execTroute t port reg s = _
  refine (whenWord_of_turn h.1 _).trans ?_
  simp only [h.parityOf, Bool.false_eq_true, if_false]

/-- The records a TATT read go to the ledger and to the port when no ticket is malformed or of another partition. -/
theorem exec_tatt_of_back {slot : U8} {port : BitVec 4} {reg : BitVec 5} {rows : U32} {off : Nat} {b : Bytes} {l : List (Nat × Nat)}
    (h : TileBack s t.val (wTatt slot.toNat port.toNat reg.toNat rows.toNat) x (.tatt off)) (hb : b = s.slotBytes x ⟨slot.toNat, off, 16 * rows.toNat⟩)
    (hl : l = (List.range rows.toNat).map (fun i => (fieldLE b (16 * i) 8, fieldLE b (16 * i + 8) 4)))
    (hgood : ∀ k ∈ l, tkBad none k.1 = false ∧ tkPart k.1 = x.run.part) (hzero : ∀ i < rows.toNat, reservedZero b (16 * i + 12) 4 = true) :
    exec (.tatt t slot port reg rows) s = .next (((((s.ledgerTickets x.run b).attachTo t.val port.toNat x l).setTile t.val
      { ((s.ledgerTickets x.run b).attachTo t.val port.toNat x l).tile t.val with wait := none })).advance t.val 1) := by
  have hbad : l.any (fun k => tkBad none k.1) = false := List.any_eq_false.2 fun k hk => by simp [(hgood k hk).1]
  have hpart : l.any (fun k => tkPart k.1 != x.run.part) = false := List.any_eq_false.2 fun k hk => by simp [(hgood k hk).2]
  have hres : (List.range rows.toNat).any (fun i => !reservedZero b (16 * i + 12) 4) = false :=
    List.any_eq_false.2 fun i hi => by simp [hzero i (List.mem_range.1 hi)]
  change execTatt t slot port reg rows s = _
  refine (whenRead_of_back h.1 _ _).trans ?_
  simp only [← hb, ← hl, hbad, hpart, hres, failIf, Bool.or_self, Bool.false_eq_true, if_false, List.append_nil, govern]

end Fields

/-- What TEMIT does where the window store's parity holds (R191, R204): a row for each token of the window, with its ticket, when the port takes them all. -/
def State.emitTokens (s : State) (t : Nat) (x : Site) (outp : Nat) : State :=
  let u := (s.tile t).tkt
  let n := fieldLE u.plan 4 2
  let len := x.outRowBytes outp
  let rows := (List.range n).map (fun i => padRow len ((u.stored.get i).getD (zeroRow (fmtOf u.fmt) u.cols)))
  let s' := { s with free := s.free + 2 * n }.attachTo t outp x ((List.range n).map (u.tokenTicket s.free))
  match (if n = 0 then some s' else s'.sendPort t outp x rows.flatten) with
  | none => s
  | some s =>
    s.done1 t { s.tile t with
      tkt := { (s.tile t).tkt with plan := [], window := [], stored := [], emitted := (s.tile t).tkt.emitted + n },
      regs := bump (s.tile t).regs cTktStore (n * storeLoss len (x.outLinks outp)) }

/-! TSORT, TEMIT and the wait for an adapter (R194 to R198, R203, R204, R207). -/

section Windows
variable {s : State} {t : Sys2Proof.Tile} {x : Site}

/-- No adapter is looked at by a sort on experts: a closed window whose tickets pass is emitted. -/
theorem exec_tsort_emits {inp outp plan : BitVec 4} {b : Bytes} {s2 s3 : State} {l : List Bool} (h : TileHere s t.val (wTsort inp.toNat outp.toNat plan.toNat) x)
    (htable : x.im.tableOf (x.im.stageAt x.st) = some b) (hkey : tblKey b = 1) (hs2 : s.fillWindow t.val inp.toNat (tblWindow b) x (tblWindow b + 1) = s2)
    (hfull : tblWindow b ≤ (s2.tile t.val).tkt.window.length ∨ (s2.tile t.val).tkt.closed = true) (hups : (s2.tile t.val).upsets = [])
    (hjudged : (s2.tile t.val).tkt.judged = none) (hgood : ∀ r ∈ (s2.tile t.val).tkt.window, tkBad (some b) r.tkt = false)
    (hl : l = (s2.tile t.val).tkt.window.map (fun _ => false))
    (hemit : (s2.judgeWindow t.val l).emitWindow t.val x b inp.toNat outp.toNat plan.toNat (fun i => l.getD i false) = some s3) :
    exec (.tsort t inp outp plan) s = .next (s3.advance t.val 1) := by
  have hopen : (!(s2.tile t.val).tkt.closed && decide ((s2.tile t.val).tkt.window.length < tblWindow b)) = false := by
    obtain hn | hc := hfull
    · simp; omega
    · simp [hc]
  have hbad : (s2.tile t.val).tkt.window.any (fun r => tkBad (some b) r.tkt) = false := List.any_eq_false.2 fun r hr => by simp [hgood r hr]
  have htorn : (List.replicate (s2.tile t.val).tkt.window.length Seen.grouped).contains .torn = false := by simp
  have hwaits : (List.replicate (s2.tile t.val).tkt.window.length Seen.grouped).any (fun v => v == .waits) = false :=
    List.any_eq_false.2 fun v hv => by rw [List.eq_of_mem_replicate hv]; decide
  have hvoided : (List.replicate (s2.tile t.val).tkt.window.length Seen.grouped).map (fun v => v == .voided) = l := by
    rw [hl, List.map_replicate, List.map_const']; rfl
  change execTsort t inp outp plan s = _
  refine (whenWord_of_turn h _).trans ?_
  simp only [htable, hs2, hopen, hups, hkey, hjudged, hbad, failIf, List.any_nil, Bool.false_eq_true, if_false, List.nil_append, List.map_const', htorn, hwaits,
    Nat.reduceBEq, Bool.and_false]
  rw [List.filterMap_replicate_of_none rfl]
  simp only [govern, hvoided, hemit]

theorem exec_temit_of_turn {outp : BitVec 4} (hmxu : (s.tile t.val).mxu = none) (h : TileHere s t.val (wTemit outp.toNat) x) :
    exec (.temit t outp) s = .next (if (s.tile t.val).upsets.contains .store then s.runParity x else s.emitTokens t.val x outp.toNat) := by
  change execTemit t outp s = _
  rw [execTemit, if_neg (by simp [hmxu])]
  exact (whenWord_of_turn h _).trans rfl

theorem State.attachTo_tile_pos (s : State) (t port : Nat) (l : List (Nat × Nat)) : ((s.attachTo t port x l).tile t).pos = (s.tile t).pos := by
  simp [State.attachTo, State.tile_setTile_self]

theorem State.attachTo_objs (s : State) (t port : Nat) (l : List (Nat × Nat)) : (s.attachTo t port x l).objs = s.objs := rfl

theorem State.attachTo_runs (s : State) (t port : Nat) (l : List (Nat × Nat)) : (s.attachTo t port x l).runs = s.runs := rfl

/-- The window of an empty plan has no token: no row is sent. -/
theorem State.emitTokens_of_empty {outp : Nat} (hn : fieldLE (s.tile t.val).tkt.plan 4 2 = 0) :
    ((s.emitTokens t.val x outp).tile t.val).tkt.plan = [] ∧ ((s.emitTokens t.val x outp).tile t.val).tkt.window = [] ∧
      ((s.emitTokens t.val x outp).tile t.val).tkt.stored = [] ∧ ((s.emitTokens t.val x outp).tile t.val).pos = (s.tile t.val).pos + 1 ∧
      (s.emitTokens t.val x outp).objs = s.objs := by
  simp [State.emitTokens, hn, State.done1, State.tile_advance_self, State.tile_setTile_self, State.attachTo_tile_pos, State.attachTo_objs]

theorem exec_adapterWaitTimeout_of_late {w : Nat} (hsite : s.site t.val = some x) (hwait : (s.tile t.val).tkt.waiting = some w) (hlate : 2000000 < s.ts - w) :
    exec (.adapterWaitTimeout t) s = .next (s.runFault x .tierFail) := by
  change execAdapterWaitTimeout t s = _
  simp only [execAdapterWaitTimeout, hsite, hwait, hlate, if_true]

/-- With every row's ticket at hand the port takes the rows. -/
theorem exec_temit_sends {outp : BitVec 4} {n len : Nat} {rows : List (List Beat)} {s2 : State} (hmxu : (s.tile t.val).mxu = none)
    (h : TileTurn s t.val (wTemit outp.toNat) x) (hn : n = fieldLE (s.tile t.val).tkt.plan 4 2) (hn0 : n ≠ 0) (hlen : len = x.outRowBytes outp.toNat)
    (hrows : rows = (List.range n).map (fun i => padRow len (((s.tile t.val).tkt.stored.get i).getD (zeroRow (fmtOf (s.tile t.val).tkt.fmt) (s.tile t.val).tkt.cols))))
    (hs2 : s2 = ({ s with free := s.free + 2 * n } : State).attachTo t.val outp.toNat x ((List.range n).map ((s.tile t.val).tkt.tokenTicket s.free)))
    (hsend : x.canSend (s2.tile t.val) outp.toNat rows.flatten.length) :
    ∃ s3, s2.sendPort t.val outp.toNat x rows.flatten = some s3 ∧ exec (.temit t outp) s = .next (s3.done1 t.val { s3.tile t.val with
      tkt := { (s3.tile t.val).tkt with plan := [], window := [], stored := [], emitted := (s3.tile t.val).tkt.emitted + n },
      regs := bump (s3.tile t.val).regs cTktStore (n * storeLoss len (x.outLinks outp.toNat)) }) := by
  have hrun : s2.runs.get x.rid = some x.run := by rw [hs2]; exact h.run
  obtain ⟨s3, hs3⟩ := State.sendPort_of_canSend hrun hsend
  refine ⟨s3, hs3, ?_⟩
  rw [exec_temit_of_turn hmxu h.1, h.2, if_neg (by simp)]
  simp only [State.emitTokens, ← hn, hn0, if_false, ← hlen, ← hrows, ← hs2, hs3]

end Windows

/-! TGATH (R191, R192, R200 to R202). -/

section Gather
variable {s s3 : State} {t : Sys2Proof.Tile} {x : Site}

/-- What TGATH does once its window holds as many rows as its plan names. -/
def State.gather (s : State) (t : Nat) (x : Site) (b : Bytes) (a : MxuArgs) (restore pack : Bool) : State :=
  let u := (s.tile t).tkt
  if (s.tile t).upsets.contains .window then s.runParity x
  else
    let badPart (r : TktRow) : Bool := tkPart r.tkt != x.run.part && !x.run.dispParts.contains (tkPart r.tkt)
    (match govern (failIf (u.window.any (fun r => tkBad (some b) r.tkt)) .malformed ++ failIf (u.window.any badPart) .bounds) with
     | some st => s.runFault x st
     | none =>
       let u := s.layGroups x b u a restore pack
       let s := (s.setTile t { s.tile t with tkt := u }).bumpTile t cTktGroups u.groups.length
       let skipped := if restore then 0 else (u.window.filter (fun r => tblSkip b (tkSkip r.tkt))).length
       (s.bumpTile t cTktSkipped skipped).advance t 1)

theorem exec_tgath_of_full {plan : BitVec 4} {restore pack : Bool} {w0 w1 n : Nat} {b p : Bytes} {s2 : State}
    (hmxu : (s.tile t.val).mxu = none) (h : TileHere s t.val (wTgath plan.toNat restore pack) x) (hw0 : x.word ((s.tile t.val).pos + 1) = some w0)
    (hw1 : x.word ((s.tile t.val).pos + 2) = some w1) (htable : x.im.tableOf (x.im.stageAt x.st) = some b) (htaking : (s.tile t.val).tkt.taking = false)
    (hs2 : s.collectCarry t.val plan.toNat 65 x 65 = s2) (htaking2 : (s2.tile t.val).tkt.taking = false) (hplan : 65 ≤ (s2.tile t.val).carryBuf.length)
    (hp : p = ((s2.tile t.val).carryBuf.flatMap (fun c => c.data)).take 4160) (hn : n = fieldLE p 6 2)
    (hs3 : (s2.setTile t.val { s2.tile t.val with
      tkt := (s2.tile t.val).tkt.takePlan p (s2.planTokens x plan.toNat (s2.tile t.val).tkt.plans p), carryBuf := [] }).fillWindow
        t.val (mxu0Of w0 w1).sport.toNat n x (n + 1) = s3)
    (hfull : n ≤ (s3.tile t.val).tkt.window.length) :
    exec (.tgath t plan restore pack) s = .next (s3.gather t.val x b (mxu0Of w0 w1) restore pack) := by
  change execTgath t plan restore pack s = _
  rw [execTgath, if_neg (by simp [hmxu])]
  refine (whenWord_of_turn h _).trans ?_
  have hcarry : ¬ (s2.tile t.val).carryBuf.length < 65 := by omega
  have hfull' : ¬ (s3.tile t.val).tkt.window.length < n := by omega
  have htake : ∀ l, ((s2.tile t.val).tkt.takePlan p l).plan = p := fun _ => rfl
  simp only [hw0, hw1, htable, htaking, hs2, hcarry, htaking2, decide_false, Bool.and_false, Bool.false_eq_true, if_false, ← hp, htake, ← hn, hs3, hfull']
  rfl

theorem State.gather_of_own {b : Bytes} {a : MxuArgs} {restore pack : Bool} (hpar : (s3.tile t.val).upsets.contains .window = false)
    (hgood : ∀ r ∈ (s3.tile t.val).tkt.window, tkBad (some b) r.tkt = false) (hown : ∀ r ∈ (s3.tile t.val).tkt.window, tkPart r.tkt = x.run.part) :
    ((s3.gather t.val x b a restore pack).tile t.val).tkt = s3.layGroups x b (s3.tile t.val).tkt a restore pack ∧
      ((s3.gather t.val x b a restore pack).tile t.val).pos = (s3.tile t.val).pos + 1 := by
  have hbad : (s3.tile t.val).tkt.window.any (fun r => tkBad (some b) r.tkt) = false := List.any_eq_false.2 fun r hr => by simp [hgood r hr]
  have hpart : (s3.tile t.val).tkt.window.any (fun r => tkPart r.tkt != x.run.part && !x.run.dispParts.contains (tkPart r.tkt)) = false :=
    List.any_eq_false.2 fun r hr => by simp [hown r hr]
  simp only [State.gather, hpar, hbad, hpart, failIf, Bool.false_eq_true, if_false, List.append_nil, govern]
  simp [State.tile_advance_self, State.tile_setTile_self]

theorem State.gather_of_stranger {b : Bytes} {a : MxuArgs} {restore pack : Bool} (hpar : (s3.tile t.val).upsets.contains .window = false)
    (hgood : ∀ r ∈ (s3.tile t.val).tkt.window, tkBad (some b) r.tkt = false)
    (hother : ∃ r ∈ (s3.tile t.val).tkt.window, tkPart r.tkt ≠ x.run.part ∧ tkPart r.tkt ∉ x.run.dispParts) :
    s3.gather t.val x b a restore pack = s3.runFault x .bounds := by
  have hbad : (s3.tile t.val).tkt.window.any (fun r => tkBad (some b) r.tkt) = false := List.any_eq_false.2 fun r hr => by simp [hgood r hr]
  have hpart : (s3.tile t.val).tkt.window.any (fun r => tkPart r.tkt != x.run.part && !x.run.dispParts.contains (tkPart r.tkt)) = true := by
    obtain ⟨r, hr, hne, hnot⟩ := hother
    exact List.any_eq_true.2 ⟨r, hr, by simp [hne, hnot]⟩
  simp only [State.gather, hpar, hbad, hpart, failIf, Bool.false_eq_true, if_false, if_true, List.nil_append, govern]

end Gather

/-- Settles O25: each clause is the instruction's lemma; TEMIT's and TGATH's rest on what they do past their parity check and their window. -/
theorem ticketsAndGathers : Obligations.TicketsAndGathers := by
  refine ⟨fun s t x => ⟨?tsrc, ?troute, ?tatt, ?tsort, ?temitEmpty, ?temit, ?temitParity, ?wait⟩, ?tgath⟩
  case tsrc => intro port h; exact exec_tsrc_of_turn h
  case troute => intro port reg h; exact exec_troute_of_turn h
  case tatt => intro slot port reg rows off b l h hb hl hgood hzero; exact exec_tatt_of_back h hb hl hgood hzero
  case tsort =>
    intro inp outp plan b s2 l s3 h htable hkey hs2 hfull hups hjudged hgood hl hemit
    exact exec_tsort_emits h htable hkey hs2 hfull hups hjudged hgood hl hemit
  case temitEmpty =>
    intro outp hmxu h hn
    refine ⟨_, exec_temit_of_turn hmxu h.1, ?_⟩
    rw [h.2, if_neg (by simp)]
    exact State.emitTokens_of_empty hn
  case temit => intro outp n len rows s2 hmxu h hn hn0 hlen hrows hs2 hsend; exact exec_temit_sends hmxu h hn hn0 hlen hrows hs2 hsend
  case temitParity =>
    intro outp hmxu h hpar
    rw [exec_temit_of_turn hmxu h, if_pos hpar]
    rfl
  case wait => intro w hsite hwait hlate; exact exec_adapterWaitTimeout_of_late hsite hwait hlate
  case tgath =>
    intro s t x plan restore pack w0 w1 b s2 p n s3 tk hmxu h hw0 hw1 htable htaking hs2 htaking2 hplan hp hn hs3 htk hfull hpar hgood
    subst htk
    have hexec := exec_tgath_of_full hmxu h hw0 hw1 htable htaking hs2 htaking2 hplan hp hn hs3 hfull
    refine ⟨fun hown => ⟨_, hexec, ?_⟩, fun hother => by rw [hexec, State.gather_of_stranger hpar hgood hother]⟩
    obtain ⟨htkt, hpos⟩ := State.gather_of_own hpar hgood hown
    rw [htkt]
    exact ⟨rfl, rfl, rfl, rfl, rfl, hpos⟩

end Sys2Proof.Machine
end

section
/-! ### Exchange and dispatch (R380 to R382, R393)

What a stream collective does with its operation and without one, then XDISP and XCOMB of a whole window, and O26 put together from them. -/

namespace Sys2Proof.Machine

/-! The stream collectives. -/

section Collectives
variable {s : State} {t : Sys2Proof.Tile} {x : Site} {wire inp outp : BitVec 4} {group : U8} {count : U32} {me op : Nat}

/-- An operation of the member on this lane, opened by this RUN. -/
def Coll.ofLane (c : Coll) (me : Nat) (x : Site) : Bool := c.member == me && c.hi == x.k && c.op != 0xA8 && c.rid == x.rid

theorem exec_exchange {i : Instr} (h : (op = 0xA0 ∧ i = .xallred t wire inp outp group count) ∨ (op = 0xA1 ∧ i = .xredsc t wire inp outp group count) ∨
    (op = 0xA2 ∧ i = .xallga t wire inp outp group count)) : exec i s = runExchange op t wire inp outp group count s := by
  obtain ⟨rfl, rfl⟩ | ⟨rfl, rfl⟩ | ⟨rfl, rfl⟩ := h
  · rfl
  · rfl
  · rfl

section Issued
variable (h : TileHere s t.val (wX op wire.toNat inp.toNat outp.toNat group.toNat count.toNat) x) (hme : s.memberOf (s.group group.toNat) x.run.part = some me)
  (hpass : exchangeFail (s.group group.toNat) (some wire.toNat) (some me) = none)
include h hme hpass

theorem runExchange_delivers {c : Coll} {s2 : State} (hfind : (s.group group.toNat).colls.find? (fun c => c.ofLane me x) = some c)
    (hwhole : (s.group group.toNat).complete c = true) (hgood : c.spoiled = false)
    (hbeats : mkBeats (packWire c.wire ((s.group group.toNat).delivered c)) [] 0 0 ≠ [])
    (hsent : s.sendPort t.val outp.toNat x (mkBeats (packWire c.wire ((s.group group.toNat).delivered c)) [] 0 0) = some s2) :
    runExchange op t wire inp outp group count s = .next ((s2.closeColl group.toNat c).advance t.val 1) := by
  unfold Coll.ofLane at hfind
  refine (whenWord_of_turn h _).trans ?_
  simp only [hme, hpass, hfind, hwhole, hgood, Bool.not_true, Bool.false_eq_true, if_false, List.isEmpty_iff, hbeats, hsent]

theorem runExchange_of_spoiled {c : Coll} (hfind : (s.group group.toNat).colls.find? (fun c => c.ofLane me x) = some c)
    (hwhole : (s.group group.toNat).complete c = true) (hbad : c.spoiled = true) :
    runExchange op t wire inp outp group count s = .next (s.runFault x .parity) := by
  unfold Coll.ofLane at hfind
  refine (whenWord_of_turn h _).trans ?_
  simp only [hme, hpass, hfind, hwhole, hbad, Bool.not_true, Bool.false_eq_true, if_false, if_true]
  rfl

theorem runExchange_opens {s2 : State} {n : Nat} (hfind : (s.group group.toNat).colls.find? (fun c => c.ofLane me x) = none)
    (hn : n = (s.tile t.val).beatsFor inp.toNat (count.toNat * wireBytes wire.toNat)) (hs2 : s.collect t.val inp.toNat n x n = s2)
    (hall : n ≤ (s2.tile t.val).rowBuf.length) :
    ∃ u c, runExchange op t wire inp outp group count s = .next ((State.openColl u group.toNat c).moved x.rid) ∧ c.member = me ∧ c.op = op ∧ c.hi = x.k ∧
      c.seq = (s.group group.toNat).seqs.getD (64 * me + x.k) 0 ∧ c.count = count.toNat ∧
      c.own = unpackWire wire.toNat count.toNat ((s2.tile t.val).atHand inp.toNat) ∧ c.sent = [] ∧ c.results = [] := by
  have hall' : ¬ (s2.tile t.val).rowBuf.length < n := by omega
  have hw := whenWord_of_turn h
  unfold Coll.ofLane at hfind
  rw [show runExchange op t wire inp outp group count s = _ from hw _]
  simp only [hme, hpass, hfind, ← hn, hs2, hall', if_false]
  exact ⟨_, _, rfl, rfl, rfl, rfl, rfl, rfl, rfl, rfl, rfl⟩

end Issued
end Collectives

/-! XDISP and XCOMB. -/

section Dispatch
variable {s : State} {t : Sys2Proof.Tile} {x : Site} {inp outp : BitVec 4} {group : U8} {me : Nat} {d : Disp}
variable (hme : s.memberOf (s.group group.toNat) x.run.part = some me) (hpass : exchangeFail (s.group group.toNat) none (some me) = none)
include hme hpass

/-- Every member's rows of the window are there and pass: they leave by the out port, and the lane goes on to its next window. -/
theorem exec_xdisp_emits {b : Bytes} {rows : List TktRow} {s2 : State} {r : Run}
    (h : TileHere s t.val (wX 0xA3 0 inp.toNat outp.toNat group.toNat 0) x) (htable : x.im.tableOf (x.im.stageAt x.st) = some b)
    (hfind : (s.group group.toNat).disps.find? (fun e => e.member == me && e.lane == x.k && e.window == (s.group group.toNat).windows.getD (64 * me + x.k) 0) = some d)
    (hgot : ∀ m < (s.group group.toNat).n, d.got.has m = true) (hrows : rows = (List.range (s.group group.toNat).n).flatMap (fun m => d.got.getD m []))
    (hsome : rows ≠ []) (hgood : ∀ r ∈ rows, tkBad (some b) r.tkt = false)
    (hpart : ∀ m < (s.group group.toNat).n, m ≠ me → ∀ r ∈ d.got.getD m [], tkPart r.tkt = gePart (s.group group.toNat).entry m)
    (hsent : (s.attachTo t.val outp.toNat x (rows.map (fun r => (r.tkt, r.gate)))).sendPort t.val outp.toNat x
      (rows.flatMap (fun r => padRow (x.outRowBytes outp.toNat) r.beats)) = some s2)
    (hrun : s2.runs.get x.rid = some r) :
    ∃ s3 s4, s3 = s2.setDisp group.toNat { d with emitted := true } ∧
      s4 = s3.setGroup group.toNat { s3.group group.toNat with
        windows := (s3.group group.toNat).windows.set (64 * me + x.k) ((s.group group.toNat).windows.getD (64 * me + x.k) 0 + 1) } ∧
      exec (.xdisp t inp outp group) s =
        .next ((s4.setRun x.rid { r with dispParts := (r.dispParts ++ rows.map (fun r => tkPart r.tkt)).eraseDups }).advance t.val 1) := by
  refine ⟨_, _, rfl, rfl, ?_⟩
  have hall : (List.range (s.group group.toNat).n).all (fun m => d.got.has m) = true := List.all_eq_true.2 fun m hm => hgot m (List.mem_range.1 hm)
  have hbad : rows.any (fun r => tkBad (some b) r.tkt) = false := List.any_eq_false.2 fun r hr => by simp [hgood r hr]
  have hother : (List.range (s.group group.toNat).n).any
      (fun m => m != me && (d.got.getD m []).any (fun r => tkPart r.tkt != gePart (s.group group.toNat).entry m)) = false :=
    List.any_eq_false.2 fun m hm => by
      by_cases hne : m = me
      · simp [hne]
      · simpa [hne] using fun r hr => hpart m (List.mem_range.1 hm) hne r hr
  have hrun4 : ∀ g, ((s2.setDisp group.toNat { d with emitted := true }).setGroup group.toNat g).runs.get x.rid = some r := fun _ => hrun
  change execXdisp t inp outp group s = _
  refine (whenWord_of_turn h _).trans ?_
  simp only [hme, hpass, htable, hfind, hall, ← hrows, hother, hbad, Bool.not_true, Bool.false_eq_true, if_false, List.isEmpty_iff, hsome, hsent, hrun4]

/-- Every member's results are back: they leave by the out port in the order the member's own rows went out, and the window is forgotten. -/
theorem exec_xcomb_emits {out : List (List Beat × TktRow)} {s2 : State} (h : TileHere s t.val (wX 0xA4 0 inp.toNat outp.toNat group.toNat 0) x)
    (hfind : (s.group group.toNat).disps.find? (fun e => e.member == me && e.lane == x.k && e.emitted) = some d) (hreturned : d.returned = true)
    (hback : ∀ m < (s.group group.toNat).n, d.back.has m = true)
    (hout : out = (d.rows.zipIdx).map (fun e => ((d.back.getD e.1.1 []).getD ((d.rows.take e.2).filter (fun r => r.1 == e.1.1)).length [], e.1.2)))
    (hsome : out ≠ [])
    (hsent : (s.attachTo t.val outp.toNat x (out.map (fun r => (r.2.tkt, r.2.gate)))).sendPort t.val outp.toNat x
      (out.flatMap (fun r => padRow (x.outRowBytes outp.toNat) r.1)) = some s2) :
    ∃ s3, s3 = s2.setGroup group.toNat { s2.group group.toNat with
        disps := (s2.group group.toNat).disps.filter (fun e => !(e.member == me && e.lane == d.lane && e.window == d.window)) } ∧
      exec (.xcomb t inp outp group) s = .next ((s3.bumpPart x.run.part cGrpOps 1).advance t.val 1) := by
  refine ⟨_, rfl, ?_⟩
  have hall : (List.range (s.group group.toNat).n).all (fun m => d.back.has m) = true := List.all_eq_true.2 fun m hm => hback m (List.mem_range.1 hm)
  change execXcomb t inp outp group s = _
  refine (whenWord_of_turn h _).trans ?_
  simp only [hme, hpass, hfind, hreturned, hall, ← hout, Bool.not_true, Bool.false_eq_true, if_false, List.isEmpty_iff, hsome, hsent]

end Dispatch

/-- Settles O26: a collective of a member that passes delivers, faults or opens; a window whose rows or results are all there leaves by its port. -/
theorem exchangeAndDispatch : Obligations.ExchangeAndDispatch := by
  refine ⟨?collective, ?window⟩
  case collective =>
    intro s t x wire inp outp group count me op g hg h hme hpass i hi
    subst hg
    rw [exec_exchange hi]
    refine ⟨fun c hfind hwhole hgood s2 hbeats hsent => runExchange_delivers h.1 hme hpass hfind hwhole hgood hbeats hsent,
      fun c hfind hwhole hbad => runExchange_of_spoiled h.1 hme hpass hfind hwhole hbad,
      fun s2 n hfind hn hs2 hall => runExchange_opens h.1 hme hpass hfind hn hs2 hall⟩
  case window =>
    intro s t x inp outp group me g d hg hme hpass
    subst hg
    exact ⟨fun b rows s2 r h htable hfind hgot hrows hsome hgood hpart hsent hrun =>
        exec_xdisp_emits hme hpass h.1 htable hfind hgot hrows hsome hgood hpart hsent hrun,
      fun out s2 h hfind hreturned hback hout hsome hsent => exec_xcomb_emits hme hpass h.1 hfind hreturned hback hout hsome hsent⟩

end Sys2Proof.Machine
end

section
/-! ### Feeds of an attempt (R308 to R311, R317, R327)

The fields of UPD_COMMIT, UFEED and UEND of a set without a group, and what opening an attempt sets; O27 put together from them. -/

namespace Sys2Proof.Machine

/-! The commit word (R327). -/

section Commit
variable {half st mode buckets : Nat} {nonfinite big dropped torn : Bool}

theorem b2n_le (b : Bool) : b2n b ≤ 1 := by cases b <;> decide

/-- A bit written by `b2n` reads back. -/
theorem beq_one_of_b2n {n : Nat} {b : Bool} (h : n = b2n b) : (n == 1) = b := by subst h; cases b <;> rfl

section Fits
variable (hst : st < 8) (hmode : mode < 2)
include hst hmode

theorem mkCommit_toNat : (mkCommit half st nonfinite big dropped mode torn buckets).toNat =
    half % 2 * 2 ^ 31 + st * 2 ^ 28 + b2n nonfinite * 2 ^ 27 + b2n big * 2 ^ 26 + b2n dropped * 2 ^ 25 + mode * 2 ^ 24 + b2n torn * 2 ^ 23 +
      min buckets (2 ^ 20 - 1) := by
  have h1 := b2n_le nonfinite
  have h2 := b2n_le big
  have h3 := b2n_le dropped
  have h4 := b2n_le torn
  rw [mkCommit, BitVec.toNat_ofNat, Nat.mod_eq_of_lt (by omega)]

theorem cmHalf_mkCommit : cmHalf (mkCommit half st nonfinite big dropped mode torn buckets) = half % 2 := by
  have h1 := b2n_le nonfinite
  have h2 := b2n_le big
  have h3 := b2n_le dropped
  have h4 := b2n_le torn
  simp only [cmHalf, mkCommit_toNat hst hmode, bitsOf]
  omega

theorem cmState_mkCommit : cmState (mkCommit half st nonfinite big dropped mode torn buckets) = st := by
  have h1 := b2n_le nonfinite
  have h2 := b2n_le big
  have h3 := b2n_le dropped
  have h4 := b2n_le torn
  simp only [cmState, mkCommit_toNat hst hmode, bitsOf]
  omega

theorem cmBuckets_mkCommit (h : buckets < 2 ^ 20) : cmBuckets (mkCommit half st nonfinite big dropped mode torn buckets) = buckets := by
  simp only [cmBuckets, mkCommit_toNat hst hmode, bitsOf]
  omega

theorem cmNonfinite_mkCommit : cmNonfinite (mkCommit half st nonfinite big dropped mode torn buckets) = nonfinite := by
  have h1 := b2n_le nonfinite
  have h2 := b2n_le big
  have h3 := b2n_le dropped
  have h4 := b2n_le torn
  simp only [cmNonfinite, mkCommit_toNat hst hmode, bitOf]
  exact beq_one_of_b2n (by omega)

theorem cmOver_mkCommit : cmOver (mkCommit half st nonfinite big dropped mode torn buckets) = big := by
  have h1 := b2n_le nonfinite
  have h2 := b2n_le big
  have h3 := b2n_le dropped
  have h4 := b2n_le torn
  simp only [cmOver, mkCommit_toNat hst hmode, bitOf]
  exact beq_one_of_b2n (by omega)

theorem cmDropped_mkCommit : cmDropped (mkCommit half st nonfinite big dropped mode torn buckets) = dropped := by
  have h1 := b2n_le nonfinite
  have h2 := b2n_le big
  have h3 := b2n_le dropped
  have h4 := b2n_le torn
  simp only [cmDropped, mkCommit_toNat hst hmode, bitOf]
  exact beq_one_of_b2n (by omega)

theorem cmTorn_mkCommit : cmTorn (mkCommit half st nonfinite big dropped mode torn buckets) = torn := by
  have h1 := b2n_le nonfinite
  have h2 := b2n_le big
  have h3 := b2n_le dropped
  have h4 := b2n_le torn
  simp only [cmTorn, mkCommit_toNat hst hmode, bitOf]
  exact beq_one_of_b2n (by omega)

end Fits

theorem cmHalf_lt (c : U32) : cmHalf c < 2 := Nat.mod_lt _ (by decide)

theorem USet.railOk_setCommit (u : USet) (c : U32) : (u.setCommit c).railOk = true := by simp [USet.railOk, USet.setCommit]

@[simp] theorem USet.setCommit_epoch (u : USet) (c : U32) : (u.setCommit c).epoch = u.epoch := rfl
@[simp] theorem USet.setCommit_scale (u : USet) (c : U32) : (u.setCommit c).scale = u.scale := rfl

end Commit

/-! UFEED and UEND of a set without a group. -/

section Feeds
variable {s : State} {t : Sys2Proof.Tile} {x : Site} {set : BitVec 4} {k : Nat} {u : USet}
variable (hk : k = setKey x.run.part set.toNat) (hu : s.usets.get k = some u) (hctx : u.ctx = x.run.ctx) (hrail : u.railOk = true)
include hk hu hctx hrail

theorem exec_uend_notes (hgroup : u.group = none) (h : TileHere s t.val (wUend set.toNat) x) :
    exec (.uend t set) s = .next ((s.setUset k { u with ended := insertNat t.val u.ended }).advance t.val 1) := by
  subst hk
  change execUend t set s = _
  refine (whenWord_of_turn h _).trans ?_
  simp only [hu, hctx, hrail, hgroup, bne_self_eq_false, Option.isSome_none, Bool.false_and, Bool.not_true, Bool.false_eq_true, if_false]

section Ufeed
variable {fmt port : BitVec 4} {reg : BitVec 5} {count : U32}
variable (h : TileHere s t.val (wUfeed fmt.toNat port.toNat set.toNat reg.toNat count.toNat) x)
  (hpass : govern (s.ufeedFails x u fmt.toNat ((s.tile t.val).sreg reg.toNat).toNat count.toNat) = none)
include h hpass

theorem exec_ufeed_stalls (hrun : u.run = some x.rid) (hfull : dieStaging < s.stagingUsed (tileDie t.val) + count.toNat * ufeedBytes fmt.toNat) :
    exec (.ufeed t fmt port set reg count) s = .next s := by
  subst hk
  change execUfeed t fmt port set reg count s = _
  refine (whenWord_of_turn h _).trans ?_
  simp only [hu, hctx, hrail, hpass, hrun, hfull, bne_self_eq_false, Option.isNone_some, Bool.false_and, Bool.not_true, Bool.false_eq_true, if_false, if_true]

theorem exec_ufeed_of_hypFails {st : Status × Scope} (hrun : u.run = none) (hmode : u.mode = 0)
    (hroom : s.stagingUsed (tileDie t.val) + count.toNat * ufeedBytes fmt.toNat ≤ dieStaging) (hhyp : governOf (s.hypFails u) = some st) :
    exec (.ufeed t fmt port set reg count) s = .next (s.runStop x st) := by
  subst hk
  have hroom' : ¬ dieStaging < s.stagingUsed (tileDie t.val) + count.toNat * ufeedBytes fmt.toNat := by omega
  change execUfeed t fmt port set reg count s = _
  refine (whenWord_of_turn h _).trans ?_
  simp only [hu, hctx, hrail, hpass, hrun, hmode, hroom', hhyp, bne_self_eq_false, Option.isNone_none, Nat.reduceBEq, Bool.and_false, Bool.false_and, Bool.not_true,
    Bool.false_eq_true, if_false, if_true]

/-- The bucket of an attempt that this RUN has opened stands in staging once its elements have come. -/
theorem exec_ufeed_feeds {sa w n : Nat} {s2 : State} {u2 : USet} {codes : List Nat} (hrun : u.run = some x.rid) (hsa : sa = ((s.tile t.val).sreg reg.toNat).toNat)
    (hroom : s.stagingUsed (tileDie t.val) + count.toNat * ufeedBytes fmt.toNat ≤ dieStaging) (hw : w = ufeedBytes fmt.toNat)
    (hn : n = (s.tile t.val).beatsFor port.toNat (count.toNat * w)) (hs2 : s.collect t.val port.toNat n x n = s2) (hall : n ≤ (s2.tile t.val).rowBuf.length)
    (hu2 : s2.usets.get k = some u2) (hgroup2 : u2.group = none)
    (hcodes : codes = (List.range count.toNat).map (fun i => fieldLE ((s2.tile t.val).atHand port.toNat) (w * i) w)) :
    ∃ v, v.staging = u2.staging ++ [⟨sa % 4096, sa / 2 ^ 32, t.val, codes.map (widen32 (wireFmt fmt.toNat)), count.toNat * w, false⟩] ∧
      v.fed = u2.fed ++ [(sa % 4096, sa / 2 ^ 32, count.toNat)] ∧ v.commit = u2.commit ∧ v.acc = u2.acc ∧
      exec (.ufeed t fmt port set reg count) s =
        .next (((s2.setTile t.val ((s2.tile t.val).takeElems port.toNat (count.toNat * w))).setUset k v).advance t.val 1) := by
  subst hk hw
  have hroom' : ¬ dieStaging < s.stagingUsed (tileDie t.val) + count.toNat * ufeedBytes fmt.toNat := by omega
  have hall' : ¬ (s2.tile t.val).rowBuf.length < n := by omega
  rw [← hsa] at hpass
  have hturn := whenWord_of_turn h
  rw [show exec (.ufeed t fmt port set reg count) s = execUfeed t fmt port set reg count s from rfl, execUfeed, hturn]
  simp only [hu, hctx, hrail, ← hsa, hpass, hrun, hroom', ← hn, hs2, hall', hu2, hgroup2, ← hcodes, bne_self_eq_false, Option.isNone_some, Bool.false_and, Bool.not_true,
    Bool.false_eq_true, if_false]
  refine ⟨_, ?_, ?_, ?_, ?_, rfl⟩ <;> rfl

end Ufeed
end Feeds

/-! Opening an attempt. -/

theorem State.get_setUset_self (s : State) (k : Nat) (u : USet) : (s.setUset k u).usets.get k = some u := Tbl.get_set_self ..

theorem State.seedUnits_usets (s : State) (rid : Nat) (r : Run) : (s.seedUnits rid r).usets = s.usets := by
  unfold State.seedUnits
  split <;> rfl

/-- The word an attempt opens with (R327). -/
def USet.openWord (u : USet) : U32 := mkCommit u.half 1 false false false u.mode (cmTorn u.commit) 0

theorem State.openAttempt_sets (s : State) (k rid : Nat) (u : USet) (r : Run) :
    ∃ v, (s.openAttempt k u rid r).usets.get k = some v ∧ v.commit = u.openWord ∧ v.commitN = ~~~u.openWord ∧ v.acc = 0 ∧ v.staging = [] ∧ v.run = some rid ∧
      v.epoch = u.epoch ∧ v.scale = u.scale := by
  refine ⟨?v, ?get, ?fields⟩
  case get =>
    unfold State.openAttempt
    dsimp only
    rw [apply_ite State.usets, State.setPart_usets, State.seedUnits_usets, ite_self]
    exact State.get_setUset_self ..
  case fields => exact ⟨rfl, rfl, rfl, rfl, rfl, u.setCommit_epoch (mkCommit u.half 1 false false false u.mode (cmTorn u.commit) 0),
    u.setCommit_scale (mkCommit u.half 1 false false false u.mode (cmTorn u.commit) 0)⟩

theorem State.openAttempt_resets (s : State) (k rid : Nat) (u : USet) (r : Run) (hmode : u.mode < 2) :
    ∃ v, (s.openAttempt k u rid r).usets.get k = some v ∧ cmState v.commit = 1 ∧ cmNonfinite v.commit = false ∧ cmOver v.commit = false ∧
      cmDropped v.commit = false ∧ cmBuckets v.commit = 0 ∧ v.half = u.half ∧ cmTorn v.commit = cmTorn u.commit ∧ v.railOk = true ∧ v.acc = 0 ∧
      v.staging = [] ∧ v.run = some rid ∧ v.epoch = u.epoch ∧ v.scale = u.scale := by
  obtain ⟨v, hget, hcommit, hcommitN, hrest⟩ := s.openAttempt_sets k rid u r
  refine ⟨v, hget, ?_, ?_, ?_, ?_, ?_, ?_, ?_, ?_, hrest⟩
  · rw [hcommit]; exact cmState_mkCommit (by decide) hmode
  · rw [hcommit]; exact cmNonfinite_mkCommit (by decide) hmode
  · rw [hcommit]; exact cmOver_mkCommit (by decide) hmode
  · rw [hcommit]; exact cmDropped_mkCommit (by decide) hmode
  · rw [hcommit]; exact cmBuckets_mkCommit (by decide) hmode (by decide)
  · rw [USet.half, hcommit, USet.openWord, cmHalf_mkCommit (by decide) hmode]
    exact Nat.mod_eq_of_lt (cmHalf_lt _)
  · rw [hcommit]; exact cmTorn_mkCommit (by decide) hmode
  · simp [USet.railOk, hcommit, hcommitN]

/-- Settles O27: UFEED of an open attempt feeds, stalls or ends the context, UEND notes its tile, and opening an attempt resets its word. -/
theorem feedsAndAttempts : Obligations.FeedsAndAttempts := by
  refine ⟨?tile, fun s k rid u r hmode => s.openAttempt_resets k rid u r hmode⟩
  intro s t x set k u hk hu hctx hrail hgroup
  refine ⟨?feeds, ?stalls, ?hyp, fun h => exec_uend_notes hk hu hctx hrail hgroup h.1⟩
  case feeds =>
    intro fmt port reg count sa w n s2 u2 codes h hrun hsa hpass hroom hw hn hs2 hall hu2 hgroup2 hcodes
    exact exec_ufeed_feeds hk hu hctx hrail h.1 (hsa ▸ hpass) hrun hsa hroom hw hn hs2 hall hu2 hgroup2 hcodes
  case stalls => intro fmt port reg count h hrun hpass hfull; exact exec_ufeed_stalls hk hu hctx hrail h.1 hpass hrun hfull
  case hyp =>
    intro fmt port reg count st h hrun hmode hpass hroom hhyp
    exact exec_ufeed_of_hypFails hk hu hctx hrail h.1 hpass hrun hmode hroom hhyp

end Sys2Proof.Machine
end

section
/-! ### Buckets of an update set (R309, R313, R314, R319, R326, R383)

UPD_BUCKET_APPLY of a set without a group and of a group's shard, the reads of state before it, and a bucket that bucket mode drops; O29 put together
from them. -/

namespace Sys2Proof.Machine

/-! The reads of state a bucket waits for. -/

section Fetch
variable {s : State} {k di first : Nat} {gs : List Nat} {u : USet} (hu : s.usets.get k = some u)
include hu

theorem State.fetchState_of_back (hfetch : u.fetch = some []) : s.fetchState k di first gs = none := by
  simp [State.fetchState, hu, hfetch]

theorem State.fetchState_of_outstanding {i : Nat} {l : List Nat} (hfetch : u.fetch = some (i :: l)) : s.fetchState k di first gs = some s := by
  simp [State.fetchState, hu, hfetch]

theorem State.fetchState_of_nothing (hfetch : u.fetch = none) (hnone : (s.stateReads k di first gs).2 = []) : s.fetchState k di first gs = none := by
  simp [State.fetchState, hu, hfetch, hnone]

end Fetch

theorem State.whenRails_of_ok {s : State} (h : s.shroud.railsOk = true) (f : State → Host.Outcome State Fault Refusal) : s.whenRails f = f s := by
  simp [State.whenRails, h]

/-! The oldest bucket of a set without a group. -/

section Apply
variable {s : State} {p : Part} {set : BitVec 4} {k : Nat} {u : USet} (hk : k = setKey p.val set.toNat) (hu : s.usets.get k = some u)
include hk hu

theorem exec_updBucketApply_of_torn (hrail : u.railOk = false) : exec (.updBucketApply p set) s = .next (s.partFault p.val .parity none) := by
  subst hk
  change execUpdBucketApply p set s = _
  simp only [execUpdBucketApply, hu, hrail, Bool.not_false, if_true]

variable (hrail : u.railOk = true) (hrails : s.shroud.railsOk = true)
include hrail hrails

section Own
variable {b : Bucket} {rest : List Bucket} (hgroup : u.group = none) (hstaging : u.staging = b :: rest)
include hgroup hstaging

theorem exec_updBucketApply_of_spoiled (hbad : b.spoiled = true) : exec (.updBucketApply p set) s = .next (s.unitFault k .parity .context) := by
  subst hk
  change execUpdBucketApply p set s = _
  simp only [execUpdBucketApply, hu, hrail, State.whenRails_of_ok hrails, hgroup, hstaging, hbad, Bool.not_true, Bool.false_eq_true, if_false, if_true]

variable (hgood : b.spoiled = false)
include hgood

theorem exec_updBucketApply_fetches {s2 : State} (hfetch : s.fetchState k b.desc b.first b.gs = some s2) : exec (.updBucketApply p set) s = .next s2 := by
  subst hk
  change execUpdBucketApply p set s = _
  simp only [execUpdBucketApply, hu, hrail, State.whenRails_of_ok hrails, hgroup, hstaging, hgood, hfetch, Bool.not_true, Bool.false_eq_true, if_false]

variable (hfetch : s.fetchState k b.desc b.first b.gs = none)
include hfetch

theorem exec_updBucketApply_applies {s2 : State} {wc : Bytes} {ok : Bool} {u2 : USet} (happly : s.applyBucket k b.desc b.first b.gs = .done s2 wc ok)
    (hu2 : s2.usets.get k = some u2) : exec (.updBucketApply p set) s = .next (s2.setUset k { u2 with staging := rest, fetch := none }) := by
  subst hk
  change execUpdBucketApply p set s = _
  simp only [execUpdBucketApply, hu, hrail, State.whenRails_of_ok hrails, hgroup, hstaging, hgood, hfetch, happly, hu2, Bool.not_true, Bool.false_eq_true, if_false]

theorem exec_updBucketApply_of_fault {s2 : State} {st : Status} {sc : Scope} (happly : s.applyBucket k b.desc b.first b.gs = .fault s2 st sc) :
    exec (.updBucketApply p set) s = .next (s2.unitFault k st sc) := by
  subst hk
  change execUpdBucketApply p set s = _
  simp only [execUpdBucketApply, hu, hrail, State.whenRails_of_ok hrails, hgroup, hstaging, hgood, hfetch, happly, Bool.not_true, Bool.false_eq_true, if_false]

end Own

/-! The first shard a member roots of a group's oldest bucket. -/

section Shard
variable {gi me i t : Nat} {c : Coll} {codes : List Nat} (hgood : c.spoiled = false) (hgroup : u.group = some gi)
  (hme : s.memberOf (s.group gi) p.val = some me)
  (hfind : ((s.group gi).colls.zipIdx).find? (fun e => e.1.op == 0xA8 && e.1.member == me && !((s.group gi).owed e.1).isEmpty) = some (c, i))
  (ht : t = ((s.group gi).owed c).headD 0) (hcodes : c.results.get t = some codes)
include hgood hgroup hme hfind ht hcodes

theorem exec_updBucketApply_fetches_shard {s2 : State}
    (hfetch : s.fetchState k c.hi (c.seq + (shardOf c.count (s.group gi).n t).1) (codes.map (widen32 (wireFmt c.wire))) = some s2) :
    exec (.updBucketApply p set) s = .next s2 := by
  subst hk
  change execUpdBucketApply p set s = _
  simp only [execUpdBucketApply, hu, hrail, State.whenRails_of_ok hrails, hgroup, hme, hfind, ← ht, hcodes, hgood, hfetch, Bool.not_true, Bool.false_eq_true, if_false]

theorem exec_updBucketApply_applies_shard {s2 : State} {wc : Bytes} {ok : Bool} {d : Desc}
    (hfetch : s.fetchState k c.hi (c.seq + (shardOf c.count (s.group gi).n t).1) (codes.map (widen32 (wireFmt c.wire))) = none)
    (happly : s.applyBucket k c.hi (c.seq + (shardOf c.count (s.group gi).n t).1) (codes.map (widen32 (wireFmt c.wire))) = .done s2 wc ok)
    (hd : u.descs[c.hi]? = some d) (hwc : wc ≠ []) :
    exec (.updBucketApply p set) s = .next (((geChildren (s.group gi).entry t me).foldl
      (fun s' ch => s'.sendAll kDown me ch (wcMsgs gi (s.group gi) c t d wc (shardOf c.count (s.group gi).n t).2)) (s2.fetchDone k)).shardDone gi i t) := by
  subst hk
  change execUpdBucketApply p set s = _
  simp only [execUpdBucketApply, hu, hrail, State.whenRails_of_ok hrails, hgroup, hme, hfind, ← ht, hcodes, hgood, hfetch, happly, hd, List.isEmpty_iff, hwc, Bool.not_true,
    Bool.false_eq_true, if_false]

end Shard
end Apply

/-! A bucket that bucket mode drops (R319). -/

section Drop
variable {c d : U32}

theorem bitOf_toNat (c : U32) (i : Nat) : bitOf c.toNat i = c.getLsbD i := by
  rw [← BitVec.testBit_toNat, Nat.testBit_eq_decide_div_mod_eq, bitOf]
  rfl

theorem cmDropped_or (h : cmDropped d = true) : cmDropped (c ||| d) = true := by
  rw [cmDropped, bitOf_toNat] at h ⊢
  simp [h]

theorem cmNonfinite_or_left (h : cmNonfinite c = true) : cmNonfinite (c ||| d) = true := by
  rw [cmNonfinite, bitOf_toNat] at h ⊢
  simp [h]

theorem cmNonfinite_or_right (h : cmNonfinite d = true) : cmNonfinite (c ||| d) = true := by
  rw [cmNonfinite, bitOf_toNat] at h ⊢
  simp [h]

theorem USet.commit_setCommit (u : USet) (c : U32) : (u.setCommit c).commit = c := rfl

theorem USet.acc_setCommit (u : USet) (c : U32) : (u.setCommit c).acc = u.acc := rfl

theorem USet.drops_of_nonfinite {u : USet} {gs : List Nat} (hmode : u.mode = 1) (hbad : (u.grads gs).any isNonfinite32 = true) : u.drops gs = true := by
  simp [USet.drops, hmode, hbad]

theorem State.applyBucket_drops {s : State} {k di first : Nat} {gs : List Nat} {u : USet} {d : Desc} (hu : s.usets.get k = some u) (hd : u.descs[di]? = some d)
    (hfree : s.rangeWaits k d ((s.recipe (k / 16) d.recipe).getD (fykorRecipe 0)) (d.blocksIn first gs.length) = false) (hmode : u.mode = 1)
    (hbad : (u.grads gs).any isNonfinite32 = true) :
    ∃ s2 v, s.applyBucket k di first gs = .done s2 [] false ∧ s2.usets.get k = some v ∧ cmDropped v.commit = true ∧ cmNonfinite v.commit = true ∧
      v.acc = u.acc + ((u.grads gs).map sq320).sum ∧ s2.objs = s.objs ∧ s2.hbm = s.hbm := by
  simp only [State.applyBucket, hu, hd, hfree, Bool.false_eq_true, if_false, USet.drops_of_nonfinite hmode hbad, hbad, if_true]
  refine ⟨_, _, rfl, State.get_setUset_self .., cmDropped_or (by decide), cmNonfinite_or_left ?_, ?_, rfl, rfl⟩
  · split
    · exact cmNonfinite_or_left (cmNonfinite_or_right (by decide))
    · exact cmNonfinite_or_right (by decide)
  · rw [USet.acc_setCommit]
    split <;> rfl

end Drop

/-- Settles O29: each clause is a lemma on the oldest bucket, on a group's shard, on the reads before them or on a dropped bucket. -/
theorem bucketsAreApplied : Obligations.BucketsAreApplied := by
  intro s p set k u hk hu
  refine ⟨?torn, ?fetches, ?spoiled, ?reads, ?applies, ?fault, ?fetchesShard, ?appliesShard, ?drops⟩
  case torn => exact exec_updBucketApply_of_torn hk hu
  case fetches =>
    intro b rest s2 hrail hrails hgroup hstaging hgood hfetch
    exact exec_updBucketApply_fetches hk hu hrail hrails hgroup hstaging hgood hfetch
  case spoiled =>
    intro b rest hrail hrails hgroup hstaging hbad
    exact exec_updBucketApply_of_spoiled hk hu hrail hrails hgroup hstaging hbad
  case reads =>
    exact fun di first gs => ⟨State.fetchState_of_back hu, fun i l => State.fetchState_of_outstanding hu, State.fetchState_of_nothing hu⟩
  case applies =>
    intro b rest s2 wc ok u2 hrail hrails hgroup hstaging hgood hfetch happly hu2
    exact exec_updBucketApply_applies hk hu hrail hrails hgroup hstaging hgood hfetch happly hu2
  case fault =>
    intro b rest s2 st sc hrail hrails hgroup hstaging hgood hfetch happly
    exact exec_updBucketApply_of_fault hk hu hrail hrails hgroup hstaging hgood hfetch happly
  case fetchesShard =>
    intro gi g me c i t codes s2 hrail hrails hgood hgroup hg hme hfind ht hcodes hfetch
    subst hg
    exact exec_updBucketApply_fetches_shard hk hu hrail hrails hgood hgroup hme hfind ht hcodes hfetch
  case appliesShard =>
    intro gi g me c i t codes s2 wc ok d hrail hrails hgood hgroup hg hme hfind ht hcodes hfetch happly hd hwc
    subst hg
    exact exec_updBucketApply_applies_shard hk hu hrail hrails hgood hgroup hme hfind ht hcodes hfetch happly hd hwc
  case drops =>
    intro di first gs d G hd hfree hmode hG hbad
    subst hG
    exact State.applyBucket_drops hu hd hfree hmode hbad

end Sys2Proof.Machine
end

section
/-! ### The close of an attempt (R316 to R321)

What the writes of a close leave of the update sets, the loss scale and the decision, UPD_ATTEMPT_CLOSE by the state of its set, and a rejected paired set;
O30 put together from them. -/

namespace Sys2Proof.Machine

/-! The update sets that writes of memory, the ledger and the RUN leave as they were. -/

section UsetsFrame
variable (s : State)

@[simp] theorem foldl_usets {α : Type} {f : State → α → State} (l : List α) (s : State) (h : ∀ s a, (f s a).usets = s.usets) : (l.foldl f s).usets = s.usets :=
  foldl_keeps State.usets l s h

@[simp] theorem State.bumpPart?_usets (p : Option Nat) (off n : Nat) : (s.bumpPart? p off n).usets = s.usets := by
  cases p <;> rfl

@[simp] theorem State.spend_usets (k n : Nat) : (s.spend k n).usets = s.usets := by
  unfold State.spend
  split
  · rfl
  · dsimp only
    split <;> rfl

@[simp] theorem State.touchLines_usets (part : Option Nat) (first n : Nat) : (s.touchLines part first n).usets = s.usets := by
  refine foldl_usets _ _ fun s i => ?_
  dsimp only
  split
  · cases part <;> simp
  · rfl

@[simp] theorem State.mirrorLines_usets (p kind : Nat) (handle : U32) (page frame first n : Nat) (writer : Option (Nat × Nat)) :
    (s.mirrorLines p kind handle page frame first n writer).usets = s.usets := foldl_usets _ _ fun _ _ => rfl

@[simp] theorem State.mirrorFlash_usets (p : Nat) (handle : U32) (page off : Nat) (data : Bytes) :
    (s.mirrorFlash p handle page off data).usets = s.usets := foldl_usets _ _ fun _ _ => rfl

@[simp] theorem State.pageWrite_usets (key i off : Nat) (data : Bytes) (writer : Option (Nat × Nat)) :
    (s.pageWrite key i off data writer).usets = s.usets := by
  dsimp only [State.pageWrite]
  repeat' split
  all_goals simp

@[simp] theorem State.objWrite_usets (key off : Nat) (data : Bytes) : (s.objWrite key off data).usets = s.usets := by
  unfold State.objWrite State.objWriteBy
  split <;> simp

@[simp] theorem State.halfWrite_usets (key h off : Nat) (data : Bytes) : (s.halfWrite key h off data).usets = s.usets := by
  unfold State.halfWrite
  split <;> simp

@[simp] theorem State.flipObjs_usets (k half : Nat) : (s.flipObjs k half).usets = s.usets := foldl_usets _ _ fun _ _ => rfl

@[simp] theorem State.noteClose_usets (u : USet) (st : Status) : (s.noteClose u st).usets = s.usets := by
  unfold State.noteClose
  split <;> rfl

@[simp] theorem State.setPreg_usets (p off v : Nat) : (s.setPreg p off v).usets = s.usets := rfl

@[simp] theorem State.closeLedger_usets (p epoch : Nat) (st : Status) (probe : Bool) : (s.closeLedger p epoch st probe).usets = s.usets := by
  dsimp only [State.closeLedger]
  rw [State.setPart_usets, apply_ite State.usets, State.setPreg_usets, ite_self]

theorem State.writeScale_usets {k : Nat} {u : USet} (hgo : s.scaleStop u = .go) : (s.writeScale k u).usets = s.usets := by
  simp only [State.writeScale, hgo]
  split
  · rfl
  · split <;> simp

end UsetsFrame

/-! The decision, and the loss scale after it (R316, R318, R319, R321). -/

section Decision
variable (u : USet)

theorem USet.decide_eq (acc : Nat) (nonfinite dropped : Bool) : u.decide_ acc nonfinite dropped =
    ((if nonfinite || (if u.mode = 1 then dropped else normOver (normOf acc) u.absB) then .normReject else .ok), acc,
      closeFlags nonfinite (u.overAt acc) dropped) := by
  unfold USet.decide_ USet.overAt
  by_cases hmode : u.mode = 1
  · simp only [hmode, if_true]
  · simp only [hmode, if_false]

theorem USet.nextScale_rejected : u.nextScale false = ({ u with scale := max u.scaleMin (u.scale - 2 ^ 23), streak := 0 }, max u.scaleMin (u.scale - 2 ^ 23) != u.scale) := rfl

theorem USet.nextScale_doubles (h : u.streak + 1 = u.growth) :
    (u.nextScale true).1.scale = min u.scaleMax (u.scale + 2 ^ 23) ∧ (u.nextScale true).1.streak = 0 := by
  simp [USet.nextScale, h]

theorem USet.nextScale_counts (h : u.streak + 1 ≠ u.growth) : (u.nextScale true).1.scale = u.scale ∧ (u.nextScale true).1.streak = (u.streak + 1) % 2 ^ 32 := by
  simp [USet.nextScale, h]

end Decision

/-! UPD_ATTEMPT_CLOSE by the state of the set. -/

section Close
variable {s : State} {p : Part} {set : BitVec 4} {k : Nat} {u : USet} (hk : k = setKey p.val set.toNat) (hu : s.usets.get k = some u)
include hk hu

/-- A set whose outcome does not stand yet and whose part is done gets its decision and goes on to the end of its close. -/
theorem exec_updAttemptClose_decides (hrail : u.railOk = true) (hrun : u.run.isSome = true) (hack : u.ackAt = none) (hverdict : u.verdict = none)
    (hgroup : u.group = none) (hdone : s.partDone k u = true) (hsent : u.closeSent = false) (hts : u.closeTs = 0) (hround : s.roundBusy p.val set.toNat = false)
    (hscale : s.scaleWaits u = false) (hcarry : u.mode = 0 → s.carryStop k u ≠ .waits) :
    exec (.updAttemptClose p set) s =
      .next (((s.bumpPart p.val cDigWait 0).setUset k { u with verdict := some (u.decide_ u.acc (cmNonfinite u.commit) (cmDropped u.commit)) }).finishClose k) := by
  have hset := set.isLt
  have hp : k / 16 = p.val := by rw [hk, setKey]; omega
  have hn : k % 16 = set.toNat := by rw [hk, setKey]; omega
  have hnone : u.run.isNone = false := by rw [Option.isNone_eq_false_iff]; exact hrun
  have hstop : (u.mode == 0 && s.carryStop k u == .waits) = false := by
    by_cases hmode : u.mode = 0
    · simp [hmode, hcarry hmode]
    · simp [hmode]
  have htry : s.tryClose k u =
      ((s.bumpPart p.val cDigWait 0).setUset k { u with verdict := some (u.decide_ u.acc (cmNonfinite u.commit) (cmDropped u.commit)) }).finishClose k := by
    simp only [State.tryClose, hdone, hsent, hp, hn, hround, hts, hgroup, hscale, hstop, bne_self_eq_false, Bool.and_false, Bool.or_self, Bool.not_true,
      Bool.false_eq_true, if_false]
  subst hk
  change execUpdAttemptClose p set s = _
  simp only [execUpdAttemptClose, hu, hrail, hnone, hack, hverdict, hgroup, Option.isSome_none, Bool.or_self, Bool.not_true, Bool.false_eq_true, if_false, hrun, if_true, htry]

section Outcome
variable {st : Status} {acc fl : Nat} (hrail : u.railOk = true) (hrun : u.run.isSome = true) (hack : u.ackAt = none) (hverdict : u.verdict = some (st, acc, fl))
include hrail hrun hack hverdict

theorem exec_updAttemptClose_finishes : exec (.updAttemptClose p set) s = .next (s.finishClose k) := by
  have hnone : u.run.isNone = false := by rw [Option.isNone_eq_false_iff]; exact hrun
  subst hk
  change execUpdAttemptClose p set s = _
  simp only [execUpdAttemptClose, hu, hrail, hnone, hack, hverdict, Option.isSome_none, Option.isSome_some, Bool.or_self, Bool.not_true, Bool.false_eq_true, if_false,
    if_true]

variable (hscale : s.scaleWaits u = false)
include hscale

theorem exec_updAttemptClose_of_bucket_mode (hmode : u.mode = 1) : exec (.updAttemptClose p set) s = .next (s.closeOut k) := by
  rw [exec_updAttemptClose_finishes hk hu hrail hrun hack hverdict]
  simp only [State.finishClose, hu, hverdict, hscale, hmode, Bool.false_eq_true, if_false, if_true]

variable (hmode : u.mode = 0)
include hmode

/-- The reads and writes of carry-forward hold a paired set back. -/
theorem exec_updAttemptClose_carries {s2 : State} (hcarried : u.carried = false) (hgo : s.carryStop k u = .go) (hcarry : s.carryOn k u = s2)
    (hout : (s2.usets.get k).any USet.carryDone = false) : exec (.updAttemptClose p set) s = .next s2 := by
  rw [exec_updAttemptClose_finishes hk hu hrail hrun hack hverdict]
  simp only [State.finishClose, hu, hverdict, hscale, hmode, hcarried, hgo, hcarry, hout, Bool.false_eq_true, if_false, if_true, Nat.zero_ne_one, Bool.not_false]

/-- The end of the close of a paired set once every write of carry-forward has been answered. -/
theorem exec_updAttemptClose_of_carried (hcarried : u.carried = true) (hwrites : u.writes = []) (hprobe : s.isProbe k u = false) :
    exec (.updAttemptClose p set) s = .next (if st != .ok then s.closeOut k
      else match (s.net (k / 16)).st with
        | .paired => (s.sendCommit k u).setUset k ({ u with ackAt := some ((s.sendCommit k u).net (k / 16)).txSeq }.withState 2)
        | .resync => (s.sendCommit k u).closeOut k
        | _ => s.closeOut k) := by
  have hdone : (s.usets.get k).any USet.carryDone = true := by simp [hu, USet.carryDone, hcarried, hwrites]
  rw [exec_updAttemptClose_finishes hk hu hrail hrun hack hverdict]
  simp only [State.finishClose, hu, hverdict, hscale, hmode, hcarried, State.carryOn, Bool.false_eq_true, if_false, if_true, Nat.zero_ne_one]
  rw [← hu, hdone]
  simp only [hprobe, Bool.not_true, Bool.false_eq_true, if_false] <;> rfl

end Outcome

end Close

section Carry
variable {s : State} {k : Nat} {u : USet}

/-- The reads of carry-forward are issued first. -/
theorem State.carryOn_fetches {ids : List Nat} {s2 : State} (hcarried : u.carried = false) (hfetch : u.fetch = none) (hreads : s.fetchCarry k u = (ids, s2))
    (hsome : ids ≠ []) : s.carryOn k u = s2.setUset k { u with fetch := some ids } := by
  simp [State.carryOn, hcarried, hfetch, hreads, hsome]

/-- Once they have come back the blocks are copied. -/
theorem State.carryOn_copies (hcarried : u.carried = false) (hfetch : u.fetch = some []) : s.carryOn k u = s.carryNow k u := by
  simp [State.carryOn, hcarried, hfetch]

end Carry

/-! A rejected paired set (R318, R321). -/

section Rejected
variable {s : State} {k : Nat} {u : USet}

/-- A set without an attempt, with a commit word. -/
def USet.idleWith (u : USet) (c : U32) : USet :=
  { u.setCommit c with run := none, lastRun := (u.setCommit c).run, staging := [], fed := [], ended := [], begun := [], written := [], wcOnly := [], acc := 0, closeSent := false, closeTs := 0, verdict := none, ackAt := none, fetch := none, carried := false, writes := [] }

theorem USet.toIdle_eq (u : USet) (half fl : Nat) : u.toIdle half fl =
    u.idleWith (mkCommit half 0 (bitOf fl 0) (bitOf fl 1) (bitOf fl 2) u.mode (cmTorn u.commit) (cmBuckets u.commit)) := rfl

theorem USet.idleWith_word (u : USet) (c : U32) : (u.idleWith c).commit = c ∧ (u.idleWith c).commitN = ~~~c := ⟨rfl, rfl⟩

theorem USet.idleWith_keeps (u : USet) (c : U32) : (u.idleWith c).run = none ∧ (u.idleWith c).verdict = none ∧ (u.idleWith c).scale = u.scale ∧
    (u.idleWith c).scaleMin = u.scaleMin := ⟨rfl, rfl, rfl, rfl⟩

theorem USet.of_nextScale_rejected {v : USet} {b : Bool} (hv : (v, b) = u.nextScale false) : v.run = u.run ∧ v.verdict = u.verdict ∧ v.commit = u.commit ∧
    v.commitN = u.commitN ∧ v.scale = max u.scaleMin (u.scale - 2 ^ 23) := by
  rw [USet.nextScale_rejected, Prod.mk.injEq] at hv
  obtain ⟨rfl, -⟩ := hv
  exact ⟨rfl, rfl, rfl, rfl, rfl⟩

theorem USet.rejected_keeps {v : USet} {b : Bool} {fl : Nat} (hmode : u.mode = 0) (hv : (v, b) = (u.toIdle u.half fl).nextScale false) :
    v.run = none ∧ v.verdict = none ∧ cmHalf v.commit = u.half ∧ cmState v.commit = 0 ∧ v.railOk = true ∧ v.scale = max u.scaleMin (u.scale - 2 ^ 23) := by
  rw [USet.toIdle_eq] at hv
  obtain ⟨hrun, hverdict, hcommit, hcommitN, hscale⟩ := USet.of_nextScale_rejected hv
  rw [(u.idleWith_keeps _).1] at hrun
  rw [(u.idleWith_keeps _).2.1] at hverdict
  rw [(u.idleWith_word _).1] at hcommit
  rw [(u.idleWith_word _).2] at hcommitN
  rw [(u.idleWith_keeps _).2.2.1, (u.idleWith_keeps _).2.2.2] at hscale
  refine ⟨hrun, hverdict, ?_, ?_, ?_, hscale⟩
  · rw [hcommit, cmHalf_mkCommit (by decide) (by omega)]
    exact Nat.mod_eq_of_lt (cmHalf_lt _)
  · rw [hcommit, cmState_mkCommit (by decide) (by omega)]
  · rw [USet.railOk, hcommit, hcommitN, BEq.rfl]

theorem State.closeOut_of_rejected {acc fl : Nat} {v : USet} {b : Bool} {s3 : State} (hu : s.usets.get k = some u)
    (hverdict : u.verdict = some (.normReject, acc, fl)) (hmode : u.mode = 0) (hgroup : u.group = none) (hv : (v, b) = (u.toIdle u.half fl).nextScale false)
    (hs3 : s3 = ((((s.noteClose u .normReject).setUset k { v with norm := normOf acc, epoch := u.epoch, fresh := false }).flipObjs k u.half).bumpPart
      (k / 16) cUpdSkipped 1).bumpPart (k / 16) cUpdBackoff (b2n b))
    (hgo : s3.scaleStop { v with norm := normOf acc, epoch := u.epoch, fresh := false } = .go) :
    (s.closeOut k).usets.get k = some { v with norm := normOf acc, epoch := u.epoch, fresh := false } := by
  have hok : (Status.normReject == Status.ok) = false := rfl
  simp only [State.closeOut, hu, hverdict, hok, Bool.and_false, Bool.false_eq_true, if_false, ← hv, hmode, hgroup, Nat.zero_ne_one, decide_false, Bool.or_self, ← hs3]
  rw [apply_ite State.usets, State.closeLedger_usets, ite_self, State.writeScale_usets s3 hgo, hs3]
  simp only [State.bumpPart_usets, State.flipObjs_usets]
  exact State.get_setUset_self ..

end Rejected

/-- Settles O30: UPD_ATTEMPT_CLOSE by the state of its set, the decision, the loss scale, and what a rejected paired set keeps. -/
theorem attemptCloses : Obligations.AttemptCloses := by
  intro s p set k u hk hu
  refine ⟨?decides, ?bucketMode, ?paired, fun acc nf dr => u.decide_eq acc nf dr, ⟨rfl, rfl⟩, u.nextScale_doubles, u.nextScale_counts, ?rejected⟩
  case decides =>
    intro hrail hrun hack hverdict hgroup hdone hsent hts hround hscale hcarry
    exact exec_updAttemptClose_decides hk hu hrail hrun hack hverdict hgroup hdone hsent hts hround hscale hcarry
  case bucketMode =>
    intro st acc fl hrail hrun hack hverdict hscale hmode
    exact exec_updAttemptClose_of_bucket_mode hk hu hrail hrun hack hverdict hscale hmode
  case paired =>
    intro st acc fl hrail hrun hack hverdict hscale hmode
    have hend := exec_updAttemptClose_of_carried hk hu hrail hrun hack hverdict hscale hmode
    refine ⟨?reads, ?writes, ?keeps, ?flips, ?waits⟩
    case reads =>
      intro ids s2 hcarried hgo hfetch hreads hsome
      refine exec_updAttemptClose_carries hk hu hrail hrun hack hverdict hscale hmode hcarried hgo (State.carryOn_fetches hcarried hfetch hreads hsome) ?_
      simp [State.get_setUset_self, USet.carryDone, hcarried]
    case writes =>
      intro s2 hcarried hgo hfetch hnow hout
      exact exec_updAttemptClose_carries hk hu hrail hrun hack hverdict hscale hmode hcarried hgo ((State.carryOn_copies hcarried hfetch).trans hnow) hout
    case keeps =>
      intro hcarried hwrites hprobe hst
      rw [hend hcarried hwrites hprobe, if_pos (bne_iff_ne.2 hst)]
    case flips =>
      intro hcarried hwrites hprobe hst hpaired hresync
      rw [hend hcarried hwrites hprobe, hst, if_neg (by decide)]
      split
      · next h => exact absurd h hpaired
      · next h => exact absurd h hresync
      · rfl
    case waits =>
      intro s2 hcarried hwrites hprobe hst hpaired hsend
      rw [hend hcarried hwrites hprobe, hst, if_neg (by decide), hpaired, hsend]
  case rejected =>
    intro acc fl v b s3 hverdict hmode hgroup hv hs3
    obtain ⟨hrun, hnone, hhalf, hstate, hrail, hscale⟩ := USet.rejected_keeps hmode hv
    exact ⟨hrun, hnone, hhalf, hstate, hrail, hscale, State.closeOut_of_rejected hu hverdict hmode hgroup hv hs3⟩

end Sys2Proof.Machine
end

section
/-! ### Beats and credits (R25, R142, R144, R146, R149, R153, R293, R294)

What the bridge and the end of a tile's part leave, then BEAT_SEND, BEAT_ARRIVE and CREDIT_RETURN; O31 put together from them. -/

namespace Sys2Proof.Machine

/-! Frames. -/

section Frame
variable (s : State)

/-- A beat's way over the bridge changes the lanes of the bridge and the free words that its next key takes. -/
theorem State.crossBridge_keeps (src dst : Nat) : (s.crossBridge src dst).runs = s.runs ∧ (s.crossBridge src dst).objs = s.objs ∧
    (s.crossBridge src dst).hbm = s.hbm := by
  unfold State.crossBridge
  by_cases hdie : tileDie src = tileDie dst
  · rw [if_pos hdie]
    exact ⟨rfl, rfl, rfl⟩
  · rw [if_neg hdie]
    dsimp only
    split
    · exact ⟨rfl, rfl, rfl⟩
    · split <;> exact ⟨rfl, rfl, rfl⟩

theorem State.tileDone_keeps (rid t : Nat) : (s.tileDone rid t).runs = s.runs ∧ (s.tileDone rid t).objs = s.objs ∧ (s.tileDone rid t).hbm = s.hbm := by
  unfold State.tileDone State.fixCycles
  split
  · exact ⟨rfl, rfl, rfl⟩
  · split
    · exact ⟨rfl, rfl, rfl⟩
    · repeat' split
      all_goals exact ⟨rfl, rfl, rfl⟩

theorem Image.laneTiles_of_route {im : Image} {strm route : Nat} {rt : RouteD} (h : im.laneRoute strm route = some rt) :
    im.laneTiles strm route = some (im.tileAt rt.src, im.tileAt rt.dst) := by
  rw [Image.laneTiles, h]
  rfl

end Frame

section Lane
variable {s : State} {r strm route : Nat} {run : Run} {im : Image} {d : StreamD} {rt : RouteD}
variable (hrun : s.runs.get r = some run)

/-! A credit owed returns to the producer. -/

theorem exec_creditReturn (hrun : s.runs.get r = some run) (howed : (run.lane (laneKey strm route)).owed ≠ 0) :
    exec (.creditReturn r strm route) s = .next (s.setRun r (run.setLane (laneKey strm route)
      { run.lane (laneKey strm route) with owed := (run.lane (laneKey strm route)).owed - 1, credits := (run.lane (laneKey strm route)).credits + 1 })) := by
  change execCreditReturn r strm route s = _
  simp only [execCreditReturn, hrun, howed, if_false]

variable (him : s.runImage run = some im) (hrt : im.laneRoute strm route = some rt)
include hrun him hrt

/-! BEAT_SEND. -/

section Send
variable (hd : im.streams[strm]? = some d)
include hd

theorem exec_beatSend_of_newest {b : Beat} (hout : (run.lane (laneKey strm route)).out = [b]) (hrunning : (s.tile (im.tileAt rt.src)).ended = false) :
    exec (.beatSend r strm route) s = .next s := by
  change execBeatSend r strm route s = _
  simp only [execBeatSend, hrun, him, hd, hrt, hout, hrunning, List.isEmpty_nil, Bool.not_false, Bool.and_self, Bool.true_or, if_true]

theorem exec_beatSend_of_shut (hshut : s.bridgeShut (im.tileAt rt.src) (im.tileAt rt.dst) = true) : exec (.beatSend r strm route) s = .next s := by
  change execBeatSend r strm route s = _
  simp only [execBeatSend, hrun, him, hd, hrt]
  split
  · rfl
  · simp only [hshut, Bool.or_true, if_true]

section Waiting
variable {b b' : Beat} {rest : List Beat} (hout : (run.lane (laneKey strm route)).out = b :: b' :: rest)
  (hopen : s.bridgeShut (im.tileAt rt.src) (im.tileAt rt.dst) = false)
include hout hopen

theorem exec_beatSend_of_no_credit (hcredits : (run.lane (laneKey strm route)).credits = 0) : exec (.beatSend r strm route) s =
    .next ((s.bumpTile (im.tileAt rt.src) cCreditStall 1).bumpTile (im.tileAt rt.src) cVxuStall (b2n ((s.tile (im.tileAt rt.src)).vxPort == some d.outPort))) := by
  change execBeatSend r strm route s = _
  simp only [execBeatSend, hrun, him, hd, hrt, hout, hopen, hcredits, List.isEmpty_cons, Bool.false_and, Bool.or_self, Bool.false_eq_true, if_false, if_true,
    Bool.not_false, Bool.true_and]

variable (hcredits : (run.lane (laneKey strm route)).credits ≠ 0)
include hcredits

theorem exec_beatSend_of_other_turn (hfirst : isCopy d route = false)
    (hturn : s.linkTurn run im (im.tileAt rt.src) (rt.linkAt (run.lane (laneKey strm route)).count) ≠ some strm) : exec (.beatSend r strm route) s = .next s := by
  change execBeatSend r strm route s = _
  simp only [execBeatSend, hrun, him, hd, hrt, hout, hopen, hcredits, List.isEmpty_cons, Bool.false_and, Bool.or_self, Bool.false_eq_true, if_false, hfirst,
    Bool.not_false, Bool.true_and, bne_iff_ne, ne_eq, hturn, not_false_eq_true, if_true]

theorem exec_beatSend_leaves (hturn : isCopy d route = true ∨ s.linkTurn run im (im.tileAt rt.src) (rt.linkAt (run.lane (laneKey strm route)).count) = some strm) :
    ∃ u r', exec (.beatSend r strm route) s = .next u ∧ u.runs.get r = some r' ∧
      r'.lane (laneKey strm route) = { run.lane (laneKey strm route) with credits := (run.lane (laneKey strm route)).credits - 1, out := b' :: rest, flight := (run.lane (laneKey strm route)).flight ++ [{ b with last := false }], count := (run.lane (laneKey strm route)).count + 1 } ∧
      r'.lastMove = s.ts ∧ u.objs = s.objs ∧ u.hbm = s.hbm := by
  have hgo : (!isCopy d route && s.linkTurn run im (im.tileAt rt.src) (rt.linkAt (run.lane (laneKey strm route)).count) != some strm) = false := by
    obtain h | h := hturn
    · simp [h]
    · simp [h]
  change ∃ u r', execBeatSend r strm route s = .next u ∧ _
  simp only [execBeatSend, hrun, him, hd, hrt, hout, hopen, hcredits, List.isEmpty_cons, Bool.false_and, Bool.or_self, Bool.false_eq_true, if_false, hgo]
  refine ⟨_, ?run, rfl, ?get, ?lane, ?move, ?objs, ?hbm⟩
  case get =>
    rw [State.bumpTile_runs, apply_ite State.runs, (State.crossBridge_keeps ..).1, ite_self]
    exact Tbl.get_set_self ..
  case lane => exact Run.lane_setLane_self ..
  case move => rfl
  case objs =>
    rw [State.bumpTile_objs, apply_ite State.objs, (State.crossBridge_keeps ..).2.1, ite_self]
    rfl
  case hbm =>
    rw [State.bumpTile_hbm, apply_ite State.hbm, (State.crossBridge_keeps ..).2.2, ite_self]
    rfl

end Waiting
end Send

/-! BEAT_ARRIVE. -/

theorem exec_beatArrive_of_shut (hshut : s.bridgeShut (im.tileAt rt.src) (im.tileAt rt.dst) = true) (first again : Crossing) :
    exec (.beatArrive r strm route first again) s = .next s := by
  change execBeatArrive r strm route first again s = _
  simp only [execBeatArrive, hrun, him, Option.bind_some, Image.laneTiles_of_route hrt]
  split
  · rfl
  · simp only [hshut, if_true]

section Flight
variable {b : Beat} {rest : List Beat} (hflight : (run.lane (laneKey strm route)).flight = b :: rest)
  (hopen : s.bridgeShut (im.tileAt rt.src) (im.tileAt rt.dst) = false)
include hflight hopen

theorem exec_beatArrive_of_tag (hbridge : tileDie (im.tileAt rt.src) ≠ tileDie (im.tileAt rt.dst)) (p1 p2 : Bool) :
    exec (.beatArrive r strm route ⟨p1, true⟩ ⟨p2, true⟩) s = .next (s.devFault .integrity (some (run.q, run.sub))) := by
  change execBeatArrive r strm route ⟨p1, true⟩ ⟨p2, true⟩ s = _
  simp only [execBeatArrive, hrun, him, Option.bind_some, Image.laneTiles_of_route hrt, hflight, hopen, Bool.false_eq_true, if_false, bne_iff_ne, ne_eq, hbridge,
    not_false_eq_true, Bool.and_true, if_true]

theorem exec_beatArrive_of_parity {t1 t2 : Bool} (htag : (tileDie (im.tileAt rt.src) != tileDie (im.tileAt rt.dst) && t1 && t2) = false) :
    exec (.beatArrive r strm route ⟨true, t1⟩ ⟨true, t2⟩) s = .next (s.ctxFault run.ctx .parity (some (run.q, run.sub))) := by
  change execBeatArrive r strm route ⟨true, t1⟩ ⟨true, t2⟩ s = _
  simp only [execBeatArrive, hrun, him, Option.bind_some, Image.laneTiles_of_route hrt, hflight, hopen, htag, Bool.false_eq_true, if_false, Bool.and_self, if_true]

theorem exec_beatArrive_arrives {p1 p2 t1 t2 : Bool} (htag : (tileDie (im.tileAt rt.src) != tileDie (im.tileAt rt.dst) && t1 && t2) = false)
    (hpar : (p1 && p2) = false) :
    ∃ u r', exec (.beatArrive r strm route ⟨p1, t1⟩ ⟨p2, t2⟩) s = .next u ∧ u.runs.get r = some r' ∧
      r'.lane (laneKey strm route) = (if (s.tile (im.tileAt rt.dst)).ended then
        { run.lane (laneKey strm route) with flight := rest, credits := (run.lane (laneKey strm route)).credits + 1 }
        else { run.lane (laneKey strm route) with flight := rest, buf := (run.lane (laneKey strm route)).buf ++ [b] }) ∧
      u.objs = s.objs ∧ u.hbm = s.hbm := by
  change ∃ u r', execBeatArrive r strm route ⟨p1, t1⟩ ⟨p2, t2⟩ s = .next u ∧ _
  simp only [execBeatArrive, hrun, him, Option.bind_some, Image.laneTiles_of_route hrt, hflight, hopen, htag, hpar, Bool.false_eq_true, if_false]
  refine ⟨_, ?run, rfl, ?get, ?lane, ?objs, ?hbm⟩
  case get =>
    rw [(State.tileDone_keeps ..).1, State.bumpTile_runs]
    exact Tbl.get_set_self ..
  case lane => exact Run.lane_setLane_self ..
  case objs => rw [(State.tileDone_keeps ..).2.1, State.bumpTile_objs, State.setRun_objs]
  case hbm => rw [(State.tileDone_keeps ..).2.2, State.bumpTile_hbm, State.setRun_hbm]

end Flight
end Lane

/-- Settles O31: BEAT_SEND by its lane's beats, credits, turn and bridge, BEAT_ARRIVE by its two crossings, CREDIT_RETURN by what is owed. -/
theorem beatsAndCredits : Obligations.BeatsAndCredits := by
  intro s r strm route run im d rt src dst l hrun him hd hrt hsrc hdst hl
  subst hsrc hdst hl
  refine ⟨?leaves, ?turn, ?credit, ?newest, ?shut, ?arrives, ?parity, ?tag, exec_creditReturn hrun⟩
  case leaves => intro b b' rest hout hopen hcredits hturn; exact exec_beatSend_leaves hrun him hrt hd hout hopen hcredits hturn
  case turn => intro b b' rest hout hopen hcredits hfirst hturn; exact exec_beatSend_of_other_turn hrun him hrt hd hout hopen hcredits hfirst hturn
  case credit => intro b b' rest hout hopen hcredits; exact exec_beatSend_of_no_credit hrun him hrt hd hout hopen hcredits
  case newest => intro b hout hrunning; exact exec_beatSend_of_newest hrun him hrt hd hout hrunning
  case shut =>
    intro hshut
    exact ⟨exec_beatSend_of_shut hrun him hrt hd hshut, fun p1 p2 t1 t2 => exec_beatArrive_of_shut hrun him hrt hshut ⟨p1, t1⟩ ⟨p2, t2⟩⟩
  case arrives =>
    intro b rest p1 p2 t1 t2 hflight hopen htag hpar
    exact exec_beatArrive_arrives hrun him hrt hflight hopen htag hpar
  case parity =>
    intro t1 t2 hsome hopen htag
    obtain ⟨b, rest, hflight⟩ := List.exists_cons_of_ne_nil hsome
    exact exec_beatArrive_of_parity hrun him hrt hflight hopen htag
  case tag =>
    intro p1 p2 hsome hopen hbridge
    obtain ⟨b, rest, hflight⟩ := List.exists_cons_of_ne_nil hsome
    exact exec_beatArrive_of_tag hrun him hrt hflight hopen hbridge p1 p2

end Sys2Proof.Machine
end

section
/-! ### Answers of HBM and of flash (R238, R241, R249 to R254, R277 to R281, R287)

HBM_READ_RETURN, HBM_ACCESS_TIMEOUT and HBM_WRITE_ANSWER, then the parts of a flash row and the end of a flash write; O32 put together from them. -/

namespace Sys2Proof.Machine

/-! HBM reads. -/

section HbmRead
variable {s : State} {acc : Nat} {a : Access} {v : Arrival} (ha : s.acc? acc = some a)
include ha

theorem exec_hbmAccessTimeout_of_late (hkind : a.kind = .hbmRead ∨ a.kind = .hbmWrite) (hlate : a.since + 4000 ≤ s.ts) :
    exec (.hbmAccessTimeout acc) s = .next (s.retryAcc acc a) := by
  have hhbm : (a.kind == .hbmRead || a.kind == .hbmWrite) = true := by simpa using hkind
  change execHbmAccessTimeout acc s = _
  simp only [execHbmAccessTimeout, ha, hhbm, hlate, decide_true, Bool.and_self, if_true]

theorem exec_hbmAccessTimeout_of_early (hearly : s.ts < a.since + 4000) : exec (.hbmAccessTimeout acc) s = .next s := by
  have hlate : ¬ a.since + 4000 ≤ s.ts := by omega
  change execHbmAccessTimeout acc s = _
  simp only [execHbmAccessTimeout, ha, hlate, decide_false, Bool.and_false, Bool.false_eq_true, if_false]

variable (hkind : a.kind = .hbmRead)
include hkind

theorem exec_hbmReadReturn_of_torn (hrails : s.shroud.railsOk = false) : exec (.hbmReadReturn acc v) s = .next (s.devFault .parity none) := by
  change execHbmReadReturn acc v s = _
  simp only [execHbmReadReturn, ha, hkind, bne_self_eq_false, Bool.false_eq_true, if_false, State.whenRails, hrails]

variable (hrails : s.shroud.railsOk = true)
include hrails

theorem exec_hbmReadReturn_of_locked (hlock : s.lockedFor (s.accLines a) = true) : exec (.hbmReadReturn acc v) s = .next s := by
  change execHbmReadReturn acc v s = _
  simp only [execHbmReadReturn, ha, hkind, bne_self_eq_false, Bool.false_eq_true, if_false, State.whenRails_of_ok hrails, hlock, if_true]

variable (hlock : s.lockedFor (s.accLines a) = false)
include hlock

theorem exec_hbmReadReturn_of_phyError (hphy : v.phyError = true) : exec (.hbmReadReturn acc v) s = .next (s.retryAcc acc a) := by
  change execHbmReadReturn acc v s = _
  simp only [execHbmReadReturn, ha, hkind, bne_self_eq_false, Bool.false_eq_true, if_false, State.whenRails_of_ok hrails, hlock, hphy, if_true]

variable (hphy : v.phyError = false) {s1 : State} (hs1 : s.settleMeta (s.accLines a) = s1)
include hphy hs1

theorem exec_hbmReadReturn_of_node {n : Nat × Nat} (hnode : s1.nodeOf (s.accLines a) v.node = some n) :
    exec (.hbmReadReturn acc v) s = .next ((s1.nodeFails n.1 n.2).accFail acc a .integrity) := by
  change execHbmReadReturn acc v s = _
  simp only [execHbmReadReturn, ha, hkind, bne_self_eq_false, Bool.false_eq_true, if_false, State.whenRails_of_ok hrails, hlock, hphy, hs1, hnode]

variable {s2 : State} {wrong bad : List Nat} (hnode : s1.nodeOf (s.accLines a) v.node = none) (hs2 : s1.useMeta (s1.accPart a) (s.accLines a) = s2)
  (hwrong : wrong = (linesAt (s.accLines a) (v.bad1.filter v.bad2.contains)).filter (fun l => !s2.shroud.blockLost (l / 64) && s2.shroud.minor l != 0))
  (hbad : bad = (s.accLines a).filter (fun l => !s2.shroud.blockLost (l / 64) && (wrong.contains l || s2.shroud.lineBad l)))
include hnode hs2 hwrong hbad

/-- With no node failed above its lines, a read has its data when every line verifies. -/
theorem exec_hbmReadReturn_verifies : exec (.hbmReadReturn acc v) s =
    if bad.isEmpty && !(s.accLines a).any (fun l => s2.shroud.blockLost (l / 64)) then .next (s2.accData acc a)
    else .next ((s2.tagsFail (s1.accPart a) bad).accFail acc a .integrity) := by
  change execHbmReadReturn acc v s = _
  simp only [execHbmReadReturn, ha, hkind, bne_self_eq_false, Bool.false_eq_true, if_false, State.whenRails_of_ok hrails, hlock, hphy, hs1, hnode, hs2, ← hwrong, ← hbad]

theorem exec_hbmReadReturn_of_good (hgood : bad = []) (hfound : ∀ l ∈ s.accLines a, s2.shroud.blockLost (l / 64) = false) :
    exec (.hbmReadReturn acc v) s = .next (s2.accData acc a) := by
  have hany : (s.accLines a).any (fun l => s2.shroud.blockLost (l / 64)) = false := List.any_eq_false.2 fun l hl => by simp [hfound l hl]
  rw [exec_hbmReadReturn_verifies ha hkind hrails hlock hphy hs1 hnode hs2 hwrong hbad, hany, hgood]
  rfl

theorem exec_hbmReadReturn_of_bad (hfails : bad ≠ [] ∨ ∃ l ∈ s.accLines a, s2.shroud.blockLost (l / 64) = true) :
    exec (.hbmReadReturn acc v) s = .next ((s2.tagsFail (s1.accPart a) bad).accFail acc a .integrity) := by
  have hno : ¬ (bad.isEmpty && !(s.accLines a).any (fun l => s2.shroud.blockLost (l / 64))) = true := by
    obtain hne | ⟨l, hl, hlost⟩ := hfails
    · simp [hne]
    · rw [List.any_eq_true.2 ⟨l, hl, hlost⟩]
      simp
  rw [exec_hbmReadReturn_verifies ha hkind hrails hlock hphy hs1 hnode hs2 hwrong hbad, if_neg hno]

end HbmRead

theorem State.retryAcc_of_retried {s : State} {acc : Nat} {a : Access} (htries : a.tries ≠ 0) : s.retryAcc acc a = s.accFail acc a .tierFail := by
  rw [State.retryAcc, if_neg htries]

/-! HBM writes of every unit but the update unit. -/

section HbmWrite
variable {s : State} {acc : Nat} {a : Access} {v : Arrival} {o : Obj} {s1 : State} (ha : s.acc? acc = some a) (hkind : a.kind = .hbmWrite)
  (hrails : s.shroud.railsOk = true) (hphy : v.phyError = false) (hlock : s.lockedFor (s.accLines a) = false)
  (howner : ∀ p n, a.owner ≠ .update p n) (ho : s.objs.get a.obj = some o)
include ha hkind hrails hphy hlock howner ho

theorem exec_hbmWriteAnswer_of_waits (hverdict : o.writeVerdict a.off a.len = .waits) : exec (.hbmWriteAnswer acc v) s = .next s := by
  change execHbmWriteAnswer acc v s = _
  simp only [execHbmWriteAnswer, ha, hkind, bne_self_eq_false, Bool.false_eq_true, if_false, State.whenRails_of_ok hrails, hphy, hlock, ho, hverdict]

theorem exec_hbmWriteAnswer_of_bad {st : Status} {sc : Scope} (hverdict : o.writeVerdict a.off a.len = .bad st sc) :
    exec (.hbmWriteAnswer acc v) s = .next (s.accRefused acc a st sc) := by
  change execHbmWriteAnswer acc v s = _
  simp only [execHbmWriteAnswer, ha, hkind, bne_self_eq_false, Bool.false_eq_true, if_false, State.whenRails_of_ok hrails, hphy, hlock, ho, hverdict]

/-- The write lands when every line it covers in part verifies. -/
theorem exec_hbmWriteAnswer_lands (hs1 : s.settleMeta (s.accLines a) = s1) (hverdict : o.writeVerdict a.off a.len = .ok)
    (hnode : s1.nodeOf (s.accLines a) v.node = none)
    (hgood : ∀ e ∈ s1.accParts a, e.2 = true → s1.shroud.blockLost (e.1 / 64) = false ∧
      (s1.shroud.minor e.1 = 0 ∨ (s1.shroud.lineBad e.1 = false ∧ e.1 ∉ linesAt (s.accLines a) (v.bad1.filter v.bad2.contains)))) :
    exec (.hbmWriteAnswer acc v) s = .next (s1.accWritten acc a) := by
  have hnone : (((s1.accParts a).filter (fun e => e.2 && (s1.shroud.blockLost (e.1 / 64) || s1.shroud.minor e.1 != 0))).map (fun e => e.1)).filter
      (fun l => (linesAt (s.accLines a) (v.bad1.filter v.bad2.contains)).contains l || s1.shroud.lineBad l) = [] := by
    refine List.filter_eq_nil_iff.2 fun l hl => ?_
    obtain ⟨e, he, rfl⟩ := List.mem_map.1 hl
    obtain ⟨hmem, hold⟩ := List.mem_filter.1 he
    rw [Bool.and_eq_true] at hold
    obtain ⟨hfound, hminor | ⟨hline, hnot⟩⟩ := hgood e hmem hold.1
    · simp [hfound, hminor] at hold
    · simp [hline, hnot]
  change execHbmWriteAnswer acc v s = _
  simp only [execHbmWriteAnswer, ha, hkind, bne_self_eq_false, Bool.false_eq_true, if_false, State.whenRails_of_ok hrails, hphy, hlock, ho, hverdict, hs1, hnode, hnone,
    List.isEmpty_nil, if_true]

end HbmWrite

/-! Parts of a flash row. -/

section Parts
variable {s : State} {acc part : Nat} {a : Access} {r : RowRead} (ha : s.acc? acc = some a) (hkind : a.kind = .flashRead) (hr : a.partAt part = some r)
  (hdone : r.done = false)
include ha hkind hr hdone

section Answered
variable {badLines failing : List Nat} {seen : Bool} (hout : (r.out.contains (part % 16) || r.late.contains (part % 16)) = true)
  (hfailing : failing = a.partWants r (part % 16) badLines)
  (hseen : seen = r.bad1.any (a.partWants r (part % 16) (List.range 64)).contains)
include hout hfailing hseen

theorem exec_flashPartReturn_arrives (hgood : failing = [] ∨ seen = true) : exec (.flashPartReturn acc part ⟨false, badLines⟩) s = .next
    ((if r.out.contains (part % 16) then s.channelOk (channelOf r.frame (part % 16)) else s).putRow acc a (part / 16)
      { r with out := removeNat (part % 16) r.out, arrived := insertNat (part % 16) r.arrived, bad2 := r.bad2 ++ failing.filter r.bad1.contains }) := by
  have hkept : ¬ (!failing.isEmpty && !seen) = true := by
    obtain h | h := hgood
    · simp [h]
    · simp [h]
  change execFlashPartReturn acc part ⟨false, badLines⟩ s = _
  simp only [execFlashPartReturn, ha, hr, hkind, hdone, hout, bne_self_eq_false, Bool.not_true, Bool.or_self, Bool.false_eq_true, if_false, ← hfailing, ← hseen, hkept]

theorem exec_flashPartReturn_of_tags (hbad : failing ≠ []) (hfirst : seen = false) :
    ∃ r', r'.bad1 = r.bad1 ++ failing ∧ r'.out = r.out ∧ r'.arrived = r.arrived ∧
      exec (.flashPartReturn acc part ⟨false, badLines⟩) s = .next (s.setAcc acc { a with rows := a.rows.set (part / 16) r' }) := by
  have hagain : (!failing.isEmpty && !seen) = true := by simp [hbad, hfirst]
  change ∃ r', _ ∧ _ ∧ _ ∧ execFlashPartReturn acc part ⟨false, badLines⟩ s = _
  simp only [execFlashPartReturn, ha, hr, hkind, hdone, hout, bne_self_eq_false, Bool.not_true, Bool.or_self, Bool.false_eq_true, if_false, ← hfailing, ← hseen, hagain,
    if_true]
  by_cases h : r.out.contains (part % 16) = true
  · rw [if_pos h]
    refine ⟨_, ?_, ?_, ?_, rfl⟩ <;> rfl
  · rw [if_neg h]
    refine ⟨_, ?_, ?_, ?_, rfl⟩ <;> rfl

end Answered

section Outstanding
variable {l : List Nat} (hout : r.out.contains (part % 16) = true)
include hout

theorem exec_flashPartReturn_of_second_error (hretried : r.retried.contains (part % 16) = true) :
    exec (.flashPartReturn acc part ⟨true, l⟩) s = .next (s.partLate acc a part r) := by
  change execFlashPartReturn acc part ⟨true, l⟩ s = _
  simp only [execFlashPartReturn, ha, hr, hkind, hdone, hout, hretried, bne_self_eq_false, Bool.true_or, Bool.not_true, Bool.or_self, Bool.false_eq_true, if_false, if_true]

theorem exec_flashPartReturn_of_first_error (hretried : r.retried.contains (part % 16) = false) :
    ∃ r', r' = { r with retried := insertNat (part % 16) r.retried, sent := r.sent.set (part % 16) s.ts } ∧
      exec (.flashPartReturn acc part ⟨true, l⟩) s = .next ((s.setAcc acc { a with rows := a.rows.set (part / 16) r' }).bumpPart? (s.accPart a) cTierRetry 1) := by
  refine ⟨_, rfl, ?_⟩
  change execFlashPartReturn acc part ⟨true, l⟩ s = _
  simp only [execFlashPartReturn, ha, hr, hkind, hdone, hout, hretried, bne_self_eq_false, Bool.true_or, Bool.not_true, Bool.or_self, Bool.false_eq_true, if_false, if_true]

theorem exec_flashPartLate_of_late (hlate : r.sent.getD (part % 16) a.since + 60000 ≤ s.ts) :
    exec (.flashPartLate acc part) s = .next (s.partLate acc a part r) := by
  have hnot : ¬ s.ts < r.sent.getD (part % 16) a.since + 60000 := by omega
  change execFlashPartLate acc part s = _
  simp only [execFlashPartLate, ha, hr, hkind, hdone, hout, hnot, decide_false, bne_self_eq_false, Bool.not_true, Bool.or_self, Bool.false_eq_true, if_false]

omit hkind hdone hout in
theorem exec_flashPartLate_of_early (hearly : s.ts < r.sent.getD (part % 16) a.since + 60000) : exec (.flashPartLate acc part) s = .next s := by
  change execFlashPartLate acc part s = _
  simp only [execFlashPartLate, ha, hr, hearly, decide_true, Bool.or_true, if_true]

end Outstanding
end Parts

theorem RowRead.ready_iff (r : RowRead) : r.ready = true ↔ (∀ x ∈ r.want, x ∈ r.arrived) ∨ (r.late ≠ [] ∧ 14 ≤ r.arrived.length) := by
  simp [RowRead.ready]

section FlashEnd
variable {s : State} {acc : Nat} {a : Access} (ha : s.acc? acc = some a)
include ha

theorem exec_tierStallTimeout_of_late (hkind : a.kind = .flashRead) (htrip : s.pwr.trip = false) (hlate : 2000000 < s.stallTime a) :
    exec (.tierStallTimeout acc) s = .next (s.accFail acc a .tierFail) := by
  change execTierStallTimeout acc s = _
  simp only [execTierStallTimeout, ha, hkind, htrip, hlate, decide_true, BEq.rfl, Bool.not_false, Bool.and_self, if_true]

variable (hkind : a.kind = .flashWrite)
include hkind

theorem exec_flashWriteDone_of_failed : exec (.flashWriteDone acc false) s = .next (s.accFail acc a .tierFail) := by
  change execFlashWriteDone acc false s = _
  simp only [execFlashWriteDone, ha, hkind, bne_self_eq_false, Bool.false_eq_true, if_false, Bool.not_false, if_true]

variable {o : Obj} (ho : s.objs.get a.obj = some o)
include ho

theorem exec_flashWriteDone_lands (hverdict : ∀ st sc, s.flashVerdict a o ≠ .bad st sc) : exec (.flashWriteDone acc true) s = .next (s.accWritten acc a) := by
  change execFlashWriteDone acc true s = _
  simp only [execFlashWriteDone, ha, hkind, ho, bne_self_eq_false, Bool.false_eq_true, if_false, Bool.not_true]

theorem exec_flashWriteDone_of_bad {st : Status} {sc : Scope} (hverdict : s.flashVerdict a o = .bad st sc) :
    exec (.flashWriteDone acc true) s = .next (s.accRefused acc a st sc) := by
  change execFlashWriteDone acc true s = _
  simp only [execFlashWriteDone, ha, hkind, ho, hverdict, bne_self_eq_false, Bool.false_eq_true, if_false, Bool.not_true]

end FlashEnd

/-- Settles O32: an answer by its access's kind, locks, errors and lines; a part by its row; a flash write by its verdict. -/
theorem memoryAndFlashAnswers : Obligations.MemoryAndFlashAnswers := by
  refine ⟨?hbm, ?flash⟩
  case hbm =>
    intro s acc a v ha
    refine ⟨exec_hbmReadReturn_of_torn ha, exec_hbmReadReturn_of_locked ha, exec_hbmReadReturn_of_phyError ha, ?node, ?lines,
      exec_hbmAccessTimeout_of_late ha, fun _ => exec_hbmAccessTimeout_of_early ha, State.retryAcc_of_retried, ?write⟩
    case node => intro s1 n hkind hrails hlock hphy hs1 hnode; exact exec_hbmReadReturn_of_node ha hkind hrails hlock hphy hs1 hnode
    case lines =>
      intro s1 s2 wrong bad hkind hrails hlock hphy hs1 hnode hs2 hwrong hbad
      exact ⟨exec_hbmReadReturn_of_good ha hkind hrails hlock hphy hs1 hnode hs2 hwrong hbad,
        exec_hbmReadReturn_of_bad ha hkind hrails hlock hphy hs1 hnode hs2 hwrong hbad⟩
    case write =>
      intro o s1 hkind hrails hphy hlock howner ho hs1
      exact ⟨exec_hbmWriteAnswer_lands ha hkind hrails hphy hlock howner ho hs1, exec_hbmWriteAnswer_of_waits ha hkind hrails hphy hlock howner ho,
        fun st sc => exec_hbmWriteAnswer_of_bad ha hkind hrails hphy hlock howner ho⟩
  case flash =>
    intro s acc part a r ha
    refine ⟨?answered, ?outstanding, r.ready_iff, exec_tierStallTimeout_of_late ha, fun o hkind ho => ⟨exec_flashWriteDone_lands ha hkind ho,
      fun st sc => exec_flashWriteDone_of_bad ha hkind ho⟩, exec_flashWriteDone_of_failed ha⟩
    case answered =>
      intro badLines failing seen hkind hr hdone hout hfailing hseen
      exact ⟨exec_flashPartReturn_arrives ha hkind hr hdone hout hfailing hseen, exec_flashPartReturn_of_tags ha hkind hr hdone hout hfailing hseen⟩
    case outstanding =>
      intro l hkind hr hdone hout
      exact ⟨exec_flashPartReturn_of_second_error ha hkind hr hdone hout, exec_flashPartReturn_of_first_error ha hkind hr hdone hout,
        exec_flashPartLate_of_late ha hkind hr hdone hout, exec_flashPartLate_of_early ha hr⟩

end Sys2Proof.Machine
end

section
/-! ### Segments, adapter loads and rebuilt subtrees (R220, R248, R257, R258, R274, R283, R413)

What the metadata's cache keeps of the failed nodes, the life of segments and wiped pages, the end of an adapter load, and the rebuild of a subtree; O33 put
together from them. -/

namespace Sys2Proof.Machine

/-! The failed nodes stay as they are while lines are brought in and written (R276, R277). -/

section Failed
variable (h : Shroud)

theorem foldl_failed {α : Type} {f : Shroud → α → Shroud} (l : List α) (h : Shroud) (hf : ∀ h a, (f h a).failed = h.failed) : (l.foldl f h).failed = h.failed :=
  List.foldlRecOn l f (motive := fun t => t.failed = h.failed) rfl fun t ht a _ => (hf t a).trans ht

@[simp] theorem Shroud.setField_failed (m i v : Nat) : (h.setField m i v).failed = h.failed := rfl

@[simp] theorem Shroud.raiseRoot_failed (i : Nat) : (h.raiseRoot i).failed = h.failed := rfl

@[simp] theorem Shroud.writeBack_failed (m : Nat) (x : MetaLine) : (h.writeBack m x).failed = h.failed := by
  dsimp only [Shroud.writeBack]
  split
  · simp
  · split
    · dsimp only
      split <;> simp
    · rfl

@[simp] theorem Shroud.makePlace_failed (keep : List Nat) : (h.makePlace keep).failed = h.failed := by
  unfold Shroud.makePlace
  split
  · rfl
  · dsimp only
    split
    · rfl
    · split <;> simp

@[simp] theorem Shroud.load_failed (keys : List Nat) : (h.load keys).failed = h.failed := by
  refine foldl_failed _ _ fun h m => ?_
  dsimp only
  split <;> simp

@[simp] theorem Shroud.loadLine_failed (line : Nat) : (h.loadLine line).failed = h.failed := by
  unfold Shroud.loadLine
  split <;> simp

@[simp] theorem Shroud.putBlock_failed (pos : Nat) (b : CtrBlock) : (h.putBlock pos b).failed = h.failed := by
  dsimp only [Shroud.putBlock]
  split
  · rfl
  · split <;> simp

@[simp] theorem Shroud.putTag_failed (line : Nat) : (h.putTag line).failed = h.failed := by
  dsimp only [Shroud.putTag]
  split <;> rfl

@[simp] theorem Shroud.setHwm_failed (v : Nat) : (h.setHwm v).failed = h.failed := by
  unfold Shroud.setHwm
  split <;> rfl

@[simp] theorem Shroud.initBlock_failed (pos : Nat) : (h.initBlock pos).failed = h.failed := by simp [Shroud.initBlock]

@[simp] theorem Shroud.touchLine_failed (line : Nat) : (h.touchLine line).1.failed = h.failed := by
  dsimp only [Shroud.touchLine]
  split
  · simp
  · dsimp only
    split
    · simp only [Shroud.setHwm_failed, Shroud.putTag_failed]
      rw [foldl_failed _ _ fun h e => Shroud.putTag_failed ..]
      simp
    · simp only [Shroud.putTag_failed]
      rw [foldl_failed _ _ fun h e => Shroud.putTag_failed ..]
      simp

theorem Shroud.freshNodes_mends (k node : Nat) : (h.freshNodes k node).failed.contains (k, node) = false := by
  simp [Shroud.freshNodes]

@[simp] theorem Shroud.freshBlocks_failed (k node : Nat) (blocks : List Nat) : (h.freshBlocks k node blocks).failed = h.failed :=
  foldl_failed blocks h fun h pos => h.initBlock_failed pos

end Failed

/-! Ordered lists of numbers, and the poisoned lines. -/

theorem mem_insertNat {x n : Nat} {l : List Nat} : x ∈ insertNat n l ↔ x = n ∨ x ∈ l := by
  induction l with
  | nil => simp [insertNat]
  | cons a r ih =>
    unfold insertNat
    split
    · simp
    · split
      · next h => simp [h]
      · simp only [List.mem_cons, ih]
        exact or_left_comm

theorem mem_foldl_insertNat {x : Nat} {ls b : List Nat} (h : x ∈ ls ∨ x ∈ b) : x ∈ ls.foldl (fun b l => insertNat l b) b := by
  induction ls generalizing b with
  | nil => simpa using h
  | cons a r ih =>
    refine ih ?_
    rw [mem_insertNat]
    rw [List.mem_cons] at h
    exact or_left_comm.1 (or_assoc.1 h)

theorem Shroud.poisonLines_failed (h : Shroud) (ls : List Nat) : (h.poisonLines ls).failed = h.failed := rfl

theorem Shroud.mem_poisonLines (h : Shroud) {ls : List Nat} {x : Nat} (hx : x ∈ ls) : x ∈ (h.poisonLines ls).poison := mem_foldl_insertNat (.inl hx)

/-! What writes of whole frames leave (R283). -/

section Frames
variable (s : State)

/-- What a rebuild of pages never changes, with the failed nodes. -/
def State.outsidePages (s : State) : Tbl Ctx × Tbl Run × Tbl Queue × Tbl Obj × List (Nat × Nat) := (s.ctxs, s.runs, s.queues, s.objs, s.shroud.failed)

theorem State.outsidePages_of_shroud {s : State} {h : Shroud} (hf : h.failed = s.shroud.failed) : ({ s with shroud := h } : State).outsidePages = s.outsidePages := by
  simp only [State.outsidePages, hf]

theorem State.spend_outsidePages (k n : Nat) : (s.spend k n).outsidePages = s.outsidePages ∧ (s.spend k n).hbm = s.hbm := by
  unfold State.spend
  split
  · exact ⟨rfl, rfl⟩
  · dsimp only
    split <;> exact ⟨rfl, rfl⟩

theorem State.touchLines_outsidePages (part : Option Nat) (first n : Nat) :
    ((s.touchLines part first n).outsidePages, (s.touchLines part first n).hbm) = (s.outsidePages, s.hbm) := by
  refine foldl_keeps (fun s => (s.outsidePages, s.hbm)) _ _ fun s i => ?_
  dsimp only
  have htouch : ({ s with shroud := (s.shroud.touchLine (first + i)).1 } : State).outsidePages = s.outsidePages :=
    State.outsidePages_of_shroud (Shroud.touchLine_failed ..)
  split
  · cases part with
    | none => exact Prod.ext htouch rfl
    | some p => exact Prod.ext ((State.spend_outsidePages ..).1.trans htouch) ((State.spend_outsidePages ..).2.trans rfl)
  · exact Prod.ext htouch rfl

theorem State.touchLines_keeps_outside (part : Option Nat) (first n : Nat) : (s.touchLines part first n).outsidePages = s.outsidePages :=
  congrArg Prod.fst (State.touchLines_outsidePages ..)

theorem State.touchLines_hbm (part : Option Nat) (first n : Nat) : (s.touchLines part first n).hbm = s.hbm :=
  congrArg Prod.snd (State.touchLines_outsidePages ..)

theorem State.touchLines_then_hbm (part : Option Nat) (first n : Nat) (m : Mem) :
    ({ s.touchLines part first n with hbm := m } : State).outsidePages = s.outsidePages := State.touchLines_keeps_outside ..

theorem State.writeFrame_outsidePages (part : Option Nat) (f : Nat) (data : Bytes) : (s.writeFrame part f data).outsidePages = s.outsidePages :=
  State.touchLines_then_hbm s part (f * 1024) 1024 _

theorem State.writeFrame_hbm (part : Option Nat) (f : Nat) (data : Bytes) :
    (s.writeFrame part f data).hbm = (s.hbm.clear (f * pageBytes) pageBytes).writes (f * pageBytes) data :=
  congrArg (fun m : Mem => (m.clear (f * pageBytes) pageBytes).writes (f * pageBytes) data) (State.touchLines_hbm s part (f * 1024) 1024)

end Frames

/-! Restoring one page. -/

section Page
variable {s : State} {key i f : Nat} {o : Obj} {cat : List Nat} (ho : s.objs.get key = some o)
include ho

theorem State.restorePage_of_catcher (cached : Option (List Nat)) (hmirror : (o.pte i).mirror = true) (hcat : cat.contains f = true) :
    s.restorePage key i f cat cached = (true, s.writeFrame o.part f (s.hbm.reads (f * pageBytes) pageBytes)) := by
  simp only [State.restorePage, ho, hmirror, hcat, Bool.and_self, if_true]

variable (hcat : ((o.pte i).mirror && cat.contains f) = false)
include hcat

theorem State.restorePage_of_snap (cached : Option (List Nat)) {ff : Nat} (hsince : (o.pte i).sinceSnap = false) (hsnap : s.snapCopy key i = some ff) :
    s.restorePage key i f cat cached = (true, s.writeFrame o.part f (s.flash.mem.reads (ff * pageBytes) pageBytes)) := by
  simp only [State.restorePage, ho, hcat, Bool.false_eq_true, if_false, hsince, hsnap]

variable (hnone : (o.pte i).sinceSnap = true ∨ s.snapCopy key i = none)
include hnone

omit ho hcat in
theorem State.noCopy_of : (if (o.pte i).sinceSnap = true then none else s.snapCopy key i) = none := by
  obtain h | h := hnone
  · rw [if_pos h]
  · rw [h, ite_self]

theorem State.restorePage_of_cached (lines : List Nat) : (s.restorePage key i f cat (some lines)).1 = true ∧
    (s.restorePage key i f cat (some lines)).2.hbm = s.hbm ∧ (s.restorePage key i f cat (some lines)).2.shroud.bad = s.shroud.bad := by
  simp only [State.restorePage, ho, hcat, Bool.false_eq_true, if_false, State.noCopy_of hnone]
  exact ⟨trivial, foldl_keeps State.hbm _ _ fun s l => State.touchLines_hbm s o.part l 1, trivial⟩

theorem State.restorePage_of_nothing : (s.restorePage key i f cat none).1 = false ∧
    (s.restorePage key i f cat none).2.hbm = s.hbm.clear (f * pageBytes) pageBytes ∧
    ∀ j < 1024, f * 1024 + j ∈ (s.restorePage key i f cat none).2.shroud.poison := by
  simp only [State.restorePage, ho, hcat, Bool.false_eq_true, if_false, State.noCopy_of hnone]
  refine ⟨trivial, State.writeFrame_hbm .., fun j hj => ?_⟩
  exact Shroud.mem_poisonLines _ (List.mem_map.2 ⟨j, List.mem_range.2 hj, rfl⟩)

end Page

/-- Nothing that a page's restoring writes lies outside pages and metadata. -/
theorem State.restorePage_outsidePages (s : State) (key i f : Nat) (cat : List Nat) (cached : Option (List Nat)) :
    (s.restorePage key i f cat cached).2.outsidePages = s.outsidePages := by
  unfold State.restorePage
  split
  · rfl
  · next o ho =>
    dsimp only
    split
    · exact State.writeFrame_outsidePages ..
    · split
      · exact State.writeFrame_outsidePages ..
      · refine (State.outsidePages_of_shroud ?_).trans (foldl_keeps State.outsidePages _ s fun s l => State.touchLines_keeps_outside s o.part l 1)
        rfl
      · refine (State.outsidePages_of_shroud ?_).trans (State.writeFrame_outsidePages s o.part f [])
        exact Shroud.poisonLines_failed ..

/-! The rebuild of a subtree. -/

theorem exec_subtreeRebuild_of_sound {s : State} {h node : Nat} (cat : List Nat) (hsound : s.shroud.failed.contains (h, node) = false) :
    exec (.subtreeRebuild h node cat) s = .next s := by
  change execSubtreeRebuild h node cat s = _
  rw [execSubtreeRebuild, hsound]
  rfl

/-- Restore the page of a frame in use beneath a failed node, and note its object where nothing restores it. -/
def State.restoreFrame (cat : List Nat) (kept : Tbl (Option (List Nat))) (acc : List Nat × State) (e : Nat × Nat) : List Nat × State :=
  match acc.2.objs.get e.2 with
  | none => acc
  | some o =>
    match o.pages.findIdx? (fun p => p.tier == 1 && p.frameNo == e.1) with
    | none => acc
    | some i =>
      if (o.pte i).st == .zero then acc
      else
        let (ok, s) := acc.2.restorePage e.2 i e.1 cat (kept.getD e.1 none)
        (if ok then acc.1 else insertNat e.2 acc.1, s)

/-- The frames in use that lie beneath a node. -/
def State.framesBeneath (s : State) (h node : Nat) : Tbl Nat := s.hbmUsed.filter (fun (e : Nat × Nat) => !(blocksUnder h node e.1).isEmpty)

/-- The state whose pages a rebuild restores: with fresh nodes and counter blocks. -/
def State.rebuilt (s : State) (h node : Nat) : State :=
  { s with shroud := (s.shroud.freshNodes h node).freshBlocks h node ((s.framesBeneath h node).flatMap (fun e => blocksUnder h node e.1)) }

/-- The restoring of every page beneath a node: the objects that lost one, and the state. -/
def State.restoreAll (s : State) (h node : Nat) (cat : List Nat) : List Nat × State :=
  (s.framesBeneath h node).foldl (State.restoreFrame cat ((s.framesBeneath h node).map (fun e => (e.1, s.cachedLines h node e.1)))) ([], s.rebuilt h node)

theorem exec_subtreeRebuild_of_failed {s : State} {h node : Nat} (cat : List Nat) (hrails : s.shroud.railsOk = true)
    (hfailed : s.shroud.failed.contains (h, node) = true) : exec (.subtreeRebuild h node cat) s = .next ((s.restoreAll h node cat).1.foldl State.loseOwner
      ((s.restoreAll h node cat).2.bumpDev (if (s.restoreAll h node cat).1.isEmpty then cSubRestored else cSubLost) 1)) := by
  change execSubtreeRebuild h node cat s = _
  simp only [execSubtreeRebuild, hfailed, Bool.not_true, Bool.false_eq_true, if_false, State.whenRails_of_ok hrails]
  rfl

theorem State.restoreFrame_outsidePages (cat : List Nat) (kept : Tbl (Option (List Nat))) (acc : List Nat × State) (e : Nat × Nat) :
    (State.restoreFrame cat kept acc e).2.outsidePages = acc.2.outsidePages := by
  unfold State.restoreFrame
  split
  · rfl
  · split
    · rfl
    · split
      · rfl
      · exact State.restorePage_outsidePages ..

theorem State.restoreAll_outsidePages (s : State) (h node : Nat) (cat : List Nat) : (s.restoreAll h node cat).2.outsidePages = (s.rebuilt h node).outsidePages :=
  List.foldlRecOn (s.framesBeneath h node) _ (motive := fun t => t.2.outsidePages = (s.rebuilt h node).outsidePages) rfl
    fun t ht e _ => (State.restoreFrame_outsidePages _ _ t e).trans ht

theorem State.restoreAll_mends (s : State) (h node : Nat) (cat : List Nat) : (s.restoreAll h node cat).2.shroud.failed.contains (h, node) = false ∧
    (s.restoreAll h node cat).2.ctxs = s.ctxs ∧ (s.restoreAll h node cat).2.runs = s.runs ∧ (s.restoreAll h node cat).2.queues = s.queues := by
  have hout := s.restoreAll_outsidePages h node cat
  simp only [State.outsidePages, Prod.mk.injEq] at hout
  obtain ⟨hctxs, hruns, hqueues, -, hfailed⟩ := hout
  refine ⟨?_, hctxs, hruns, hqueues⟩
  rw [hfailed, State.rebuilt, Shroud.freshBlocks_failed, Shroud.freshNodes_mends]

/-! Segments and wiped pages. -/

section Segments
variable {s : State}

theorem exec_segmentErase_erases {seg : Nat} (hdead : s.segmentDead seg = true) : ∃ u, exec (.segmentErase seg) s = .next u ∧
    u.flash.owner = (if snapTag (s.flash.owner.getD seg 0) = true ∧ s.flash.eraseCount seg + 1 < 10000 then s.flash.owner else s.flash.owner.erase seg) ∧
    u.flash.erases = s.flash.erases.set seg (s.flash.erases.getD seg 0 + 1) ∧ u.flash.used = s.flash.used ∧
    u.flash.mem = (segFrames seg).foldl (fun m x => Mem.clear m (x * pageBytes) pageBytes) s.flash.mem ∧
    (10000 ≤ s.flash.eraseCount seg + 1 → seg ∈ u.flash.retired) ∧ (s.flash.eraseCount seg + 1 < 10000 → u.flash.retired = s.flash.retired) ∧
    u.hbm = s.hbm ∧ u.objs = s.objs := by
  change ∃ u, execSegmentErase seg s = .next u ∧ _
  simp only [execSegmentErase, hdead, Bool.not_true, Bool.false_eq_true, if_false]
  refine ⟨_, rfl, ?_, rfl, rfl, ?_, fun hworn => ?_, fun hfresh => ?_, rfl, rfl⟩
  · simp only [Bool.and_eq_true, decide_eq_true_eq]
  · dsimp only
  · rw [if_pos hworn, mem_insertNat]
    exact .inl rfl
  · rw [if_neg (by omega)]

theorem exec_segmentRelocate_moves {seg tag : Nat} {live pick : List Nat} {s1 : State} (howner : s.flash.owner.get seg = some tag)
    (hlive : live = (segFrames seg).filter (fun f => s.flash.used.has f)) (hsome : live ≠ []) (hfew : live.length < 112)
    (hobjs : ∀ f ∈ live, s.objs.has (s.flash.used.getD f 0) = true) (hgood : ∀ l ∈ s.shroud.badFlash, live.contains (l / 1024) = false)
    (hs1 : s1 = s.growRegion tag 8 ((s.regionFree tag).length + live.length)) (hlen : pick.length = live.length) (hnodup : pick.Nodup)
    (hfree : ∀ f ∈ pick, f ∈ s1.regionFree tag ∧ segOf f ≠ seg) :
    exec (.segmentRelocate seg pick false) s = .next ((live.zip pick).foldl (fun s e => s.moveFrame e.1 e.2) s1) := by
  have hmovable : live.all (fun f => s.objs.has (s.flash.used.getD f 0)) = true := List.all_eq_true.2 hobjs
  have hbad : s.shroud.badFlash.any (fun l => live.contains (l / 1024)) = false := List.any_eq_false.2 fun l hl => by simpa using hgood l hl
  have hpick : pick.all (fun f => ((s1.regionFree tag).filter (fun f => segOf f != seg)).contains f) = true :=
    List.all_eq_true.2 fun f hf => by simp [hfree f hf]
  have hmany : ¬ 112 ≤ live.length := by omega
  change execSegmentRelocate seg pick false s = _
  simp only [execSegmentRelocate, howner, ← hlive, ← hs1, List.isEmpty_eq_false_iff.2 hsome, hmany, hmovable, hbad, hlen, hnodup, hpick, decide_false, decide_true,
    Bool.not_true, Bool.or_self, Bool.false_eq_true, if_false, BEq.rfl, Bool.and_self, if_true, Nat.lt_irrefl]

theorem exec_pageWipeDone_frees {frame : Nat} (hwiping : s.wiping.has frame = true) (hrails : s.shroud.railsOk = true) :
    ∃ u, exec (.pageWipeDone frame) s = .next u ∧ u.wiping = s.wiping.erase frame ∧ u.hbmUsed = s.hbmUsed.erase frame ∧
      u.hbm = s.hbm.clear (frame * pageBytes) pageBytes ∧ u.shroud = s.shroud.initFrame frame ∧ u.objs = s.objs := by
  change ∃ u, execPageWipeDone frame s = .next u ∧ _
  simp only [execPageWipeDone, hwiping, if_true, State.whenRails_of_ok hrails]
  refine ⟨_, rfl, rfl, rfl, ?_, ?_, rfl⟩
  · dsimp only [State.freeFrame]
  · dsimp only [State.freeFrame]

section Wiped
variable {entry p k : Nat} {o : Obj} {s1 : State} (ho : s.objs.get k = some o)
  (hs1 : s1 = { s with objs := s.objs.erase k, adpt := { s.adpt with wipes := s.adpt.wipes.erase entry } })
include ho hs1

theorem exec_adapterWipeDone_frees (hwipe : s.adpt.wipes.get entry = some (p, k, none)) :
    exec (.adapterWipeDone entry) s = .next (((o.pages.map Pte.frameNo).foldl State.freeFrame s1).startLoads) := by
  change execAdapterWipeDone entry s = _
  simp only [execAdapterWipeDone, hwipe, ho, ← hs1]

theorem exec_adapterWipeDone_of_revoked {slot : Nat} (hwipe : s.adpt.wipes.get entry = some (p, k, some slot)) :
    exec (.adapterWipeDone entry) s = .next ((((o.pages.map Pte.frameNo).foldl State.freeFrame s1).freeRevoked slot).startLoads) := by
  change execAdapterWipeDone entry s = _
  simp only [execAdapterWipeDone, hwipe, ho, ← hs1]

end Wiped
end Segments

/-! The end of an adapter load. -/

/-- A load of a cache entry. -/
def Work.loadsEntry (w : Work) (entry : Nat) : Bool :=
  match w.kind with
  | .adapterLoad _ i => i == entry
  | _ => false

/-- The status a load ends with. -/
def Work.loadStatus (w : Work) (status : Status) : Status :=
  if !w.failed.isEmpty then w.status
  else match status with
    | .tierFail | .partialDone | .integrity | .key => status
    | _ => .ok

section Load
variable {s : State} {entry id src : Nat} {e : CacheEntry} {w : Work} {s1 : State} (he : s.adpt.cache.get entry = some e)
  (hfind : s.works.find? (fun x => x.2.loadsEntry entry) = some (id, w)) (hbusy : s.workBusy id = false) (hst : e.st = .loading)
include he hfind hbusy hst

/-- Every read of the load has come back: the entry becomes resident with the object's bytes, or void. -/
theorem exec_adapterLoadDone_ends (status : Status) (hkind : w.kind = .adapterLoad src entry) (hs1 : s1 = { s with works := s.works.erase id }) :
    exec (.adapterLoadDone entry status) s =
      if w.loadStatus status == .ok then
        .next ((e.waiters.foldl (fun s x => s.complete x.1 x.2.1 (Done.okay e.slot 0))
          ((e.pages.elim s1 (fun k => s1.objWrite k 0 (s1.loadBytes src))).setCache entry { e with st := .resident, waiters := [] })).afterUnpin entry)
      else .next (e.waiters.foldl (fun s x => s.complete x.1 x.2.1 { w.privDone with st := w.loadStatus status })
        (((s1.bumpPart e.part cAdLoadFail 1).countPartial w).voidEntry entry false)) := by
  subst hs1
  change execAdapterLoadDone entry status s = _
  unfold execAdapterLoadDone
  split
  · next e' id' w' he' hf =>
    obtain rfl : e = e' := Option.some.inj (he.symm.trans he')
    obtain ⟨rfl, rfl⟩ : id = id' ∧ w = w' := by
      have h : some (id, w) = some (id', w') := hfind.symm.trans hf
      simpa using h
    simp only [hbusy, hst, hkind, bne_self_eq_false, Bool.false_eq_true, if_false]
    cases e.pages <;> rfl
  · next hno => exact absurd hfind (hno e id w he)

end Load

theorem Work.loadStatus_of_failed {w : Work} (status : Status) (h : w.failed ≠ []) : w.loadStatus status = w.status := by simp [Work.loadStatus, h]

theorem Work.loadStatus_of_whole {w : Work} (h : w.failed = []) : w.loadStatus .ok = .ok ∧ w.loadStatus .tierFail = .tierFail := by simp [Work.loadStatus, h]

/-- Settles O33: a segment's erase and relocation, a wiped page and entry, the end of a load by its status, a rebuild and each source of a page. -/
theorem segmentsLoadsAndRebuilds : Obligations.SegmentsLoadsAndRebuilds := by
  refine ⟨fun s seg => ⟨exec_segmentErase_erases, ?relocate, fun frame => exec_pageWipeDone_frees, ?wiped⟩, ?loads⟩
  case relocate =>
    intro tag live pick s1 howner hlive hsome hfew hobjs hgood hs1 hlen hnodup hfree
    exact exec_segmentRelocate_moves howner hlive hsome hfew hobjs hgood hs1 hlen hnodup hfree
  case wiped =>
    intro entry p k o s1 ho hs1
    exact ⟨exec_adapterWipeDone_frees ho hs1, fun slot => exec_adapterWipeDone_of_revoked ho hs1⟩
  case loads =>
    intro s entry e id src w he hfind hkind hbusy hst
    have hends (status : Status) := exec_adapterLoadDone_ends he hfind hbusy hst status hkind rfl
    refine ⟨?resident, ?tierFail, ?failed, ?rebuild, fun h node cat hsound => exec_subtreeRebuild_of_sound cat hsound, ?catcher, ?snap, ?cached, ?nothing⟩
    case resident =>
      intro k s1 s2 hfailed hpages hs1 hs2
      subst hs1 hs2
      rw [hends, (Work.loadStatus_of_whole hfailed).1, hpages]
      rfl
    case tierFail =>
      intro s1 hfailed hs1
      subst hs1
      rw [hends, (Work.loadStatus_of_whole hfailed).2]
      rfl
    case failed =>
      intro s1 hfailed hstatus hs1
      subst hs1
      rw [hends, Work.loadStatus_of_failed _ hfailed, if_neg (by simpa using hstatus)]
    case rebuild =>
      intro h node cat hrails hbad
      exact ⟨_, _, exec_subtreeRebuild_of_failed cat hrails hbad, s.restoreAll_mends h node cat⟩
    case catcher => intro key i f o cat cached ho hmirror hcat; exact State.restorePage_of_catcher ho cached hmirror hcat
    case snap => intro key i f o cat cached ff ho hcat hsince hsnap; exact State.restorePage_of_snap ho hcat cached hsince hsnap
    case cached => intro key i f o cat lines ho hcat hnone; exact State.restorePage_of_cached ho hcat hnone lines
    case nothing => intro key i f o cat ho hcat hnone; exact State.restorePage_of_nothing ho hcat hnone

end Sys2Proof.Machine
end

section
/-! ### Restores, replays and the DOE mailbox (R464, R471, R489, R515 to R518, R535, R560)

A partition after a write of it, RESTORE_GO, RESTORE_DONE and REPLAY_ARM, and when a message to SEC waits; O35 and O36 put together from them. -/

namespace Sys2Proof.Machine

/-! A partition after a write. -/

section Parts
variable (s : State) (p : Nat)

@[simp] theorem State.part_setPart_self (x : PartSt) : (s.setPart p x).part p = x := Tbl.getD_set_self ..

@[simp] theorem State.net_setNet_self (n : Net) : (s.setNet p n).net p = n := by simp [State.net, State.setNet]

@[simp] theorem State.preg_setPreg_self (off v d : Nat) : (s.setPreg p off v).preg p off d = v := by
  simp only [State.preg, State.setPreg, State.part_setPart_self]
  exact Tbl.getD_set_self ..

@[simp] theorem State.net_setPreg (off v : Nat) : (s.setPreg p off v).net p = s.net p := by simp [State.net, State.setPreg]

end Parts

/-! RESTORE_GO and RESTORE_DONE (R515 to R518). -/

section Restore
variable {s : State} {p : Part}

theorem exec_restoreGo_of_unfit (hidle : (s.net p.val).restore = none) (hnone : s.restorer p.val = none) :
    exec (.restoreGo p) s = .next (s.setRestore p.val 2 (statusCode .bounds)) := by
  change execRestoreGo p s = _
  simp only [execRestoreGo, hidle, Option.isSome_none, Bool.false_eq_true, if_false, hnone]

theorem exec_restoreGo_starts {c : Nat} {x : Ctx} (hidle : (s.net p.val).restore = none) (hc : s.restorer p.val = some c) (hx : s.ctxs.get c = some x) :
    ∃ u y, exec (.restoreGo p) s = .next u ∧ (u.net p.val).restore = some ⟨s.preg p.val rRestore 0 / 2 ^ 32, c⟩ ∧ u.ctxs.get c = some y ∧
      y.restoring = true ∧ y.part = x.part ∧ y.seed = x.seed ∧ u.objs = s.objs ∧ u.hbm = s.hbm := by
  change ∃ u y, execRestoreGo p s = .next u ∧ _
  simp only [execRestoreGo, hidle, Option.isSome_none, Bool.false_eq_true, if_false, hc, hx]
  refine ⟨_, { x with restoring := true }, rfl, ?_, Tbl.get_set_self .., rfl, rfl, rfl, rfl, rfl⟩
  rw [State.setRestore, State.net_setPreg, State.net_setNet_self]
  rfl

/-- A restore is over: its context runs again, and NET_RESTORE shows the status. -/
def State.endRestore (s : State) (p c : Nat) (y : Ctx) (st : Status) : State :=
  ((s.setNet p { s.net p with restore := none }).setCtx c { y with restoring := false }).setRestore p 2 (statusCode st)

section Ends
variable {r : Sys2Proof.Machine.Restore} {x : Snap} (hr : (s.net p.val).restore = some r) (hx : (s.net p.val).snap r.number = some x)
include hr hx

theorem exec_restoreDone_of_integrity {y : Ctx} (hy : s.ctxs.get r.ctx = some y) (hbad : x.sealed ≠ (s.part p.val).sess.sealValue ∨ s.copiesFail x = true) :
    exec (.restoreDone p none) s = .next (s.endRestore p.val r.ctx y .integrity) := by
  have hhas : s.ctxs.has r.ctx = true := by rw [Tbl.has, hy]; rfl
  have hfails : (x.sealed != (s.part p.val).sess.sealValue || (none : Option Status) == some .integrity || s.copiesFail x) = true := by
    obtain h | h := hbad
    · simp [h]
    · simp [h]
  have hctx : ∀ n, (s.setNet p.val n).ctxs.get r.ctx = some y := fun _ => hy
  change execRestoreDone p none s = _
  simp only [execRestoreDone, hr, hx, hhas, hfails, Bool.not_true, Bool.false_eq_true, if_false, if_true, hctx]
  rfl

theorem exec_restoreDone_restores {st : Option Status} {s1 : State} {y : Ctx} (hhas : s.ctxs.has r.ctx = true)
    (hsealed : x.sealed = (s.part p.val).sess.sealValue) (hgood : s.copiesFail x = false) (happly : s.applyRestore p.val r.ctx x false = (st, s1))
    (hy : s1.ctxs.get r.ctx = some y) : exec (.restoreDone p none) s = .next (s1.endRestore p.val r.ctx y (st.getD .ok)) := by
  have hnot (a : Status) : ((none : Option Status) == some a) = false := rfl
  have hctx : ∀ n, (s1.setNet p.val n).ctxs.get r.ctx = some y := fun _ => hy
  change execRestoreDone p none s = _
  simp only [execRestoreDone, hr, hx, hhas, hsealed, hgood, hnot, bne_self_eq_false, Bool.or_self, Bool.not_true, Bool.false_eq_true, if_false, Option.isSome_none, happly,
    hctx]
  rfl

end Ends

/-! REPLAY_ARM (R535). -/

theorem exec_replayArm_arms {value : U64} (hup : s.compUp cpDigest = true) : ∃ u, exec (.replayArm p value) s = .next u ∧
    (u.part p.val).led.armed = bitOf value.toNat 5 ∧ (u.part p.val).led.runAt = 0 ∧
    u.preg p.val rReplay 0 = bitsOf value.toNat 32 32 * 2 ^ 32 + b2n (bitOf value.toNat 6) * 64 + value.toNat % 32 ∧
    (u.part p.val).led.ring = (s.part p.val).led.ring := by
  change ∃ u, execReplayArm p value s = .next u ∧ _
  simp only [execReplayArm, hup, if_true]
  refine ⟨_, rfl, ?_⟩
  simp only [State.armReplay, State.preg, State.part_setPart_self]
  exact ⟨trivial, trivial, State.preg_setPreg_self .., trivial⟩

theorem exec_replayArm_waits {value : U64} (hdown : s.compUp cpDigest = false) : ∃ u, exec (.replayArm p value) s = .next u ∧
    u.onlyn.replays = s.onlyn.replays ++ [(p.val, value)] ∧ u.parts = s.parts := by
  change ∃ u, execReplayArm p value s = .next u ∧ _
  simp only [execReplayArm, hdown, Bool.false_eq_true, if_false]
  exact ⟨_, rfl, rfl, rfl⟩

end Restore

/-- Settles O35: RESTORE_GO by whether a context may be restored, RESTORE_DONE by its checks, REPLAY_ARM by whether DIGEST runs. -/
theorem restoresAndReplays : Obligations.RestoresAndReplays := by
  intro s p
  refine ⟨exec_restoreGo_of_unfit, fun c x => exec_restoreGo_starts, ?integrity, ?restores, fun value => exec_replayArm_arms, fun value => exec_replayArm_waits⟩
  case integrity => intro r x y hr hx hy hbad; exact ⟨_, _, rfl, rfl, exec_restoreDone_of_integrity hr hx hy hbad⟩
  case restores =>
    intro r x st s1 y hr hx hhas hsealed hgood happly hy
    exact ⟨_, _, rfl, rfl, exec_restoreDone_restores hr hx hhas hsealed hgood happly hy⟩

/-! The DOE mailbox (R464, R471, R489, R560). -/

section Mail
variable {s : State} {i : Instr}

theorem State.mail_of_closed (h : s.doeOpen = false) : s.mail i = s := by simp [State.mail, h]

theorem State.mail_waits (h : s.doeOpen = true) (hwaits : s.mailWaits i = true) : s.mail i = { s with sec := { s.sec with mailbox := s.sec.mailbox ++ [i] } } := by
  simp [State.mail, h, hwaits]

theorem State.mail_acts (h : s.doeOpen = true) (hfree : s.mailWaits i = false) : s.mail i = s.secEffect i := by
  simp [State.mail, h, hfree]

theorem State.doeOpen_of_closed (h : s.dev.closedPcie = true ∨ s.pwr.off = true ∨ s.pwr.asleep = true ∨ s.onlyn.recovery = true ∨ s.sec.life = 5) :
    s.doeOpen = false := by
  obtain h | h | h | h | h := h
  all_goals simp [State.doeOpen, h]

theorem State.mailWaits_of_busy (h : s.sec.down.isSome = true ∨ s.sec.wiping.isSome = true ∨ s.boot.run.isSome = true) : s.mailWaits i = true := by
  obtain h | h | h := h
  all_goals simp [State.mailWaits, h]

theorem State.mailWaits_behind {m : Instr} (hm : m ∈ s.sec.mailbox) (hpart : msgPart m = msgPart i) (hsome : (msgPart i).isSome = true) :
    s.mailWaits i = true := by
  have hany : s.sec.mailbox.any (fun m => msgPart m == msgPart i) = true := List.any_eq_true.2 ⟨m, hm, by simp [hpart]⟩
  simp [State.mailWaits, hsome, hany]

end Mail

/-- Settles O36: what the mailbox does with a message, when it is closed, what makes a message wait, and that SEC's commands reach it so. -/
theorem messagesWaitTheirTurn : Obligations.MessagesWaitTheirTurn := by
  intro s i
  refine ⟨State.mail_of_closed, State.mail_waits, State.mail_acts, State.doeOpen_of_closed, fun h => State.mailWaits_of_busy (.inl h),
    fun h => State.mailWaits_of_busy (.inr (.inl h)), fun h => State.mailWaits_of_busy (.inr (.inr h)), fun m => State.mailWaits_behind, ?reach⟩
  rintro (⟨h, l, rfl⟩ | ⟨h, rfl⟩ | ⟨h, rfl⟩ | ⟨h, a, b, c, rfl⟩ | ⟨h, a, rfl⟩ | ⟨h, a, b, c, rfl⟩ | ⟨h, a, rfl⟩ | ⟨h, a, rfl⟩ | ⟨h, a, rfl⟩ | ⟨h, rfl⟩ | ⟨h, a, b, rfl⟩)
  all_goals rfl

end Sys2Proof.Machine
end

section
/-! ### Layouts, sessions and SPDM (R11, R460 to R466, R473, R578)

What each message to SEC does once the mailbox takes it; O37 and O40 put together from them. -/

namespace Sys2Proof.Machine

theorem secClean_eq (h : SecHdr) : secClean h = decide (h.rsv = 0 ∧ h.pad = 0) := by
  simp [secClean, Bool.decide_and, Bool.beq_eq_decide_eq]

/-! Layouts (R460, R461). -/

section Layouts
variable {s : State} {h : SecHdr} {p : Nat}

theorem State.mailWaits_of_zeroing {l : Layout} (hclean : secClean h = true) (hfits : s.layoutFails h l = none) (hzero : s.zeroing l = true) :
    s.mailWaits (.layoutSet h l) = true := by
  simp [State.mailWaits, hclean, hfits, hzero]

theorem State.answerOp_of_unclean (type : Nat) (r : Except Status State) (hclean : secClean h = false) :
    s.answerOp type h r = s.reply type h none .malformed [] := by
  simp [State.answerOp, hclean]

theorem State.doLayoutSet_refused {l : Layout} {st : Status} (hclean : secClean h = true) (hfails : s.layoutFails h l = some st) :
    s.doLayoutSet h l = s.reply 0x01 h none st [] := by
  simp [State.doLayoutSet, State.answerOp, hclean, hfails]

theorem State.doLayoutSet_taken {l : Layout} {s1 s2 s3 : State} (hclean : secClean h = true) (hfails : s.layoutFails h l = none)
    (h1 : s1 = s.assign h.part.toNat l)
    (h2 : s2 = (s1.setPart h.part.toNat { s1.part h.part.toNat with table := 1, tableN := 0xFFFFFFFE }).grantLayout h.part.toNat l)
    (h3 : s3 = (List.range 4).foldl (fun s i => (s.endDry (4 * h.part.toNat + i)).setBudget (4 * h.part.toNat + i) (l.budgets.getD i 0).toNat) s2) :
    s.doLayoutSet h l = (s3.wakeAll (((List.range 20).filter (fun c => bitOf l.columns.toNat c)).map (fun c => 20 + c))).reply 0x01 h none .ok [] := by
  subst h1 h2 h3
  simp only [State.doLayoutSet, State.answerOp, hclean, hfails, Bool.not_true, Bool.false_eq_true, if_false]

theorem State.assign_sess (l : Layout) : ((s.assign p l).part p).sess =
    { Session.none with st := .assigned, layout := some l, keyPair := Config.trng s.free, sessionId := kemId (Config.trng s.free) } := by
  simp only [State.assign, State.fresh, State.setSess, State.part_setPart_self]

theorem State.layoutFails_of_no_part (l : Layout) (hp : 16 ≤ h.part.toNat) : s.layoutFails h l = some .malformed := by
  simp [State.layoutFails, hp]

theorem State.layoutFails_of_in_use (l : Layout) (hp : h.part.toNat < 16)
    (hst : (s.part h.part.toNat).sess.st = .bound ∨ (s.part h.part.toNat).sess.st = .closing) : s.layoutFails h l = some .bounds := by
  have hlow : ¬ 16 ≤ h.part.toNat := by omega
  obtain hst | hst := hst
  all_goals simp [State.layoutFails, hlow, hst]

theorem State.doLayoutClear_of_unclean (hclean : secClean h = false) : s.doLayoutClear h = s.reply 0x02 h none .malformed [] := by
  simp [State.doLayoutClear, hclean]

section Clear
variable (hp : h.part.toNat < 16) (hclean : secClean h = true)
include hp hclean

theorem State.doLayoutClear_free (hst : (s.part h.part.toNat).sess.st = .free) : s.doLayoutClear h = s.reply 0x02 h none .ok [] := by
  have hlow : ¬ 16 ≤ h.part.toNat := by omega
  simp only [State.doLayoutClear, hlow, hclean, hst, decide_false, Bool.not_true, Bool.or_self, Bool.false_eq_true, if_false]

theorem State.doLayoutClear_closing (hst : (s.part h.part.toNat).sess.st = .closing) : s.doLayoutClear h = s.reply 0x02 h none .key [] := by
  have hlow : ¬ 16 ≤ h.part.toNat := by omega
  simp only [State.doLayoutClear, hlow, hclean, hst, decide_false, Bool.not_true, Bool.or_self, Bool.false_eq_true, if_false]

theorem State.doLayoutClear_bound (hst : (s.part h.part.toNat).sess.st = .bound) :
    s.doLayoutClear h = ((s.closePart h.part.toNat false true).releaseRegion h.part.toNat).reply 0x02 h none .ok [] := by
  have hlow : ¬ 16 ≤ h.part.toNat := by omega
  simp only [State.doLayoutClear, hlow, hclean, hst, decide_false, Bool.not_true, Bool.or_self, Bool.false_eq_true, if_false]

theorem State.doLayoutClear_assigned {s1 : State} (hst : (s.part h.part.toNat).sess.st = .assigned)
    (h1 : s1 = (s.releaseRegion h.part.toNat).setSess h.part.toNat { Session.none with layout := (s.part h.part.toNat).sess.layout, clearing := true, closeTs := s.ts }) :
    s.doLayoutClear h = s1.reply 0x02 h none .ok [] := by
  have hlow : ¬ 16 ≤ h.part.toNat := by omega
  simp only [State.doLayoutClear, hlow, hclean, hst, h1, decide_false, Bool.not_true, Bool.or_self, Bool.false_eq_true, if_false]

end Clear

end Layouts

/-! Sessions (R463 to R466). -/

section Sessions
variable {s : State} {h : SecHdr} {p : Nat} {x : Session}

theorem State.doSessionKey_of_unclean (hclean : secClean h = false) : s.doSessionKey h = s.reply 0x03 h none .malformed [] := by
  simp [State.doSessionKey, hclean]

theorem State.doSessionKey_operator (hclean : secClean h = true) (hp : h.part.toNat = 255) :
    s.doSessionKey h = s.reply 0x03 h none .ok (kemKey s.sec.opPair) := by
  simp only [State.doSessionKey, hclean, hp, Bool.not_true, Bool.false_eq_true, if_false, if_true]

theorem State.doSessionKey_tenant (hclean : secClean h = true) (hp : h.part.toNat < 16)
    (hst : (s.part h.part.toNat).sess.st = .assigned ∨ (s.part h.part.toNat).sess.st = .bound) :
    s.doSessionKey h = s.reply 0x03 h none .ok (kemKey (s.part h.part.toNat).sess.keyPair) := by
  have h255 : ¬ h.part.toNat = 255 := by omega
  have h16 : ¬ 16 ≤ h.part.toNat := by omega
  obtain hst | hst := hst
  all_goals simp only [State.doSessionKey, hclean, h255, h16, hst, Bool.not_true, Bool.false_eq_true, if_false]

variable {ct : Bytes} {report : U384} {masked : U256}

theorem State.doBind_of_broken_life (hlife : s.lifeOk = false) : s.doBind h ct report masked = s.devFault .parity none := by
  simp [State.doBind, hlife]

theorem State.doBind_refused {st : Status} (hlife : s.lifeOk = true) (hfails : s.bindFails h ct report masked = some st) :
    s.doBind h ct report masked = s.reply 0x04 h none st [] := by
  simp [State.doBind, hlife, hfails]

theorem State.doBind_taken {l : Layout} {s1 s2 : State} (hlife : s.lifeOk = true) (hfails : s.bindFails h ct report masked = none)
    (hx : x = (s.part h.part.toNat).sess) (hl : x.layout = some l)
    (h1 : s1 = s.setSess h.part.toNat { x with st := .bound, channel := some (bindKey x.keyPair ct report), lastSeq := 0, sealValue := bindSeal x.keyPair ct report masked, bindTs := s.ts })
    (h2 : s2 = ((s1.fresh.2).setKey l.keyBase.toNat (filledSlot .memory (Config.trng s1.fresh.1))).wakeAll
      (((List.range 8).filter (fun j => bitsOf l.cores.toNat (4 * j) 4 != 0)).map (fun j => 65 + j))) :
    s.doBind h ct report masked =
      (((s2.setNet h.part.toNat Net.reset).attachSnaps h.part.toNat).sendPair h.part.toNat).reply 0x04 h (some (bindKey x.keyPair ct report)) .ok [] := by
  subst h1 h2 hx
  simp only [State.doBind, hlife, hfails, hl, Bool.not_true, Bool.false_eq_true, if_false]

theorem State.bindFails_malformed (hbad : h.seq ≠ 0 ∨ secClean h = false) : s.bindFails h ct report masked = some .malformed := by
  refine if_pos ?_
  obtain hbad | hbad := hbad
  · rw [bne_iff_ne.2 hbad, Bool.or_true, Bool.true_or]
  · simp [hbad]

theorem State.bindFails_key (hp : h.part.toNat < 16) (hseq : h.seq = 0) (hclean : secClean h = true)
    (hst : (s.part h.part.toNat).sess.st ≠ .assigned ∨ s.sec.life ≠ 3) : s.bindFails h ct report masked = some .key := by
  have h16 : ¬ 16 ≤ h.part.toNat := by omega
  have hrefused : ((s.part h.part.toNat).sess.st != .assigned || s.sec.life != 3) = true := by simpa using hst
  simp only [State.bindFails, h16, hseq, hclean, hrefused, decide_false, bne_self_eq_false, Bool.not_true, Bool.or_self, Bool.false_eq_true, if_false, if_true]

/-! A tenant's message (R464). -/

variable {type : Nat} {body : Bytes}

theorem State.tenantFails_of_not_bound (hst : (s.part h.part.toNat).sess.st ≠ .bound) : s.tenantFails type h body = some .key := by
  cases hs : (s.part h.part.toNat).sess.st with
  | bound => exact absurd hs hst
  | free => simp [State.tenantFails, hs]
  | assigned => simp [State.tenantFails, hs]
  | closing => simp [State.tenantFails, hs]

/-- A tenant's message on a bound session: its tag, then its sequence number. -/
theorem State.tenantFails_of_bound {kc : U256} (hst : (s.part h.part.toNat).sess.st = .bound) (hkc : (s.part h.part.toNat).sess.channel = some kc) :
    s.tenantFails type h body = (if h.tag != tenantTag kc type h body then some .integrity
      else if h.seq.toNat ≤ (s.part h.part.toNat).sess.lastSeq then some .stale else none) := by
  simp only [State.tenantFails, hst, hkc]

theorem State.answerTenant_refused {st : Status} (f : Nat → State → Except Status State) (hp : h.part.toNat < 16) (hfails : s.tenantFails type h body = some st) :
    s.answerTenant type h body f = s.reply type h (s.part h.part.toNat).sess.channel st [] := by
  have h16 : ¬ 16 ≤ h.part.toNat := by omega
  simp only [State.answerTenant, h16, hfails, if_false]

theorem State.answerTenant_of_unclean (f : Nat → State → Except Status State) (hp : h.part.toNat < 16) (hfails : s.tenantFails type h body = none)
    (hclean : secClean h = false) : s.answerTenant type h body f = s.reply type h (s.part h.part.toNat).sess.channel .malformed [] := by
  have h16 : ¬ 16 ≤ h.part.toNat := by omega
  simp only [State.answerTenant, h16, hfails, hclean, if_false, Bool.not_false, if_true]

theorem State.answerTenant_taken {f : Nat → State → Except Status State} {t : State} (hp : h.part.toNat < 16) (hfails : s.tenantFails type h body = none)
    (hclean : secClean h = true) (hf : f h.part.toNat (s.setSess h.part.toNat { (s.part h.part.toNat).sess with lastSeq := h.seq.toNat }) = .ok t) :
    s.answerTenant type h body f = t.reply type h (s.part h.part.toNat).sess.channel .ok [] := by
  have h16 : ¬ 16 ≤ h.part.toNat := by omega
  simp only [State.answerTenant, h16, hfails, hclean, hf, if_false, Bool.not_true, Bool.false_eq_true]

theorem State.doSessionClose_refused {st : Status} (hp : h.part.toNat < 16) (hfails : s.tenantFails 0x0A h [] = some st) :
    s.doSessionClose h = s.reply 0x0A h (s.part h.part.toNat).sess.channel st [] := by
  rw [State.doSessionClose]
  exact State.answerTenant_refused _ hp hfails

theorem State.doSessionClose_of_unclean (hp : h.part.toNat < 16) (hfails : s.tenantFails 0x0A h [] = none) (hclean : secClean h = false) :
    s.doSessionClose h = s.reply 0x0A h (s.part h.part.toNat).sess.channel .malformed [] := by
  rw [State.doSessionClose]
  exact State.answerTenant_of_unclean _ hp hfails hclean

theorem State.doSessionClose_taken (hp : h.part.toNat < 16) (hfails : s.tenantFails 0x0A h [] = none) (hclean : secClean h = true) :
    s.doSessionClose h = ((s.setSess h.part.toNat { (s.part h.part.toNat).sess with lastSeq := h.seq.toNat }).closePart h.part.toNat false false).reply
      0x0A h (s.part h.part.toNat).sess.channel .ok [] := by
  rw [State.doSessionClose]
  exact State.answerTenant_taken hp hfails hclean rfl

end Sessions

theorem exec_mail {s t : State} {i : Instr} (hexec : exec i s = .next (s.mail i)) (hopen : s.doeOpen = true) (hfree : s.mailWaits i = false) (heff : s.secEffect i = t) :
    exec i s = .next t := by
  rw [hexec, State.mail_acts hopen hfree, heff]

/-- Settles O37: each clause is the branch of its message's handler that the hypotheses leave, taken by the open mailbox. -/
theorem layoutsAndSessions : Obligations.LayoutsAndSessions := by
  refine ⟨?_, ?_⟩
  · rintro s h p rfl hopen
    refine ⟨secClean_eq h, fun l => State.mailWaits_of_zeroing, ?unclean, ?refused, ?taken, ?assigned, fun l => State.layoutFails_of_no_part l,
      fun l => State.layoutFails_of_in_use l, ?clearAssigned, ?clearClosing, ?clearFree, ?clearBound, ?keyOperator, ?keyTenant⟩
    case unclean =>
      intro hclean
      exact ⟨fun l hfree => exec_mail rfl hopen hfree (State.answerOp_of_unclean _ _ hclean),
        fun hfree => exec_mail rfl hopen hfree (State.doLayoutClear_of_unclean hclean),
        fun hfree => exec_mail rfl hopen hfree (State.doSessionKey_of_unclean hclean)⟩
    case refused => exact fun l hclean hfree st hfails => exec_mail rfl hopen hfree (State.doLayoutSet_refused hclean hfails)
    case taken => exact fun l s1 s2 s3 hclean hfree hfails h1 h2 h3 => exec_mail rfl hopen hfree (State.doLayoutSet_taken hclean hfails h1 h2 h3)
    case assigned => exact fun l => ⟨_, State.assign_sess l, rfl, rfl, rfl, rfl, rfl⟩
    case clearAssigned => exact fun s1 hp hclean hfree hst h1 => exec_mail rfl hopen hfree (State.doLayoutClear_assigned hp hclean hst h1)
    case clearClosing => exact fun hp hclean hfree hst => exec_mail rfl hopen hfree (State.doLayoutClear_closing hp hclean hst)
    case clearFree => exact fun hp hclean hfree hst => exec_mail rfl hopen hfree (State.doLayoutClear_free hp hclean hst)
    case clearBound => exact fun hp hclean hfree hst => exec_mail rfl hopen hfree (State.doLayoutClear_bound hp hclean hst)
    case keyOperator => exact fun hclean hfree hp => exec_mail rfl hopen hfree (State.doSessionKey_operator hclean hp)
    case keyTenant => exact fun hclean hfree hp hst => exec_mail rfl hopen hfree (State.doSessionKey_tenant hclean hp hst)
  · rintro s h p x rfl hp hopen rfl
    refine ⟨?bindRefused, ?bindBroken, ?bindTaken, ?bindKey, ?bindMalformed, ?closeUnclean, ?closeTaken, ?bound, ?notBound, ?closeRefused⟩
    case bindRefused => exact fun ct report masked st hfree hlife hfails => exec_mail rfl hopen hfree (State.doBind_refused hlife hfails)
    case bindBroken => exact fun ct report masked hfree hlife => exec_mail rfl hopen hfree (State.doBind_of_broken_life hlife)
    case bindTaken =>
      exact fun ct report masked l s1 s2 hfree hlife hfails hl h1 h2 => exec_mail rfl hopen hfree (State.doBind_taken hlife hfails rfl hl h1 h2)
    case bindKey => exact fun ct report masked hseq hclean hst => State.bindFails_key hp hseq hclean hst
    case bindMalformed => exact fun ct report masked hbad => State.bindFails_malformed hbad
    case closeUnclean => exact fun hfree hclean hfails => exec_mail rfl hopen hfree (State.doSessionClose_of_unclean hp hfails hclean)
    case closeTaken => exact fun hfree hclean hfails => exec_mail rfl hopen hfree (State.doSessionClose_taken hp hfails hclean)
    case closeRefused => exact fun st hfree hfails => exec_mail rfl hopen hfree (State.doSessionClose_refused hp hfails)
    case notBound => exact fun body ty hst => State.tenantFails_of_not_bound hst
    case bound =>
      intro kc body ty hst hkc
      rw [State.tenantFails_of_bound hst hkc]
      refine ⟨fun htag => ?_, fun htag hseq => ?_, fun htag hseq => ?_⟩
      · rw [if_pos (bne_iff_ne.2 htag)]
      · rw [htag, bne_self_eq_false, if_neg Bool.false_ne_true, if_pos hseq]
      · rw [htag, bne_self_eq_false, if_neg Bool.false_ne_true, if_neg (Nat.not_le.2 hseq)]

/-! SPDM, IDE and TDISP (R473, R578). -/

section Spdm
variable {s : State}

theorem State.negotiated_of_negotiated (code : U8) (f : State → State) (h : s.sec.spdm = .negotiated) : s.negotiated code f = f s := by
  simp only [State.negotiated, h, BEq.rfl, if_true]

theorem State.negotiated_of_earlier (code : U8) (f : State → State) (h : s.sec.spdm ≠ .negotiated) : s.negotiated code f = s.spdmError code := by
  simp [State.negotiated, h]

theorem State.doGetCapabilities_next (h : s.sec.spdm = .version) :
    s.doGetCapabilities = (s.setSpdm .capabilities).spdmAnswer 0x61 (leBytes 1 16 ++ leBytes 4 4096 ++ leBytes 4 65536) := by
  simp only [State.doGetCapabilities, h, BEq.rfl, if_true]

theorem State.doNegotiate_next (r : Bytes) (h : s.sec.spdm = .capabilities) : s.doNegotiate r = (s.setSpdm .negotiated).spdmAnswer 0x63 r := by
  simp only [State.doNegotiate, h, BEq.rfl, if_true]

theorem State.doGetDigests_of_earlier (h : s.sec.spdm ≠ .negotiated) : s.doGetDigests = s.spdmError 0x81 := State.negotiated_of_earlier _ _ h

theorem State.doGetMeasurements_of_earlier (n : U8) (x : U256) (b : Bool) (h : s.sec.spdm ≠ .negotiated) : s.doGetMeasurements n x b = s.spdmError 0xE0 :=
  State.negotiated_of_earlier _ _ h

theorem State.doGetDigests_both (h : s.sec.spdm = .negotiated) : s.doGetDigests = s.spdmAnswer 0x01 (sha384 Config.rsaChain ++ sha384 Config.slhChain) :=
  State.negotiated_of_negotiated _ _ h

theorem State.doGetCertificate_of_slot {slot : U8} (off len : U16) (h : s.sec.spdm = .negotiated) (hslot : slot.toNat < 2) :
    s.doGetCertificate slot off len =
      s.spdmAnswer 0x02 (slot :: (((if slot = 0 then Config.rsaChain else Config.slhChain).drop off.toNat).take len.toNat)) :=
  (State.negotiated_of_negotiated _ _ h).trans (if_neg (Nat.not_le.2 hslot))

theorem State.doChallenge_rsa (x : U256) (h : s.sec.spdm = .negotiated) : s.doChallenge 0 x = s.spdmAnswer 0x03 (0 :: leBytes 32 x.toNat) :=
  (State.negotiated_of_negotiated _ _ h).trans rfl

/-- The large response of a measurement is kept under the next handle. -/
theorem State.doGetMeasurements_large {index : U8} {sub : Option Nat} (x : U256) (h : s.sec.spdm = .negotiated) (hlife : s.lifeOk = true) (hsub : subjectOf index = some sub) :
    (s.doGetMeasurements index x true).sec.large = some ((s.sec.handle + 1) % 256,
      Config.stdAnswer (0x60 :: index :: leBytes 32 x.toNat) s.free ++ s.report sub x ++ Config.stdAnswer (0x60 :: s.report sub x) (s.free + 1), 0) := by
  refine (congrArg (fun t : State => t.sec.large) (State.negotiated_of_negotiated _ _ h)).trans ?_
  simp only [hlife, Bool.not_true, Bool.false_eq_true, if_false, hsub]
  cases sub <;> rfl

theorem State.doChunkGet_next {handle : U8} {seq : U16} {b : Bytes} {last : Bool} {s1 : State} (h : s.sec.spdm = .negotiated)
    (hlarge : s.sec.large = some (handle.toNat, b, seq.toNat)) (hlast : last = decide (b.length ≤ (seq.toNat + 1) * chunkBytes))
    (h1 : s1 = { s with sec := { s.sec with large := if last then none else some (handle.toNat, b, seq.toNat + 1) } }) :
    s.doChunkGet handle seq =
      s1.spdmAnswer 0x06 (leBytes 1 (b2n last) ++ leBytes 1 handle.toNat ++ leBytes 2 seq.toNat ++ (b.drop (seq.toNat * chunkBytes)).take chunkBytes) := by
  subst h1 hlast
  refine (State.negotiated_of_negotiated _ _ h).trans ?_
  simp only [hlarge, decide_true, Bool.and_self, if_true]

variable {f : Nat}

/-- A new key for a function's stream, and RUN left where its interface was in it. -/
theorem State.doIde_keyProg (key : U256) :
    s.doIde f (.keyProg key) = (if (s.fn f).tdisp == .run then (s.setFn f { s.fn f with ide := .keyed, ideKey := some key }).leaveRun f .error
      else s.setFn f { s.fn f with ide := .keyed, ideKey := some key }).spdmAnswer 0xFE [0x01, 0x03] := rfl

theorem State.doIde_setGo (hkey : (s.fn f).ideKey.isSome = true) (hide : (s.fn f).ide ≠ .insecure) :
    s.doIde f .setGo = (s.setFn f { s.fn f with ide := .secure }).spdmAnswer 0xFE [0x01, 0x05] := by
  have hok : ((s.fn f).ideKey.isSome && (s.fn f).ide != .insecure) = true := by simp [hkey, hide]
  simp only [State.doIde, hok, if_true]

theorem State.doTdisp_lock (hf : f ≠ 0) (ht : (s.fn f).tdisp = .configUnlocked) :
    s.doTdisp f .lock = (s.setFn f { s.fn f with tdisp := .configLocked }).spdmAnswer 0xFE [0x04] := by
  simp only [State.doTdisp, hf, if_false, ht]

theorem State.doTdisp_start (hf : f ≠ 0) (ht : (s.fn f).tdisp = .configLocked) :
    s.doTdisp f .startInterface =
      (if (s.fn f).ide == .secure then (s.setFn f { s.fn f with tdisp := .run }).spdmAnswer 0xFE [0x04] else s.spdmError 0xFE) := by
  simp only [State.doTdisp, hf, if_false, ht]

end Spdm

/-- Settles O40: none of the messages waits, and each clause is the branch of its handler that the hypotheses leave. -/
theorem spdmMessages : Obligations.SpdmMessages := by
  intro s hopen hfree
  have hmail {i : Instr} {t : State} (hexec : exec i s = .next (s.mail i)) (hpart : msgPart i = none) (heff : s.secEffect i = t) : exec i s = .next t :=
    exec_mail hexec hopen (hfree i hpart) heff
  refine ⟨hmail rfl rfl rfl, fun h => hmail rfl rfl (State.doGetCapabilities_next h), fun r h => hmail rfl rfl (State.doNegotiate_next r h),
    fun h => ⟨hmail rfl rfl (State.doGetDigests_of_earlier h), fun n x b => hmail rfl rfl (State.doGetMeasurements_of_earlier n x b h)⟩, fun h => ⟨?_, ?_, ?_, ?_, ?_⟩,
    ?_, ?_, ?_, ?_, ?_, ?_⟩
  · exact hmail rfl rfl (State.doGetDigests_both h)
  · exact fun slot off len hslot => hmail rfl rfl (State.doGetCertificate_of_slot off len h hslot)
  · exact fun x => hmail rfl rfl (State.doChallenge_rsa x h)
  · exact fun index x sub hlife hsub => ⟨_, _, hmail rfl rfl rfl, State.doGetMeasurements_large x h hlife hsub, rfl⟩
  · exact fun handle seq b last s1 hlarge hlast h1 => hmail rfl rfl (State.doChunkGet_next h hlarge hlast h1)
  · exact fun f key ht => hmail rfl rfl ((State.doIde_keyProg key).trans (by rw [ht, BEq.rfl, if_pos rfl]))
  · exact fun f key ht => hmail rfl rfl ((State.doIde_keyProg key).trans (by rw [if_neg (by simpa using ht)]))
  · exact fun f hkey hide => hmail rfl rfl (State.doIde_setGo hkey hide)
  · exact fun f hf ht => hmail rfl rfl (State.doTdisp_lock hf ht)
  · exact fun f hf ht hide => hmail rfl rfl ((State.doTdisp_start hf ht).trans (by rw [hide, BEq.rfl, if_pos rfl]))
  · exact fun f hf ht hide => hmail rfl rfl ((State.doTdisp_start hf ht).trans (by rw [if_neg (by simpa using hide)]))

end Sys2Proof.Machine
end

section
/-! ### Time, budgets and power (R15, R360, R444 to R449, R542, R548 to R550, R570, R572)

The tick of the always-on clock, the budget period's refills, what AVSBus asks of a rail, and PWR's three loops; O44 and O45 put together from
them. -/

namespace Sys2Proof.Machine

/-! The time base (R360, R542). -/

section Tick
variable {s : State}

theorem exec_aonTick_of_powered (h : s.pwr.off = false ∨ s.pwr.shut = true) : exec .aonTick s = .next { s with
    ts := max s.ts (s.ts - s.pwr.sub + (s.pwr.frac + tickStep s.rig.steer) / 2 ^ 32) % 2 ^ 64,
    pwr := { s.pwr with frac := (s.pwr.frac + tickStep s.rig.steer) % 2 ^ 32, sub := 0 } } := by
  have hruns : (s.pwr.off && !s.pwr.shut) = false := by
    obtain h | h := h
    all_goals simp [h]
  change execAonTick s = _
  simp only [execAonTick, hruns, Bool.false_eq_true, if_false]

theorem exec_aonTick_of_off (hoff : s.pwr.off = true) (hshut : s.pwr.shut = false) : exec .aonTick s = .next s := by
  change execAonTick s = _
  simp only [execAonTick, hoff, hshut, Bool.not_false, Bool.and_self, if_true]

theorem tickStep_zero : tickStep 0 = 20 * 2 ^ 32 := by decide

theorem le_max_mod {t n m : Nat} (ht : t < m) (hn : n < m) : t ≤ max t n % m := by
  rw [Nat.mod_eq_of_lt (Nat.max_lt.2 ⟨ht, hn⟩)]
  exact Nat.le_max_left ..

/-- A tick without steering is 20 ns after the one before it, and keeps the fraction. -/
theorem tick_of_unsteered {ts sub frac : Nat} (hfrac : frac < 2 ^ 32) (hsub : sub ≤ 19) (hts : ts + 20 < 2 ^ 64) :
    max ts (ts - sub + (frac + 20 * 2 ^ 32) / 2 ^ 32) % 2 ^ 64 = ts - sub + 20 ∧ (frac + 20 * 2 ^ 32) % 2 ^ 32 = frac := by
  have hstep : (frac + 20 * 2 ^ 32) / 2 ^ 32 = 20 := by omega
  refine ⟨?_, by omega⟩
  rw [hstep, Nat.max_eq_right (by omega), Nat.mod_eq_of_lt (by omega)]

end Tick

/-- Settles O44: the tick's two branches, and the arithmetic of an unsteered one. -/
theorem timeTicks : Obligations.TimeTicks := by
  intro s
  refine ⟨exec_aonTick_of_powered, exec_aonTick_of_off, tickStep_zero, fun hts hsum => ?_, fun hoff hsteer hfrac hsub hts => ?_⟩
  · by_cases h : s.pwr.off = false ∨ s.pwr.shut = true
    · exact ⟨_, exec_aonTick_of_powered h, le_max_mod hts hsum⟩
    · rw [not_or, Bool.not_eq_false, Bool.not_eq_true] at h
      exact ⟨s, exec_aonTick_of_off h.1 h.2, Nat.le_refl _⟩
  · obtain ⟨hnow, hkept⟩ := tick_of_unsteered hfrac hsub hts
    have htick := exec_aonTick_of_powered (s := s) (.inl hoff)
    rw [hsteer, tickStep_zero, hnow, hkept] at htick
    exact ⟨_, htick, rfl, rfl, rfl, rfl, rfl⟩

/-! Budgets (R446 to R449). -/

section Budgets
variable {s : State} {k : Nat}

@[simp] theorem State.endDry_used (s : State) (k : Nat) : (s.endDry k).dev.used = s.dev.used := by
  unfold State.endDry
  split <;> rfl

@[simp] theorem State.endDry_devRegs (s : State) (k : Nat) : (s.endDry k).dev.regs = s.dev.regs := by
  unfold State.endDry
  split <;> rfl

theorem State.refill_of_broken (h : s.budgetRailOk k = false) : s.refill k = s := by
  simp [State.refill, h]

theorem State.refill_of_kept (hrail : s.budgetRailOk k = true) (hlimit : s.budgetWord k % 2 ^ 20 ≠ 0xFFFFF)
    (hkept : s.dev.used.getD k 0 ≤ s.budgetWord k % 2 ^ 20) : (s.refill k).dev.used = s.dev.used.erase k ∧ (s.refill k).dev.regs = s.dev.regs := by
  simp only [State.refill, hrail, Bool.not_true, Bool.false_eq_true, if_false, hlimit, Nat.sub_eq_zero_of_le hkept, if_true]
  split
  · simp
  · exact ⟨rfl, rfl⟩

theorem State.budgetFault_of_ok (h : s.budgetRailOk k = true) : s.budgetFault k = s := by simp [State.budgetFault, h]

theorem State.budgetFault_of_broken (h : s.budgetRailOk k = false) :
    s.budgetFault k = if k < 64 then s.partFault (k / 4) .parity none else if k < 80 then s.compFault (k - 64) .parity else s.devFault .parity none := by
  simp [State.budgetFault, h]

theorem exec_budgetPeriod_of_on (hoff : s.pwr.off = false) (hasleep : s.pwr.asleep = false) : exec .budgetPeriod s =
    .next (((List.range 9).foldl State.loadOf (activities.foldl State.refill (activities.foldl State.budgetFault s))).admitWaiting.tallyFull) := by
  change execBudgetPeriod s = _
  simp only [execBudgetPeriod, hoff, hasleep, Bool.or_self, Bool.false_eq_true, if_false]

end Budgets

/-! Voltages (R548, R570, R572). -/

theorem railChoice_bounds (k i : Nat) :
    (k % 2 = 0 → 600 ≤ railChoice k i ∧ railChoice k i ≤ 800) ∧ (k % 2 = 1 → 700 ≤ railChoice k i ∧ railChoice k i ≤ 950) := by
  refine ⟨fun h => ?_, fun h => ?_⟩
  · simp only [railChoice, h, if_true]
    omega
  · simp only [railChoice, h, Nat.one_ne_zero, if_false]
    omega

/-- Two of the four rails with one bus and one rail number are the same. -/
theorem rail_eq_of_place {j k : Nat} (hbus : j / 2 = k / 2) (hrail : j % 2 = k % 2) : j = k := by omega

/-- The newest request of a rail is its voltage: a new one is made only where the newest differs, and for each rail at most one. -/
theorem State.avsSet_newest (s : State) {k : Nat} (hk : k < 4) (hrails : s.pwr.rails ≠ []) :
    ((s.avsSet.pwr.avs.reverse.find? (fun x => x.bus == k / 2 && x.rail == k % 2)).map (fun x => x.mv)) = some (s.pwr.railMv k) := by
  have hne : ¬ s.pwr.rails.isEmpty = true := by simpa using hrails
  simp only [State.avsSet, if_neg hne, List.reverse_append, List.find?_append]
  generalize hnew : ((List.range 4).map (fun k => (⟨k / 2, k % 2, s.pwr.railMv k⟩ : AvsReq))).filter (fun r =>
      (s.pwr.avs.reverse.find? (fun x => x.bus == r.bus && x.rail == r.rail)).map (fun x => x.mv) != some r.mv) = new
  cases hfound : new.reverse.find? (fun x => x.bus == k / 2 && x.rail == k % 2) with
  | some x =>
    have hmem := List.mem_reverse.1 (List.mem_of_find?_eq_some hfound)
    rw [← hnew, List.mem_filter] at hmem
    obtain ⟨j, -, rfl⟩ := List.mem_map.1 hmem.1
    have hplace := List.find?_some hfound
    simp only [Bool.and_eq_true, beq_iff_eq] at hplace
    obtain rfl := rail_eq_of_place hplace.1 hplace.2
    rfl
  | none =>
    have hold : (⟨k / 2, k % 2, s.pwr.railMv k⟩ : AvsReq) ∉ new := fun hmem => by
      have := List.find?_eq_none.1 hfound _ (List.mem_reverse.2 hmem)
      simp at this
    rw [← hnew, List.mem_filter, not_and] at hold
    have hsame := hold (List.mem_map.2 ⟨k, List.mem_range.2 hk, rfl⟩)
    rw [Bool.not_eq_true, bne_eq_false_iff_eq] at hsame
    exact hsame

/-! PWR's loops (R444, R548 to R550). -/

section Loops
variable {s : State}

/-- Requests on the AVSBus change the list of them alone. -/
theorem State.avsSet_keeps {β : Type} (g : State → β) (hg : ∀ (t : State) l, g { t with pwr := { t.pwr with avs := l } } = g t) (t : State) : g t.avsSet = g t := by
  obtain ⟨l, hl⟩ := State.avsSet_only t
  rw [hl, hg]

theorem exec_pwrDomainLoop_of_runs (h : s.pwrRuns = true) : ∃ u, exec .pwrDomainLoop s = .next u ∧ u.pwr.iters = s.pwr.iters + 1 ∧ u.pwr.points.length = 96 ∧
    u.pwr.rails = (List.range 4).map (fun k => (k, railChoice k s.pwr.iters)) ∧ u.objs = s.objs ∧ u.runs = s.runs ∧ u.dev = s.dev := by
  change ∃ u, execPwrDomainLoop s = .next u ∧ _
  simp only [execPwrDomainLoop, h, Bool.not_true, Bool.false_eq_true, if_false]
  refine ⟨_, rfl, ?_⟩
  exact ⟨State.avsSet_keeps (fun u => u.pwr.iters) (fun _ _ => rfl) _,
    (State.avsSet_keeps (fun u => u.pwr.points.length) (fun _ _ => rfl) _).trans ((List.length_map _).trans List.length_range),
    State.avsSet_keeps (fun u => u.pwr.rails) (fun _ _ => rfl) _, State.avsSet_keeps State.objs (fun _ _ => rfl) _,
    State.avsSet_keeps State.runs (fun _ _ => rfl) _, State.avsSet_keeps State.dev (fun _ _ => rfl) _⟩

/-- Holding RUNs, or letting them go, changes the start of the hold and a counter. -/
theorem State.holdStarts_only (s : State) (hold : Bool) : ∃ d x, s.holdStarts hold = { s with dev := d, pwr := { s.pwr with holdSince := x } } := by
  unfold State.holdStarts
  split
  · exact ⟨s.dev, _, rfl⟩
  · exact ⟨_, none, rfl⟩
  · exact ⟨s.dev, s.pwr.holdSince, rfl⟩

theorem State.holdStarts_released (s : State) : (s.holdStarts false).pwr.holdSince = none := by
  cases h : s.pwr.holdSince with
  | none => simp [State.holdStarts, h]
  | some t => simp [State.holdStarts, h]

/-- What the cap asks for after a measurement: one level more above the cap, one less or none below it. -/
def capDemandAfter (cap watts old free : Nat) : Nat := if cap < watts then min 7 (old + 1) else if watts < cap then old - free % 2 else old

theorem capDemandAfter_below {cap watts old free : Nat} (h : watts < cap) :
    capDemandAfter cap watts old free = old ∨ capDemandAfter cap watts old free = old - 1 := by
  rw [capDemandAfter, if_neg (by omega), if_pos h]
  obtain hf | hf := Nat.mod_two_eq_zero_or_one free
  · exact .inl (by rw [hf, Nat.sub_zero])
  · exact .inr (by rw [hf])

theorem exec_pwrCapLoop_of_runs (w : Nat) (h : s.pwrRuns = true) : ∃ (t : State) (hold : Bool), exec (.pwrCapLoop w) s = .next (t.holdStarts hold) ∧
    t.pwr.watts = w ∧ t.pwr.capDemand = capDemandAfter s.capWatts w s.pwr.capDemand (Config.freeWord s.free).toNat ∧
    (w < s.capWatts → hold = false) ∧ t.objs = s.objs ∧ t.hbm = s.hbm := by
  change ∃ (t : State) (hold : Bool), execPwrCapLoop w s = .next (t.holdStarts hold) ∧ _
  simp only [execPwrCapLoop, h, Bool.not_true, Bool.false_eq_true, if_false]
  refine ⟨_, _, rfl, ?_, ?_, fun hw => if_pos hw, ?_, ?_⟩
  all_goals rw [(State.avsSet_only _).choose_spec]
  all_goals rfl

theorem exec_pwrThermalLoop_of_runs (c : Nat) (h : s.pwrRuns = true) : ∃ u, exec (.pwrThermalLoop c) s = .next u ∧
    u.pwr.thermDemand = (if s.pwr.trip then 7 else if 95 < c then min 7 (s.pwr.thermDemand + 1) else if c < 90 then s.pwr.thermDemand - 1 else s.pwr.thermDemand) ∧
    u.dreg 0x204 0 = min 255 c ∧ u.objs = s.objs := by
  change ∃ u, execPwrThermalLoop c s = .next u ∧ _
  simp only [execPwrThermalLoop, h, Bool.not_true, Bool.false_eq_true, if_false]
  refine ⟨_, rfl, ?_⟩
  rw [(State.avsSet_only _).choose_spec]
  exact ⟨rfl, State.dreg_setDreg_self s .., rfl⟩

end Loops

/-- Settles O45: the budget period, the rails and the three loops, each by its lemma; the cap loop's demand is read off `capDemandAfter`. -/
theorem powerLoops : Obligations.PowerLoops := by
  intro s
  refine ⟨exec_budgetPeriod_of_on, fun k => State.refill_of_broken, fun k => State.refill_of_kept, fun k => State.budgetFault_of_ok,
    fun k => State.budgetFault_of_broken, railChoice_bounds, fun k => State.avsSet_newest s, exec_pwrDomainLoop_of_runs, fun w hruns => ?_, fun c hruns => ?_⟩
  · obtain ⟨t, hold, hexec, hwatts, hdemand, hhold, hobjs, hhbm⟩ := exec_pwrCapLoop_of_runs w hruns
    obtain ⟨d, x, honly⟩ := State.holdStarts_only t hold
    refine ⟨_, hexec, ?_, fun hw => ?_, fun hw => ?_, fun hw => ⟨?_, ?_⟩, ?_, ?_⟩
    · rw [honly]; exact hwatts
    · rw [honly]; exact hdemand.trans (if_pos hw)
    · rw [honly]; exact hdemand.trans (by simp [capDemandAfter, hw])
    · rw [hhold hw]; exact State.holdStarts_released t
    · rw [honly]; exact hdemand ▸ capDemandAfter_below hw
    · rw [honly]; exact hobjs
    · rw [honly]; exact hhbm
  · obtain ⟨u, hexec, hdemand, hdreg, hobjs⟩ := exec_pwrThermalLoop_of_runs c hruns
    refine ⟨u, hexec, fun htrip => ?_, fun htrip hc => ?_, fun htrip hc => ?_, fun htrip h90 h95 => ?_, hdreg, hobjs⟩
    · rw [hdemand, htrip, if_pos rfl]
    · rw [hdemand, htrip, if_neg Bool.false_ne_true, if_pos hc]
    · rw [hdemand, htrip, if_neg Bool.false_ne_true, if_neg (by omega), if_pos hc]
    · rw [hdemand, htrip, if_neg Bool.false_ne_true, if_neg (by omega), if_neg (by omega)]

end Sys2Proof.Machine
end

section
/-! ### Accesses to BAR0 and to doorbell pages, and the state after reset (R15, R398, R439, R542, R555, R589 to R592)

What a write changes, the latch of a high word, TS_NOW and the dual-rail words that a read checks; O42 put together from them, and O57. -/

namespace Sys2Proof.Machine

/-! Writes (R589, R590). -/

section Writes
variable {s : State} {core : Bool} {fn : Fn} {off : U32}

theorem exec_regWrite_of_function (size : Nat) (value : U64) (h : (core && fn.val == 0) = false) :
    exec (.regWrite core fn off size value) s = .next ((s.setLatch core fn.val none).writeReg core fn.val off.toNat size value.toNat) := by
  change execRegWrite core fn off size value s = _
  exact if_neg (by simpa using h)

theorem State.writeReg_word (s : State) (core : Bool) (f o v : Nat) : s.writeReg core f o 4 v =
    (if o % 4 = 0 ∧ s.bar0Open f (o / 8 * 8) = true ∧ s.served core f (o / 8 * 8) = true then s.writeHalf f o (v % 2 ^ 32) else s) := by
  by_cases halign : o % 4 = 0
  · by_cases hserved : s.bar0Open f (o / 8 * 8) = true ∧ s.served core f (o / 8 * 8) = true
    · simp [State.writeReg, halign, hserved]
    · have hclosed : (s.bar0Open f (o / 8 * 8) && s.served core f (o / 8 * 8)) = false := by simpa using hserved
      simp [State.writeReg, halign, hserved, hclosed]
  · simp [State.writeReg, halign]

theorem State.writeReg_of_other_size (s : State) (core : Bool) (f o v : Nat) {size : Nat} (h4 : size ≠ 4) (h8 : size ≠ 8) :
    s.writeReg core f o size v = s := by
  simp [State.writeReg, h4, h8]

/-! What the physical function's registers hold after a write. -/

theorem State.writeHalf_pwrCap (s : State) (v : Nat) : s.writeHalf 0 rPwrCap v = s.setDreg rPwrCap (v % 2048) := by
  simp [State.writeHalf, rPwrCap, rFwAddr, rFwLen]

theorem State.writeHalf_fwLen (s : State) (v : Nat) : s.writeHalf 0 rFwLen v = s.setDreg rFwLen (v % 2 ^ 32) := by
  simp [State.writeHalf, rFwAddr, rFwLen]

theorem State.writeHalf_pwrHold (s : State) (v : Nat) : s.writeHalf 0 rPwrHold v = s.setDreg rPwrHold (v % 65536) := by
  simp [State.writeHalf, rPwrHold, rPwrCap, rFwAddr, rFwLen, rRstCtrl]

end Writes

/-! Reads (R589, R590). -/

section Reads
variable {s : State} {core : Bool} {fn : Fn} {off : U32}

theorem reader_of_function {core : Bool} {fn : Fn} (h : (core && fn.val == 0) = false) : ¬ (core && decide (fn.val = 0)) = true := by
  simpa using h

theorem exec_read_of_no_latch {w : Nat} {s1 : State} (h : (core && fn.val == 0) = false) (halign : off.toNat % 4 = 0) (hlatch : s.latchOf core fn.val = none)
    (hread : s.readReg core fn.val off.toNat = (w, s1)) : exec (.regHighWordLatch core fn ⟨false, off⟩) s = .next
      (if off.toNat % 8 = 0 then (s1.setLatch core fn.val (if halves off.toNat then none else some (off.toNat + 4, w / 2 ^ 32))).answer core fn.val off.toNat (w % 2 ^ 32)
      else s1.answer core fn.val off.toNat (w / 2 ^ 32)) := by
  change execRegHighWordLatch core fn ⟨false, off⟩ s = _
  simp only [execRegHighWordLatch, if_neg (reader_of_function h), halign, hlatch, hread, Bool.false_eq_true, if_false, bne_self_eq_false]
  split <;> rfl

theorem exec_read_of_latched {v : Nat} (h : (core && fn.val == 0) = false) (halign : off.toNat % 4 = 0)
    (hlatch : s.latchOf core fn.val = some (off.toNat, v)) :
    exec (.regHighWordLatch core fn ⟨false, off⟩) s = .next ((s.setLatch core fn.val none).answer core fn.val off.toNat v) := by
  change execRegHighWordLatch core fn ⟨false, off⟩ s = _
  simp only [execRegHighWordLatch, if_neg (reader_of_function h), halign, hlatch, Bool.false_eq_true, if_false, bne_self_eq_false, if_true]

theorem exec_read_of_misaligned (h : (core && fn.val == 0) = false) (halign : off.toNat % 4 ≠ 0) :
    exec (.regHighWordLatch core fn ⟨false, off⟩) s = .next ((s.setLatch core fn.val none).answer core fn.val off.toNat 0) := by
  change execRegHighWordLatch core fn ⟨false, off⟩ s = _
  simp only [execRegHighWordLatch, if_neg (reader_of_function h), bne_iff_ne.2 halign, Bool.false_eq_true, if_false, if_true]

theorem exec_read_of_doorbell (h : (core && fn.val == 0) = false) : exec (.regHighWordLatch core fn ⟨true, off⟩) s =
    .next ((s.setLatch core fn.val none).answerAt core true fn.val off.toNat (s.doorbellWord fn.val off.toNat)) := by
  change execRegHighWordLatch core fn ⟨true, off⟩ s = _
  simp only [execRegHighWordLatch, if_neg (reader_of_function h), if_true]

theorem State.readReg_of_fault {f o : Nat} {u : State} (h : s.readFault core f o = some u) : s.readReg core f o = (0, u) := by
  simp [State.readReg, h]

theorem State.readReg_of_word {f o : Nat} (hts : o / 8 * 8 ≠ 0x48) (h : s.readFault core f o = none) : s.readReg core f o = (s.readWord core f o, s) := by
  simp [State.readReg, State.tsNow, h, hts]

theorem State.readWord_of_closed {f o : Nat} (h : s.bar0Open f (o / 8 * 8) = false ∨ s.served core f (o / 8 * 8) = false) : s.readWord core f o = 0 := by
  obtain h | h := h
  all_goals simp [State.readWord, h]

theorem State.bar0Open_of_off {f o : Nat} (h : s.pwr.off = true ∨ s.pwr.asleep = true) : s.bar0Open f o = false := by
  obtain h | h := h
  all_goals simp [State.bar0Open, h]

/-! TS_NOW (R15, R542). -/

/-- A read of TS_NOW adds at most 19 ns to TS. -/
theorem State.tsNow_of_word (s : State) (v : Nat) : ∃ d, d ≤ 19 ∧ (s.tsNow 0x48 v).1 = v + d ∧ (s.tsNow 0x48 v).2.ts = s.ts + d := by
  unfold State.tsNow
  split
  · refine ⟨max s.pwr.sub ((Config.freeWord s.free).toNat % 20) - s.pwr.sub, ?_, rfl, rfl⟩
    omega
  · exact ⟨0, Nat.zero_le _, rfl, rfl⟩

theorem State.readFault_of_tsNow (s : State) (core : Bool) (f : Nat) : s.readFault core f 0x48 = none := by
  unfold State.readFault
  simp

theorem State.readWord_tsNow {f : Nat} (hopen : s.bar0Open f 0x48 = true) (hserved : s.served core f 0x48 = true) : s.readWord core f 0x48 = s.ts := by
  have hplace : 0x48 / 8 * 8 = 0x48 := by decide
  simp [State.readWord, hplace, hopen, hserved, State.bar0Word]

/-! The dual-rail words that a read checks (R13, R284, R327, R449). -/

theorem State.served_of_device {o : Nat} (hfn : s.fnOpen 0 = true) (ho : o < 0x1000000) : s.served false 0 o = true := by
  have htile : ¬ 0x1000000 ≤ o := by omega
  have hpart : ¬ 0x2000000 ≤ o := by omega
  simp [State.served, hfn, htile, hpart]

theorem State.readFault_mark (hopen : s.bar0Open 0 0x103018 = true) (hfn : s.fnOpen 0 = true) (hrails : s.shroud.railsOk = false) :
    s.readFault false 0 0x103018 = some (s.devFault .parity none) := by
  have hplace : 0x103018 / 8 * 8 = 0x103018 := by omega
  simp only [State.readFault, hplace, hopen, State.served_of_device hfn (by omega : 0x103018 < 0x1000000), hrails, decide_true, Bool.and_self, Bool.not_true,
    Bool.false_eq_true, if_false, if_true]

theorem State.readFault_budget {k : Nat} (hk : k < 82) (hopen : s.bar0Open 0 (0x100000 + 8 * k) = true) (hfn : s.fnOpen 0 = true) (hrails : s.budgetRailOk k = false) :
    s.readFault false 0 (0x100000 + 8 * k) = some (s.budgetFault k) := by
  have hplace : (0x100000 + 8 * k) / 8 * 8 = 0x100000 + 8 * k := by omega
  have hmark : ¬ 0x100000 + 8 * k = 0x103018 := by omega
  have hlow : 0x100000 ≤ 0x100000 + 8 * k := by omega
  have hhigh : 0x100000 + 8 * k < 0x100290 := by omega
  have hindex : (0x100000 + 8 * k - 0x100000) / 8 = k := by omega
  simp only [State.readFault, hplace, hopen, State.served_of_device hfn (by omega : 0x100000 + 8 * k < 0x1000000), hmark, hlow, hhigh, hindex, hrails, decide_true,
    decide_false, Bool.and_self, Bool.and_false, Bool.not_true, Bool.false_eq_true, if_false, if_true]

theorem State.readFault_commit {f p n : Nat} {u : USet} (hp : p < 16) (hn : n < 16) (hopen : s.bar0Open f (0x2003100 + 65536 * p + 64 * n) = true)
    (hserved : s.served core f (0x2003100 + 65536 * p + 64 * n) = true) (hu : s.usets.get (16 * p + n) = some u) (hrails : u.railOk = false) :
    s.readFault core f (0x2003100 + 65536 * p + 64 * n) = some (s.partFault p .parity none) := by
  have hplace : (0x2003100 + 65536 * p + 64 * n) / 8 * 8 = 0x2003100 + 65536 * p + 64 * n := by omega
  have hmark : ¬ 0x2003100 + 65536 * p + 64 * n = 0x103018 := by omega
  have hbudget : ¬ 0x2003100 + 65536 * p + 64 * n < 0x100290 := by omega
  have hlow : 0x2000000 ≤ 0x2003100 + 65536 * p + 64 * n := by omega
  have hhigh : 0x2003100 + 65536 * p + 64 * n < 0x2100000 := by omega
  have hpart : (0x2003100 + 65536 * p + 64 * n - 0x2000000) / 65536 = p := by omega
  have hoff : (0x2003100 + 65536 * p + 64 * n) % 65536 = 0x3100 + 64 * n := by omega
  have hset : (0x3100 + 64 * n - 0x3100) / 64 = n := by
    rw [Nat.add_sub_cancel_left, Nat.mul_div_cancel_left n (by decide)]
  have hlow' : 0x3100 ≤ 0x3100 + 64 * n := by omega
  have hhigh' : 0x3100 + 64 * n < 0x3500 := by omega
  have hword : (0x2003100 + 65536 * p + 64 * n) % 64 = 0 := by omega
  simp only [State.readFault, hplace, hopen, hserved, hmark, hbudget, hlow, hhigh, hpart, hoff, hset, hlow', hhigh', hword, hu, hrails, decide_true, decide_false,
    Bool.and_self, Bool.and_false, Bool.not_true, Bool.false_eq_true, if_false, if_true]

/-! A doorbell page (R398). -/

/-- The word of a queue's doorbell page: its two indices, and whether it is active. -/
def Queue.doorbellWord (q : Queue) (o : Nat) : Nat := match o with
  | 4 => q.cqHead
  | 8 => q.head
  | 12 => if q.st == .active then 1 else 2
  | _ => 0

theorem State.doorbellWord_of_queue {f o : Nat} {q : Queue} (hfn : s.fnOpen f = true) (hq : s.queues.get (65536 * f + o / 4096) = some q) :
    s.doorbellWord f o = q.doorbellWord (o % 4096) := by
  simp only [State.doorbellWord, hfn, if_true, hq]
  rfl

theorem Queue.doorbellWord_state (q : Queue) : q.doorbellWord 12 = if q.st = .active then 1 else 2 := by
  simp [Queue.doorbellWord]

end Reads

/-- Settles O42: each clause is the lemma of its access; the three reads without a latch are the branches of `exec_read_of_no_latch`. -/
theorem registerAccesses : Obligations.RegisterAccesses := by
  intro s fn off
  refine ⟨fun core size value => exec_regWrite_of_function size value, fun core v => s.writeReg_word .., fun core size v h4 h8 => s.writeReg_of_other_size _ _ _ _ h4 h8,
    fun v => ⟨?_, ?_, ?_⟩, fun core w s1 hfn hlatch hread => ⟨fun h8 hwide => ?_, fun h8 hhalf => ?_, fun h8 => ?_⟩, fun core v => exec_read_of_latched,
    fun core => exec_read_of_misaligned, fun core o => State.readReg_of_word, fun core o u => State.readReg_of_fault, fun core hopen hserved => ?_, State.readFault_mark,
    fun k => State.readFault_budget, fun core p n u => State.readFault_commit, fun core => exec_read_of_doorbell,
    fun q hfn hq => ⟨fun h => ?_, fun h => ?_, fun h => ?_, fun h => ?_⟩, fun core o => State.readWord_of_closed, fun o => State.bar0Open_of_off⟩
  · rw [State.writeHalf_pwrCap, State.dreg_setDreg_self]
  · rw [State.writeHalf_fwLen, State.dreg_setDreg_self]
  · rw [State.writeHalf_pwrHold, State.dreg_setDreg_self]
  · rw [exec_read_of_no_latch hfn (by omega) hlatch hread, if_pos h8, hwide, if_neg Bool.false_ne_true]
  · rw [exec_read_of_no_latch hfn (by omega) hlatch hread, if_pos h8, hhalf, if_pos rfl]
  · rw [exec_read_of_no_latch hfn (by omega) hlatch hread, if_neg (by omega)]
  · have hread : s.readReg core fn.val 0x48 = s.tsNow 0x48 s.ts := by
      simp only [State.readReg, State.readFault_of_tsNow, State.readWord_tsNow hopen hserved]
    rw [hread]
    exact s.tsNow_of_word s.ts
  · rw [State.doorbellWord_of_queue hfn hq, h]; rfl
  · rw [State.doorbellWord_of_queue hfn hq, h]; rfl
  · rw [State.doorbellWord_of_queue hfn hq, h]; rfl
  · rw [State.doorbellWord_of_queue hfn hq, h, Queue.doorbellWord_state]

/-- Settles O57: what a reading of the empty maps gives, and the closed checks evaluated. -/
theorem resetState : Obligations.ResetState := by
  unfold Obligations.ResetState
  refine ⟨rfl, rfl, ?_, ?_, rfl, rfl, fun t => ⟨rfl, rfl⟩, fun a => rfl, fun off d => rfl, fun f => rfl, fun p => rfl, fun k => ?_, rfl, rfl, rfl, rfl⟩
  · decide
  · decide
  · exact ⟨rfl, rfl, rfl⟩

end Sys2Proof.Machine
end

section
/-! ### Host memory, heartbeats, training and link authentication (R336, R348 to R352, R358 to R361, R472, R482, R483, R563)

What each answer of host memory, each heartbeat and each message of an authentication does; O49, O52 and O53 put together from them. -/

namespace Sys2Proof.Machine

/-! Host memory (R482, R483, R563). -/

section HostMemory
variable {s : State} {acc id k : Nat} {a : Access} {w : Work} {c : Chunk}
variable (hacc : s.acc? acc = some a) (hkind : a.kind = .hostRead) (howner : a.owner = .work id)
include hacc hkind howner

section Copy
variable (hw : s.works.get id = some w) (hc : w.chunks[a.chunk]? = some c) (hk : wrapOf w = some k)
include hw hc hk

theorem exec_hostReadCompletion_of_block (b : HostBlock) (hactive : ((s.dropAcc acc).key k).st = .active) : exec (.hostReadCompletion acc [b] none) s =
    .next ((if blockOk ((s.dropAcc acc).key k).key (hostBase w) c b then (s.dropAcc acc).chunkData id a.chunk b.data
      else (s.dropAcc acc).failChunk id a.chunk .integrity true).settleWork id) := by
  change execHostReadCompletion acc [b] none s = _
  simp only [execHostReadCompletion, hacc, hkind, howner, hw, hc, hk, hactive, bne_self_eq_false, Bool.false_eq_true, if_false]
  split <;> rfl

theorem exec_hostReadCompletion_of_withdrawn (l : List HostBlock) (hgone : ((s.dropAcc acc).key k).st ≠ .active) : exec (.hostReadCompletion acc l none) s =
    .next (((s.dropAcc acc).failChunk id a.chunk .key false).settleWork id) := by
  change execHostReadCompletion acc l none s = _
  simp only [execHostReadCompletion, hacc, hkind, howner, hw, hc, hk, bne_iff_ne.2 hgone, bne_self_eq_false, Bool.false_eq_true, if_false, if_true]

end Copy

theorem exec_hostCompletionTimeout_of_copy {ctx q : Nat} (hlate : a.since + 1000 * s.pins.ctoUs ≤ s.ts) (hw : (s.dropAcc acc).works.get id = some w)
    (hctx : w.ctx = some ctx) (hq : w.q = some q) :
    exec (.hostCompletionTimeout acc) s = .next ((s.dropAcc acc).ctxFault ctx .tierFail (some (q, w.sub))) := by
  have hearly : ¬ s.ts < a.since + 1000 * s.pins.ctoUs := by omega
  change execHostCompletionTimeout acc s = _
  simp only [execHostCompletionTimeout, hacc, hkind, howner, hearly, hw, hctx, hq, bne_self_eq_false, decide_false, Bool.or_self, Bool.false_eq_true, if_false]

omit howner in
theorem exec_hostCompletionTimeout_of_early (hearly : s.ts < a.since + 1000 * s.pins.ctoUs) : exec (.hostCompletionTimeout acc) s = .next s := by
  change execHostCompletionTimeout acc s = _
  simp only [execHostCompletionTimeout, hacc, hkind, hearly, decide_true, Bool.or_true, if_true]

end HostMemory

/-- A block that verifies is the one expected. -/
theorem expected_of_blockOk {key : U256} {base : Nat} {c : Chunk} {b : HostBlock} (h : blockOk key base c b = true) :
    b.direction = 0 ∧ b.offset.toNat = base + c.off ∧ b.data.length = c.len := by
  simp only [blockOk, Bool.and_eq_true, beq_iff_eq] at h
  obtain ⟨⟨⟨hdir, hoff⟩, hlen⟩, -⟩ := h
  exact ⟨hdir, hoff, hlen⟩

/-- Settles O49: a block's two clauses are the branches of `exec_hostReadCompletion_of_block`, and the others the lemmas of their answers. -/
theorem hostMemoryAnswers : Obligations.HostMemoryAnswers := by
  intro s acc id a w hacc hkind howner hw
  refine ⟨?_, ?_, ?_, fun key base c b => expected_of_blockOk, ?_, exec_hostCompletionTimeout_of_early hacc hkind⟩
  · rintro c k b s1 hc hk rfl hactive hok
    rw [exec_hostReadCompletion_of_block hacc hkind howner hw hc hk b hactive, if_pos hok]
  · rintro c k b s1 hc hk rfl hactive hbad
    rw [exec_hostReadCompletion_of_block hacc hkind howner hw hc hk b hactive, hbad, if_neg Bool.false_ne_true]
  · rintro c k l s1 hc hk rfl hgone
    exact exec_hostReadCompletion_of_withdrawn hacc hkind howner hw hc hk l hgone
  · rintro c q s1 hlate rfl hw' hctx hq
    exact exec_hostCompletionTimeout_of_copy hacc hkind howner hlate hw' hctx hq

/-! Heartbeats and time (R349, R350, R358 to R361). -/

section Heartbeats
variable {s : State} {port : PortNo}

section Up
variable (hup : (s.port port.val).st = .up)
include hup

theorem exec_rigHeartbeatSend_of_due (hdue : (s.port port.val).hbNext * 1000 ≤ s.ts) : exec (.rigHeartbeatSend port) s =
    .next (s.setPort port.val { s.port port.val with hbDue := some (s.ts / 1000), hbNext := s.ts / 1000 + 1 }) := by
  change execRigHeartbeatSend port s = _
  simp only [execRigHeartbeatSend, hup, hdue, BEq.rfl, decide_true, Bool.and_self, if_true]

theorem exec_rigHeartbeatReceive_of_fault {hb : Heartbeat} (t : U64) (hstate : hb.state = 1) :
    exec (.rigHeartbeatReceive port hb t) s = .next (s.portDown port.val true) := by
  change execRigHeartbeatReceive port hb t s = _
  simp only [execRigHeartbeatReceive, hup, hstate, bne_self_eq_false, Bool.false_eq_true, if_false, if_true]

theorem exec_rigHeartbeatReceive_in_time {hb : Heartbeat} {t : U64} {s1 : State} (hstate : hb.state ≠ 1) (hintime : t.toNat ≤ 16 * (hb.k.toNat * 1000 + 250))
    (h1 : s1 = (s.setPort port.val { s.port port.val with
      echo := (hb.tSend.toNat, t.toNat), hbMiss := 0, hbGot := max (s.port port.val).hbGot (hb.k.toNat + 1) }).retime) :
    exec (.rigHeartbeatReceive port hb t) s = .next (if s1.rig.parent == some port.val then s1.takeTime hb t else s1) := by
  subst h1
  have hlate : ¬ 16 * (hb.k.toNat * 1000 + 250) < t.toNat := by omega
  change execRigHeartbeatReceive port hb t s = _
  simp only [execRigHeartbeatReceive, hup, hstate, hlate, bne_self_eq_false, Bool.false_eq_true, if_false]

theorem exec_rigHeartbeatMiss_of_late {k : U64} (hnew : (s.port port.val).hbGot ≤ k.toNat) (hlate : k.toNat * 1000 + 250 ≤ s.ts) {s1 : State}
    (h1 : s1 = (s.setPort port.val { s.port port.val with hbGot := k.toNat + 1, hbMiss := (s.port port.val).hbMiss + 1 }).bumpPort port.val cHbMiss 1) :
    exec (.rigHeartbeatMiss port k) s = .next (if 3 ≤ (s.port port.val).hbMiss + 1 then s1.portDown port.val true else s1) := by
  subst h1
  have hold : ¬ k.toNat < (s.port port.val).hbGot := by omega
  have hearly : ¬ s.ts < k.toNat * 1000 + 250 := by omega
  change execRigHeartbeatMiss port k s = _
  simp only [execRigHeartbeatMiss, hup, hold, hearly, bne_self_eq_false, decide_false, Bool.or_self, Bool.false_eq_true, if_false]

end Up

theorem exec_timeParentTimeout_of_late {t : Nat} (horphan : s.rig.orphan = some t) (hlate : t + 10000 < s.ts) :
    exec .timeParentTimeout s = .next (s.setRig { s.rig with unsync := true }) := by
  change execTimeParentTimeout s = _
  simp only [execTimeParentTimeout, horphan, hlate, if_true]

/-- A heartbeat that shows no offset steers nothing, and its sender's depth gives this end's. -/
theorem State.takeTime_of_aligned {hb : Heartbeat} {t : U64} (hecho : hb.tEcho ≠ 0) (htheta : thetaOf hb t = 0) :
    (s.takeTime hb t).rig.steer = 0 ∧ (s.takeTime hb t).rig.theta = 0 ∧
    (hb.depth ≠ 0xFF → (s.takeTime hb t).rig.unsync = false ∧ (s.takeTime hb t).rig.depth = hb.depth.toNat + 1) := by
  simp only [State.takeTime, hecho, if_false, htheta, if_true]
  exact ⟨rfl, rfl, fun hdepth => ⟨rfl, if_neg hdepth⟩⟩

/-! Training (R348). -/

theorem exec_portTrainStart_of_down (hdown : (s.port port.val).st = .down) (htrain : s.trainable port.val = true) (hlink : s.compUp cpLink = true) :
    exec (.portTrainStart port) s = .next (s.startTraining port.val) := by
  change execPortTrainStart port s = _
  simp only [execPortTrainStart, hdown, htrain, hlink, BEq.rfl, Bool.and_self, if_true]

theorem exec_portRetrainTimer_of_due {t : Nat} (hdown : (s.port port.val).st = .down) (ht : (s.port port.val).retrain = some t) (hdue : t ≤ s.ts)
    (htrain : s.trainable port.val = true) : exec (.portRetrainTimer port) s = .next (s.startTraining port.val) := by
  change execPortRetrainTimer port s = _
  simp only [execPortRetrainTimer, hdown, ht, hdue, htrain, decide_true, Bool.and_self, if_true]

theorem exec_portTrainTimeout_of_late (htraining : (s.port port.val).st = .training) (hlate : (s.port port.val).since + 10000000 ≤ s.ts) :
    exec (.portTrainTimeout port) s = .next (s.trainFails port.val) := by
  change execPortTrainTimeout port s = _
  simp only [execPortTrainTimeout, htraining, hlate, BEq.rfl, decide_true, Bool.and_self, if_true]

theorem State.portDown_of_not_up {p : Nat} (h : (s.port p).st ≠ .up) (byLoss : Bool) : s.portDown p byLoss = s := by
  simp [State.portDown, h]

theorem State.txDir_setPort (p : Nat) (x : RPort) (q : Nat) : (s.setPort p x).txDir q = s.txDir q := rfl

/-- The higher end of a link that locks in time waits in AUTH. -/
theorem exec_portLaneLock_of_higher (htraining : (s.port port.val).st = .training) (hintime : s.ts ≤ (s.port port.val).since + 10000000) (hdir : s.txDir port.val = 1) :
    exec (.portLaneLock port) s = .next (s.setPort port.val { s.port port.val with st := .auth, since := s.ts, auth := none }) := by
  have hlate : ¬ (s.port port.val).since + 10000000 < s.ts := by omega
  change execPortLaneLock port s = _
  simp only [execPortLaneLock, htraining, hlate, State.txDir_setPort, hdir, bne_self_eq_false, decide_false, Bool.or_self, Bool.false_eq_true, if_false, if_true]

end Heartbeats

/-- Settles O52: each clause is the lemma of its operation; the second and the third miss are the branches of `exec_rigHeartbeatMiss_of_late`. -/
theorem heartbeatsAndTraining : Obligations.HeartbeatsAndTraining := by
  rintro s port x rfl
  refine ⟨exec_rigHeartbeatSend_of_due, fun hb t s1 hup => exec_rigHeartbeatReceive_in_time hup, fun hb t hup => exec_rigHeartbeatReceive_of_fault hup t,
    fun k s1 hup hnew hlate h1 => ⟨fun hmiss => ?_, fun hmiss => ?_⟩, fun t => exec_timeParentTimeout_of_late, fun hb t => State.takeTime_of_aligned,
    exec_portTrainStart_of_down, fun t => exec_portRetrainTimer_of_due, exec_portTrainTimeout_of_late, rfl, State.portDown_of_not_up, exec_portLaneLock_of_higher⟩
  · rw [exec_rigHeartbeatMiss_of_late hup hnew hlate h1, if_neg (by omega)]
  · rw [exec_rigHeartbeatMiss_of_late hup hnew hlate h1, if_pos (by omega)]

/-! Link authentication (R336, R361, R472). -/

section Authentication
variable {s : State} {port : PortNo} {m : AuthMsg}

@[simp] theorem State.stepTs_free (s : State) (m : AuthMsg) : (s.stepTs m).free = s.free := by
  unfold State.stepTs
  split <;> rfl

variable (hauth : (s.port port.val).st = .auth)
include hauth

section Hello
variable (hdir : s.txDir port.val ≠ 0) (hnew : (s.port port.val).auth = none)
include hdir hnew

theorem exec_authHello_of_other (hid : s.identityOk port.val m = false) : exec (.authHello port m) s = .next (s.authEnds port.val .authFail) := by
  change execAuthHello port m s = _
  simp only [execAuthHello, hauth, hdir, hnew, hid, bne_self_eq_false, decide_false, Option.isSome_none, Bool.or_self, Bool.false_eq_true, if_false, Bool.not_false, if_true]

theorem exec_authHello_of_refused (hid : s.identityOk port.val m = true) (hts : s.tsRefused m = true) :
    exec (.authHello port m) s = .next (s.authEnds port.val .joinRefused) := by
  change execAuthHello port m s = _
  simp only [execAuthHello, hauth, hdir, hnew, hid, hts, bne_self_eq_false, decide_false, Option.isSome_none, Bool.or_self, Bool.false_eq_true, if_false, Bool.not_true, if_true]

theorem exec_authHello_answered {s1 : State} {r : AuthMsg} {t : Bytes} (hid : s.identityOk port.val m = true) (hts : s.tsRefused m = false)
    (h1 : s1 = (s.stepTs m).fresh.2.fresh.2)
    (hr : r = (⟨BitVec.ofNat 8 s1.here, BitVec.ofNat 32 (tbGen s1.rig.troupe), BitVec.ofNat 64 s1.ts, Config.trng s.free, Config.rsaLeaf,
      Config.mlkemCipher m.kem (Config.trng (s.free + 1)), []⟩ : AuthMsg))
    (ht : t = authBytes m ++ authBytes r) :
    exec (.authHello port m) s =
      .next ((s1.setAuth port.val ⟨t, Config.trng s.free, 0, Config.mlkemShared m.kem (Config.trng (s.free + 1)), m.leaf⟩).sendAuth port.val { r with signature := Config.rsaSign t }) := by
  subst h1 hr ht
  change execAuthHello port m s = _
  simp only [execAuthHello, hauth, hdir, hnew, hid, hts, bne_self_eq_false, decide_false, Option.isSome_none, Bool.or_self, Bool.false_eq_true, if_false, Bool.not_true,
    State.fresh, State.stepTs_free]

end Hello

section Later
variable {a : AuthSt} (ha : (s.port port.val).auth = some a)
include ha

theorem exec_authReply_of_bad {t : Bytes} (hdir : s.txDir port.val ≠ 1) (ht : t = a.transcript ++ authBytes m)
    (hbad : (s.identityOk port.val m && Config.rsaVerify m.leaf t m.signature) = false) : exec (.authReply port m) s = .next (s.authEnds port.val .authFail) := by
  have hfails : (!s.identityOk port.val m || !Config.rsaVerify m.leaf (a.transcript ++ authBytes m) m.signature) = true := by
    rw [← Bool.not_and, ← ht, hbad, Bool.not_false]
  change execAuthReply port m s = _
  simp only [execAuthReply, hauth, ha, hdir, hfails, if_false, if_true]

theorem exec_authReply_of_good {t : Bytes} {s1 : State} {f : AuthMsg} (hdir : s.txDir port.val ≠ 1) (ht : t = a.transcript ++ authBytes m)
    (hid : s.identityOk port.val m = true) (hsig : Config.rsaVerify m.leaf t m.signature = true) (hts : s.tsRefused m = false) (h1 : s1 = s.stepTs m)
    (hf : f = (⟨BitVec.ofNat 8 s1.here, BitVec.ofNat 32 (tbGen s1.rig.troupe), BitVec.ofNat 64 s1.ts, a.nonce, [], [], Config.rsaSign t⟩ : AuthMsg)) :
    exec (.authReply port m) s = .next ((s1.sendAuth port.val f).enterUp port.val (Config.mlkemDecaps a.keyPair m.kem)) := by
  subst h1 hf ht
  change execAuthReply port m s = _
  simp only [execAuthReply, hauth, ha, hdir, hid, hsig, hts, Bool.not_true, Bool.or_self, Bool.false_eq_true, if_false]

theorem exec_authFinish_of_higher (hdir : s.txDir port.val ≠ 0) : exec (.authFinish port m) s =
    .next (if Config.rsaVerify a.leaf a.transcript m.signature then s.enterUp port.val a.secret else s.authEnds port.val .authFail) := by
  change execAuthFinish port m s = _
  simp only [execAuthFinish, hauth, ha, hdir, if_false]
  split <;> rfl

end Later

theorem exec_authTimeout_of_late (hlate : (s.port port.val).since + 2000000 ≤ s.ts) : exec (.authTimeout port) s = .next (s.trainFails port.val) := by
  change execAuthTimeout port s = _
  simp only [execAuthTimeout, hauth, hlate, BEq.rfl, decide_true, Bool.and_self, if_true]

end Authentication

/-- Settles O53: each clause is the lemma of its message; a FINISH's two are the branches of `exec_authFinish_of_higher`. -/
theorem linkAuthentication : Obligations.LinkAuthentication := by
  rintro s port x m rfl hauth
  refine ⟨exec_authHello_of_other hauth, exec_authHello_of_refused hauth, fun s1 r t hdir hnew => exec_authHello_answered hauth hdir hnew,
    fun a t hdir ha => exec_authReply_of_bad hauth ha hdir, fun a t s1 f hdir ha => exec_authReply_of_good hauth ha hdir,
    fun a hdir ha hsig => ?_, fun a hdir ha hsig => ?_, exec_authTimeout_of_late hauth⟩
  · rw [exec_authFinish_of_higher hauth ha hdir, if_pos hsig]
  · rw [exec_authFinish_of_higher hauth ha hdir, hsig, if_neg Bool.false_ne_true]

end Sys2Proof.Machine
end

section
/-! ### Group messages as they arrive (R373 to R391, R519)

What each kind of message does at its receiver, by whether the group takes it and has room; O55 put together from them. -/

namespace Sys2Proof.Machine

section Messages
variable {s s1 : State} {m : GroupMsg} {g : Group}

/-! Messages that are not taken. -/

section Discarded
variable (hg : g = s1.group m.group.toNat)
include hg

theorem exec_collectiveUp_discarded (h1 : s1 = s.arrived kUp m) (htakes : g.takes m = false) : exec (.collectiveUp m) s = .next (s1.discardMsg g) := by
  subst h1 hg
  change execCollectiveUp m s = _
  simp only [execCollectiveUp, htakes, Bool.not_false, if_true]

theorem exec_collectiveDown_discarded (h1 : s1 = s.arrived kDown m) (htakes : g.takes m = false) : exec (.collectiveDown m) s = .next (s1.discardMsg g) := by
  subst h1 hg
  change execCollectiveDown m s = _
  simp only [execCollectiveDown, htakes, Bool.not_false, if_true]

theorem exec_collectiveAbort_discarded (h1 : s1 = s.arrived kAbort m) (hother : m.epoch.toNat ≠ g.epoch ∨ g.st ≠ .active) :
    exec (.collectiveAbort m) s = .next (s1.discardMsg g) := by
  have hrefused : (m.epoch.toNat != g.epoch || g.st != .active) = true := by simpa using hother
  subst h1 hg
  change execCollectiveAbort m s = _
  simp only [execCollectiveAbort, hrefused, if_true]

end Discarded

/-! UP and DOWN (R375, R377, R378, R380). -/

section Up
variable {dest : Nat} (h1 : s1 = s.arrived kUp m) (hg : g = s1.group m.group.toNat) (htakes : g.takes m = true) (hop : m.op ≠ 0)
  (hdest : dest = geParent g.entry m.tree.toNat m.sender.toNat) (hlocal : (s1.locals g).contains dest = true)
include h1 hg htakes hop hdest hlocal

theorem exec_collectiveUp_staged {s2 : State} (hroom : s1.admits m.group.toNat dest m = true) (h2 : s2 = s1.stage m.group.toNat dest m)
    (hset : s2.groupSet (gePart g.entry dest) m.group.toNat = none) : exec (.collectiveUp m) s = .next (s2.progress m.group.toNat) := by
  subst h1 hg hdest h2
  change execCollectiveUp m s = _
  simp only [execCollectiveUp, htakes, hop, hlocal, hroom, hset, Bool.not_true, Bool.false_eq_true, if_false]

theorem exec_collectiveUp_waits (hroom : s1.admits m.group.toNat dest m = false) : exec (.collectiveUp m) s = .next s := by
  subst h1 hg hdest
  change execCollectiveUp m s = _
  simp only [execCollectiveUp, htakes, hop, hlocal, hroom, Bool.not_true, Bool.not_false, Bool.false_eq_true, if_false, if_true]

end Up

section Down
variable {kids : List Nat} (h1 : s1 = s.arrived kDown m) (hg : g = s1.group m.group.toNat) (htakes : g.takes m = true) (hop : m.op ≠ 0)
  (hkids : kids = (geChildren g.entry m.tree.toNat m.sender.toNat).filter (fun c => (s1.locals g).contains c))
include h1 hg htakes hop hkids

theorem exec_collectiveDown_staged (hroom : ∀ c ∈ kids, s1.admits m.group.toNat c m = true) : exec (.collectiveDown m) s =
    .next (((kids.foldl (fun (s : State) c => if (s.group m.group.toNat).st == .active then s.stage m.group.toNat c m else s) s1).progress m.group.toNat).takeCopies
      m.group.toNat) := by
  have hall := List.all_eq_true.2 hroom
  subst h1 hg hkids
  change execCollectiveDown m s = _
  simp only [execCollectiveDown, htakes, hop, hall, Bool.not_true, Bool.false_eq_true, if_false]

theorem exec_collectiveDown_waits (hroom : ∃ c ∈ kids, s1.admits m.group.toNat c m = false) : exec (.collectiveDown m) s = .next s := by
  have hall : kids.all (fun c => s1.admits m.group.toNat c m) = false := by simpa using hroom
  subst h1 hg hkids
  change execCollectiveDown m s = _
  simp only [execCollectiveDown, htakes, hop, hall, Bool.not_true, Bool.not_false, Bool.false_eq_true, if_false, if_true]

end Down

/-! CLOSE, VERDICT and ABORT (R384, R386 to R390). -/

theorem exec_collectiveClose_kept {dest k : Nat} {u : USet} (h1 : s1 = s.arrived kClose m) (hg : g = s1.group m.group.toNat) (hdest : dest = geParent g.entry 0 m.sender.toNat)
    (htakes : g.takes m = true) (hlocal : (s1.locals g).contains dest = true) (hwire : m.wire.toNat = geWire g.entry)
    (hset : s1.groupSet (gePart g.entry dest) m.group.toNat = some (k, u)) (hrun : u.run = none) (hepoch : dest ≠ geRoot g.entry 0 ∨ m.key.toNat = u.epoch % 2 ^ 32) :
    exec (.collectiveClose m) s = .next (s1.setGroup m.group.toNat { g with closes := g.closes ++ [(dest, m)] }) := by
  have hcurrent : (decide (dest = geRoot g.entry 0) && m.key.toNat != u.epoch % 2 ^ 32) = false := by
    obtain h | h := hepoch
    · simp [h]
    · rw [h, bne_self_eq_false, Bool.and_false]
  subst h1 hg hdest
  change execCollectiveClose m s = _
  simp only [execCollectiveClose, htakes, hlocal, hwire, hset, hrun, hcurrent, bne_self_eq_false, Option.isSome_none, Bool.not_true, Bool.or_self, Bool.false_eq_true, if_false]

theorem exec_collectiveVerdict_taken (h1 : s1 = s.arrived kVerdict m) (hg : g = s1.group m.group.toNat) (htakes : g.takes m = true) :
    exec (.collectiveVerdict m) s = .next (((geChildren g.entry 0 m.sender.toNat).filter (fun c => (s1.locals g).contains c)).foldl
      (fun s c => s.takeVerdict m.group.toNat c m) s1) := by
  subst h1 hg
  change execCollectiveVerdict m s = _
  simp only [execCollectiveVerdict, htakes, Bool.not_true, Bool.false_eq_true, if_false]

/-- An ABORT of the group's epoch; with a free word of this kind no local attempt ends for its CLOSE and no set steps back. -/
theorem exec_collectiveAbort_taken (h1 : s1 = s.arrived kAbort m) (hg : g = s1.group m.group.toNat) (hepoch : m.epoch.toNat = g.epoch) (hactive : g.st = .active)
    (hword : (Config.freeWord s1.free).toNat % 4 = 0) : exec (.collectiveAbort m) s = .next (s1.fresh.2.abortGroup m.group.toNat .other) := by
  have hclose : (Config.freeWord s1.free).toNat % 2 = 0 := by omega
  have hback : (Config.freeWord s1.free).toNat / 2 % 2 = 0 := by omega
  subst h1 hg
  change execCollectiveAbort m s = _
  simp only [execCollectiveAbort, State.fresh, hepoch, hactive, hclose, hback, bne_self_eq_false, Bool.or_self, Bool.false_eq_true, if_false, if_true]

/-! Dispatched rows and their results (R382), and the wait limit (R385). -/

theorem State.landRows_taken {kind : Nat} {s2 : State} (h1 : s1 = s.arrived kind m) (hg : g = s1.group m.group.toNat) (htakes : g.takes m = true)
    (hwire : m.wire.toNat = geWire g.entry)
    (h2 : s2 = s1.setGroup m.group.toNat { g with staged := g.staged ++ ((s1.locals g).filter (fun c => c != m.sender.toNat)).map (fun c => (c, m)) }) :
    s.landRows kind m = g.disps.foldl (fun s d => s.absorb m.group.toNat d) s2 := by
  subst h1 hg h2
  simp only [State.landRows, htakes, hwire, bne_self_eq_false, Bool.not_true, Bool.false_eq_true, if_false]

theorem exec_groupWaitLimit_of_overdue {gi : U8} (hactive : (s.group gi.toNat).st = .active) (hover : s.overdue gi.toNat = true) :
    exec (.groupWaitLimit gi) s = .next (s.abortGroup gi.toNat .timeout) := by
  change execGroupWaitLimit gi s = _
  simp only [execGroupWaitLimit, hactive, hover, BEq.rfl, Bool.and_self, if_true]

theorem exec_groupWaitLimit_in_time {gi : U8} (hover : s.overdue gi.toNat = false) : exec (.groupWaitLimit gi) s = .next s := by
  change execGroupWaitLimit gi s = _
  simp only [execGroupWaitLimit, hover, Bool.and_false, Bool.false_eq_true, if_false]

end Messages

/-- Settles O55: each clause is the lemma of its message; DISPATCH and COMBINE share `landRows`. -/
theorem groupMessages : Obligations.GroupMessages := by
  rintro s m gi rfl
  refine ⟨fun s1 g h1 hg => ⟨exec_collectiveUp_discarded hg h1, fun dest s2 htakes hop hdest hlocal => exec_collectiveUp_staged h1 hg htakes hop hdest hlocal,
      fun dest htakes hop hdest hlocal => exec_collectiveUp_waits h1 hg htakes hop hdest hlocal⟩,
    fun s1 g kids h1 hg htakes hop hkids => ⟨exec_collectiveDown_staged h1 hg htakes hop hkids, exec_collectiveDown_waits h1 hg htakes hop hkids⟩,
    fun s1 g h1 hg => exec_collectiveDown_discarded hg h1, fun s1 g dest k u => exec_collectiveClose_kept, fun s1 g => exec_collectiveVerdict_taken,
    fun s1 g => exec_collectiveAbort_taken, fun s1 g h1 hg => exec_collectiveAbort_discarded hg h1, fun s1 g s2 h1 hg htakes hwire h2 => ?_, fun s1 g s2 h1 hg htakes hwire h2 => ?_,
    exec_groupWaitLimit_of_overdue, exec_groupWaitLimit_in_time⟩
  · exact congrArg _ (State.landRows_taken h1 hg htakes hwire h2)
  · exact congrArg _ (State.landRows_taken h1 hg htakes hwire h2)

end Sys2Proof.Machine
end

section
/-! ### RUNs on their tiles (R58, R148, R151 to R153, R177 to R186, R388)

Folds that write tiles, an image in a tile's bank, the end of a load, and the start, the end and the limits of a RUN; O15 put together from them. -/

namespace Sys2Proof.Machine

/-! A fold that writes one tile in each step. -/

section TileFold
variable {α : Type} (key : α → Nat) (upd : α → Tile → Tile)

/-- Write each item's tile in turn. -/
def State.updTiles (s : State) (l : List α) : State := l.foldl (fun s a => s.setTile (key a) (upd a (s.tile (key a)))) s

theorem State.updTiles_cons (s : State) (a : α) (l : List α) :
    s.updTiles key upd (a :: l) = (s.setTile (key a) (upd a (s.tile (key a)))).updTiles key upd l := rfl

theorem State.updTiles_keeps {β : Type} (g : State → β) (h : ∀ (s : State) n x, g (s.setTile n x) = g s) (s : State) (l : List α) : g (s.updTiles key upd l) = g s :=
  foldl_keeps g l s fun _ _ => h ..

theorem State.tile_updTiles_of_not_mem {l : List α} {n : Nat} (s : State) (h : ∀ a ∈ l, key a ≠ n) : (s.updTiles key upd l).tile n = s.tile n := by
  induction l generalizing s with
  | nil => rfl
  | cons a l ih =>
    rw [State.updTiles_cons, ih _ fun b hb => h b (List.mem_cons_of_mem _ hb), State.tile_setTile_ne]
    exact (h a List.mem_cons_self).symm

/-- What every write of a tile gives, the tile has after the fold. -/
theorem State.tile_updTiles_of_mem {P : Tile → Prop} {l : List α} {n : Nat} (s : State) (hP : ∀ a ∈ l, key a = n → ∀ x, P (upd a x)) (hmem : ∃ a ∈ l, key a = n) :
    P ((s.updTiles key upd l).tile n) := by
  induction l generalizing s with
  | nil => obtain ⟨a, ha, -⟩ := hmem; exact absurd ha List.not_mem_nil
  | cons a l ih =>
    rw [State.updTiles_cons]
    by_cases hlater : ∃ b ∈ l, key b = n
    · exact ih _ (fun b hb => hP b (List.mem_cons_of_mem _ hb)) hlater
    · obtain ⟨b, hb, hkey⟩ := hmem
      obtain rfl | hb := List.mem_cons.1 hb
      · rw [State.tile_updTiles_of_not_mem key upd _ fun c hc hcn => hlater ⟨c, hc, hcn⟩, ← hkey, State.tile_setTile_self]
        exact hP b List.mem_cons_self hkey _
      · exact absurd ⟨b, hb, hkey⟩ hlater

/-- A write that a second one does not change gives each tile of the list its one result. -/
theorem State.tile_updTiles_idem {f : Tile → Tile} (hf : ∀ x, f (f x) = f x) {l : List Nat} {n : Nat} (s : State) (hmem : n ∈ l) :
    (s.updTiles id (fun _ => f) l).tile n = f (s.tile n) := by
  induction l generalizing s with
  | nil => exact absurd hmem List.not_mem_nil
  | cons a l ih =>
    rw [State.updTiles_cons]
    by_cases hlater : n ∈ l
    · rw [ih _ hlater]
      by_cases han : a = n
      · subst han
        exact (congrArg f (State.tile_setTile_self ..)).trans (hf _)
      · rw [State.tile_setTile_ne]
        exact fun h => han h.symm
    · obtain rfl : n = a := (List.mem_cons.1 hmem).resolve_right hlater
      rw [State.tile_updTiles_of_not_mem id (fun _ => f) _ fun b hb (hbn : b = n) => hlater (hbn ▸ hb)]
      exact State.tile_setTile_self ..

end TileFold

/-! A tile's banks (R151, R183, R184). -/

theorem Tile.endLoad_loadShadow_idem (b : BankImg) (p slot : Nat) (x : Tile) :
    (((x.loadShadow b).endLoad p slot).loadShadow b).endLoad p slot = (x.loadShadow b).endLoad p slot := by
  unfold Tile.loadShadow Tile.endLoad
  by_cases h : x.cur1 = true
  · simp [h]
  · simp [h]

theorem holdsImg_iff {b : Option BankImg} {i : BankImg} : holdsImg b i = true ↔ b = some i := by simp [holdsImg]

theorem Tile.current_bring (x : Tile) (i : BankImg) : (x.bring i).current = some i := by
  unfold Tile.bring
  split
  next h => exact holdsImg_iff.1 h
  · split
    next h =>
      refine Eq.trans ?_ (holdsImg_iff.1 h)
      by_cases hc : x.cur1 = true
      · simp [Tile.current, Tile.shadow, hc]
      · simp [Tile.current, Tile.shadow, hc]
    next =>
      by_cases hc : x.cur1 = true
      · simp [Tile.current, Tile.loadShadow, hc]
      · simp [Tile.current, Tile.loadShadow, hc]

/-! The end of a load (R177, R179, R183). -/

section Load
variable {s s2 : State} {p : Sys2Proof.Part} {slot : BitVec 6} {wid bk qk : Nat} {w : Work} {a : LoadArgs} {x : ImgSlot} {hdr raw body : Bytes} {im : Image}

/-- The state of a load that ends well, before its record: the slot, the tiles and the work. -/
def State.loadEnds (s : State) (p slot wid : Nat) (x : ImgSlot) (im : Image) : State :=
  let t := (s.setPart p { s.part p with slots := (s.part p).slots.set slot x }).updTiles id (fun _ y => (y.loadShadow ⟨p, slot, x.load⟩).endLoad p slot) im.tiles
  { t with works := t.works.erase wid }

theorem State.loadEnds_works (s : State) (p slot wid : Nat) (x : ImgSlot) (im : Image) : (s.loadEnds p slot wid x im).works = s.works.erase wid := by
  have hworks := State.updTiles_keeps id (fun _ y => (y.loadShadow ⟨p, slot, x.load⟩).endLoad p slot) State.works (fun _ _ _ => rfl)
    (s.setPart p { s.part p with slots := (s.part p).slots.set slot x }) im.tiles
  exact congrArg (Tbl.erase · wid) hworks

theorem State.loadEnds_imgSlot (s : State) (p slot wid : Nat) (x : ImgSlot) (im : Image) : (s.loadEnds p slot wid x im).imgSlot p slot = some x := by
  have hpart := State.updTiles_keeps id (fun _ y => (y.loadShadow ⟨p, slot, x.load⟩).endLoad p slot) (State.part · p) (fun _ _ _ => rfl)
    (s.setPart p { s.part p with slots := (s.part p).slots.set slot x }) im.tiles
  refine (congrArg (fun y : PartSt => y.slots.get slot) hpart).trans ?_
  rw [State.part_setPart_self]
  exact Tbl.get_set_self ..

theorem State.loadEnds_tile_of_mem (s : State) (p slot wid : Nat) (x : ImgSlot) (im : Image) {n : Nat} (h : n ∈ im.tiles) :
    (s.loadEnds p slot wid x im).tile n = ((s.tile n).loadShadow ⟨p, slot, x.load⟩).endLoad p slot :=
  State.tile_updTiles_idem (Tile.endLoad_loadShadow_idem _ p slot) _ h

theorem State.loadEnds_tile_of_not_mem (s : State) (p slot wid : Nat) (x : ImgSlot) (im : Image) {n : Nat} (h : n ∉ im.tiles) :
    (s.loadEnds p slot wid x im).tile n = s.tile n :=
  State.tile_updTiles_of_not_mem _ _ _ fun _ ha hn => h (hn ▸ ha)

theorem exec_loadImageDone_of_good (hwork : s.loadWork p.val slot.toNat = some (wid, w)) (hidle : s.workBusy wid = false) (hkind : w.kind = .loadImage a slot.toNat)
    (hgood : w.firstBad = none) (hq : w.q = some qk) (hhdr : hdr = w.bytes.take 128) (hraw : raw = w.bytes.drop 128)
    (hpass : loadFails s p.val hdr raw s.failedTiles = none) (hbody : body = plainBody (s.key (hdrKeySlot hdr)).key hdr raw)
    (hkeep : s.keepBody p.val slot.toNat body = some (bk, s2)) (hslot : s2.imgSlot p.val slot.toNat = some x) (him : im = readImage body)
    (hcut : im.tiles.any s2.tileCut = false) : exec (.loadImageDone p slot) s = .next (State.complete
      (s2.loadEnds p.val slot.toNat wid { x with st := .loaded, image := some im, digest := hdrDigest hdr, body := bk, loadTs := s2.ts } im) qk w.sub (Done.okay 0 0)) := by
  subst hhdr hraw hbody him
  change execLoadImageDone p slot s = _
  simp only [execLoadImageDone, hwork, hidle, hkind, hgood, hq, hpass, hkeep, hslot, hcut, Bool.false_eq_true, if_false]
  rfl

end Load

/-! The start of a RUN (R58, R151, R152). -/

section Start
variable {s : State} {rid : Nat} {r : Run} {x : ImgSlot} {im : Image} {seed : U64}

/-- A RUN that starts on its tiles. -/
def State.beginTiles (s : State) (rid : Nat) (bi : BankImg) (tiles : List Nat) (seed : U64) (stream : Nat) : State :=
  s.updTiles (fun t : Nat × Nat => t.1) (fun t y => (y.bring bi).begin_ rid (seedLanes seed t.2 stream)) tiles.zipIdx

theorem State.tile_beginTiles_of_not_mem (s : State) (rid : Nat) (bi : BankImg) {tiles : List Nat} (seed : U64) (stream : Nat) {n : Nat} (h : n ∉ tiles) :
    (s.beginTiles rid bi tiles seed stream).tile n = s.tile n :=
  State.tile_updTiles_of_not_mem _ _ _ fun _ ha hn => h (hn ▸ List.fst_mem_of_mem_zipIdx ha)

/-- A started tile is one in which the image is current, at its program's start. -/
theorem State.tile_beginTiles_of_mem (s : State) (rid : Nat) (bi : BankImg) {tiles : List Nat} (seed : U64) (stream : Nat) {n : Nat} (h : n ∈ tiles) :
    ∃ y gens, (s.beginTiles rid bi tiles seed stream).tile n = (Tile.bring y bi).begin_ rid gens := by
  obtain ⟨i, hi, rfl⟩ := List.mem_iff_getElem.1 h
  exact State.tile_updTiles_of_mem _ _ (P := fun t => ∃ y gens, t = (Tile.bring y bi).begin_ rid gens) s (fun _ _ _ y => ⟨y, _, rfl⟩)
    ⟨(tiles[i], i), List.mk_mem_zipIdx_iff_getElem?.2 (List.getElem?_eq_getElem hi), rfl⟩

/-- The generators of a started tile go by its place in the list. -/
theorem State.gens_beginTiles (s : State) (rid : Nat) (bi : BankImg) {tiles : List Nat} (seed : U64) (stream : Nat) (hnodup : tiles.Nodup) {i n : Nat}
    (h : tiles[i]? = some n) : ((s.beginTiles rid bi tiles seed stream).tile n).gens = seedLanes seed i stream := by
  refine State.tile_updTiles_of_mem _ _ (P := fun t => t.gens = seedLanes seed i stream) s (fun a ha hn y => ?_) ⟨(n, i), List.mk_mem_zipIdx_iff_getElem?.2 h, rfl⟩
  obtain ⟨m, j⟩ := a
  obtain rfl : m = n := hn
  have hj := List.mk_mem_zipIdx_iff_getElem?.1 ha
  obtain ⟨hjlt, -⟩ := List.getElem?_eq_some_iff.1 hj
  obtain rfl : j = i := (List.getElem?_inj hjlt hnodup).1 (hj.trans h.symm)
  rfl

theorem bumpDev_if (c : Prop) [Decidable c] (s : State) (off n : Nat) :
    (if c then s.bumpDev off n else s) = { s with dev := if c then (s.bumpDev off n).dev else s.dev } := by
  split <;> rfl

/-- A launch writes the RUN's tiles, a ledger, a counter and its own entry. -/
theorem State.launch_eq (s : State) (rid : Nat) (r : Run) (x : ImgSlot) (im : Image) (seed : U64) : ∃ (u : State) (ps : Tbl PartSt) (r' : Run),
    s.launch rid r x im seed = ({ u.beginTiles rid ⟨r.part, r.slot, r.load⟩ im.tiles seed r.stream with parts := ps } : State).setRun rid r' ∧
    u.tiles = s.tiles ∧ u.runs = s.runs ∧ u.ctxs = s.ctxs ∧ u.objs = s.objs ∧ u.hbm = s.hbm ∧ u.queues = s.queues ∧ u.keys = s.keys ∧
    r'.st = .running ∧ r'.tiles = im.tiles ∧ r'.seed = seed ∧ r'.startTs = s.ts ∧ r'.lanes = im.freshLanes := by
  have hts (u : State) (i : BankImg) : (u.beginTiles rid i im.tiles seed r.stream).ts = u.ts := State.updTiles_keeps _ _ State.ts (fun _ _ _ => rfl) u _
  simp only [State.launch, State.fresh, bumpDev_if]
  refine ⟨_, _, _, rfl, rfl, rfl, rfl, rfl, rfl, rfl, rfl, rfl, rfl, rfl, ?_, rfl⟩
  exact hts _ ⟨r.part, r.slot, r.load⟩

theorem exec_runStart_of_ready {c : Ctx} (hrun : s.runs.get rid = some r) (hqueued : r.st = .queued) (hslot : s.imgSlot r.part r.slot = some x)
    (hctx : s.ctxs.get r.ctx = some c) (hloaded : x.st = .loaded) (him : x.image = some im) (hdev : s.dev.fault = none) (hrails : s.partRails r.part = true)
    (hfree : s.runBlocked rid r im = false) (hawake : s.allAwake (s.runDomains im r.args) = true) (hcap : s.pwr.holdSince = none) (hheld : r.heldForGroup = none)
    (hgroups : (s.net r.part).waitGroups = false)
    (hpass : govern (s.runFails r.ctx (s.entryTs r) r.part ⟨BitVec.ofNat 8 r.slot, r.strict, BitVec.ofNat 24 r.stream, r.args⟩ ++
       failIf (s.llcBytes r.part < im.stores) .bounds ++ s.groupFails r.part im) = none) (harmed : (s.part r.part).led.armed = false) :
    exec (.runStart rid) s = .next (s.launch rid { r with load := x.load } x im c.seed) := by
  change execRunStart rid s = _
  simp only [execRunStart, hrun, hqueued, hslot, hctx, hloaded, him, hdev, hrails, hfree, hawake, hcap, hheld, hgroups, hpass, harmed, Option.isSome_none, Bool.not_true,
    Bool.or_self, Bool.and_false, Bool.false_and, Bool.false_eq_true, if_false]

end Start

/-! The end of a RUN and its limits (R148, R153, R388). -/

section Ends
variable {s : State} {rid : Nat} {r : Run}

theorem any_voids_of_none {l : List Nat} (h : ∀ t ∈ l, (s.tile t).tkt.voids = []) : l.any (fun t => !(s.tile t).tkt.voids.isEmpty) = false := by
  simpa using h

theorem exec_runComplete_of_over (hrun : s.runs.get rid = some r) (hover : s.runOver rid r = true) (hvoids : ∀ t ∈ r.tiles, (s.tile t).tkt.voids = [])
    (hclose : r.closeSt = none) :
    exec (.runComplete rid) s = .next ((s.releaseRun rid).complete r.q r.sub ⟨.ok, .request, 0, 0, 0, s.runFlags r % 128, none⟩) := by
  change execRunComplete rid s = _
  simp only [execRunComplete, hrun, hover, any_voids_of_none hvoids, hclose, Bool.not_true, Bool.false_eq_true, if_false]
  rfl

theorem exec_pipelineWatchdog_of_still (hrun : s.runs.get rid = some r) (hrunning : r.st = .running) (htrip : s.pwr.trip = false) (hstill : r.lastMove + 1000000 ≤ s.ts)
    (hwaits : s.runWaits rid r = false) : exec (.pipelineWatchdog rid) s = .next (s.ctxFault r.ctx .timeout (some (r.q, r.sub))) := by
  change execPipelineWatchdog rid s = _
  simp only [execPipelineWatchdog, hrun, hrunning, htrip, hstill, hwaits, BEq.rfl, Bool.not_false, decide_true, Bool.and_self, if_true]

theorem exec_runGroupWaitLimit_of_late {im : Image} {t g : Nat} (hrun : s.runs.get rid = some r) (hqueued : r.st = .queued) (hheld : r.heldForGroup = some t)
    (him : s.runImage r = some im) (hg : g ∈ s.imageGroups r.part im) (hready : s.groupReady r.part g = false) (hlate : t + 1000 * geWait (s.group g).entry ≤ s.ts) :
    exec (.runGroupWaitLimit rid) s = .next (s.ctxFault r.ctx .handle (some (r.q, r.sub))) := by
  have hany : (s.imageGroups r.part im).any (fun g => !s.groupReady r.part g && t + 1000 * geWait (s.group g).entry ≤ s.ts) = true :=
    List.any_eq_true.2 ⟨g, hg, by simp [hready, hlate]⟩
  change execRunGroupWaitLimit rid s = _
  simp only [execRunGroupWaitLimit, hrun, hqueued, hheld, him, hany, if_true]

end Ends

/-- Settles O15: the end of a load by what the state before its record holds, the start of a RUN by what a launch writes, and its end and its two limits by
their lemmas. -/
theorem runsStartAndEnd : Obligations.RunsStartAndEnd := by
  refine ⟨?load, ?start, fun s rid r => exec_runComplete_of_over, fun s rid r => exec_pipelineWatchdog_of_still, fun s rid r im t g => exec_runGroupWaitLimit_of_late⟩
  case load =>
    intro s p slot wid w a bk s2 x qk hdr raw body im hwork hidle hkind hgood hq hhdr hraw hpass hbody hkeep hslot him hcut
    exact ⟨_, _, exec_loadImageDone_of_good hwork hidle hkind hgood hq hhdr hraw hpass hbody hkeep hslot him hcut, State.loadEnds_works .., State.loadEnds_imgSlot ..,
      rfl, rfl, rfl, rfl, rfl, fun n hn => State.loadEnds_tile_of_mem _ _ _ _ _ _ hn,
      fun n hn => State.loadEnds_tile_of_not_mem _ _ _ _ _ _ hn⟩
  case start =>
    intro s rid r x c im hrun hqueued hslot hctx hloaded him hdev hrails hfree hawake hcap hheld hgroups hpass harmed
    have hexec := exec_runStart_of_ready hrun hqueued hslot hctx hloaded him hdev hrails hfree hawake hcap hheld hgroups hpass harmed
    obtain ⟨u, ps, r', hlaunch, htiles, hruns, hctxs, hobjs, hhbm, hqueues, hkeys, hst, hrtiles, hseed, hstart, hlanes⟩ :=
      s.launch_eq rid { r with load := x.load } x im c.seed
    rw [hlaunch] at hexec
    have hkeeps {β : Type} (g : State → β) (hg : ∀ (s : State) n y, g (s.setTile n y) = g s) :
        g (u.beginTiles rid ⟨r.part, r.slot, x.load⟩ im.tiles c.seed r.stream) = g u := State.updTiles_keeps _ _ g hg u _
    have htile (n : Nat) : u.tile n = s.tile n := congrArg (fun l : Tbl Tile => l.getD n Tile.reset) htiles
    refine ⟨_, r', hexec, ?_, hst, hrtiles, hseed, hstart, hlanes, (hkeeps State.ctxs fun _ _ _ => rfl).trans hctxs, (hkeeps State.objs fun _ _ _ => rfl).trans hobjs,
      (hkeeps State.hbm fun _ _ _ => rfl).trans hhbm, (hkeeps State.queues fun _ _ _ => rfl).trans hqueues, (hkeeps State.keys fun _ _ _ => rfl).trans hkeys,
      fun n hn => ?_, fun n hn => ?_, fun hnodup i n hi => ?_⟩
    · exact congrArg (Tbl.set · rid r') ((hkeeps State.runs fun _ _ _ => rfl).trans hruns)
    · exact (u.tile_beginTiles_of_not_mem rid _ _ _ hn).trans (htile n)
    · obtain ⟨y, gens, hy⟩ := u.tile_beginTiles_of_mem rid ⟨r.part, r.slot, x.load⟩ c.seed r.stream hn
      change (State.tile (u.beginTiles ..) n).run = _ ∧ (State.tile (u.beginTiles ..) n).pos = _ ∧ (State.tile (u.beginTiles ..) n).v = _ ∧
        (State.tile (u.beginTiles ..) n).x = _ ∧ (State.tile (u.beginTiles ..) n).flags = _ ∧ (State.tile (u.beginTiles ..) n).current = _
      rw [hy]
      exact ⟨rfl, rfl, rfl, rfl, rfl, y.current_bring _⟩
    · exact u.gens_beginTiles rid _ _ _ hnodup hi

end Sys2Proof.Machine
end

section
/-! ### What operations leave of the queue, the time and the life cycle

`SameLife` says that a state has the queue of commands and the life-cycle word of another, `Same` that it has its TS too. -/

namespace Sys2Proof.Machine

/-- The queue of commands and both rails of the life-cycle word are another state's. -/
@[simp] abbrev State.SameLife (t s : State) : Prop := t.pending = s.pending ∧ t.sec.life = s.sec.life ∧ t.sec.lifeN = s.sec.lifeN

/-- So is the time. -/
@[simp] abbrev State.Same (t s : State) : Prop := t.ts = s.ts ∧ t.SameLife s

theorem State.Same.trans {s t u : State} (h : u.Same t) (h' : t.Same s) : u.Same s :=
  ⟨h.1.trans h'.1, h.2.1.trans h'.2.1, h.2.2.1.trans h'.2.2.1, h.2.2.2.trans h'.2.2.2⟩

theorem State.SameLife.trans {s t u : State} (h : u.SameLife t) (h' : t.SameLife s) : u.SameLife s :=
  ⟨h.1.trans h'.1, h.2.1.trans h'.2.1, h.2.2.trans h'.2.2⟩

@[simp] theorem pending_ite (c : Prop) [Decidable c] (a b : State) : (if c then a else b).pending = if c then a.pending else b.pending := apply_ite ..

@[simp] theorem ts_ite (c : Prop) [Decidable c] (a b : State) : (if c then a else b).ts = if c then a.ts else b.ts := apply_ite ..

/-- What each update of a fold leaves, the fold leaves. -/
@[simp] theorem foldl_same {α : Type} {f : State → α → State} (l : List α) (s : State) (h : ∀ s a, (f s a).Same s) : (l.foldl f s).Same s :=
  ⟨foldl_keeps State.ts l s fun s a => (h s a).1, foldl_keeps State.pending l s fun s a => (h s a).2.1,
    foldl_keeps (fun s : State => s.sec.life) l s fun s a => (h s a).2.2.1, foldl_keeps (fun s : State => s.sec.lifeN) l s fun s a => (h s a).2.2.2⟩

/-- So does a fold that collects something beside the state. -/
@[simp] theorem foldl_snd_same {α β : Type} {f : β × State → α → β × State} (l : List α) (s : β × State) (h : ∀ s a, (f s a).2.Same s.2) : (l.foldl f s).2.Same s.2 := by
  refine List.foldlRecOn l f (motive := fun t => t.2.Same s.2) ?_ fun t ht a _ => (h t a).trans ht
  simp

/-- The state of a pair, once the pair is taken apart. -/
theorem snd_same {β : Type} {p : β × State} {b : β} {s t : State} (h : p = (b, t)) (hp : p.2.Same s) : t.Same s := by
  rw [h] at hp
  exact hp

theorem fst_same {β : Type} {p : State × β} {b : β} {s t : State} (h : p = (t, b)) (hp : p.1.Same s) : t.Same s := by
  rw [h] at hp
  exact hp

/-- A recursion on fuel, taken as the step function that it compiles to, leaves what each of its steps leaves. -/
theorem brecOn_same {F : (n : Nat) → Nat.below (motive := fun _ => State → State) n → State → State} (h0 : ∀ b s, (F 0 b s).Same s)
    (hs : ∀ n (b : Nat.below (motive := fun _ => State → State) (n + 1)) s, (∀ t, (b.1 t).Same t) → (F (n + 1) b s).Same s)
    (n : Nat) (s : State) : (Nat.brecOn (motive := fun _ => State → State) n F s).Same s := by
  induction n generalizing s with
  | zero => exact h0 _ s
  | succ n ih => exact hs n _ s ih

/-- A fold that may fail leaves what each of its steps leaves. -/
theorem foldl_option_same {α : Type} {f : Option State → α → Option State} (l : List α) (h : ∀ s a u, f (some s) a = some u → u.Same s)
    (hnone : ∀ a, f none a = none) {s t : State} (ht : l.foldl f (some s) = some t) : t.Same s := by
  induction l generalizing s with
  | nil => rw [← Option.some.inj ht]; simp
  | cons a l ih =>
    rw [List.foldl_cons] at ht
    cases hu : f (some s) a with
    | some u => exact (ih (hu ▸ ht)).trans (h s a u hu)
    | none =>
      have hstuck : l.foldl f none = none := List.foldlRecOn l f (motive := (· = none)) rfl fun b hb a _ => hb ▸ hnone a
      rw [hu, hstuck] at ht
      exact absurd ht (by simp)

end Sys2Proof.Machine
end

section
/-! ### What they leave of queue, time and life cycle: operations of the command engine, Rigging, groups, caches and mirrors -/

namespace Sys2Proof.Machine
section
variable (s : State)

@[simp] theorem State.setFn_same (f : Nat) (x : FnSt) : (s.setFn f x).Same s := by simp

@[simp] theorem State.setPart_same (p : Nat) (x : PartSt) : (s.setPart p x).Same s := by simp

@[simp] theorem State.setTile_same (t : Nat) (x : Tile) : (s.setTile t x).Same s := by simp

@[simp] theorem State.setKey_same (k : Nat) (x : KeySlot) : (s.setKey k x).Same s := by simp

@[simp] theorem State.emptyKey_same (k : Nat) : (s.emptyKey k).Same s := by simp

@[simp] theorem State.setQueue_same (q : Nat) (x : Queue) : (s.setQueue q x).Same s := by simp

@[simp] theorem State.setCtx_same (c : Nat) (x : Ctx) : (s.setCtx c x).Same s := by simp

@[simp] theorem State.setObj_same (k : Nat) (x : Obj) : (s.setObj k x).Same s := by simp

@[simp] theorem State.setRun_same (r : Nat) (x : Run) : (s.setRun r x).Same s := by simp

@[simp] theorem State.setSess_same (p : Nat) (x : Session) : (s.setSess p x).Same s := by simp

@[simp] theorem State.fresh_same : s.fresh.2.Same s := ⟨rfl, rfl, rfl, rfl⟩

@[simp] theorem State.touchDom_same (d : Nat) : (s.touchDom d).Same s := by simp

@[simp] theorem State.bumpFn_same (f off n : Nat) : (s.bumpFn f off n).Same s := by simp

@[simp] theorem State.bumpPart_same (p off n : Nat) : (s.bumpPart p off n).Same s := by simp

@[simp] theorem State.bumpTile_same (t off n : Nat) : (s.bumpTile t off n).Same s := by simp

@[simp] theorem State.bumpDev_same (off n : Nat) : (s.bumpDev off n).Same s := by simp

@[simp] theorem State.bumpPart?_same (p : Option Nat) (off n : Nat) : (s.bumpPart? p off n).Same s := by
  unfold State.bumpPart?
  split <;> simp

@[simp] theorem State.spend_same (k n : Nat) : (s.spend k n).Same s := by
  simp [State.spend]

@[simp] theorem State.setBudget_same (k v : Nat) : (s.setBudget k v).Same s := ⟨rfl, rfl, rfl, rfl⟩

@[simp] theorem State.touchLines_same (part : Option Nat) (first n : Nat) : (s.touchLines part first n).Same s := by
  unfold State.touchLines
  split <;> simp

@[simp] theorem State.setNet_same (p : Nat) (n : Net) : (s.setNet p n).Same s := by simp

@[simp] theorem State.mirror_same (p kind : Nat) (body : Bytes) : (s.mirror p kind body).Same s := ⟨rfl, rfl, rfl, rfl⟩

@[simp] theorem State.mirrorLines_same (p kind : Nat) (handle : U32) (page frame first n : Nat) (writer : Option (Nat × Nat)) : (s.mirrorLines p kind handle page frame first n writer).Same s := by
  simp [State.mirrorLines]

@[simp] theorem State.mirrorFlash_same (p : Nat) (handle : U32) (page off : Nat) (data : Bytes) : (s.mirrorFlash p handle page off data).Same s := by
  simp [State.mirrorFlash]

@[simp] theorem State.pageWrite_same (key i off : Nat) (data : Bytes) (writer : Option (Nat × Nat)) : (s.pageWrite key i off data writer).Same s := by
  dsimp only [State.pageWrite, State.fresh]
  repeat' split
  all_goals simp

@[simp] theorem State.objWriteBy_same (writer : Option (Nat × Nat)) (key off : Nat) (data : Bytes) : (s.objWriteBy writer key off data).Same s := by
  unfold State.objWriteBy
  split <;> simp

@[simp] theorem State.objWrite_same (key off : Nat) (data : Bytes) : (s.objWrite key off data).Same s := by
  simp [State.objWrite]

@[simp] theorem State.markIncomplete_same (key i : Nat) : (s.markIncomplete key i).Same s := by
  unfold State.markIncomplete
  split <;> simp

@[simp] theorem State.growRegion_same (tag fuel n : Nat) : (s.growRegion tag fuel n).Same s := by
  induction fuel generalizing s with
  | zero => exact ⟨rfl, rfl, rfl, rfl⟩
  | succ k ih =>
    unfold State.growRegion
    repeat' split
    · exact ⟨rfl, rfl, rfl, rfl⟩
    · exact (ih _).trans ⟨rfl, rfl, rfl, rfl⟩
    · exact ⟨rfl, rfl, rfl, rfl⟩

variable {s} in
theorem State.pickFlash_same {tag n : Nat} {pick l : List Nat} {t : State} (h : s.pickFlash tag n pick = some (l, t)) : t.Same s := by
  simp only [State.pickFlash] at h
  repeat' split at h
  all_goals simp only [Option.some.injEq, Prod.mk.injEq, reduceCtorEq] at h
  all_goals rw [← h.2]; simp

variable {s} in
theorem State.newHbm_same {key : Nat} {o : Obj} {n : Nat} {pick : List Nat} {t : State} (h : s.newHbm key o n pick = some t) : t.Same s := by
  unfold State.newHbm at h
  split at h
  · exact absurd h (by simp)
  · rw [← Option.some.inj h]
    exact ⟨rfl, rfl, rfl, rfl⟩

variable {s} in
theorem State.newFlash_same {key : Nat} {o : Obj} {n : Nat} {pick : List Nat} {t : State} (h : s.newFlash key o n pick = some t) : t.Same s := by
  unfold State.newFlash at h
  split at h
  · exact absurd h (by simp)
  next hpick =>
    rw [← Option.some.inj h]
    simpa using State.pickFlash_same hpick

variable {s} in
theorem State.freshFrame_same {key i : Nat} {t : State} (h : s.freshFrame key i = some t) : t.Same s := by
  unfold State.freshFrame at h
  repeat' split at h
  · exact absurd h (by simp)
  next hpick =>
    rw [← Option.some.inj h]
    simpa using State.pickFlash_same hpick
  · exact absurd h (by simp)

variable {s} in
theorem State.freshFrames_same {key off len : Nat} {t : State} (h : s.freshFrames key off len = some t) : t.Same s := by
  unfold State.freshFrames at h
  refine foldl_option_same _ (fun s r u hu => ?_) (fun _ => rfl) h
  dsimp only at hu
  repeat' split at hu
  · exact absurd hu (by simp)
  · exact State.freshFrame_same hu
  · rw [← Option.some.inj hu]; simp

@[simp] theorem State.newTable_same (key : Nat) (part : Option Nat) (n : Nat) : (s.newTable key part n).Same s := by
  unfold State.newTable
  split <;> simp

@[simp] theorem State.dropPages_same (key : Nat) : (s.dropPages key).Same s := by
  unfold State.dropPages
  split <;> simp

@[simp] theorem State.raise_same (f v : Nat) : (s.raise f v).Same s := by
  simp [State.raise]

@[simp] theorem State.putRec_same (qk : Nat) (r : Rec) : (s.putRec qk r).Same s := by
  unfold State.putRec
  split <;> simp

@[simp] theorem State.setRig_same (r : Rig) : (s.setRig r).Same s := ⟨rfl, rfl, rfl, rfl⟩

@[simp] theorem State.setPort_same (p : Nat) (x : RPort) : (s.setPort p x).Same s := ⟨rfl, rfl, rfl, rfl⟩

@[simp] theorem State.toInbox_same (m : RigIn) : (s.toInbox m).Same s := ⟨rfl, rfl, rfl, rfl⟩

@[simp] theorem State.giveBack_same (cls : Nat) (ports : List Nat) : (s.giveBack cls ports).Same s := by
  simp [State.giveBack]

@[simp] theorem State.dropInbox_same (f : RigIn → Bool) : (s.dropInbox f).Same s := by
  simp [State.dropInbox]

@[simp] theorem State.dropPartials_same (f : RigIn → Bool) : (s.dropPartials f).Same s := by
  simp [State.dropPartials]

@[simp] theorem State.forgetPort_same (p : Nat) : (s.forgetPort p).Same s := ⟨rfl, rfl, rfl, rfl⟩

@[simp] theorem State.bumpPort_same (p off n : Nat) : (s.bumpPort p off n).Same s := ⟨rfl, rfl, rfl, rfl⟩

@[simp] theorem State.sendMsg_same (cls dst src flow : Nat) (part : Option Nat) (data : Bytes) : (s.sendMsg cls dst src flow part data).Same s := by
  dsimp only [State.sendMsg, State.fresh]
  repeat' split
  all_goals simp

@[simp] theorem State.takeInbox_same (m : RigIn) : (s.takeInbox m).Same s := by
  dsimp only [State.takeInbox, State.fresh]
  repeat' split
  all_goals simp

@[simp] theorem State.sendControl_same (dst flow : Nat) (data : Bytes) : (s.sendControl dst flow data).Same s := by
  simp [State.sendControl]

@[simp] theorem State.setGroup_same (g : Nat) (x : Group) : (s.setGroup g x).Same s := ⟨rfl, rfl, rfl, rfl⟩

@[simp] theorem State.remoteJoins_same (gi : Nat) : (s.remoteJoins gi).Same s := by
  dsimp only [State.remoteJoins]
  split
  · exact ⟨rfl, rfl, rfl, rfl⟩
  · refine foldl_same _ _ fun s m => ?_
    dsimp only [State.fresh]
    repeat' split
    all_goals simp

@[simp] theorem State.sendGroup_same (kind sender dest : Nat) (m : GroupMsg) : (s.sendGroup kind sender dest m).Same s := by
  simp [State.sendGroup]

@[simp] theorem State.arrived_same (kind : Nat) (m : GroupMsg) : (s.arrived kind m).Same s := by
  simp [State.arrived]

@[simp] theorem State.discardMsg_same (g : Group) : (s.discardMsg g).Same s := by
  simp [State.discardMsg]

@[simp] theorem State.markAbort_same (g : Nat) (c : GCause) : (s.markAbort g c).Same s := by
  simp [State.markAbort]

@[simp] theorem State.abortSteps_same (g : Nat) : (s.abortSteps g).Same s := by
  dsimp only [State.abortSteps, State.fresh]
  repeat' split
  all_goals simp

@[simp] theorem State.setUset_same (k : Nat) (u : USet) : (s.setUset k u).Same s := ⟨rfl, rfl, rfl, rfl⟩

@[simp] theorem State.closeAttempts_same (rid : Nat) : (s.closeAttempts rid).Same s := by
  simp [State.closeAttempts]

@[simp] theorem State.setReg_same (slot : Nat) (e : RegEntry) : (s.setReg slot e).Same s := ⟨rfl, rfl, rfl, rfl⟩

@[simp] theorem State.dropReg_same (slot : Nat) : (s.dropReg slot).Same s := ⟨rfl, rfl, rfl, rfl⟩

@[simp] theorem State.setCache_same (i : Nat) (e : CacheEntry) : (s.setCache i e).Same s := ⟨rfl, rfl, rfl, rfl⟩

@[simp] theorem State.dropCache_same (i : Nat) : (s.dropCache i).Same s := ⟨rfl, rfl, rfl, rfl⟩

@[simp] theorem State.dropLoad_same (i : Nat) : (s.dropLoad i).Same s := ⟨rfl, rfl, rfl, rfl⟩

@[simp] theorem State.freeRevoked_same (slot : Nat) : (s.freeRevoked slot).Same s := by
  unfold State.freeRevoked
  split <;> simp

@[simp] theorem State.wipeEntry_same (i : Nat) (revoked : Option Nat := none) : (s.wipeEntry i revoked).Same s := by
  dsimp only [State.wipeEntry, State.fresh]
  repeat' split
  all_goals simp

@[simp] theorem State.afterUnpin_same (i : Nat) : (s.afterUnpin i).Same s := by
  unfold State.afterUnpin
  split <;> simp

@[simp] theorem State.releaseCtxPins_same (c : Nat) : (s.releaseCtxPins c).Same s := by
  simp [State.releaseCtxPins]

@[simp] theorem State.endVoid_same (i : Nat) (e : CacheEntry) : (s.endVoid i e).Same s := by
  simp [State.endVoid]

@[simp] theorem State.endHold_same (rid : Nat) : (s.endHold rid).Same s := by
  simp [State.endHold]

@[simp] theorem State.voidEntry_same (i : Nat) (revoked : Bool) : (s.voidEntry i revoked).Same s := by
  unfold State.voidEntry
  split <;> simp

@[simp] theorem State.flushJournal_same (p : Nat) : (s.flushJournal p).Same s := by
  simp [State.flushJournal]

@[simp] theorem State.mirrorRing_same (p ring off len : Nat) (writer : Nat × Nat) (big : List (Nat × Bytes)) : (s.mirrorRing p ring off len writer big).Same s := by
  simp [State.mirrorRing]

@[simp] theorem State.mirrorHostWrite_same (ring off len : Nat) : (s.mirrorHostWrite ring off len).Same s := by
  dsimp only [State.mirrorHostWrite, State.fresh]
  repeat' split
  all_goals simp

@[simp] theorem State.eventRoom_same (x : Ctx) : (s.eventRoom x).2.Same s := by
  unfold State.eventRoom
  split <;> simp

@[simp] theorem State.forwardEvent_same (c ev : Nat) (cookie : U32) (value : U64) (st : Status) (ts : Nat) : (s.forwardEvent c ev cookie value st ts).Same s := by
  unfold State.forwardEvent
  split <;> simp

@[simp] theorem State.putEvent_same (c ev : Nat) (cookie : U32) (value : U64) (st : Status) (ts : Nat) : (s.putEvent c ev cookie value st ts).Same s := by
  unfold State.putEvent
  split <;> simp

@[simp] theorem State.forwardRec_same (q : Nat) (r : Rec) : (s.forwardRec q r).Same s := by
  unfold State.forwardRec
  split <;> simp

@[simp] theorem State.show_same (x : HoldItem) : (s.show x).Same s := by
  dsimp only [State.show]
  repeat' split
  all_goals simp

@[simp] theorem State.mirrorItem_same (p : Nat) (x : HoldItem) : (s.mirrorItem p x).Same s := by
  dsimp only [State.mirrorItem]
  repeat' split
  all_goals simp

@[simp] theorem State.emit_same (p : Option Nat) (x : HoldItem) : (s.emit p x).Same s := by
  dsimp only [State.emit]
  repeat' split
  all_goals simp

@[simp] theorem State.releaseHeld_same (p upTo : Nat) : (s.releaseHeld p upTo).Same s := by
  simp [State.releaseHeld]

@[simp] theorem State.record_same (qk : Nat) (r : Rec) : (s.record qk r).Same s := by
  simp [State.record]

@[simp] theorem State.sendPair_same (p : Nat) : (s.sendPair p).Same s := by
  simp [State.sendPair]

@[simp] theorem State.releaseAll_same (p : Nat) : (s.releaseAll p).Same s := by
  simp [State.releaseAll]

@[simp] theorem State.mirrorRings_same (p : Nat) : (s.mirrorRings p).Same s := by
  simp [State.mirrorRings]

@[simp] theorem State.startResync_same (p : Nat) : (s.startResync p).Same s := by
  simp [State.startResync]

@[simp] theorem State.tryPair_same (p : Nat) (again : Bool) : (s.tryPair p again).Same s := by
  dsimp only [State.tryPair, State.fresh]
  repeat' split
  all_goals simp

@[simp] theorem State.repair_same : s.repair.Same s := by
  unfold State.repair
  refine foldl_same _ _ fun s p => ?_
  split <;> simp

@[simp] theorem State.emptySlot_same (p slot : Nat) : (s.emptySlot p slot).Same s := by
  unfold State.emptySlot
  split <;> simp

@[simp] theorem State.settleObjs_same : s.settleObjs.Same s := by
  refine foldl_same _ _ fun s a => ?_
  split <;> simp

@[simp] theorem State.settleSlots_same : s.settleSlots.Same s := by
  simp [State.settleSlots]

@[simp] theorem State.settle_same : s.settle.Same s := by
  simp [State.settle]

@[simp] theorem State.dropEntry_same (qk sub : Nat) : (s.dropEntry qk sub).Same s := by
  unfold State.dropEntry
  split <;> simp

@[simp] theorem State.tallyFull_same : s.tallyFull.Same s := by
  dsimp only [State.tallyFull, State.fresh]
  repeat' split
  all_goals simp

@[simp] theorem State.complete_same (qk sub : Nat) (d : Done) : (s.complete qk sub d).Same s := by
  dsimp only [State.complete, State.fresh]
  repeat' split
  all_goals simp

@[simp] theorem State.fixCycles_same (r : Run) (t : Nat) : (s.fixCycles r t).Same s := by
  simp [State.fixCycles]

@[simp] theorem State.settleLeaving_same : s.settleLeaving.Same s := by
  simp [State.settleLeaving]

@[simp] theorem State.dropAccs_same (f : Access → Bool) : (s.dropAccs f).Same s := by
  simp [State.dropAccs]

@[simp] theorem State.countStall_same (p : Option Nat) (n : Nat) : (s.countStall p n).Same s := by
  simp [State.countStall]

@[simp] theorem State.releaseRun_same (rid : Nat) : (s.releaseRun rid).Same s := by
  unfold State.releaseRun
  split <;> simp

@[simp] theorem State.abortRun_same (rid : Nat) : (s.abortRun rid).Same s := by
  simp [State.abortRun]

@[simp] theorem State.spoilWrites_same (id : Nat) : (s.spoilWrites id).Same s := by
  refine foldl_same _ _ fun s a => ?_
  split <;> simp

@[simp] theorem State.abortWork_same (id : Nat) : (s.abortWork id).Same s := by
  dsimp only [State.abortWork, State.fresh]
  repeat' split
  all_goals simp

@[simp] theorem State.dropWaiter_same (qk sub : Nat) : (s.dropWaiter qk sub).Same s := by
  simp [State.dropWaiter]

@[simp] theorem State.endEntryWith_same (qk sub : Nat) (d : Done) : (s.endEntryWith qk sub d).Same s := by
  simp [State.endEntryWith]

@[simp] theorem State.endEntry1_same (qk sub : Nat) (st : Status) (sc : Scope) : (s.endEntry1 qk sub st sc).Same s := by
  simp [State.endEntry1]

@[simp] theorem State.endQueue1_same (qk : Nat) (sel : Entry → Bool) (st : Status) (sc : Scope) (victim : Option (Nat × Nat × Status)) : (s.endQueue1 qk sel st sc victim).Same s := by
  unfold State.endQueue1
  split <;> simp

@[simp] theorem State.faultRecord_same (f c : Nat) (st : Status) (sc : Scope) : (s.faultRecord f c st sc).Same s := by
  simp [State.faultRecord]

@[simp] theorem State.loseCtx1_same (c : Nat) (st : Status) (sc : Scope) (victim : Option (Nat × Nat)) : (s.loseCtx1 c st sc victim).Same s := by
  unfold State.loseCtx1
  split <;> simp

@[simp] theorem State.groupEnd_same (e : Nat × Run) (c : GCause) : (s.groupEnd e c).Same s := by
  dsimp only [State.groupEnd, State.fresh]
  repeat' split
  all_goals simp

@[simp] theorem State.drainGroups_same (fuel : Nat) : (State.drainGroups fuel s).Same s := by
  induction fuel generalizing s with
  | zero => exact ⟨rfl, rfl, rfl, rfl⟩
  | succ k ih =>
    unfold State.drainGroups
    split
    · exact ⟨rfl, rfl, rfl, rfl⟩
    · simp [ih]

@[simp] theorem State.settleGroups_same : s.settleGroups.Same s := by simp [State.settleGroups]

@[simp] theorem State.abortGroup_same (g : Nat) (c : GCause) : (s.abortGroup g c).Same s := by
  simp [State.abortGroup]

@[simp] theorem State.endEntry_same (qk sub : Nat) (st : Status) (sc : Scope) : (s.endEntry qk sub st sc).Same s := by
  simp [State.endEntry]

@[simp] theorem State.endQueue_same (qk : Nat) (sel : Entry → Bool) (st : Status) (sc : Scope) (victim : Option (Nat × Nat × Status)) : (s.endQueue qk sel st sc victim).Same s := by
  simp [State.endQueue]

@[simp] theorem State.loseCtx_same (c : Nat) (st : Status) (sc : Scope) (victim : Option (Nat × Nat)) : (s.loseCtx c st sc victim).Same s := by
  simp [State.loseCtx]

@[simp] theorem State.ctxFault_same (c : Nat) (st : Status) (victim : Option (Nat × Nat)) : (s.ctxFault c st victim).Same s := by
  simp [State.ctxFault]

@[simp] theorem State.partFault_same (p : Nat) (st : Status) (victim : Option (Nat × Nat)) : (s.partFault p st victim).Same s := by
  simp [State.partFault]

@[simp] theorem State.devFault_same (st : Status) (victim : Option (Nat × Nat)) : (s.devFault st victim).Same s := by
  simp [State.devFault]

@[simp] theorem State.faultAt_same (qk sub : Nat) (st : Status) (sc : Scope) : (s.faultAt qk sub st sc).Same s := by
  dsimp only [State.faultAt, State.fresh]
  repeat' split
  all_goals simp

@[simp] theorem State.resolveWaits_same (ev : Nat) (value : U64) : (s.resolveWaits ev value).Same s := by
  simp [State.resolveWaits]

@[simp] theorem State.applySignal_same (ev : Nat) (v : U64) : (s.applySignal ev v).2.Same s := by
  dsimp only [State.applySignal]
  repeat' split
  all_goals simp

@[simp] theorem State.destroyEvent_same (ev : Nat) : (s.destroyEvent ev).Same s := by
  simp [State.destroyEvent]

@[simp] theorem State.logRec_same (x : LogItem) : (s.logRec x).Same s := by
  simp [State.logRec]

variable {s} in
theorem State.start_same {q : QId} {cmd : HostCmd} {qk : Nat} {e : Entry} {t : State} (h : s.start q cmd = some (qk, e, t)) : t.Same s := by
  unfold State.start at h
  repeat' split at h
  all_goals simp only [Option.some.injEq, Prod.mk.injEq, reduceCtorEq] at h
  rw [← h.2.2]
  exact ⟨rfl, rfl, rfl, rfl⟩

end
end Sys2Proof.Machine
end

section
/-! ### What they leave of queue, time and life cycle: works, checks, words, the loader, power, host commands, images and lanes -/

namespace Sys2Proof.Machine
section
variable (s : State)

@[simp] theorem State.issueRow_same (part : Option Nat) (r : RowRead) : (s.issueRow part r).2.Same s := by
  dsimp only [State.issueRow]
  split <;> simp

@[simp] theorem State.setDom_same (d : Nat) (x : Dom) : (s.setDom d x).Same s := ⟨rfl, rfl, rfl, rfl⟩

@[simp] theorem State.wake_same (d : Nat) : (s.wake d).Same s := by
  simp [State.wake]

@[simp] theorem State.wakeAll_same (l : List Nat) : (s.wakeAll l).Same s := by
  simp [State.wakeAll]

@[simp] theorem State.admitAcc_same (a : Access) : (s.admitAcc a).2.Same s := by
  dsimp only [State.admitAcc]
  repeat' split
  all_goals simp

@[simp] theorem State.endDry_same (k : Nat) : (s.endDry k).Same s := by
  unfold State.endDry
  split <;> simp

@[simp] theorem State.addAcc_same (a : Access) : (s.addAcc a).Same s := by
  refine (State.admitAcc_same _ a).trans ?_
  split <;> simp

@[simp] theorem State.admitWaiting_same : s.admitWaiting.Same s := foldl_same _ _ fun s e => s.admitAcc_same e.2

@[simp] theorem State.issueRead_same (owner : Owner) (priv : Bool) (key off len chunk : Nat) : (s.issueRead owner priv key off len chunk).Same s := by
  unfold State.issueRead
  split
  · simp
  · split
    · simp
    · refine (State.addAcc_same _ _).trans (foldl_snd_same _ ([], s) fun s pg => foldl_snd_same _ s fun s r => ?_)
      exact State.issueRow_same _ _ r

@[simp] theorem State.issueWrite_same (owner : Owner) (priv : Bool) (key off : Nat) (data : Bytes) (chunk : Nat) : (s.issueWrite owner priv key off data chunk).Same s := by
  unfold State.issueWrite
  split <;> simp

@[simp] theorem State.spoilChunk_same (w : Work) (c : Chunk) : (s.spoilChunk w c).Same s := by
  unfold State.spoilChunk
  split
  · refine foldl_same _ _ fun s r => ?_
    split <;> simp
  · simp

@[simp] theorem State.failChunk_same (id ci : Nat) (st : Status) (begun : Bool) : (s.failChunk id ci st begun).Same s := by
  unfold State.failChunk
  split
  · simp
  · split
    · simp
    next w _ _ =>
      extract_lets inPart hit spoiled dropped counted
      have hspoiled : spoiled.Same s := by
        refine foldl_same _ _ fun s i => ?_
        split <;> simp
      have hdropped : dropped.Same spoiled := by simp [dropped]
      have hcounted : counted.Same dropped := by
        dsimp only [counted]
        split <;> simp
      exact hcounted.trans (hdropped.trans hspoiled)

@[simp] theorem State.chunkDone_same (id ci : Nat) : (s.chunkDone id ci).Same s := by
  unfold State.chunkDone
  split <;> simp

@[simp] theorem State.chunkBad_same (id ci : Nat) (st : Status) (sc : Scope) : (s.chunkBad id ci st sc).Same s := by
  dsimp only [State.chunkBad, State.fresh]
  repeat' split
  all_goals simp

@[simp] theorem State.chunkGot_same (id ci : Nat) (data : Bytes) : (s.chunkGot id ci data).Same s := by
  unfold State.chunkGot
  split <;> simp

@[simp] theorem State.chunkData_same (id ci : Nat) (data : Bytes) : (s.chunkData id ci data).Same s := by
  unfold State.chunkData
  repeat' split
  all_goals simp
  next h => simpa using State.freshFrames_same h

@[simp] theorem State.startChunk_same (id ci : Nat) : (s.startChunk id ci).Same s := by
  dsimp only [State.startChunk, State.fresh]
  repeat' split
  all_goals simp

@[simp] theorem State.startWork_same (w : Work) : (s.startWork w).2.Same s := by
  simp [State.startWork]

@[simp] theorem State.finishTransfer_same (id : Nat) (w : Work) (dst : Option Nat) : (s.finishTransfer id w dst).Same s := by
  dsimp only [State.finishTransfer, State.fresh]
  repeat' split
  all_goals simp

@[simp] theorem State.lookAhead_same (qu : Queue) : (s.lookAhead qu).Same s := by
  unfold State.lookAhead
  split <;> simp

@[simp] theorem State.avsSet_same : s.avsSet.Same s := by
  simp [State.avsSet]

@[simp] theorem State.takeEntry_same (qk sub t : Nat) (qu : Queue) (e : RawEntry) : (s.takeEntry qk sub t qu e).Same s := by
  dsimp only [State.takeEntry, State.fresh]
  repeat' split
  all_goals simp

@[simp] theorem State.settleTransfer_same (id : Nat) : (s.settleTransfer id).Same s := by
  dsimp only [State.settleTransfer, State.fresh]
  repeat' split
  all_goals simp

@[simp] theorem State.catcherAnswer_same (part : Option Nat) (mirrored : Bool) : (s.catcherAnswer part mirrored).2.Same s := by
  dsimp only [State.catcherAnswer]
  repeat' split
  all_goals simp

@[simp] theorem State.failLoad_same (id : Nat) (w : Work) (p slot : Nat) (st : Status) (sc : Scope) : (s.failLoad id w p slot st sc).Same s := by
  unfold State.failLoad
  split <;> simp

@[simp] theorem State.beginBanks_same (w : Work) (p slot : Nat) : (s.beginBanks w p slot).Same s := by
  dsimp only [State.beginBanks, State.fresh]
  repeat' split
  all_goals simp

@[simp] theorem State.readBody_same (id : Nat) : (s.readBody id).Same s := by
  dsimp only [State.readBody, State.fresh]
  repeat' split
  all_goals simp

variable {s} in
theorem State.keepBody_same {p slot : Nat} {body : Bytes} {k : Nat} {t : State} (h : s.keepBody p slot body = some (k, t)) : t.Same s := by
  simp only [State.keepBody, Option.ite_none_left_eq_some, Option.map_eq_some_iff, Prod.mk.injEq] at h
  obtain ⟨-, u, hu, -, rfl⟩ := h
  exact (State.objWrite_same ..).trans (State.newHbm_same hu)

@[simp] theorem State.sealObj_same (key : Nat) (b : Bytes) : (s.sealObj key b).Same s := by
  unfold State.sealObj
  split <;> simp

@[simp] theorem State.countPartial_same (w : Work) : (s.countPartial w).Same s := by
  simp [State.countPartial]

@[simp] theorem State.finishSeal_same (id : Nat) (w : Work) (key : Nat) : (s.finishSeal id w key).Same s := by
  dsimp only [State.finishSeal, State.fresh]
  repeat' split
  all_goals simp

@[simp] theorem State.moved_same (rid : Nat) : (s.moved rid).Same s := by
  unfold State.moved
  split <;> simp

@[simp] theorem State.advance_same (t n : Nat) : (s.advance t n).Same s := by
  dsimp only [State.advance, State.fresh]
  repeat' split
  all_goals simp

@[simp] theorem State.runFault_same (x : Site) (st : Status) : (s.runFault x st).Same s := by
  simp [State.runFault]

@[simp] theorem State.runParity_same (x : Site) : (s.runParity x).Same s := by
  simp [State.runParity]

@[simp] theorem State.runStop_same (x : Site) (e : Status × Scope) : (s.runStop x e).Same s := by
  unfold State.runStop
  split <;> simp

variable {s} in
theorem State.readPort_same {t port n : Nat} {x : Site} {bs : List Beat} {u : State} (h : s.readPort t port n x = some (bs, u)) : u.Same s := by
  unfold State.readPort at h
  repeat' split at h
  all_goals simp only [Option.some.injEq, Prod.mk.injEq, reduceCtorEq] at h
  all_goals rw [← h.2]; simp

variable {s} in
theorem State.sendPort_same {t port : Nat} {x : Site} {bs : List Beat} {u : State} (h : s.sendPort t port x bs = some u) : u.Same s := by
  unfold State.sendPort at h
  dsimp only at h
  repeat' split at h
  all_goals simp only [Option.some.injEq, reduceCtorEq] at h
  all_goals rw [← h]; simp

@[simp] theorem State.crossBridge_same (src dst : Nat) : (s.crossBridge src dst).Same s := by
  dsimp only [State.crossBridge, State.fresh]
  repeat' split
  all_goals simp

@[simp] theorem State.tileDone_same (rid t : Nat) : (s.tileDone rid t).Same s := by
  dsimp only [State.tileDone, State.fresh]
  repeat' split
  all_goals simp

end
end Sys2Proof.Machine
end

section
/-! ### What they leave of queue, time and life cycle: vector and control instructions, adapters and the matrix unit -/

namespace Sys2Proof.Machine
section
variable (s : State)

@[simp] theorem State.vxStall_same (t : Nat) : (s.vxStall t).Same s := ⟨rfl, rfl, rfl, rfl⟩

@[simp] theorem State.sentBy_same (t port : Nat) : (s.sentBy t port).Same s := ⟨rfl, rfl, rfl, rfl⟩

@[simp] theorem State.done1_same (t : Nat) (tl : Tile) : (s.done1 t tl).Same s := by
  simp [State.done1]

variable {s} in
theorem State.tileRead_same {t : Nat} {x : Site} {r : SlotRange} {a : Option Nat} {u : State} (h : s.tileRead t x r = .ok (a, u)) : u.Same s := by
  unfold State.tileRead at h
  repeat' split at h
  all_goals simp only [Except.ok.injEq, Prod.mk.injEq, reduceCtorEq] at h
  all_goals rw [← h.2]; simp

theorem State.tileReads_same {s : State} {t : Nat} {x : Site} {rs : List SlotRange} {l : List Nat} {u : State} (h : s.tileReads t x rs = .ok (l, u)) : u.Same s := by
  induction rs generalizing s l u with
  | nil =>
    simp only [State.tileReads, Except.ok.injEq, Prod.mk.injEq] at h
    rw [← h.2]; simp
  | cons r rs ih =>
    unfold State.tileReads at h
    split at h
    · exact absurd h (by simp)
    next hread =>
      split at h
      · exact absurd h (by simp)
      next hreads =>
        simp only [Except.ok.injEq, Prod.mk.injEq] at h
        rw [← h.2]
        exact (ih hreads).trans (State.tileRead_same hread)

variable {s} in
theorem State.tileWrite_same {t : Nat} {x : Site} {slot off : Nat} {data : Bytes} {u : State} (h : s.tileWrite t x slot off data = .ok u) : u.Same s := by
  unfold State.tileWrite at h
  repeat' split at h
  all_goals simp only [Except.ok.injEq, reduceCtorEq] at h
  all_goals rw [← h]; simp

@[simp] theorem State.await_same (t : Nat) (accs : List Nat) (a : After) : (s.await t accs a).Same s := ⟨rfl, rfl, rfl, rfl⟩

@[simp] theorem State.collect_same (t port n : Nat) (x : Site) (fuel : Nat) : (s.collect t port n x fuel).Same s := by
  induction fuel generalizing s with
  | zero => simp [State.collect]
  | succ k ih =>
    dsimp only [State.collect]
    repeat' split
    · simp
    · simp
    next h => exact (ih _).trans (by simpa using State.readPort_same h)

variable {s} in
theorem State.newAdapterObj_same {p k n i : Nat} {t : State} (h : s.newAdapterObj p k n = some (i, t)) : t.Same s := by
  simp only [State.newAdapterObj, Option.ite_none_left_eq_some, Option.map_eq_some_iff, Prod.mk.injEq] at h
  obtain ⟨-, u, hu, -, rfl⟩ := h
  simpa using State.newFlash_same hu

@[simp] theorem State.publishRead_same (id : Nat) (w : Work) (key k : Nat) : (s.publishRead id w key k).Same s := by
  dsimp only [State.publishRead]
  repeat' split
  all_goals simp
  next h =>
    refine (foldl_same _ _ fun s i => ?_).trans (by simpa using State.newAdapterObj_same h)
    split <;> simp

@[simp] theorem State.publishWritten_same (id : Nat) (w : Work) (key k nk : Nat) : (s.publishWritten id w key k nk).Same s := by
  dsimp only [State.publishWritten, State.fresh]
  repeat' split
  all_goals simp

theorem State.makeRoom_same {s : State} {p n freed fuel : Nat} {t : State} (h : s.makeRoom p n freed fuel = some t) : t.Same s := by
  induction fuel generalizing s freed with
  | zero =>
    simp only [State.makeRoom, Option.ite_none_right_eq_some, Option.some.injEq] at h
    rw [← h.2]; simp
  | succ k ih =>
    dsimp only [State.makeRoom] at h
    repeat' split at h
    · rw [← Option.some.inj h]; simp
    · exact absurd h (by simp)
    · exact (ih h).trans (by simp)

@[simp] theorem State.startLoad_same (i : Nat) : (s.startLoad i).Same s := by
  dsimp only [State.startLoad]
  repeat' split
  all_goals simp
  all_goals exact State.newHbm_same (by assumption)

@[simp] theorem State.startLoads_same : s.startLoads.Same s := by
  simp [State.startLoads]

@[simp] theorem State.pinRefused_same (qk sub : Nat) (st : Status) : (s.pinRefused qk sub st).Same s := by
  simp [State.pinRefused]

variable {s} in
theorem State.withReg_same {p c qk sub slot : Nat} {f : RegEntry → State} (hf : ∀ r, (f r).Same s) : (s.withReg p c qk sub slot f).Same s := by
  unfold State.withReg
  repeat' split
  all_goals simp [hf]

@[simp] theorem State.pinServe_same (p c qk sub slot : Nat) : (s.pinServe p c qk sub slot).Same s := by
  refine State.withReg_same fun r => ?_
  dsimp only
  repeat' split
  all_goals simp
  all_goals exact State.makeRoom_same (by assumption)

@[simp] theorem State.trainAgain_same (c qk sub slot : Nat) : (s.trainAgain c qk sub slot).Same s := by
  dsimp only [State.trainAgain, State.fresh]
  repeat' split
  all_goals simp

@[simp] theorem State.trainRead_same (id : Nat) (w : Work) (key : Nat) (handle : U32) : (s.trainRead id w key handle).Same s := by
  dsimp only [State.trainRead]
  repeat' split
  all_goals simp
  next h => exact (State.makeRoom_same h).trans (by simp)

@[simp] theorem State.pinTrain_same (p c t qk : Nat) (e : Entry) (handle : U32) : (s.pinTrain p c t qk e handle).Same s := by
  dsimp only [State.pinTrain, State.fresh]
  repeat' split
  all_goals simp

@[simp] theorem State.freeFrame_same (f : Nat) : (s.freeFrame f).Same s := ⟨rfl, rfl, rfl, rfl⟩

@[simp] theorem State.revokeAdapters_same (k : Nat) : (s.revokeAdapters k).Same s := by
  refine foldl_same _ _ fun s a => ?_
  dsimp only [State.fresh]
  repeat' split
  all_goals simp

@[simp] theorem mapReg_same (f : RegEntry → RegEntry) : (mapReg s f).Same s := ⟨rfl, rfl, rfl, rfl⟩

@[simp] theorem State.headersRead_same (id : Nat) (w : Work) (model : Nat) (ads : List (Nat × Nat)) : (s.headersRead id w model ads).Same s := by
  dsimp only [State.headersRead]
  repeat' split
  · simp
  · simp
  · refine (State.complete_same ..).trans ((foldl_same _ _ fun s x => ?_).trans (by simp))
    repeat' split
    all_goals simp
  · simp
  · simp

@[simp] theorem State.reportRead_same (id : Nat) (w : Work) (slot : Nat) : (s.reportRead id w slot).Same s := by
  dsimp only [State.reportRead, State.fresh]
  repeat' split
  all_goals simp

variable {s} in
theorem State.takeRow_same {t : Nat} {x : Site} {port : Nat} {f : Fmt} {n : Nat} {r : XRow} {u : State} (h : s.takeRow t x port f n = some (r, u)) : u.Same s := by
  simp only [State.takeRow, Option.ite_none_left_eq_some, Option.some.injEq, Prod.mk.injEq] at h
  obtain ⟨-, -, rfl⟩ := h
  simp

@[simp] theorem State.takeRows_same (t : Nat) (x : Site) (fuel n : Nat) : (s.takeRows t x fuel n).Same s := by
  induction fuel generalizing s with
  | zero => simp [State.takeRows]
  | succ k ih =>
    unfold State.takeRows
    dsimp only
    repeat' split
    all_goals simp [ih]

@[simp] theorem State.collectCarry_same (t port n : Nat) (x : Site) (fuel : Nat) : (s.collectCarry t port n x fuel).Same s := by
  induction fuel generalizing s with
  | zero => simp [State.collectCarry]
  | succ k ih =>
    dsimp only [State.collectCarry]
    repeat' split
    · simp
    · simp
    next h => exact (ih _).trans (by simpa using State.readPort_same h)

@[simp] theorem State.takeCarry_same (t : Nat) (x : Site) (fuel n : Nat) : (s.takeCarry t x fuel n).Same s := by
  induction fuel generalizing s with
  | zero => simp [State.takeCarry]
  | succ k ih =>
    unfold State.takeCarry
    dsimp only
    repeat' split
    all_goals simp [ih]

variable {s} in
theorem State.emitRows_same {t : Nat} {x : Site} {o : MxuOp} {rows : List XRow} {u : State} (h : s.emitRows t x o rows = some u) : u.Same s := by
  simp only [State.emitRows, Option.map_eq_some_iff] at h
  obtain ⟨v, hv, rfl⟩ := h
  simpa using State.sendPort_same hv

end
end Sys2Proof.Machine
end

section
/-! ### What they leave of queue, time and life cycle: tickets, collectives, updates and runs -/

namespace Sys2Proof.Machine
section
variable (s : State)

variable {s} in
theorem State.readAt_same {t : Nat} {x : Site} {held : Bool} {r : Option (Nat × Nat × Nat)} {l : List Nat} {u : State} (h : s.readAt t x held r = .ok (l, u)) :
    u.Same s := by
  unfold State.readAt at h
  repeat' split at h
  all_goals simp only [Except.ok.injEq, Prod.mk.injEq, reduceCtorEq] at h
  all_goals rw [← h.2]; simp

@[simp] theorem State.rangeOr_same (r : Option (Nat × Nat × Nat)) (n : Nat) : (s.rangeOr r n).2.Same s := by
  unfold State.rangeOr
  split <;> simp

@[simp] theorem State.startMxu_same (t : Nat) (x : Site) (a : MxuArgs) (g : Option Nat) : (s.startMxu t x a g).Same s := by
  unfold State.startMxu
  extract_lets tl
  split
  next d xd _ _ =>
    split
    · simp
    next w _ =>
      extract_lets f
      split
      next we s1 h1 =>
      split
      next ws s2 h2 =>
      split
      next wm s3 h3 =>
      have hs1 : s1.Same s := snd_same h1 (State.rangeOr_same ..)
      have hs2 : s2.Same s1 := by
        split at h2
        · exact snd_same h2 (State.rangeOr_same ..)
        · exact snd_same h2 (by simp)
      have hs3 : s3.Same s2 := by
        split at h3
        · exact snd_same h3 (by simp)
        · exact snd_same h3 (State.rangeOr_same ..)
      refine State.Same.trans ?_ (hs3.trans (hs2.trans hs1))
      extract_lets
      split
      · simp
      split
      · simp
      split
      · simp
      · split <;> simp +zetaDelta
  · simp

@[simp] theorem State.storeRestored_same (t : Nat) (x : Site) (o : MxuOp) (rowTile : Nat) (rows : List XRow) : (s.storeRestored t x o rowTile rows).Same s := by
  dsimp only [State.storeRestored, State.fresh]
  repeat' split
  all_goals simp

variable {s} in
theorem State.deliver_same {t : Nat} {x : Site} {o : MxuOp} {rowTile : Nat} {rows : List XRow} {u : State} (h : s.deliver t x o rowTile rows = some u) : u.Same s := by
  dsimp only [State.deliver] at h
  repeat' split at h
  · rw [← Option.some.inj h]; simp
  · rw [← Option.some.inj h]; simp
  · exact State.emitRows_same h

@[simp] theorem State.attachTo_same (t port : Nat) (x : Site) (l : List (Nat × Nat)) : (s.attachTo t port x l).Same s := ⟨rfl, rfl, rfl, rfl⟩

@[simp] theorem State.ledgerTickets_same (run : Run) (b : Bytes) : (s.ledgerTickets run b).Same s := ⟨rfl, rfl, rfl, rfl⟩

variable {s} in
theorem State.windowRow_same {t port : Nat} {x : Site} {u : State} (h : s.windowRow t port x = some u) : u.Same s := by
  simp only [State.windowRow, Option.ite_none_left_eq_some, Option.some.injEq] at h
  obtain ⟨-, rfl⟩ := h
  simp

@[simp] theorem State.fillWindow_same (t port n : Nat) (x : Site) (fuel : Nat) : (s.fillWindow t port n x fuel).Same s := by
  induction fuel generalizing s with
  | zero => simp [State.fillWindow]
  | succ k ih =>
    dsimp only [State.fillWindow]
    repeat' split
    · simp
    next h => exact (ih _).trans (State.windowRow_same h)
    · simp
    · simp

@[simp] theorem State.noteWindow_same (x : Site) (plan : Nat) (l : List (Nat × Nat)) : (s.noteWindow x plan l).Same s := by
  unfold State.noteWindow
  split <;> simp

variable {s} in
theorem State.emitWindow_same {t : Nat} {x : Site} {b : Bytes} {inp outp plan : Nat} {voided : Nat → Bool} {u : State}
    (h : s.emitWindow t x b inp outp plan voided = some u) : u.Same s := by
  dsimp only [State.emitWindow] at h
  split at h
  · exact absurd h (by simp)
  next hplan =>
    split at h
    · exact absurd h (by simp)
    next hout =>
      rw [← Option.some.inj h]
      have hrows := State.sendPort_same hplan
      split at hout
      · rw [← Option.some.inj hout]
        simpa using hrows
      · have hsent := State.sendPort_same hout
        simp at hrows hsent ⊢
        simp [hrows, hsent]

@[simp] theorem State.judgeWindow_same (t : Nat) (voided : List Bool) : (s.judgeWindow t voided).Same s := ⟨rfl, rfl, rfl, rfl⟩

@[simp] theorem State.sendAll_same (kind sender dest : Nat) (ms : List GroupMsg) : (s.sendAll kind sender dest ms).Same s := by
  simp [State.sendAll]

@[simp] theorem State.sendDown_same (gi : Nat) (c : Coll) (t : Nat) (codes : List Nat) : (s.sendDown gi c t codes).Same s := by
  simp [State.sendDown]

@[simp] theorem State.setColl_same (gi i : Nat) (c : Coll) : (s.setColl gi i c).Same s := ⟨rfl, rfl, rfl, rfl⟩

@[simp] theorem State.collParity_same (c : Coll) : (s.collParity c).Same s := by
  unfold State.collParity
  split <;> simp

@[simp] theorem State.climb_same (gi i t : Nat) : (s.climb gi i t).Same s := by
  dsimp only [State.climb, State.fresh]
  repeat' split
  all_goals simp

@[simp] theorem State.descend_same (gi i t : Nat) : (s.descend gi i t).Same s := by
  dsimp only [State.descend, State.fresh]
  repeat' split
  all_goals simp

@[simp] theorem State.gatherOwn_same (gi i : Nat) : (s.gatherOwn gi i).Same s := by
  dsimp only [State.gatherOwn, State.fresh]
  repeat' split
  all_goals simp

@[simp] theorem State.progress_same (gi : Nat) : (s.progress gi).Same s := by
  simp [State.progress]

@[simp] theorem State.openColl_same (gi : Nat) (c : Coll) : (s.openColl gi c).Same s := by
  dsimp only [State.openColl, State.fresh]
  repeat' split
  all_goals simp

@[simp] theorem State.closeColl_same (gi : Nat) (c : Coll) : (s.closeColl gi c).Same s := ⟨rfl, rfl, rfl, rfl⟩

@[simp] theorem State.setDisp_same (gi : Nat) (d : Disp) : (s.setDisp gi d).Same s := ⟨rfl, rfl, rfl, rfl⟩

@[simp] theorem State.absorb_same (gi : Nat) (d : Disp) : (s.absorb gi d).Same s := by
  simp [State.absorb]

@[simp] theorem State.sendRows_same (gi kind op me : Nat) (d : Disp) (rowsFor : Nat → List Bytes) : (s.sendRows gi kind op me d rowsFor).Same s := by
  simp [State.sendRows]

variable {s} in
theorem State.withBytes_same {qk sub c key off len : Nat} {f : Bytes → State → State} (hf : ∀ b s, (f b s).Same s) : (s.withBytes qk sub c key off len f).Same s := by
  unfold State.withBytes
  repeat' split
  all_goals simp [hf]

@[simp] theorem State.dropSet_same (k : Nat) : (s.dropSet k).Same s := by
  simp [State.dropSet]

@[simp] theorem State.seedUnits_same (rid : Nat) (r : Run) : (s.seedUnits rid r).Same s := by
  simp [State.seedUnits]

@[simp] theorem State.openAttempt_same (k : Nat) (u : USet) (rid : Nat) (r : Run) : (s.openAttempt k u rid r).Same s := by
  unfold State.openAttempt
  extract_lets hyp u u s1 s2 p l cur
  have hs2 : s2.Same s := by simp [s2, s1]
  split
  · simpa using hs2
  · exact hs2

@[simp] theorem State.openCommons_same (gi me k : Nat) : (s.openCommons gi me k).Same s := by
  dsimp only [State.openCommons]
  repeat' split
  · simp
  · simp
  · simp
  · refine foldl_same _ _ fun s e => ?_
    split <;> simp

@[simp] theorem State.halfWrite_same (key h off : Nat) (data : Bytes) : (s.halfWrite key h off data).Same s := by
  unfold State.halfWrite
  split <;> simp

@[simp] theorem State.unitDraws_same (rid u w n : Nat) : (s.unitDraws rid u w n).2.Same s := by simp [State.unitDraws]

@[simp] theorem State.applyBlock_same (k di : Nat) (d : Desc) (r : Recipe) (row b : Nat) (gOf : Nat → Nat) : (s.applyBlock k di d r row b gOf).1.Same s := by
  unfold State.applyBlock
  split
  · simp
  next u _ =>
    extract_lets p0 o n ts un mb wr
    have hwr (off : Nat) (bs : Bytes) (s : State) : (wr off bs s).Same s := by
      dsimp only [wr]
      split <;> simp
    clear_value wr
    split
    next ds t hdraws =>
      have ht : t.Same s := by
        split at hdraws
        · exact snd_same hdraws (State.unitDraws_same ..)
        · exact snd_same hdraws (by simp)
      simp at hwr ht
      simp [hwr, ht]

@[simp] theorem State.applyRange_same (k di : Nat) (d : Desc) (r : Recipe) (gOf : Nat → Nat) (l : List (Nat × Nat)) : (s.applyRange k di d r gOf l).1.Same s := by
  induction l generalizing s with
  | nil => simp [State.applyRange]
  | cons e l ih =>
    dsimp only [State.applyRange]
    repeat' split
    · simp
    · exact (ih _).trans (State.applyBlock_same ..)
    · simp
    · simp

variable {s} in
theorem State.fetchState_same {k di first : Nat} {gs : List Nat} {u : State} (h : s.fetchState k di first gs = some u) : u.Same s := by
  unfold State.fetchState at h
  split at h
  · exact absurd h (by simp)
  · rw [← Option.some.inj h]; simp
  · dsimp only at h
    split at h
    · exact absurd h (by simp)
    · split at h
      all_goals
        rw [← Option.some.inj h]
        simp

@[simp] theorem State.fetched_same (k id : Nat) : (s.fetched k id).Same s := by
  unfold State.fetched
  split <;> simp

@[simp] theorem State.fetchDone_same (k : Nat) : (s.fetchDone k).Same s := by
  unfold State.fetchDone
  split <;> simp

@[simp] theorem State.issueUnitWrites_same (k : Nat) (l : List (Nat × Nat × Nat)) : (s.issueUnitWrites k l).Same s := by
  unfold State.issueUnitWrites
  split
  next ids t hwrites =>
    have ht : t.Same s := snd_same hwrites (foldl_snd_same _ _ fun a x => a.2.addAcc_same _)
    split
    all_goals simpa using ht

@[simp] theorem State.unitWritten_same (k id : Nat) : (s.unitWritten k id).Same s := by
  unfold State.unitWritten
  split <;> simp

@[simp] theorem State.unitFault_same (k : Nat) (st : Status) (sc : Scope) : (s.unitFault k st sc).Same s := by
  unfold State.unitFault
  split <;> simp

@[simp] theorem State.shardDone_same (gi i t : Nat) : (s.shardDone gi i t).Same s := by
  dsimp only [State.shardDone, State.fresh]
  repeat' split
  all_goals simp

@[simp] theorem State.ledgerRun_same (p : Nat) (rec : Bytes) (seed : U64) (strict : Bool) : (s.ledgerRun p rec seed strict).2.Same s := by simp [State.ledgerRun]

@[simp] theorem State.disarm_same (p : Nat) : (s.disarm p).Same s := ⟨rfl, rfl, rfl, rfl⟩

@[simp] theorem State.launch_same (rid : Nat) (r : Run) (x : ImgSlot) (im : Image) (seed : U64) : (s.launch rid r x im seed).Same s := by
  simp [State.launch, State.fresh, State.ledgerRun]

end
end Sys2Proof.Machine
end

section
/-! ### What they leave of queue, time and life cycle: answers of memory, contexts, the Carousel, snapshots, the troupe and restores -/

namespace Sys2Proof.Machine
section
variable (s : State)

@[simp] theorem State.dropAcc_same (id : Nat) : (s.dropAcc id).Same s := by
  dsimp only [State.dropAcc, State.fresh]
  repeat' split
  all_goals simp

@[simp] theorem State.setAcc_same (id : Nat) (a : Access) : (s.setAcc id a).Same s := ⟨rfl, rfl, rfl, rfl⟩

@[simp] theorem State.unwait_same (t id : Nat) : (s.unwait t id).Same s := by
  dsimp only [State.unwait, State.fresh]
  repeat' split
  all_goals simp

@[simp] theorem State.settleWork_same (id : Nat) : (s.settleWork id).Same s := by
  dsimp only [State.settleWork, State.fresh]
  repeat' split
  all_goals simp

@[simp] theorem State.tileAcc_same (t id : Nat) (a : Access) : (s.tileAcc t id a).Same s := by
  simp [State.tileAcc]

@[simp] theorem State.accData_same (id : Nat) (a : Access) : (s.accData id a).Same s := by
  dsimp only [State.accData, State.fresh]
  repeat' split
  all_goals simp

@[simp] theorem State.accWritten_same (id : Nat) (a : Access) : (s.accWritten id a).Same s := by
  dsimp only [State.accWritten, State.fresh]
  repeat' split
  all_goals simp

@[simp] theorem State.accFail_same (id : Nat) (a : Access) (st : Status) : (s.accFail id a st).Same s := by
  dsimp only [State.accFail, State.fresh]
  repeat' split
  all_goals simp

@[simp] theorem State.accRefused_same (id : Nat) (a : Access) (st : Status) (sc : Scope) : (s.accRefused id a st sc).Same s := by
  dsimp only [State.accRefused, State.fresh]
  repeat' split
  all_goals simp

@[simp] theorem State.nodeFails_same (h n : Nat) : (s.nodeFails h n).Same s := by
  simp [State.nodeFails]

@[simp] theorem State.settleMeta_same (ls : List Nat) : (s.settleMeta ls).Same s := by
  simp [State.settleMeta]

@[simp] theorem State.useMeta_same (p : Option Nat) (ls : List Nat) : (s.useMeta p ls).Same s := by
  simp [State.useMeta]

@[simp] theorem State.tagsFail_same (p : Option Nat) (l : List Nat) : (s.tagsFail p l).Same s := by
  simp [State.tagsFail]

@[simp] theorem State.retryAcc_same (id : Nat) (a : Access) : (s.retryAcc id a).Same s := by
  unfold State.retryAcc
  split <;> simp

@[simp] theorem State.channelLate_same (c : Nat) : (s.channelLate c).Same s := by
  simp [State.channelLate]

@[simp] theorem State.channelOk_same (c : Nat) : (s.channelOk c).Same s := ⟨rfl, rfl, rfl, rfl⟩

@[simp] theorem State.putRow_same (acc : Nat) (a : Access) (i : Nat) (r : RowRead) : (s.putRow acc a i r).Same s := by
  dsimp only [State.putRow, State.fresh]
  repeat' split
  all_goals simp

@[simp] theorem State.partLate_same (acc : Nat) (a : Access) (part : Nat) (r : RowRead) : (s.partLate acc a part r).Same s := by
  simp [State.partLate]

@[simp] theorem State.moveFrame_same (src dst : Nat) : (s.moveFrame src dst).Same s := by
  dsimp only [State.moveFrame, State.fresh]
  repeat' split
  all_goals simp

@[simp] theorem State.writeFrame_same (part : Option Nat) (f : Nat) (data : Bytes) : (s.writeFrame part f data).Same s := by
  simp [State.writeFrame]

theorem State.same_of_shroud (x : Shroud) : State.Same { s with shroud := x } s := ⟨rfl, rfl, rfl, rfl⟩

@[simp] theorem State.restorePage_same (key i f : Nat) (catcher : List Nat) (cached : Option (List Nat)) : (s.restorePage key i f catcher cached).2.Same s := by
  unfold State.restorePage
  split
  · simp
  · dsimp only
    split
    · exact State.writeFrame_same ..
    · split
      · exact State.writeFrame_same ..
      · exact (State.same_of_shroud _ _).trans (foldl_same _ _ fun s l => s.touchLines_same ..)
      · exact (State.same_of_shroud _ _).trans (State.writeFrame_same ..)

@[simp] theorem State.loseOwner_same (key : Nat) : (s.loseOwner key).Same s := by
  dsimp only [State.loseOwner, State.fresh]
  repeat' split
  all_goals simp

variable {s} in
theorem State.newRing_same {f : Nat} {p : Option Nat} {bytes k b : Nat} {t : State} (h : s.newRing f p bytes = some (k, b, t)) : t.Same s := by
  simp only [State.newRing, Option.ite_none_left_eq_some, Option.map_eq_some_iff, Prod.mk.injEq] at h
  obtain ⟨-, u, hu, -, -, rfl⟩ := h
  simpa using State.newHbm_same hu

@[simp] theorem State.dropRing_same (f ring : Nat) : (s.dropRing f ring).Same s := by
  simp [State.dropRing]

@[simp] theorem State.makeAdmin_same (f : Nat) : (s.makeAdmin f).Same s := by
  rw [State.makeAdmin]
  split
  · simp
  next h => exact (State.newRing_same h).trans (by simp)

/-- Goes by the step function of the recursion: in the equation for one more unit of fuel the kernel would evaluate `readEntry`, too deep for it. -/
@[simp] theorem State.skipReady_same (qk : Nat) (st : Status) (sc : Scope) (fuel : Nat) : (s.skipReady qk st sc fuel).Same s := by
  delta State.skipReady
  refine brecOn_same (F := State.skipReady._f qk st sc) (fun _ _ => by simp [State.skipReady._f]) (fun n b s hb => ?_) fuel s
  delta State.skipReady._f
  dsimp -zeta only
  split
  · simp
  · split
    · simp
    · split
      · simp
      · extract_lets full t
        refine (hb _).trans ?_
        dsimp only [t]
        split <;> simp

@[simp] theorem State.abortQueue_same (qk : Nat) (st : Status) (sc : Scope) : (s.abortQueue qk st sc).Same s := by
  dsimp only [State.abortQueue, State.fresh]
  repeat' split
  all_goals simp

@[simp] theorem State.dropQueue_same (k : Nat) : (s.dropQueue k).Same s := by
  unfold State.dropQueue
  split <;> simp

@[simp] theorem State.destroyCtx_same (c : Nat) : (s.destroyCtx c).Same s := by
  dsimp only [State.destroyCtx, State.fresh]
  repeat' split
  all_goals simp

@[simp] theorem State.abortLoads_same (p : Nat) : (s.abortLoads p).Same s := by
  refine foldl_same _ _ fun s a => ?_
  split <;> simp

@[simp] theorem State.abortPartition_same (p : Nat) (st : Status) : (s.abortPartition p st).Same s := by
  simp [State.abortPartition]

@[simp] theorem State.setSweep_same (n : Nat) (x : Sweep) : (s.setSweep n x).Same s := ⟨rfl, rfl, rfl, rfl⟩

@[simp] theorem State.endRekey_same (x : Sweep) (st : Status) : (s.endRekey x st).Same s := by
  dsimp only [State.endRekey, State.fresh]
  repeat' split
  all_goals simp

@[simp] theorem State.freeSwept_same (l : List Nat) : (s.freeSwept l).Same s := by
  simp [State.freeSwept]

@[simp] theorem State.dropSweep_same (n : Nat) : (s.dropSweep n).Same s := ⟨rfl, rfl, rfl, rfl⟩

@[simp] theorem State.finishSweep_same (n : Nat) (x : Sweep) : (s.finishSweep n x).Same s := by
  simp [State.finishSweep]

@[simp] theorem State.onward_same (n : Nat) (x : Sweep) : (s.onward n x).Same s := by
  dsimp only [State.onward, State.fresh]
  repeat' split
  all_goals simp

@[simp] theorem State.pauseSweep_same (n : Nat) (x : Sweep) (st : Status) : (s.pauseSweep n x st).Same s := by
  simp [State.pauseSweep]

@[simp] theorem State.endSweep_same (k : Nat) : (s.endSweep k).Same s := by
  unfold State.endSweep
  split <;> simp

@[simp] theorem State.unlock_same : s.unlock.Same s := ⟨rfl, rfl, rfl, rfl⟩

@[simp] theorem State.lockNext_same (n : Nat) : (s.lockNext n).Same s := by
  dsimp only [State.lockNext, State.fresh]
  repeat' split
  all_goals simp

@[simp] theorem State.countLock_same (b since : Nat) : (s.countLock b since).Same s := by
  simp [State.countLock]

@[simp] theorem State.sweepBlock_same (n : Nat) (x : Sweep) (b : Nat) (badLines : List Nat) : (s.sweepBlock n x b badLines).Same s := by
  simp [State.sweepBlock]

@[simp] theorem State.sweptPage_same (n : Nat) (x : Sweep) (o : Obj) : (s.sweptPage n x o).Same s := by
  dsimp only [State.sweptPage, State.fresh]
  repeat' split
  all_goals simp

@[simp] theorem State.sweepPage_same (n : Nat) (x : Sweep) (o : Obj) (dst : Nat) : (s.sweepPage n x o dst).Same s := by
  simp [State.sweepPage]

@[simp] theorem State.drawMajor_same (x : Sweep) (o : Obj) : (s.drawMajor x o).Same s := by
  simp [State.drawMajor]

@[simp] theorem State.setPreg_same (p off v : Nat) : (s.setPreg p off v).Same s := ⟨rfl, rfl, rfl, rfl⟩

@[simp] theorem State.protect_same (l : List (Nat × Nat)) : (s.protect l).Same s := by
  refine foldl_same _ _ fun s a => ?_
  split <;> simp

@[simp] theorem State.startSnap_same (p : Nat) (cmd : Option (Nat × Nat)) (at_ : Option (Nat × Nat)) : (s.startSnap p cmd at_).Same s := by
  simp [State.startSnap]

@[simp] theorem State.autoSnap_same (k epoch : Nat) : (s.autoSnap k epoch).Same s := by
  simp [State.autoSnap]

@[simp] theorem State.freeSnap_same (l : List Nat) : (s.freeSnap l).Same s := by
  simp [State.freeSnap]

@[simp] theorem State.snapEnded_same (p : Nat) (x : Snap) (st : Status) : (s.snapEnded p x st).Same s := by
  unfold State.snapEnded
  split <;> simp

@[simp] theorem State.failSnap_same (p : Nat) (x : Snap) (st : Status) : (s.failSnap p x st).Same s := by
  unfold State.failSnap
  extract_lets n s1 s2 own s3
  have hs2 : s2.Same s1 := by
    refine foldl_same _ _ fun s e => ?_
    repeat' split
    all_goals simp
  have hs3 : s3.Same s2 := by
    refine foldl_same _ _ fun s y => ?_
    split <;> simp
  have h : s3.Same s := hs3.trans (hs2.trans (by simp [s1]))
  simpa using h

@[simp] theorem State.snapCopyPage_same (p : Nat) (x : Snap) (e : Nat × Nat) (o : Obj) (f : Nat) : (s.snapCopyPage p x e o f).Same s := ⟨rfl, rfl, rfl, rfl⟩

@[simp] theorem State.snapFailed_same (p : Nat) (x : Snap) (y : Pte) (st : Status) : (s.snapFailed p x y st).Same s := by
  unfold State.snapFailed
  split <;> simp

@[simp] theorem State.retain_same (p : Nat) : (s.retain p).Same s := by
  simp [State.retain]

variable {s} in
theorem State.withTable_same {qk sub : Nat} {a : TableArgs} {len : Nat} {f : Bytes → State → State} (hf : ∀ b s, (f b s).Same s) : (s.withTable qk sub a len f).Same s := by
  dsimp only [State.withTable]
  repeat' split
  all_goals simp [hf]

@[simp] theorem State.installTroupe_same (b : Bytes) : (s.installTroupe b).Same s := ⟨rfl, rfl, rfl, rfl⟩

@[simp] theorem State.installGroup_same (b : Bytes) : (s.installGroup b).Same s := by
  simp [State.installGroup]

variable {s} in
theorem State.tryJoin_same {p gi m gen owner : Nat} {digest : Bytes} {t : State} (h : s.tryJoin p gi m gen owner digest = .ok t) : t.Same s := by
  unfold State.tryJoin at h
  dsimp only at h
  repeat' split at h
  all_goals simp only [Except.ok.injEq, reduceCtorEq] at h
  rw [← h]
  simp

@[simp] theorem State.leaveGroups_same (p : Nat) : (s.leaveGroups p).Same s := by
  refine foldl_same _ _ fun s a => ?_
  split <;> simp

@[simp] theorem State.setRestore_same (p st code : Nat) : (s.setRestore p st code).Same s := ⟨rfl, rfl, rfl, rfl⟩

@[simp] theorem State.fillSlot_same (p ts : Nat) (e : Nat × KeySlot) : (s.fillSlot p ts e).Same s := by
  simp [State.fillSlot]

@[simp] theorem State.restorePages_same (x : Snap) (old new : Nat) (refused : Bool) : (s.restorePages x old new refused).Same s := by
  refine foldl_same _ _ fun s y => ?_
  split
  · simp
  · refine foldl_same _ _ fun s i => ?_
    dsimp only
    repeat' split
    all_goals simp

@[simp] theorem State.restoreObj_same (p c : Nat) (x : Snap) (e : Nat × Obj) : (s.restoreObj p c x e).2.Same s := by
  unfold State.restoreObj
  split
  next i g _ =>
    extract_lets n o room
    split
    · simp
    · split
      · simp
      next t h =>
        have ht : t.Same s := by
          split at h
          · exact State.newHbm_same h
          · exact State.newFlash_same h
        dsimp only
        split
        · split <;> simpa using ht
        · simpa using ht

@[simp] theorem State.restoreEvent_same (c : Nat) (e : Nat × Event) : (s.restoreEvent c e).2.Same s := by
  unfold State.restoreEvent
  split <;> simp

@[simp] theorem State.restoreSet_same (c : Nat) (m : KeyMap) (e : Nat × USet) : ((s.restoreSet c m e).getD s).Same s := by
  dsimp only [State.restoreSet]
  repeat' split
  · simp
  · refine (foldl_same _ _ fun s i => ?_).trans (by simp)
    split <;> simp
  · simp

@[simp] theorem State.restoreReg_same (p : Nat) (m : KeyMap) (e : Nat × RegEntry) : (s.restoreReg p m e).Same s := by
  dsimp only [State.restoreReg, State.fresh]
  repeat' split
  all_goals simp

@[simp] theorem State.restorePin_same (p c : Nat) (e : Nat × Nat) : (s.restorePin p c e).Same s := by
  dsimp only [State.restorePin]
  split
  · simp
  · split
    · simp
    · split
      · split <;> simp
      · split
        · simp
        next h => 
          have ht := State.makeRoom_same h
          split <;> simpa using ht

variable {s} in
theorem State.restoreImage_same {p c : Nat} {x : Snap} {e : Nat × ImgSlot} {t : State} (h : s.restoreImage p c x e = some t) : t.Same s := by
  dsimp only [State.restoreImage] at h
  repeat' split at h
  all_goals simp only [Option.some.injEq, reduceCtorEq] at h
  · rw [← h]; simp
  · rw [← h]; simp
  next hkeep =>
    rw [← h]
    simpa using State.keepBody_same hkeep

variable {s} in
theorem State.restoreGroup_same {p : Nat} {e : Member} {t : State} (h : s.restoreGroup p e = .ok t) : t.Same s := by
  unfold State.restoreGroup State.fresh at h
  dsimp -zeta only at h
  extract_lets g alike seqs at h
  split at h
  · rw [← Except.ok.inj h]; simp
  · split at h
    next hjoin =>
      rw [← Except.ok.inj h]
      simpa using State.tryJoin_same hjoin
    · exact absurd h (by simp)

@[simp] theorem State.applyRestore_same (p c : Nat) (x : Snap) (media : Bool) : (s.applyRestore p c x media).2.Same s := by
  unfold State.applyRestore
  extract_lets v refused s1
  have h1 : s1.Same s := by simp [s1]
  clear_value s1
  split
  · exact h1
  split
  next m s2 hm =>
  have h2 : s2.Same s := (snd_same hm (foldl_snd_same _ _ fun a e => a.2.restoreObj_same ..)).trans h1
  split
  · exact h2
  split
  next em s3 hem =>
  have h3 : s3.Same s := (snd_same hem (foldl_snd_same _ _ fun a e => a.2.restoreEvent_same ..)).trans h2
  split
  · exact h3
  extract_lets s4 s5 s6 s7
  have h7 : s7.Same s := by
    refine State.Same.trans ?_ h3
    simp [s7, s6, s5, s4]
  clear_value s7
  split
  next bad s8 h8' =>
  have h8 : s8.Same s := by
    refine (snd_same h8' (foldl_snd_same _ _ fun a e => ?_)).trans h7
    split
    next h => exact State.restoreImage_same h
    · simp
  split
  · exact h8
  extract_lets s9 l s10 s11 s12
  have h12 : s12.Same s := by
    refine State.Same.trans ?_ h8
    have h9 : s9.Same s8 := by
      dsimp only [s9]
      split <;> simp
    simpa [s12, s11, s10] using h9
  clear_value s12
  split
  next st s13 hst =>
  have h13 : s13.Same s := by
    refine (snd_same hst (foldl_snd_same _ _ fun a e => ?_)).trans h12
    split
    next h => exact State.restoreGroup_same h
    · simp
  split
  · exact h13
  extract_lets
  split
  · exact h13
  · simpa using h13

@[simp] theorem State.armReplay_same (p : Nat) (value : U64) : (s.armReplay p value).Same s := ⟨rfl, rfl, rfl, rfl⟩

end
end Sys2Proof.Machine
end

section
/-! ### What they leave of queue, time and life cycle: digests, closes, arrivals, mirrored records and takeovers -/

namespace Sys2Proof.Machine
section
variable (s : State)

/-- So does a fold that carries something beside the state. -/
theorem foldl_fst_same {α β : Type} {f : State × β → α → State × β} (l : List α) (s : State × β) (h : ∀ s a, (f s a).1.Same s.1) : (l.foldl f s).1.Same s.1 := by
  refine List.foldlRecOn l f (motive := fun t => t.1.Same s.1) ?_ fun t ht a _ => (h t a).trans ht
  simp

@[simp] theorem State.streamWrite_same (u : USet) (h off : Nat) (data : Bytes) : (s.streamWrite u h off data).Same s := by
  refine foldl_fst_same _ _ fun a x => ?_
  simp

@[simp] theorem State.chargePair_same (p : Nat) : (s.chargePair p).Same s := by
  simp [State.chargePair]

@[simp] theorem State.setRound_same (p r : Nat) (x : Round) : (s.setRound p r x).Same s := ⟨rfl, rfl, rfl, rfl⟩

@[simp] theorem State.setDigStatus_same (p : Nat) (div : Bool) (loc : Nat) : (s.setDigStatus p div loc).Same s := ⟨rfl, rfl, rfl, rfl⟩

@[simp] theorem State.endRound_same (p r : Nat) : (s.endRound p r).Same s := by
  dsimp only [State.endRound, State.fresh]
  repeat' split
  all_goals simp

@[simp] theorem State.settleRound_same (p r : Nat) : (s.settleRound p r).Same s := by
  unfold State.settleRound
  split <;> simp

@[simp] theorem State.locate_same (p page line member : Nat) (a b : Bytes) : (s.locate p page line member a b).Same s := by
  simp [State.locate]

@[simp] theorem State.startGroupRound_same (k gi : Nat) (u : USet) : (s.startGroupRound k gi u).Same s := by
  dsimp only [State.startGroupRound, State.fresh]
  repeat' split
  all_goals simp

@[simp] theorem State.startPairRound_same (k : Nat) (u : USet) : (s.startPairRound k u).Same s := by
  simp [State.startPairRound]

@[simp] theorem State.startRounds_same (k : Nat) : (s.startRounds k).Same s := by
  dsimp only [State.startRounds, State.fresh]
  repeat' split
  all_goals simp

@[simp] theorem State.takeResult_same (k gi total : Nat) (ds : List PageDiff) : (s.takeResult k gi total ds).Same s := by
  dsimp only [State.takeResult, State.fresh]
  repeat' split
  all_goals simp

@[simp] theorem State.takeLine_same (k gi me : Nat) (page m : Nat) (b : Bytes) : (s.takeLine k gi me page m b).Same s := by
  dsimp only [State.takeLine, State.fresh]
  repeat' split
  all_goals simp

@[simp] theorem State.digestUp_same (gi : Nat) (m : GroupMsg) : (s.digestUp gi m).Same s := by
  dsimp only [State.digestUp, State.fresh]
  repeat' split
  all_goals simp

@[simp] theorem State.digestDown_same (gi : Nat) (m : GroupMsg) : (s.digestDown gi m).Same s := by
  unfold State.digestDown
  dsimp only
  split
  · simp
  · refine foldl_same _ _ fun s me => ?_
    split <;> simp

@[simp] theorem State.writeBlocks_same (u : USet) (d : Desc) (blocks : List (Nat × Nat)) (data : Bytes) : (s.writeBlocks u d blocks data).Same s := by
  induction blocks generalizing s data with
  | nil => simp [State.writeBlocks]
  | cons b blocks ih =>
    unfold State.writeBlocks
    dsimp only
    refine (ih ..).trans ?_
    repeat' split
    all_goals simp

@[simp] theorem State.takeCopy_same (gi i t : Nat) : (s.takeCopy gi i t).Same s := by
  unfold State.takeCopy
  dsimp only
  repeat' split
  all_goals simp

@[simp] theorem State.takeCopies_same (gi : Nat) : (s.takeCopies gi).Same s := by
  refine foldl_same _ _ fun s mk => foldl_same _ _ fun s t => ?_
  split <;> simp

@[simp] theorem State.copyHalf_same (u : USet) (key off len : Nat) : (s.copyHalf u key off len).Same s := by
  unfold State.copyHalf
  split <;> simp

@[simp] theorem State.carryForward_same (k : Nat) (u : USet) : (s.carryForward k u).Same s := by
  unfold State.carryForward
  split
  extract_lets s1 s2
  have h1 : s1.Same s := by
    refine foldl_same _ _ fun s b => ?_
    split <;> simp
  have h2 : s2.Same s1 := foldl_same _ _ fun s f => s.copyHalf_same ..
  simpa using h2.trans h1

@[simp] theorem State.fetchCarry_same (k : Nat) (u : USet) : (s.fetchCarry k u).2.Same s := by
  refine foldl_snd_same _ _ fun a x => ?_
  simp

@[simp] theorem State.carryNow_same (k : Nat) (u : USet) : (s.carryNow k u).Same s := by
  dsimp only [State.carryNow, State.fresh]
  repeat' split
  all_goals simp

@[simp] theorem State.carryOn_same (k : Nat) (u : USet) : (s.carryOn k u).Same s := by
  unfold State.carryOn
  split
  · simp
  · split
    · simp
    · simp
    · split
      next ids t h =>
      have ht := snd_same h (s.fetchCarry_same k u)
      split <;> simpa using ht

@[simp] theorem State.writeScale_same (k : Nat) (u : USet) : (s.writeScale k u).Same s := by
  dsimp only [State.writeScale, State.fresh]
  repeat' split
  all_goals simp

@[simp] theorem State.closeLedger_same (p epoch : Nat) (st : Status) (probe : Bool) : (s.closeLedger p epoch st probe).Same s := by
  simp [State.closeLedger]

@[simp] theorem State.noteProbe_same (k : Nat) (u : USet) : (s.noteProbe k u).Same s := by
  dsimp only [State.noteProbe, State.fresh]
  repeat' split
  all_goals simp

@[simp] theorem State.flipObjs_same (k half : Nat) : (s.flipObjs k half).Same s := by
  simp [State.flipObjs]

@[simp] theorem State.noteClose_same (u : USet) (st : Status) : (s.noteClose u st).Same s := by
  unfold State.noteClose
  split <;> simp

@[simp] theorem State.closeOut_same (k : Nat) : (s.closeOut k).Same s := by
  dsimp only [State.closeOut, State.fresh]
  repeat' split
  all_goals simp

@[simp] theorem State.sendCommit_same (k : Nat) (u : USet) : (s.sendCommit k u).Same s := by
  simp [State.sendCommit]

@[simp] theorem State.closeProbe_same (k : Nat) (u : USet) (flags : Nat) : (s.closeProbe k u flags).Same s := by
  simp [State.closeProbe]

@[simp] theorem State.finishClose_same (k : Nat) : (s.finishClose k).Same s := by
  dsimp only [State.finishClose, State.fresh]
  repeat' split
  all_goals simp

@[simp] theorem State.flipAcked_same (p upTo : Nat) : (s.flipAcked p upTo).Same s := by
  simp [State.flipAcked]

@[simp] theorem State.stepBack_same (k : Nat) (u : USet) : (s.stepBack k u).Same s := foldl_same _ _ fun _ _ => ⟨rfl, rfl, rfl, rfl⟩

@[simp] theorem State.staleAbort_same (gi epoch : Nat) : (s.staleAbort gi epoch).Same s := by
  unfold State.staleAbort
  extract_lets g sets s1 s2
  have h1 : s1.Same s := by
    refine foldl_same _ _ fun s e => ?_
    split <;> simp
  refine (foldl_same _ _ fun s e => ?_).trans ((State.abortGroup_same ..).trans h1)
  repeat' split
  all_goals simp

@[simp] theorem State.groupClose_same (k gi : Nat) (u : USet) : (s.groupClose k gi u).Same s := by
  dsimp only [State.groupClose, State.fresh]
  repeat' split
  all_goals simp

@[simp] theorem State.tryClose_same (k : Nat) (u : USet) : (s.tryClose k u).Same s := by
  dsimp only [State.tryClose, State.fresh]
  repeat' split
  all_goals simp

@[simp] theorem State.heardOf_same (gi : Nat) (e : Nat × GroupMsg) : (s.heardOf gi e).Same s := by
  simp [State.heardOf]

@[simp] theorem State.stage_same (gi dest : Nat) (m : GroupMsg) : (s.stage gi dest m).Same s := by
  dsimp only [State.stage, State.fresh]
  repeat' split
  all_goals simp

@[simp] theorem State.takeVerdict_same (gi me : Nat) (m : GroupMsg) : (s.takeVerdict gi me m).Same s := by
  dsimp only [State.takeVerdict, State.fresh]
  repeat' split
  all_goals simp

@[simp] theorem State.landRows_same (kind : Nat) (m : GroupMsg) : (s.landRows kind m).Same s := by
  dsimp only [State.landRows, State.fresh]
  repeat' split
  all_goals simp

@[simp] theorem State.destroySlot_same (k : Nat) : (s.destroySlot k).Same s := by
  simp [State.destroySlot]

@[simp] theorem State.freeHeld_same (p : Nat) : (s.freeHeld p).Same s := by
  simp [State.freeHeld]

@[simp] theorem State.grantRegion_same (p n : Nat) : (s.grantRegion p n).Same s := by
  induction n generalizing s with
  | zero => simp [State.grantRegion]
  | succ k ih =>
    unfold State.grantRegion
    split
    · exact (ih _).trans (by simp)
    · simp

@[simp] theorem State.giveSegs_same (p : Nat) (segs : List Nat) : (s.giveSegs p segs).Same s := by
  simp [State.giveSegs]

@[simp] theorem State.leaveSnaps_same (p : Nat) (keep : Bool) : (s.leaveSnaps p keep).Same s := by
  dsimp only [State.leaveSnaps, State.fresh]
  repeat' split
  all_goals simp

@[simp] theorem State.attachSnaps_same (p : Nat) : (s.attachSnaps p).Same s := by
  simp [State.attachSnaps]

@[simp] theorem State.zeroPart_same (p : Nat) : (s.zeroPart p).Same s := by
  unfold State.zeroPart
  split <;> simp

@[simp] theorem State.endMirror_same (p : Nat) : (s.endMirror p).Same s := by
  simp [State.endMirror]

@[simp] theorem State.closePart_same (p : Nat) (silent clear : Bool) : (s.closePart p silent clear).Same s := by
  unfold State.closePart
  split <;> simp

@[simp] theorem State.resyncPage_same (p : Nat) : (s.resyncPage p).Same s := by
  dsimp only [State.resyncPage, State.fresh]
  repeat' split
  all_goals simp

@[simp] theorem State.mirrorArrived_same (kind : Nat) (m : MirrorMsg) : (s.mirrorArrived kind m).Same s := by
  simp [State.mirrorArrived]

@[simp] theorem State.sendAck_same (p : Nat) : (s.sendAck p).Same s := ⟨rfl, rfl, rfl, rfl⟩

@[simp] theorem State.takeAnswer_same (p rn i : Nat) (b : Bytes) : (s.takeAnswer p rn i b).Same s := by
  unfold State.takeAnswer
  split <;> simp

@[simp] theorem State.catcherRound_same (k : Nat) (u : USet) : (s.catcherRound k u).Same s := by
  simp [State.catcherRound]

@[simp] theorem State.compareDigests_same (p set epoch : Nat) (l : List Nat) : (s.compareDigests p set epoch l).Same s := by
  unfold State.compareDigests
  dsimp only
  repeat' split
  · simp
  · simp
  · refine (State.settleRound_same ..).trans ((foldl_same _ _ fun s i => ?_).trans (by simp))
    repeat' split
    all_goals simp

@[simp] theorem State.applyObj_same (k : Nat) (x : Obj) : (s.applyObj k x).Same s := by
  unfold State.applyObj
  extract_lets fresh dropped bare made
  have hdropped : dropped.Same s := State.dropPages_same s k
  have hmade : made.Same s := by
    dsimp only [made]
    split
    · split
      next u h =>
        split at h
        · exact (State.newHbm_same h).trans hdropped
        · exact (State.newFlash_same h).trans hdropped
      next => exact hdropped
    · simp
  split <;> exact hmade

@[simp] theorem State.applySet_same (k : Nat) (x : USet) : (s.applySet k x).Same s := by
  unfold State.applySet
  extract_lets n s1
  split
  · extract_lets half c
    exact (State.setUset_same ..).trans (s.setNet_same ..)
  · exact (State.setUset_same ..).trans (s.setNet_same ..)

@[simp] theorem State.applyRec_same (p : Nat) (x : JRec) : (s.applyRec p x).Same s := by
  cases x with
  | ctx k x =>
    cases x with
    | some x =>
      simp only [State.applyRec]
      split
      · simp
      · split
        next h => simpa using State.newRing_same h
        next => simp
    | none =>
      simp only [State.applyRec]
      split <;> simp
  | queue k x =>
    cases x with
    | some x =>
      simp only [State.applyRec]
      refine (State.setNet_same ..).trans ?_
      split
      · simp
      · split
        next h => simpa using State.newRing_same h
        next => simp
    | none => simp [State.applyRec]
  | event k x => cases x <;> simp [State.applyRec]
  | obj k x => cases x <;> simp [State.applyRec]
  | slot k x => cases x <;> simp [State.applyRec]
  | reg k x => cases x <;> simp [State.applyRec]
  | set k x => cases x <;> simp [State.applyRec]
  | recipe k x => cases x <;> simp [State.applyRec]
  | groups l => simp [State.applyRec]
  | key k x =>
    cases x with
    | some x =>
      simp only [State.applyRec]
      split <;> simp
    | none => simp [State.applyRec]
  | core a => simp [State.applyRec]
  | cursors l => exact foldl_same _ _ fun _ _ => by simp
  | digest set epoch l => exact State.compareDigests_same s p set epoch l

@[simp] theorem State.noteWriter_same (p k : Nat) (is : List Nat) (w : Option (Nat × Nat)) : (s.noteWriter p k is w).Same s := by
  unfold State.noteWriter
  split <;> simp

@[simp] theorem State.applyCommit_same (p : Nat) (b : Bytes) : (s.applyCommit p b).Same s := by
  unfold State.applyCommit
  extract_lets k
  split
  · simp
  · extract_lets c s1
    have h1 : s1.Same s := by
      dsimp only [s1]
      split <;> simp
    exact (State.catcherRound_same ..).trans ((State.flipObjs_same ..).trans ((State.setUset_same ..).trans h1))

@[simp] theorem State.applyMirror_same (p kind : Nat) (b : Bytes) : (s.applyMirror p kind b).Same s := by
  dsimp only [State.applyMirror]
  repeat' split
  all_goals simp

@[simp] theorem State.noteWait_same (p kind : Nat) (b : Bytes) : (s.noteWait p kind b).Same s := by
  dsimp only [State.noteWait, State.fresh]
  repeat' split
  all_goals simp

@[simp] theorem State.drainMirror_same (p : Nat) (ack : Bool) (fuel : Nat) : (s.drainMirror p ack fuel).Same s := by
  induction fuel generalizing s with
  | zero => simp [State.drainMirror]
  | succ k ih =>
    unfold State.drainMirror
    dsimp only
    repeat' split
    all_goals simp [ih]

@[simp] theorem State.mirrorIn_same (p kind mseq : Nat) (b : Bytes) (ack : Bool) : (s.mirrorIn p kind mseq b ack).Same s := by
  simp [State.mirrorIn]

@[simp] theorem State.mirrorStep_same (kind : Nat) (m : MirrorMsg) : (s.mirrorStep kind m).Same s := by
  simp [State.mirrorStep]

@[simp] theorem State.endPairRounds_same (p upTo : Nat) : (s.endPairRounds p upTo).Same s := by
  simp [State.endPairRounds]

@[simp] theorem State.groupsLose_same (lost : Nat → Bool) : (s.groupsLose lost).Same s := by
  simp [State.groupsLose]

@[simp] theorem State.startCores_same (p : Nat) (a : CoreStartArgs) (a0 : Nat) : (s.startCores p a a0).Same s := by
  dsimp only [State.startCores]
  split
  · simp
  · refine (State.setSess_same ..).trans (foldl_same _ _ fun s r => ?_)
    split
    · refine foldl_same _ _ fun s i => ?_
      split <;> simp
    · simp

@[simp] theorem State.sendNotice_same (flyer ts : Nat) : (s.sendNotice flyer ts).Same s := by
  simp [State.sendNotice]

@[simp] theorem State.applyWhole_same (p : Nat) : (s.applyWhole p).Same s := by
  simp [State.applyWhole]

@[simp] theorem State.abandonSets_same (p : Nat) : (s.abandonSets p).Same s := foldl_same _ _ fun _ _ => ⟨rfl, rfl, rfl, rfl⟩

@[simp] theorem State.adoptRecs_same (qk : Nat) (fuel : Nat) : (s.adoptRecs qk fuel).Same s := by
  induction fuel generalizing s with
  | zero => simp [State.adoptRecs]
  | succ k ih =>
    unfold State.adoptRecs
    dsimp only
    repeat' split
    all_goals simp [ih]

@[simp] theorem State.adoptEvents_same (c : Nat) (fuel : Nat) : (s.adoptEvents c fuel).Same s := by
  induction fuel generalizing s with
  | zero => simp [State.adoptEvents]
  | succ k ih =>
    unfold State.adoptEvents
    dsimp only
    repeat' split
    all_goals simp [ih]

@[simp] theorem State.spoilWritten_same (p qk sub : Nat) : (s.spoilWritten p qk sub).Same s := by
  refine foldl_same _ _ fun s a => ?_
  split <;> simp

@[simp] theorem State.classify_same (p qk ts : Nat) (e : Entry) : (s.classify p qk ts e).Same s := by
  dsimp only [State.classify, State.fresh]
  repeat' split
  all_goals simp

/-- Goes by the step function of the recursion: in the equation for one more unit of fuel the kernel would evaluate `readEntry`, too deep for it. -/
@[simp] theorem State.classifyReady_same (p qk ts : Nat) (fuel : Nat) : (s.classifyReady p qk ts fuel).Same s := by
  delta State.classifyReady
  refine brecOn_same (F := State.classifyReady._f p qk ts) (fun _ _ => by simp [State.classifyReady._f]) (fun n b s hb => ?_) fuel s
  delta State.classifyReady._f
  dsimp -zeta only
  split
  · simp
  · split
    · simp
    · split
      · simp
      · extract_lets taken next
        refine (hb _).trans ?_
        dsimp only [next]
        split
        · exact State.takeEntry_same ..
        · exact State.complete_same ..

@[simp] theorem State.rebuildQueue_same (p qk ts : Nat) : (s.rebuildQueue p qk ts).Same s := by
  dsimp only [State.rebuildQueue, State.fresh]
  repeat' split
  all_goals simp

@[simp] theorem State.rejoin_same (p : Nat) : (s.rejoin p).Same s := by
  refine foldl_same _ _ fun s m => ?_
  split
  next t h => exact State.tryJoin_same h
  next => simp

@[simp] theorem State.takePart_same (ts p : Nat) : (s.takePart ts p).Same s := by
  unfold State.takePart
  extract_lets whole n solo slots events adopted queues core status joined
  have hslots : slots.Same s := by simp [slots, solo, whole]
  have hadopted : adopted.Same s := by
    refine (foldl_same _ _ fun s c => ?_).trans hslots
    split <;> simp
  have hqueues : queues.Same s := by simpa [queues] using hadopted
  have hcore : core.Same s := by
    dsimp only [core]
    repeat' split
    all_goals simpa using hqueues
  simpa [joined, status] using hcore

@[simp] theorem State.noteTakeover_same (flyer ts : Nat) (ps : List Nat) : (s.noteTakeover flyer ts ps).Same s := by
  simp [State.noteTakeover]

@[simp] theorem State.setServing_same (f c flyerAt : Nat) : (s.setServing f c flyerAt).Same s := ⟨rfl, rfl, rfl, rfl⟩

@[simp] theorem State.takeover_same (ts : Nat) : (s.takeover ts).Same s := by
  dsimp only [State.takeover, State.fresh]
  repeat' split
  all_goals simp

@[simp] theorem State.resumeTakeover_same : s.resumeTakeover.Same s := by
  unfold State.resumeTakeover
  split <;> simp

@[simp] theorem State.fence_same : s.fence.Same s := by
  simp [State.fence]

@[simp] theorem State.loseDevice_same (d : Nat) : (s.loseDevice d).Same s := by
  simp [State.loseDevice]

@[simp] theorem State.resumeSolo_same (p : Nat) : (s.resumeSolo p).Same s := by
  simp [State.resumeSolo]

end
end Sys2Proof.Machine
end

section
/-! ### What they leave of queue, time and life cycle: ports, flits and links -/

namespace Sys2Proof.Machine
section
variable (s : State)

@[simp] theorem State.noteRoutes_same : s.noteRoutes.Same s := ⟨rfl, rfl, rfl, rfl⟩

@[simp] theorem State.retime_same : s.retime.Same s := by
  unfold State.retime
  split <;> simp

@[simp] theorem State.requeueMirror_same : s.requeueMirror.Same s := by
  simp [State.requeueMirror]

@[simp] theorem State.checkLost_same (p : Nat) : (s.checkLost p).Same s := by
  simp [State.checkLost]

@[simp] theorem State.portPower_same (p : Nat) (on : Bool) : (s.portPower p on).Same s := ⟨rfl, rfl, rfl, rfl⟩

@[simp] theorem State.portDown_same (p : Nat) (byLoss : Bool) : (s.portDown p byLoss).Same s := by
  simp [State.portDown]

@[simp] theorem State.enterUp_same (p : Nat) (secret : U256) : (s.enterUp p secret).Same s := by
  simp [State.enterUp]

@[simp] theorem State.emitFlit_same (p : Nat) (f : TxFlit) (again : Bool) : (s.emitFlit p f again).Same s := ⟨rfl, rfl, rfl, rfl⟩

@[simp] theorem State.sendNew_same (p : Nat) (route : U32) (payload : Bytes) (part : Option Nat) : (s.sendNew p route payload part).Same s := ⟨rfl, rfl, rfl, rfl⟩

@[simp] theorem State.noteWaits_same (p : Nat) : (s.noteWaits p).Same s := ⟨rfl, rfl, rfl, rfl⟩

@[simp] theorem State.sendClass_same (p c : Nat) : (s.sendClass p c).Same s := by
  dsimp only [State.sendClass, State.fresh]
  repeat' split
  all_goals simp

@[simp] theorem State.flitRails_same (p : Nat) : (s.flitRails p).Same s := by
  simp [State.flitRails]

@[simp] theorem State.slot_same (p : Nat) : (s.slot p).Same s := by
  dsimp only [State.slot, State.fresh]
  repeat' split
  all_goals simp

@[simp] theorem State.pumpMirror_same (port : Nat) : (s.pumpMirror port).Same s := by
  unfold State.pumpMirror
  split
  · simp
  next f c _ =>
    extract_lets me dst
    split
    · simp
    · refine foldl_same _ _ fun s p => ?_
      extract_lets s1 s2 s3 n
      have h1 : s1.Same s := by
        dsimp only [s1]
        split <;> simp
      have h2 : s2.Same s1 := by
        dsimp only [s2]
        split <;> simp
      have h3 : s3.Same s2 := by
        dsimp only [s3]
        split <;> simp
      have h : s3.Same s := h3.trans (h2.trans h1)
      split
      · exact h
      · simpa using h

@[simp] theorem State.flitFails_same (p : Nat) (link : U32) : (s.flitFails p link).Same s := by
  dsimp only [State.flitFails, State.fresh]
  repeat' split
  all_goals simp

@[simp] theorem State.takeFlit_same (p : Nat) (f : Flit) : (s.takeFlit p f).Same s := by
  dsimp only [State.takeFlit, State.fresh]
  repeat' split
  all_goals simp

@[simp] theorem State.routeFlit_same (p : Nat) (f : Flit) : (s.routeFlit p f).Same s := by
  dsimp only [State.routeFlit, State.fresh]
  repeat' split
  all_goals simp

@[simp] theorem State.applyLink_same (p : Nat) (link : U32) : (s.applyLink p link).Same s := by
  simp [State.applyLink]

@[simp] theorem State.takeTime_same (hb : Heartbeat) (tArrive : U64) : (s.takeTime hb tArrive).Same s := by
  simp [State.takeTime]

@[simp] theorem State.startTraining_same (p : Nat) : (s.startTraining p).Same s := ⟨rfl, rfl, rfl, rfl⟩

@[simp] theorem State.trainFails_same (p : Nat) : (s.trainFails p).Same s := by
  simp [State.trainFails]

@[simp] theorem State.sendAuth_same (p : Nat) (m : AuthMsg) : (s.sendAuth p m).Same s := ⟨rfl, rfl, rfl, rfl⟩

@[simp] theorem State.setAuth_same (p : Nat) (a : AuthSt) : (s.setAuth p a).Same s := ⟨rfl, rfl, rfl, rfl⟩

@[simp] theorem State.authEnds_same (p : Nat) (st : PortSt) : (s.authEnds p st).Same s := by
  simp [State.authEnds]

end
end Sys2Proof.Machine
end

section
/-! ### What they leave of queue, time and life cycle: register writes, messages to SEC and faults of components -/

namespace Sys2Proof.Machine
section
variable (s : State)

@[simp] theorem State.setDreg_same (off v : Nat) : (s.setDreg off v).Same s := ⟨rfl, rfl, rfl, rfl⟩

@[simp] theorem State.setLatch_same (core : Bool) (f : Nat) (v : Option (Nat × Nat)) : (s.setLatch core f v).Same s := by
  simp [State.setLatch]

@[simp] theorem State.answerAt_same (core bar4 : Bool) (f off v : Nat) : (s.answerAt core bar4 f off v).Same s := ⟨rfl, rfl, rfl, rfl⟩

@[simp] theorem State.answer_same (core : Bool) (f off v : Nat) : (s.answer core f off v).Same s := ⟨rfl, rfl, rfl, rfl⟩

@[simp] theorem State.flushPba_same (f : Nat) : (s.flushPba f).Same s := by
  simp [State.flushPba]

@[simp] theorem State.writePart_same (p off v : Nat) : (s.writePart p off v).Same s := by
  simp [State.writePart]

variable {s} in
theorem ite_same {c : Prop} [Decidable c] {a b : State} (ha : a.Same s) (hb : b.Same s) : (if c then a else b).Same s := by
  split
  · exact ha
  · exact hb

@[simp] theorem State.writeHalf_same (f off v : Nat) : (s.writeHalf f off v).Same s := by
  unfold State.writeHalf
  dsimp only
  refine ite_same (by simp) (ite_same (by simp) (ite_same ?msix (ite_same ?tile (ite_same (by simp) (ite_same (by simp) (ite_same (by simp)
    (ite_same (by simp) (ite_same (by simp) (ite_same (by simp) (ite_same (by simp) (ite_same ?brake (ite_same (by simp) (by simp)))))))))))))
  case msix => exact (State.flushPba_same ..).trans (State.setFn_same ..)
  case tile => exact ite_same (by simp) (by simp)
  case brake =>
    refine ite_same ((State.avsSet_same _).trans ?_) ?_ <;> simp

@[simp] theorem State.writeReg_same (core : Bool) (f off size v : Nat) : (s.writeReg core f off size v).Same s := by
  dsimp only [State.writeReg, State.fresh]
  repeat' split
  all_goals simp

@[simp] theorem State.dbgRefused_same (p : Option Nat) : (s.dbgRefused p).Same s := by
  unfold State.dbgRefused
  split <;> simp

@[simp] theorem State.dbgWrite_same (t region off n v : Nat) : (s.dbgWrite t region off n v).Same s := by
  unfold State.dbgWrite
  split <;> simp

@[simp] theorem State.giveDoe_same (b : Bytes) : (s.giveDoe b).Same s := ⟨rfl, rfl, rfl, rfl⟩

@[simp] theorem State.reply_same (type : Nat) (h : SecHdr) (kc : Option U256) (st : Status) (body : Bytes) : (s.reply type h kc st body).Same s := ⟨rfl, rfl, rfl, rfl⟩

variable {s} in
theorem State.answerOp_same {type : Nat} {h : SecHdr} {r : Except Status State} (hr : ∀ t, r = .ok t → t.Same s) : (s.answerOp type h r).Same s := by
  unfold State.answerOp
  split
  · simp
  · split
    next t => simpa using hr t rfl
    · simp

variable {s} in
theorem State.answerTenant_same {type : Nat} {h : SecHdr} {body : Bytes} {f : Nat → State → Except Status State} (hf : ∀ p s t, f p s = .ok t → t.Same s) :
    (s.answerTenant type h body f).Same s := by
  unfold State.answerTenant
  extract_lets p kc
  split
  · simp
  · split
    · simp
    · split
      · simp
      · split
        next t ht => simpa using hf _ _ _ ht
        · simp

@[simp] theorem State.assign_same (p : Nat) (l : Layout) : (s.assign p l).Same s := ⟨rfl, rfl, rfl, rfl⟩

@[simp] theorem State.returnRegion_same (p : Nat) : (s.returnRegion p).Same s := by
  simp [State.returnRegion]

@[simp] theorem State.grantLayout_same (p : Nat) (l : Layout) : (s.grantLayout p l).Same s := by
  simp [State.grantLayout]

@[simp] theorem State.releaseRegion_same (p : Nat) : (s.releaseRegion p).Same s := by
  simp [State.releaseRegion]

@[simp] theorem State.doLayoutSet_same (h : SecHdr) (l : Layout) : (s.doLayoutSet h l).Same s := by
  refine State.answerOp_same fun t ht => ?_
  split at ht
  · exact absurd ht (by simp)
  · rw [← Except.ok.inj ht]
    simp

@[simp] theorem State.doLayoutClear_same (h : SecHdr) : (s.doLayoutClear h).Same s := by
  dsimp only [State.doLayoutClear, State.fresh]
  repeat' split
  all_goals simp

@[simp] theorem State.doSessionKey_same (h : SecHdr) : (s.doSessionKey h).Same s := by
  dsimp only [State.doSessionKey, State.fresh]
  repeat' split
  all_goals simp

@[simp] theorem State.doBind_same (h : SecHdr) (ct : Bytes) (report : U384) (masked : U256) : (s.doBind h ct report masked).Same s := by
  dsimp only [State.doBind, State.fresh]
  repeat' split
  all_goals simp

@[simp] theorem State.doSessionClose_same (h : SecHdr) : (s.doSessionClose h).Same s := by
  refine State.answerTenant_same fun p s t ht => ?_
  rw [← Except.ok.inj ht]
  simp

variable {s} in
theorem State.answerKey_same {type : Nat} {h : SecHdr} {body : Bytes} {f : State → Except Status State} (hf : ∀ s t, f s = .ok t → t.Same s) :
    (s.answerKey type h body f).Same s := by
  unfold State.answerKey
  split
  · exact State.answerOp_same fun t => hf s t
  · exact State.answerTenant_same fun _ s t => hf s t

@[simp] theorem State.doKeyGenerate_same (h : SecHdr) (slot : U16) : (s.doKeyGenerate h slot).Same s := by
  refine State.answerKey_same fun s t ht => ?_
  dsimp only at ht
  split at ht
  · exact absurd ht (by simp)
  · rw [← Except.ok.inj ht]
    simp

@[simp] theorem State.doKeyImport_same (h : SecHdr) (slot : U16) (ct wrapped : Bytes) : (s.doKeyImport h slot ct wrapped).Same s := by
  refine State.answerKey_same fun s t ht => ?_
  dsimp only at ht
  split at ht
  · exact absurd ht (by simp)
  · exact absurd ht (by simp)
  · rw [← Except.ok.inj ht]
    simp

@[simp] theorem State.withdraw_same (k : Nat) : (s.withdraw k).Same s := by
  dsimp only [State.withdraw, State.fresh]
  repeat' split
  all_goals simp

@[simp] theorem State.doKeyWithdraw_same (h : SecHdr) (slot : U16) : (s.doKeyWithdraw h slot).Same s := by
  refine State.answerKey_same fun s t ht => ?_
  dsimp only at ht
  split at ht
  · exact absurd ht (by simp)
  · split at ht
    · exact absurd ht (by simp)
    · split at ht
      all_goals
        rw [← Except.ok.inj ht]
        simp

@[simp] theorem State.doConsentSet_same (h : SecHdr) (tok : ConsentToken) : (s.doConsentSet h tok).Same s := by
  refine State.answerTenant_same fun p s t ht => ?_
  dsimp only at ht
  split at ht
  · exact absurd ht (by simp)
  · rw [← Except.ok.inj ht]
    simp

@[simp] theorem State.doCoreStart_same (h : SecHdr) (a : CoreStartArgs) : (s.doCoreStart h a).Same s := by
  refine State.answerTenant_same fun p s t ht => ?_
  split at ht
  · exact absurd ht (by simp)
  · rw [← Except.ok.inj ht]
    simp

@[simp] theorem State.fullWipe_same : s.fullWipe.Same s := by
  unfold State.fullWipe
  generalize List.range 12 = ports
  extract_lets s1 r tiles s2 s3
  have h1 : s1.Same s := by
    refine foldl_same _ _ fun s p => ?_
    split <;> simp
  clear_value s1
  exact h1

@[simp] theorem State.drawBridge_same : s.drawBridge.Same s := ⟨rfl, rfl, rfl, rfl⟩

@[simp] theorem State.drawKeys_same : s.drawKeys.Same s := ⟨rfl, rfl, rfl, rfl⟩

@[simp] theorem State.spdmAnswer_same (code : U8) (content : Bytes) : (s.spdmAnswer code content).Same s := ⟨rfl, rfl, rfl, rfl⟩

@[simp] theorem State.spdmError_same (request : U8) : (s.spdmError request).Same s := ⟨rfl, rfl, rfl, rfl⟩

@[simp] theorem State.setSpdm_same (x : SpdmSt) : (s.setSpdm x).Same s := ⟨rfl, rfl, rfl, rfl⟩

variable {s} in
theorem State.negotiated_same {code : U8} {f : State → State} (hf : ∀ s, (f s).Same s) : (s.negotiated code f).Same s := by
  unfold State.negotiated
  split
  · exact hf s
  · simp

@[simp] theorem State.doGetVersion_same : s.doGetVersion.Same s := ⟨rfl, rfl, rfl, rfl⟩

@[simp] theorem State.doGetCapabilities_same : s.doGetCapabilities.Same s := by
  unfold State.doGetCapabilities
  split <;> simp

@[simp] theorem State.doNegotiate_same (request : Bytes) : (s.doNegotiate request).Same s := by
  unfold State.doNegotiate
  split <;> simp

@[simp] theorem State.doGetDigests_same : s.doGetDigests.Same s := State.negotiated_same fun s => by simp

@[simp] theorem State.doGetCertificate_same (slot : U8) (off len : U16) : (s.doGetCertificate slot off len).Same s := by
  refine State.negotiated_same fun s => ?_
  split <;> simp

@[simp] theorem State.doChallenge_same (slot : U8) (nonce : U256) : (s.doChallenge slot nonce).Same s := by
  refine State.negotiated_same fun s => ?_
  split <;> simp

@[simp] theorem State.doGetMeasurements_same (index : U8) (nonce : U256) (signed : Bool) : (s.doGetMeasurements index nonce signed).Same s := by
  refine State.negotiated_same fun s => ?_
  dsimp only
  repeat' split
  all_goals simp

@[simp] theorem State.doChunkGet_same (handle : U8) (seqNo : U16) : (s.doChunkGet handle seqNo).Same s := by
  refine State.negotiated_same fun s => ?_
  dsimp only
  repeat' split
  all_goals simp

@[simp] theorem State.resetFn_same (f : Nat) : (s.resetFn f).Same s := by
  simp [State.resetFn]

@[simp] theorem State.leaveRun_same (f : Nat) (st : TdispSt) : (s.leaveRun f st).Same s := by
  simp [State.leaveRun]

@[simp] theorem State.doIde_same (f : Nat) (c : IdeReq) : (s.doIde f c).Same s := by
  dsimp only [State.doIde, State.fresh]
  repeat' split
  all_goals simp

@[simp] theorem State.doTdisp_same (f : Nat) (c : TdispReq) : (s.doTdisp f c).Same s := by
  dsimp only [State.doTdisp, State.fresh]
  repeat' split
  all_goals simp

@[simp] theorem State.setComp_same (c : Nat) (x : CompSt) : (s.setComp c x).Same s := ⟨rfl, rfl, rfl, rfl⟩

@[simp] theorem State.secFault_same (cause : Status) : (s.secFault cause).Same s := by
  unfold State.secFault
  generalize List.range 16 = parts
  split
  · simp
  · split
    · simp
    · extract_lets s1 s2 s3 s4 wiping
      have h2 : s2.Same s1 := by
        refine foldl_same _ _ fun s p => ?_
        dsimp only
        split <;> simp
      have h3 : s3.Same s2 := foldl_same _ _ fun s e => s.destroySlot_same e.1
      have h4 : s4.Same s3 := foldl_same _ _ fun s e => s.dropPages_same e.1
      have h : s4.Same s := h4.trans (h3.trans (h2.trans (by simp [s1])))
      clear_value s4
      exact h

@[simp] theorem State.countRestart_same (c : Nat) : (s.countRestart c).Same s := ⟨rfl, rfl, rfl, rfl⟩

@[simp] theorem State.setFw_same (phase : Nat) (st : Status) : (s.setFw phase st).Same s := ⟨rfl, rfl, rfl, rfl⟩

@[simp] theorem State.verifyStaged_same : s.verifyStaged.Same s := by
  dsimp only [State.verifyStaged, State.fresh]
  repeat' split
  all_goals simp

@[simp] theorem State.endUpdate_same (st : Status) : (s.endUpdate st).Same s := by
  dsimp only [State.endUpdate, State.fresh]
  repeat' split
  all_goals simp

@[simp] theorem State.compFault_same (c : Nat) (cause : Status) : (s.compFault c cause).Same s := by
  dsimp only [State.compFault, State.fresh]
  repeat' split
  all_goals simp

end
end Sys2Proof.Machine
end

section
/-! ### What they leave of queue, time and life cycle: register reads, start-up, power loops and sideband -/

namespace Sys2Proof.Machine
section
variable (s : State)

@[simp] theorem State.budgetFault_same (k : Nat) : (s.budgetFault k).Same s := by
  dsimp only [State.budgetFault, State.fresh]
  repeat' split
  all_goals simp

variable {s} in
theorem State.readFault_same {core : Bool} {f off : Nat} {u : State} (h : s.readFault core f off = some u) : u.Same s := by
  unfold State.readFault at h
  dsimp only at h
  repeat' split at h
  all_goals simp only [Option.some.injEq, reduceCtorEq] at h
  all_goals
    rw [← h]
    simp

@[simp] theorem State.atStep_same (n : Nat) : (s.atStep n).Same s := ⟨rfl, rfl, rfl, rfl⟩

@[simp] theorem State.bootOn_same (o : StartupOutcome) : (s.bootOn o).Same s := by
  dsimp only [State.bootOn, State.fresh]
  repeat' split
  all_goals simp

@[simp] theorem State.startUp_same (cause status : Nat) (o : StartupOutcome) (fresh : Bool) : (s.startUp cause status o fresh).Same s := by
  unfold State.startUp
  split <;> simp

@[simp] theorem State.bootOutcomes_same (o : StartupOutcome) : (s.bootOutcomes o).Same s := by
  simp [State.bootOutcomes]

@[simp] theorem State.physicalWipe_same : s.physicalWipe.Same s := by
  simp [State.physicalWipe]

@[simp] theorem State.refill_same (k : Nat) : (s.refill k).Same s := by
  dsimp only [State.refill, State.fresh]
  repeat' split
  all_goals simp

@[simp] theorem State.loadOf_same (c : Nat) : (s.loadOf c).Same s := ⟨rfl, rfl, rfl, rfl⟩

@[simp] theorem State.holdStarts_same (hold : Bool) : (s.holdStarts hold).Same s := by
  unfold State.holdStarts
  split <;> simp

@[simp] theorem State.zeroColumn_same (c : Nat) : (s.zeroColumn c).Same s := by
  simp [State.zeroColumn]

@[simp] theorem State.configAnswer_same (f off v : Nat) : (s.configAnswer f off v).Same s := ⟨rfl, rfl, rfl, rfl⟩

@[simp] theorem State.sendSide_same (content : Bytes) : (s.sendSide content).Same s := ⟨rfl, rfl, rfl, rfl⟩

end
end Sys2Proof.Machine
end

section
/-! ### Faults of SEC and of the other components (R427 to R432, R471) -/

namespace Sys2Proof.Machine

variable {s : State}

theorem exec_secFault : exec .secFault s = .next (s.secFault .key) := rfl

theorem exec_secFault_of_down (h : s.sec.down.isSome = true) : exec .secFault s = .next (s.devFault .key none) := by
  rw [exec_secFault, State.secFault, if_pos h]

/-- A SEC that goes down forgets its keys and its mail on a state with the same time and life cycle. -/
theorem State.secFault_of_up {cause : Status} (hup : s.sec.down = none) (hfew : s.fourthFall cpSec = false) :
    ∃ (t : State) (w : Option Wipe), t.Same s ∧ s.secFault cause =
      { t with sec := { t.sec with opPair := 0, down := some t.ts, mailbox := [], spdm := .start, large := none, wiping := w } } := by
  unfold State.secFault
  generalize List.range 16 = parts
  rw [if_neg (by simp [hup]), if_neg (by simp [hfew])]
  extract_lets down closed keyless bare wiping
  refine ⟨bare, wiping, ?_, rfl⟩
  have hclosed : closed.Same down := by
    refine foldl_same _ _ fun s p => ?_
    dsimp only
    split <;> simp
  have hkeyless : keyless.Same closed := foldl_same _ _ fun s e => s.destroySlot_same e.1
  have hbare : bare.Same keyless := foldl_same _ _ fun s e => s.dropPages_same e.1
  exact hbare.trans (hkeyless.trans (hclosed.trans (by simp [down])))

section Watchdog
variable {c : Comp} (hsec : c.val ≠ cpSec)
include hsec

theorem exec_componentWatchdog_of_fourth (hup : s.compUp c.val = true) (hfourth : s.fourthFall c.val = true) :
    exec (.componentWatchdog c) s = .next ((s.setComp c.val ⟨some (.timeout, s.ts), s.falls c.val⟩).devFault .timeout none) := by
  change Host.Outcome.next (s.compFault c.val .timeout) = _
  rw [State.compFault, if_neg hsec, if_neg (by simp [hup]), if_pos hfourth]

theorem exec_componentWatchdog_of_few (hboot : c.val ≠ cpBoot) (hup : s.compUp c.val = true) (hfew : s.fourthFall c.val = false) :
    exec (.componentWatchdog c) s =
      .next ((s.setComp c.val ⟨some (.timeout, s.ts), s.falls c.val ++ [s.ts]⟩).logRec (.restart c.val .timeout)) := by
  change Host.Outcome.next (s.compFault c.val .timeout) = _
  rw [State.compFault, if_neg hsec, if_neg (by simp [hup]), if_neg (by simp [hfew])]
  exact congrArg _ (if_neg hboot)

/-- BOOT restarts on its own, every other component behind BOOT. -/
theorem restart_goes (hboot : s.compUp cpBoot = true ∨ c.val = cpBoot) : ¬(c.val = cpSec || (c.val != cpBoot && !s.compUp cpBoot)) = true := by
  obtain hup | hself := hboot
  · simp [hsec, hup]
  · simpa [hself] using hself ▸ hsec

variable {x : CompSt} {cause : Status} {since : Nat} (hx : s.onlyn.comps.get c.val = some x) (hdown : x.down = some (cause, since))
include hx hdown

/-- A component whose code fails its digest stops the device. -/
theorem exec_componentRestartDone_of_bad (hboot : s.compUp cpBoot = true ∨ c.val = cpBoot) :
    exec (.componentRestartDone c false) s = .next (s.devFault .digestMismatch none) := by
  change execComponentRestartDone c false s = _
  simp only [execComponentRestartDone, hx, Option.bind_some, hdown]
  rw [if_neg (restart_goes hsec hboot)]
  rfl

theorem exec_componentRestartDone_of_plain (hlog : c.val ≠ cpLog) (hdigest : c.val ≠ cpDigest) (hnet : c.val ≠ cpNet)
    (hboot : s.compUp cpBoot = true ∨ c.val = cpBoot) : exec (.componentRestartDone c true) s =
      .next (((s.setComp c.val ⟨none, s.falls c.val⟩).countRestart c.val).bumpDev (0x408 + 16 * c.val) (s.waitedFor c.val since)) := by
  change execComponentRestartDone c true s = _
  simp only [execComponentRestartDone, hx, Option.bind_some, hdown]
  rw [if_neg (restart_goes hsec hboot)]
  simp only [if_neg hlog, if_neg hdigest, if_neg hnet]
  rfl

end Watchdog

/-- SEC comes back with a key pair of its own; the partitions' fresh ones change sessions alone. -/
theorem exec_secRestartDone_of_down (hdown : s.sec.down.isSome = true) : ∃ u : State, exec .secRestartDone s = .next u.verifyStaged.serveMail ∧
    u.sec.down = none ∧ u.sec.opPair = Config.trng ((s.setComp cpSec ⟨none, s.falls cpSec⟩).countRestart cpSec).free ∧ u.objs = s.objs ∧ u.keys = s.keys := by
  change ∃ u : State, execSecRestartDone s = _ ∧ _
  unfold execSecRestartDone
  generalize List.range 16 = parts
  rw [if_neg (by simpa using Option.isSome_iff_ne_none.1 hdown)]
  extract_lets back
  dsimp only [State.fresh]
  refine ⟨_, rfl, ?_⟩
  have hkeeps {β : Type} (g : State → β) (hg : ∀ (s : State) (p n : Nat) (x : Session), g ({ s with free := n }.setSess p x) = g s) (t : State) := foldl_keeps g
    (f := fun s p => if (s.part p).sess.st == .assigned || (s.part p).sess.st == .closing then
      { s with free := s.free + 1 }.setSess p { (s.part p).sess with keyPair := Config.trng s.free, sessionId := kemId (Config.trng s.free) } else s) parts t
    (fun s p => by
      split
      · exact hg ..
      · rfl)
  rw [hkeeps State.sec (fun _ _ _ _ => rfl), hkeeps State.objs (fun _ _ _ _ => rfl), hkeeps State.keys (fun _ _ _ _ => rfl)]
  exact ⟨rfl, rfl, rfl, rfl⟩

/-- Settles O41: a SEC that goes down keeps time and life cycle, whatever its fault takes away. -/
theorem componentFaults : Obligations.ComponentFaults := by
  unfold Obligations.ComponentFaults
  intro s
  refine ⟨exec_secFault_of_down, ?secDown, fun c => exec_componentWatchdog_of_fourth, fun c => exec_componentWatchdog_of_few,
    fun c x ⟨_, _⟩ hsec hx hdown => exec_componentRestartDone_of_bad hsec hx hdown, ?back, ?secBack, fun _ => rfl, fun _ => ⟨rfl, rfl⟩⟩
  case secDown =>
    intro hup hfew
    obtain ⟨t, w, ⟨hts, -, hlife, hlifeN⟩, hfault⟩ := State.secFault_of_up (cause := .key) hup hfew
    exact ⟨_, exec_secFault.trans (congrArg _ hfault), congrArg some hts, rfl, rfl, hlife, hlifeN⟩
  case back =>
    intro c x st since hsec hlog hdigest hnet hx hdown hboot
    exact ⟨_, rfl, exec_componentRestartDone_of_plain hsec hx hdown hlog hdigest hnet hboot⟩
  case secBack =>
    rintro _ hdown rfl
    exact exec_secRestartDone_of_down hdown

end Sys2Proof.Machine
end

section
/-! ### Outcomes that keep the queue and the life cycle, and what runs a command -/

namespace Sys2Proof.Machine

/-- An outcome of a command leaves the queue and the life-cycle word as they were. -/
def State.Keeps (s : State) (o : Host.Outcome State Fault Refusal) : Prop := ∀ u, o = .next u → u.SameLife s

section Keeps
variable {s : State}

@[simp] theorem State.keeps_next {u : State} : s.Keeps (.next u) ↔ u.SameLife s :=
  ⟨fun h => h u rfl, fun h _ hu => Host.Outcome.next.inj hu ▸ h⟩

@[simp] theorem State.keeps_refused (r : Refusal) : s.Keeps (.refused r) := fun _ h => absurd h (by simp)

theorem State.keeps_trans {t : State} {o : Host.Outcome State Fault Refusal} (ho : t.Keeps o) (ht : t.SameLife s) : s.Keeps o :=
  fun u hu => (ho u hu).trans ht

theorem State.whenRails_keeps {f : State → Host.Outcome State Fault Refusal} (hf : s.Keeps (f s)) : s.Keeps (s.whenRails f) := by
  unfold State.whenRails
  split
  · exact hf
  · simp

theorem State.whenStarted_keeps {q : QId} {cmd : HostCmd} {f : Nat → Entry → State → State} (hf : ∀ k e t, (f k e t).SameLife t) :
    s.Keeps (s.whenStarted q cmd f) := by
  unfold State.whenStarted
  split
  · simp
  next h => exact State.keeps_next.2 ((hf ..).trans (State.start_same h).2)

theorem State.whenCtx_keeps {q : QId} {cmd : HostCmd} {f : Nat → Entry → Nat → Ctx → State → State} (hf : ∀ k e c x t, (f k e c x t).SameLife t) :
    s.Keeps (s.whenCtx q cmd f) := by
  refine State.whenStarted_keeps fun k e t => ?_
  repeat' split
  all_goals simp [hf]

theorem State.whenAdmin_keeps {q : QId} {cmd : HostCmd} {f : Nat → Entry → State → State} (hf : ∀ k e t, (f k e t).SameLife t) :
    s.Keeps (s.whenAdmin q cmd f) := by
  unfold State.whenAdmin
  split
  · exact State.whenStarted_keeps hf
  · simp

theorem State.whenWord_keeps {t w : Nat} {f : Site → Tile → State → State} (hf : ∀ x tl s, (f x tl s).SameLife s) : s.Keeps (s.whenWord t w f) := by
  unfold State.whenWord
  dsimp only
  repeat' split
  all_goals simp [hf]

theorem State.whenRead_keeps {t w : Nat} {issue : Site → Tile → State → Except (Status × Scope) (List Nat × After × State)} {act : Site → Tile → After → State → State}
    (hissue : ∀ x tl s l a u, issue x tl s = .ok (l, a, u) → u.SameLife s) (hact : ∀ x tl a s, (act x tl a s).SameLife s) : s.Keeps (s.whenRead t w issue act) := by
  unfold State.whenRead
  split
  · simp
  · extract_lets tl
    split
    · simp
    · split
      · split
        · simp
        · split
          next h => simpa using hissue _ _ _ _ _ _ h
          · simp
      · split
        · simpa using hact ..
        · simp

/-- Rows that go out of a port, or none. -/
theorem State.sentAny_same {c : Prop} [Decidable c] {t port : Nat} {x : Site} {bs : List Beat} {u : State}
    (h : (if c then some s else s.sendPort t port x bs) = some u) : u.Same s := by
  split at h
  · rw [← Option.some.inj h]
    simp
  · exact State.sendPort_same h

@[simp] theorem runVx_keeps (t : Sys2Proof.Tile) (op : Nat) (w : Vx) (f : Site → Tile → VxRes) : s.Keeps (runVx t op w f s) := by
  unfold runVx
  split
  · simp
  · refine State.whenWord_keeps fun x tl s => ?_
    repeat' split
    all_goals simp

theorem runStream_keeps {t : Sys2Proof.Tile} {op : Nat} {w : Vx} {bytes links : Site → Nat} {f : Site → Tile → State → Option State}
    (hf : ∀ x tl s u, f x tl s = some u → u.SameLife s) : s.Keeps (runStream t op w bytes links f s) := by
  unfold runStream
  split
  · simp
  · refine State.whenWord_keeps fun x tl s => ?_
    split
    · simp
    · split
      next h => simpa using hf _ _ _ _ h
      · simp

@[simp] theorem runExchange_keeps (op : Nat) (t : Sys2Proof.Tile) (wire inp outp : BitVec 4) (group : U8) (count : U32) :
    s.Keeps (runExchange op t wire inp outp group count s) := by
  refine State.whenWord_keeps fun x tl s => ?_
  dsimp only
  split
  · simp
  · simp
  · split
    · split
      · simp
      · split
        · simp
        · split
          · simp
          next h => simpa using (State.sentAny_same h).2
    · split
      · simp
      · simp

end Keeps

/-! What changes the time leaves queue and life cycle all the same. -/

section Time
variable (s : State)

@[simp] theorem State.stepTs_sameLife (m : AuthMsg) : (s.stepTs m).SameLife s := by
  unfold State.stepTs
  split <;> simp

@[simp] theorem State.tsNow_sameLife (off v : Nat) : (s.tsNow off v).2.SameLife s := by
  unfold State.tsNow
  split <;> simp [State.fresh]

@[simp] theorem State.readReg_sameLife (core : Bool) (f off : Nat) : (s.readReg core f off).2.SameLife s := by
  unfold State.readReg
  split
  next h => exact (State.readFault_same h).2
  · exact State.tsNow_sameLife ..

@[simp] theorem State.collapse_sameLife (power fresh : Bool) : (s.collapse power fresh).SameLife s := by
  refine ⟨s.collapse_pending power fresh, (s.collapse_kept power fresh).1, ?_⟩
  unfold State.collapse
  extract_lets r slot left
  have hleft : left.sec = s.sec := by simp [left]
  clear_value left
  rw [← hleft]

@[simp] theorem State.losePower_sameLife : s.losePower.SameLife s := by
  have h := s.collapse_sameLife true true
  unfold State.losePower
  generalize s.collapse true true = t at h ⊢
  exact h

@[simp] theorem State.deviceReset_sameLife (cause status : Nat) (o : StartupOutcome) (fresh : Bool) : (s.deviceReset cause status o fresh).SameLife s :=
  (State.startUp_same ..).2.trans (s.collapse_sameLife false fresh)

end Time
end Sys2Proof.Machine
end

section
/-! ### Commands that keep queue and life cycle: host commands and power -/

namespace Sys2Proof.Machine
section
variable (s : State)

@[simp] theorem execRingWindowWrite_keeps (fn : Fn) (off : U64) (data : Bytes) : s.Keeps (execRingWindowWrite fn off data s) := by
  unfold execRingWindowWrite
  split <;> simp

@[simp] theorem execDoorbell_keeps (q : QId) (value : U32) : s.Keeps (execDoorbell q value s) := by
  dsimp only [execDoorbell, State.fresh]
  repeat' split
  all_goals simp

@[simp] theorem execCqHeadWrite_keeps (q : QId) (value : U32) : s.Keeps (execCqHeadWrite q value s) := by
  dsimp only [execCqHeadWrite, State.fresh]
  repeat' split
  all_goals simp

@[simp] theorem execEntryFetch_keeps (q : QId) : s.Keeps (execEntryFetch q s) := by
  dsimp only [execEntryFetch, State.fresh]
  repeat' split
  all_goals simp

@[simp] theorem execCopy_keeps (q : QId) (a : CopyArgs) : s.Keeps (execCopy q a s) := by
  refine State.whenCtx_keeps fun k e c x s => ?_
  dsimp only [State.fresh]
  repeat' split
  all_goals simp

@[simp] theorem execFill_keeps (q : QId) (a : FillArgs) : s.Keeps (execFill q a s) := by
  refine State.whenCtx_keeps fun k e c x s => ?_
  simp

@[simp] theorem execWait_keeps (q : QId) (a : WaitArgs) : s.Keeps (execWait q a s) := by
  refine State.whenCtx_keeps fun k e c x s => ?_
  split <;> simp

@[simp] theorem execSignal_keeps (q : QId) (a : SignalArgs) : s.Keeps (execSignal q a s) := by
  refine State.whenCtx_keeps fun k e c x s => ?_
  split <;> simp

@[simp] theorem execWaitDeadline_keeps (index : Nat) : s.Keeps (execWaitDeadline index s) := by
  dsimp only [execWaitDeadline, State.fresh]
  repeat' split
  all_goals simp

@[simp] theorem execEventCreate_keeps (q : QId) (a : EventArgs) (pick : Nat) : s.Keeps (execEventCreate q a pick s) := by
  refine State.whenCtx_keeps fun k e c x s => ?_
  split <;> simp

@[simp] theorem execEventDestroy_keeps (q : QId) (event : U32) : s.Keeps (execEventDestroy q event s) := by
  refine State.whenCtx_keeps fun k e c x s => ?_
  split <;> simp

@[simp] theorem execEventQuery_keeps (q : QId) (event : U32) : s.Keeps (execEventQuery q event s) := by
  refine State.whenCtx_keeps fun k e c x s => ?_
  split <;> simp

@[simp] theorem execSeedSet_keeps (q : QId) (seed : U64) : s.Keeps (execSeedSet q seed s) := by
  refine State.whenCtx_keeps fun k e c x s => ?_
  simp

@[simp] theorem execObjectCreate_keeps (q : QId) (a : ObjectArgs) (pick : List Nat) : s.Keeps (execObjectCreate q a pick s) := by
  refine State.whenCtx_keeps fun k e c x s => ?_
  split
  · simp
  · extract_lets fl
    split
    next _ u hu =>
    have hu : u.Same s := snd_same hu (State.catcherAnswer_same ..)
    extract_lets n room i g
    split
    · simpa using hu.2
    · split
      · simpa using hu.2
      · split
        · simpa using hu.2
        · split
          · simpa using hu.2
          next t h =>
            have ht : t.Same u := by
              split at h
              · exact State.newHbm_same h
              · exact State.newFlash_same h
            simpa using (ht.trans hu).2

@[simp] theorem execLoadImage_keeps (q : QId) (a : LoadArgs) : s.Keeps (execLoadImage q a s) := by
  refine State.whenCtx_keeps fun k e c x s => ?_
  dsimp only [State.fresh]
  repeat' split
  all_goals simp

@[simp] theorem execLoadImageDone_keeps (p : Part) (slot : BitVec 6) : s.Keeps (execLoadImageDone p slot s) := by
  unfold execLoadImageDone
  split
  · simp
  · split
    · simp
    · split
      · simp
      · dsimp only
        split
        · simp
        · split
          · simp
          next bk t h =>
            have ht := (State.keepBody_same h).2
            split
            · simpa using ht
            · split
              · simpa using ht
              · split <;> simpa using ht
      · simp

@[simp] theorem execUnloadImage_keeps (q : QId) (slot : U8) : s.Keeps (execUnloadImage q slot s) := by
  unfold execUnloadImage
  extract_lets loading
  split
  · simp
  · refine State.whenCtx_keeps fun k e c x s => ?_
    dsimp only
    split
    · simp
    · split
      · split
        · simp
        · split <;> simp
      · simp

@[simp] theorem execSeal_keeps (q : QId) (handle : U32) : s.Keeps (execSeal q handle s) := by
  refine State.whenCtx_keeps fun k e c x s => ?_
  dsimp only [State.fresh]
  repeat' split
  all_goals simp

@[simp] theorem execRun_keeps (q : QId) (a : RunArgs) (pick : Nat) : s.Keeps (execRun q a pick s) := by
  refine State.whenCtx_keeps fun k e c x s => ?_
  dsimp only [State.fresh]
  repeat' split
  all_goals simp

end
end Sys2Proof.Machine
end

section
/-! ### Commands that keep queue and life cycle: vector instructions -/

namespace Sys2Proof.Machine
section
variable (s : State)

@[simp] theorem execBeatSend_keeps (r strm route : Nat) : s.Keeps (execBeatSend r strm route s) := by
  dsimp only [execBeatSend, State.fresh]
  repeat' split
  all_goals simp

@[simp] theorem execBeatArrive_keeps (r strm route : Nat) (first again : Crossing) : s.Keeps (execBeatArrive r strm route first again s) := by
  dsimp only [execBeatArrive, State.fresh]
  repeat' split
  all_goals simp

@[simp] theorem execCreditReturn_keeps (r strm route : Nat) : s.Keeps (execCreditReturn r strm route s) := by
  dsimp only [execCreditReturn, State.fresh]
  repeat' split
  all_goals simp

@[simp] theorem execSin_keeps (t : Sys2Proof.Tile) (w : Vx) : s.Keeps (execSin t w s) := by
  refine runStream_keeps fun x tl s u h => ?_
  obtain ⟨⟨bs, v⟩, hv, rfl⟩ := Option.map_eq_some_iff.1 h
  simpa using (State.readPort_same hv).2

@[simp] theorem execSout_keeps (t : Sys2Proof.Tile) (w : Vx) : s.Keeps (execSout t w s) := by
  refine runStream_keeps fun x tl s u h => ?_
  obtain ⟨v, hv, rfl⟩ := Option.map_eq_some_iff.1 h
  simpa using (State.sendPort_same hv).2

@[simp] theorem execSinq_keeps (t : Sys2Proof.Tile) (w : Vx) : s.Keeps (execSinq t w s) := by
  refine runStream_keeps fun x tl s u h => ?_
  obtain ⟨⟨bs, v⟩, hv, rfl⟩ := Option.map_eq_some_iff.1 h
  simpa using (State.readPort_same hv).2

@[simp] theorem execSoutq_keeps (t : Sys2Proof.Tile) (w : Vx) : s.Keeps (execSoutq t w s) := by
  refine runStream_keeps fun x tl s u h => ?_
  obtain ⟨v, hv, rfl⟩ := Option.map_eq_some_iff.1 h
  simpa using (State.sendPort_same hv).2

@[simp] theorem execVadd_keeps (t : Sys2Proof.Tile) (w : Vx) : s.Keeps (execVadd t w s) := by
  simp [execVadd]

@[simp] theorem execVsub_keeps (t : Sys2Proof.Tile) (w : Vx) : s.Keeps (execVsub t w s) := by
  simp [execVsub]

@[simp] theorem execVmul_keeps (t : Sys2Proof.Tile) (w : Vx) : s.Keeps (execVmul t w s) := by
  simp [execVmul]

@[simp] theorem execVfma_keeps (t : Sys2Proof.Tile) (w : Vx) : s.Keeps (execVfma t w s) := by
  simp [execVfma]

@[simp] theorem execVfms_keeps (t : Sys2Proof.Tile) (w : Vx) : s.Keeps (execVfms t w s) := by
  simp [execVfms]

@[simp] theorem execVfnma_keeps (t : Sys2Proof.Tile) (w : Vx) : s.Keeps (execVfnma t w s) := by
  simp [execVfnma]

@[simp] theorem execVdiv_keeps (t : Sys2Proof.Tile) (w : Vx) : s.Keeps (execVdiv t w s) := by
  simp [execVdiv]

@[simp] theorem execVsqrt_keeps (t : Sys2Proof.Tile) (w : Vx) : s.Keeps (execVsqrt t w s) := by
  simp [execVsqrt]

@[simp] theorem execVmin_keeps (t : Sys2Proof.Tile) (w : Vx) : s.Keeps (execVmin t w s) := by
  simp [execVmin]

@[simp] theorem execVmax_keeps (t : Sys2Proof.Tile) (w : Vx) : s.Keeps (execVmax t w s) := by
  simp [execVmax]

@[simp] theorem execVabs_keeps (t : Sys2Proof.Tile) (w : Vx) : s.Keeps (execVabs t w s) := by
  simp [execVabs]

@[simp] theorem execVneg_keeps (t : Sys2Proof.Tile) (w : Vx) : s.Keeps (execVneg t w s) := by
  simp [execVneg]

@[simp] theorem execVcpysgn_keeps (t : Sys2Proof.Tile) (w : Vx) : s.Keeps (execVcpysgn t w s) := by
  simp [execVcpysgn]

@[simp] theorem execVcmpeq_keeps (t : Sys2Proof.Tile) (w : Vx) : s.Keeps (execVcmpeq t w s) := by
  simp [execVcmpeq]

end
end Sys2Proof.Machine
end

section
/-! ### Commands that keep queue and life cycle: vector and control instructions -/

namespace Sys2Proof.Machine
section
variable (s : State)

@[simp] theorem execVcmplt_keeps (t : Sys2Proof.Tile) (w : Vx) : s.Keeps (execVcmplt t w s) := by
  simp [execVcmplt]

@[simp] theorem execVcmple_keeps (t : Sys2Proof.Tile) (w : Vx) : s.Keeps (execVcmple t w s) := by
  simp [execVcmple]

@[simp] theorem execVcmpun_keeps (t : Sys2Proof.Tile) (w : Vx) : s.Keeps (execVcmpun t w s) := by
  simp [execVcmpun]

@[simp] theorem execGand_keeps (t : Sys2Proof.Tile) (w : Vx) : s.Keeps (execGand t w s) := by
  simp [execGand]

@[simp] theorem execGor_keeps (t : Sys2Proof.Tile) (w : Vx) : s.Keeps (execGor t w s) := by
  simp [execGor]

@[simp] theorem execGnot_keeps (t : Sys2Proof.Tile) (w : Vx) : s.Keeps (execGnot t w s) := by
  simp [execGnot]

@[simp] theorem execVsel_keeps (t : Sys2Proof.Tile) (w : Vx) : s.Keeps (execVsel t w s) := by
  simp [execVsel]

@[simp] theorem execVexp_keeps (t : Sys2Proof.Tile) (w : Vx) : s.Keeps (execVexp t w s) := by
  simp [execVexp]

@[simp] theorem execVexp2_keeps (t : Sys2Proof.Tile) (w : Vx) : s.Keeps (execVexp2 t w s) := by
  simp [execVexp2]

@[simp] theorem execVexpm1_keeps (t : Sys2Proof.Tile) (w : Vx) : s.Keeps (execVexpm1 t w s) := by
  simp [execVexpm1]

@[simp] theorem execVlog_keeps (t : Sys2Proof.Tile) (w : Vx) : s.Keeps (execVlog t w s) := by
  simp [execVlog]

@[simp] theorem execVlog2_keeps (t : Sys2Proof.Tile) (w : Vx) : s.Keeps (execVlog2 t w s) := by
  simp [execVlog2]

@[simp] theorem execVrcp_keeps (t : Sys2Proof.Tile) (w : Vx) : s.Keeps (execVrcp t w s) := by
  simp [execVrcp]

@[simp] theorem execVrsqrt_keeps (t : Sys2Proof.Tile) (w : Vx) : s.Keeps (execVrsqrt t w s) := by
  simp [execVrsqrt]

@[simp] theorem execVsinpi_keeps (t : Sys2Proof.Tile) (w : Vx) : s.Keeps (execVsinpi t w s) := by
  simp [execVsinpi]

@[simp] theorem execVcospi_keeps (t : Sys2Proof.Tile) (w : Vx) : s.Keeps (execVcospi t w s) := by
  simp [execVcospi]

@[simp] theorem execVsigm_keeps (t : Sys2Proof.Tile) (w : Vx) : s.Keeps (execVsigm t w s) := by
  simp [execVsigm]

@[simp] theorem execVtanh_keeps (t : Sys2Proof.Tile) (w : Vx) : s.Keeps (execVtanh t w s) := by
  simp [execVtanh]

@[simp] theorem execVsilu_keeps (t : Sys2Proof.Tile) (w : Vx) : s.Keeps (execVsilu t w s) := by
  simp [execVsilu]

@[simp] theorem execCvt_keeps (t : Sys2Proof.Tile) (w : Vx) : s.Keeps (execCvt t w s) := by
  simp [execCvt]

@[simp] theorem execVhi_keeps (t : Sys2Proof.Tile) (w : Vx) : s.Keeps (execVhi t w s) := by
  simp [execVhi]

@[simp] theorem execVlo_keeps (t : Sys2Proof.Tile) (w : Vx) : s.Keeps (execVlo t w s) := by
  simp [execVlo]

@[simp] theorem execVrsum_keeps (t : Sys2Proof.Tile) (w : Vx) : s.Keeps (execVrsum t w s) := by
  simp [execVrsum]

@[simp] theorem execVrmax_keeps (t : Sys2Proof.Tile) (w : Vx) : s.Keeps (execVrmax t w s) := by
  simp [execVrmax]

@[simp] theorem execVrmin_keeps (t : Sys2Proof.Tile) (w : Vx) : s.Keeps (execVrmin t w s) := by
  simp [execVrmin]

@[simp] theorem execVrsum16_keeps (t : Sys2Proof.Tile) (w : Vx) : s.Keeps (execVrsum16 t w s) := by
  simp [execVrsum16]

@[simp] theorem execVrmax16_keeps (t : Sys2Proof.Tile) (w : Vx) : s.Keeps (execVrmax16 t w s) := by
  simp [execVrmax16]

@[simp] theorem execRld_keeps (t : Sys2Proof.Tile) (w : Vx) : s.Keeps (execRld t w s) := by
  simp [execRld]

@[simp] theorem execRadd_keeps (t : Sys2Proof.Tile) (w : Vx) : s.Keeps (execRadd t w s) := by
  simp [execRadd]

@[simp] theorem execRst_keeps (t : Sys2Proof.Tile) (w : Vx) : s.Keeps (execRst t w s) := by
  simp [execRst]

@[simp] theorem execLd_keeps (t : Sys2Proof.Tile) (w : Vx) : s.Keeps (execLd t w s) := by
  simp [execLd]

@[simp] theorem execSt_keeps (t : Sys2Proof.Tile) (w : Vx) : s.Keeps (execSt t w s) := by
  simp [execSt]

@[simp] theorem execVrand_keeps (t : Sys2Proof.Tile) (w : Vx) : s.Keeps (execVrand t w s) := by
  simp [execVrand]

@[simp] theorem execVand_keeps (t : Sys2Proof.Tile) (w : Vx) : s.Keeps (execVand t w s) := by
  simp [execVand]

@[simp] theorem execVor_keeps (t : Sys2Proof.Tile) (w : Vx) : s.Keeps (execVor t w s) := by
  simp [execVor]

@[simp] theorem execVxor_keeps (t : Sys2Proof.Tile) (w : Vx) : s.Keeps (execVxor t w s) := by
  simp [execVxor]

@[simp] theorem execVmov_keeps (t : Sys2Proof.Tile) (w : Vx) : s.Keeps (execVmov t w s) := by
  simp [execVmov]

@[simp] theorem execVrot_keeps (t : Sys2Proof.Tile) (w : Vx) : s.Keeps (execVrot t w s) := by
  simp [execVrot]

@[simp] theorem execVsync_keeps (t : Sys2Proof.Tile) (w : Vx) : s.Keeps (execVsync t w s) := by
  unfold execVsync
  split
  · split
    · split
      · simp
      · exact State.whenWord_keeps fun x tl s => by simp
    · simp
  · simp

@[simp] theorem execLoop_keeps (t : Sys2Proof.Tile) (useReg : Bool) (reg : BitVec 5) (count : U32) : s.Keeps (execLoop t useReg reg count s) := by
  refine State.whenWord_keeps fun x tl s => ?_
  dsimp only [State.fresh]
  repeat' split
  all_goals simp

@[simp] theorem execEndloop_keeps (t : Sys2Proof.Tile) : s.Keeps (execEndloop t s) := by
  refine State.whenWord_keeps fun x tl s => ?_
  repeat' split
  all_goals simp

@[simp] theorem execSets_keeps (t : Sys2Proof.Tile) (reg : BitVec 5) (imm : U32) : s.Keeps (execSets t reg imm s) := by
  refine State.whenWord_keeps fun x tl s => ?_
  simp

@[simp] theorem execAdds_keeps (t : Sys2Proof.Tile) (reg : BitVec 5) (imm : U32) : s.Keeps (execAdds t reg imm s) := by
  refine State.whenWord_keeps fun x tl s => ?_
  split <;> simp

@[simp] theorem execArgs_keeps (t : Sys2Proof.Tile) (reg : BitVec 5) (slot : BitVec 6) : s.Keeps (execArgs t reg slot s) := by
  refine State.whenWord_keeps fun x tl s => ?_
  simp

end
end Sys2Proof.Machine
end

section
/-! ### Commands that keep queue and life cycle: the memory port, adapters and base replacement -/

namespace Sys2Proof.Machine
section
variable (s : State)

@[simp] theorem execMrd_keeps (t : Sys2Proof.Tile) (tensor : U8) (port : BitVec 4) (rows : U32) : s.Keeps (execMrd t tensor port rows s) := by
  refine State.whenRead_keeps (fun x tl s l a u h => ?_) fun x tl a s => ?_
  · dsimp only at h
    split at h
    · exact absurd h (by simp)
    · split at h
      · exact absurd h (by simp)
      · split at h
        · exact absurd h (by simp)
        next hv =>
          simp only [Except.ok.injEq, Prod.mk.injEq] at h
          obtain ⟨-, -, rfl⟩ := h
          simpa using (State.tileReads_same hv).2
  · split
    · dsimp only
      split
      · simp
      next h => simpa using (State.sendPort_same h).2
    · simp

@[simp] theorem execMwr_keeps (t : Sys2Proof.Tile) (tensor : U8) (port : BitVec 4) (rows : U32) : s.Keeps (execMwr t tensor port rows s) := by
  refine State.whenWord_keeps fun x tl s => ?_
  split
  · simp
  · split
    · simp
    · extract_lets n s1 tl1 row tl2 s2
      have h1 : s1.Same s := by simp [s1]
      have h2 : s2.Same s := by simpa [s2] using h1
      split
      · exact h1.2
      · split
        · simpa using h1.2
        · split
          split
          · simpa using h2.2
          next t hdata =>
            have hdata := (State.tileWrite_same hdata).trans h2
            split
            · simpa using hdata.2
            next u hscale =>
              have hu : u.Same s := by
                split at hscale
                · rw [← Except.ok.inj hscale]
                  exact hdata
                · exact (State.tileWrite_same hscale).trans hdata
              split <;> simpa using hu.2

@[simp] theorem execEndProgram_keeps (t : Sys2Proof.Tile) : s.Keeps (execEndProgram t s) := by
  unfold execEndProgram
  split
  · simp
  · refine State.whenWord_keeps fun x tl s => ?_
    dsimp only [State.fresh]
    split <;> simp

@[simp] theorem execPublish_keeps (q : QId) (a : PublishArgs) : s.Keeps (execPublish q a s) := by
  refine State.whenCtx_keeps fun k e c x s => ?_
  dsimp only [State.fresh]
  repeat' split
  all_goals simp

@[simp] theorem execPinAdapter_keeps (q : QId) (a : PinArgs) : s.Keeps (execPinAdapter q a s) := by
  refine State.whenCtx_keeps fun k e c x s => ?_
  repeat' split
  all_goals simp

@[simp] theorem execUnpinAdapter_keeps (q : QId) (slot : U16) : s.Keeps (execUnpinAdapter q slot s) := by
  refine State.whenCtx_keeps fun k e c x s => ?_
  split
  · simp
  · refine (State.withReg_same fun r => ?_).2
    repeat' split
    all_goals simp

@[simp] theorem execEvictAdapter_keeps (q : QId) (slot : U16) : s.Keeps (execEvictAdapter q slot s) := by
  refine State.whenCtx_keeps fun k e c x s => ?_
  split
  · simp
  · refine (State.withReg_same fun r => ?_).2
    dsimp only
    repeat' split
    all_goals simp

@[simp] theorem execAdapterLoadDone_keeps (entry : Nat) (status : Status) : s.Keeps (execAdapterLoadDone entry status s) := by
  dsimp only [execAdapterLoadDone, State.fresh]
  repeat' split
  all_goals simp

@[simp] theorem execAdapterWipeDone_keeps (entry : Nat) : s.Keeps (execAdapterWipeDone entry s) := by
  dsimp only [execAdapterWipeDone, State.fresh]
  repeat' split
  all_goals simp

@[simp] theorem execBasePropose_keeps (q : QId) (handle : U32) : s.Keeps (execBasePropose q handle s) := by
  refine State.whenAdmin_keeps fun k e s => ?_
  dsimp only [State.fresh]
  repeat' split
  all_goals simp

@[simp] theorem execBaseCommit_keeps (q : QId) : s.Keeps (execBaseCommit q s) := by
  refine State.whenAdmin_keeps fun k e s => ?_
  dsimp only [State.fresh]
  repeat' split
  all_goals simp

@[simp] theorem execBaseAbandon_keeps (q : QId) : s.Keeps (execBaseAbandon q s) := by
  refine State.whenAdmin_keeps fun k e s => ?_
  simp

@[simp] theorem execProbeReport_keeps (q : QId) (a : ProbeArgs) : s.Keeps (execProbeReport q a s) := by
  refine State.whenCtx_keeps fun k e c x s => ?_
  dsimp only [State.fresh]
  repeat' split
  all_goals simp

end
end Sys2Proof.Machine
end

section
/-! ### Commands that keep queue and life cycle: the matrix unit, tickets, exchanges and update sets -/

namespace Sys2Proof.Machine
section
variable (s : State)

@[simp] theorem execMxuTileStart_keeps (t : Sys2Proof.Tile) : s.Keeps (execMxuTileStart t s) := by
  dsimp only [execMxuTileStart, State.fresh]
  repeat' split
  all_goals simp

@[simp] theorem execMxuOp_keeps (t : Sys2Proof.Tile) (a : MxuArgs) : s.Keeps (execMxuOp t a s) := by
  unfold execMxuOp
  split
  · simp
  · split
    · simp
    · split
      · simp
      · refine State.whenRead_keeps (fun x tl s l a u h => ?_) fun x tl a s => ?_
        · split at h
          · simp only [Except.ok.injEq, Prod.mk.injEq] at h
            obtain ⟨-, -, rfl⟩ := h
            simp
          · split at h
            · exact absurd h (by simp)
            · split at h
              · exact absurd h (by simp)
              next he =>
                split at h
                · exact absurd h (by simp)
                next hsc =>
                  split at h
                  · exact absurd h (by simp)
                  next hme =>
                    simp only [Except.ok.injEq, Prod.mk.injEq] at h
                    obtain ⟨-, -, rfl⟩ := h
                    exact ((State.readAt_same hme).trans ((State.readAt_same hsc).trans (State.readAt_same he))).2
          · exact absurd h (by simp)
        · split <;> simp

@[simp] theorem execMxuDrain_keeps (t : Sys2Proof.Tile) : s.Keeps (execMxuDrain t s) := by
  unfold execMxuDrain
  split
  · dsimp only
    split
    · simp
    · split
      · simp
      · split
        · split
          next h => simpa using (State.deliver_same h).2
          · simp
        · simp
  · simp

@[simp] theorem execTatt_keeps (t : Sys2Proof.Tile) (slot : U8) (port : BitVec 4) (reg : BitVec 5) (rows : U32) :
    s.Keeps (execTatt t slot port reg rows s) := by
  refine State.whenRead_keeps (fun x tl s l a u h => ?_) fun x tl a s => ?_
  · dsimp only at h
    split at h
    · exact absurd h (by simp)
    · split at h
      · exact absurd h (by simp)
      next hv =>
        simp only [Except.ok.injEq, Prod.mk.injEq] at h
        obtain ⟨-, -, rfl⟩ := h
        exact (State.tileRead_same hv).2
  · split
    · dsimp only
      split <;> simp
    · simp

@[simp] theorem execTsrc_keeps (t : Sys2Proof.Tile) (port : BitVec 4) : s.Keeps (execTsrc t port s) := by
  refine State.whenWord_keeps fun x tl s => ?_
  simp

@[simp] theorem execTroute_keeps (t : Sys2Proof.Tile) (port : BitVec 4) (reg : BitVec 5) : s.Keeps (execTroute t port reg s) := by
  refine State.whenWord_keeps fun x tl s => ?_
  split <;> simp

@[simp] theorem execTsort_keeps (t : Sys2Proof.Tile) (inp outp plan : BitVec 4) : s.Keeps (execTsort t inp outp plan s) := by
  refine State.whenWord_keeps fun x tl s => ?_
  split
  · simp
  next b _ =>
    extract_lets n s1 u byAdapter seen bads emit judged
    have h1 : s1.Same s := by simp [s1]
    have hemit (v : State) (l : List Bool) : (emit v l).Same v := by
      dsimp only [emit]
      split
      next h => simpa using State.emitWindow_same h
      · simp
    split
    · exact h1.2
    · split
      · simpa using h1.2
      · split
        · simpa using h1.2
        · split
          · exact ((hemit ..).trans h1).2
          · simpa using h1.2
          · split
            · simpa using h1.2
            · exact ((hemit ..).trans ((State.judgeWindow_same ..).trans h1)).2

@[simp] theorem execAdapterWaitTimeout_keeps (t : Sys2Proof.Tile) : s.Keeps (execAdapterWaitTimeout t s) := by
  dsimp only [execAdapterWaitTimeout, State.fresh]
  repeat' split
  all_goals simp

@[simp] theorem execTgath_keeps (t : Sys2Proof.Tile) (plan : BitVec 4) (restore pack : Bool) : s.Keeps (execTgath t plan restore pack s) := by
  unfold execTgath
  split
  · simp
  · refine State.whenWord_keeps fun x tl s => ?_
    split
    · extract_lets a s1 tl1 p tl2 n s2 u1 tl3 badPart u2 s3
      have h1 : s1.Same s := by
        dsimp only [s1]
        split <;> simp
      have h2 : s2.Same s := by simpa [s2] using h1
      have h3 : s3.Same s := by simpa [s3] using h2
      split
      · exact h1.2
      · split
        · simpa using h2.2
        · split
          · simpa using h2.2
          · split
            · simpa using h2.2
            · simpa using h3.2
    · simp

@[simp] theorem execTemit_keeps (t : Sys2Proof.Tile) (outp : BitVec 4) : s.Keeps (execTemit t outp s) := by
  unfold execTemit
  split
  · simp
  · refine State.whenWord_keeps fun x tl s => ?_
    split
    · simp
    · dsimp only
      split
      · simp
      next h => simpa using (State.sentAny_same h).2

@[simp] theorem execXallred_keeps (t : Sys2Proof.Tile) (wire inp outp : BitVec 4) (group : U8) (count : U32) : s.Keeps (execXallred t wire inp outp group count s) := by
  simp [execXallred]

@[simp] theorem execXredsc_keeps (t : Sys2Proof.Tile) (wire inp outp : BitVec 4) (group : U8) (count : U32) : s.Keeps (execXredsc t wire inp outp group count s) := by
  simp [execXredsc]

@[simp] theorem execXallga_keeps (t : Sys2Proof.Tile) (wire inp outp : BitVec 4) (group : U8) (count : U32) : s.Keeps (execXallga t wire inp outp group count s) := by
  simp [execXallga]

@[simp] theorem execXdisp_keeps (t : Sys2Proof.Tile) (inp outp : BitVec 4) (group : U8) : s.Keeps (execXdisp t inp outp group s) := by
  refine State.whenWord_keeps fun x tl s => ?_
  dsimp only
  split
  · simp
  · split
    · repeat' split
      all_goals simp
    · split
      · simp
      · split
        · simp
        · split
          · simp
          · split
            · simp
            next h =>
              have hsent := (State.sentAny_same h).2
              split <;> simpa using hsent
  · simp

@[simp] theorem execXcomb_keeps (t : Sys2Proof.Tile) (inp outp : BitVec 4) (group : U8) : s.Keeps (execXcomb t inp outp group s) := by
  refine State.whenWord_keeps fun x tl s => ?_
  dsimp only
  split
  · simp
  · simp
  · split
    · simp
    · split
      · split <;> simp
      · split
        · simp
        · split
          · simp
          next h => simpa using (State.sentAny_same h).2

@[simp] theorem execRecipeLoad_keeps (q : QId) (a : RecipeArgs) : s.Keeps (execRecipeLoad q a s) := by
  refine State.whenCtx_keeps fun k e c x s => ?_
  split
  · split
    · simp
    · split
      · simp
      · refine (State.withBytes_same fun b s => ?_).2
        split <;> simp
  · simp

@[simp] theorem execUpdateSetCreate_keeps (q : QId) (a : SetArgs) : s.Keeps (execUpdateSetCreate q a s) := by
  refine State.whenCtx_keeps fun k e c x s => ?_
  split
  · refine (State.withBytes_same fun b s => ?_).2
    extract_lets n grp key mode
    split
    · split
      · simp
      · split
        · simp
        · refine State.withBytes_same fun ds s => ?_
          extract_lets each descs u s1 s2
          split
          · simp
          · split
            · simp
            · have h2 : s2.Same s1 := by
                refine foldl_same _ _ fun s i => ?_
                split <;> simp
              exact (State.complete_same ..).trans (h2.trans (State.setUset_same ..))
    · simp
  · simp

@[simp] theorem execUpdateSetDestroy_keeps (q : QId) (set : U8) : s.Keeps (execUpdateSetDestroy q set s) := by
  refine State.whenCtx_keeps fun k e c x s => ?_
  dsimp only [State.fresh]
  repeat' split
  all_goals simp

@[simp] theorem execUfeed_keeps (t : Sys2Proof.Tile) (fmt port set : BitVec 4) (reg : BitVec 5) (count : U32) : s.Keeps (execUfeed t fmt port set reg count s) := by
  refine State.whenWord_keeps fun x tl s => ?_
  dsimp only [State.fresh]
  repeat' split
  all_goals simp

@[simp] theorem execUend_keeps (t : Sys2Proof.Tile) (set : BitVec 4) : s.Keeps (execUend t set s) := by
  refine State.whenWord_keeps fun x tl s => ?_
  dsimp only [State.fresh]
  repeat' split
  all_goals simp

end
end Sys2Proof.Machine
end

section
/-! ### Commands that keep queue and life cycle: buckets, runs, answers of memory, contexts, the Carousel, snapshots and the troupe -/

namespace Sys2Proof.Machine
section
variable (s : State)

/-- What applying a bucket ends in has another state's queue, time and life cycle. -/
def Applied.Same (s : State) : Applied → Prop
  | .waits => True
  | .done t _ _ => t.Same s
  | .fault t _ _ => t.Same s

theorem State.applyBucket_same (k di first : Nat) (gs : List Nat) : (s.applyBucket k di first gs).Same s := by
  unfold State.applyBucket
  split
  · trivial
  · split
    · trivial
    · extract_lets r blocks G sum bad nb fails clip c clipped u1 u2 u3 p s1 gOf s2
      have h2 : s2.Same s := by simp [s2, s1]
      split
      · trivial
      · split
        · exact (State.bumpPart_same ..).trans (State.setUset_same ..)
        · split
          next t more stop h =>
          have ht : t.Same s := (fst_same h (State.applyRange_same ..)).trans h2
          split
          · exact (State.bumpPart_same ..).trans ht
          · exact (State.bumpPart_same ..).trans ht
          · exact ht
          · dsimp only
            split
            · trivial
            · exact (State.bumpPart_same ..).trans ((State.bumpPart_same ..).trans ((State.setUset_same ..).trans ((State.issueUnitWrites_same ..).trans ht)))

variable {s} in
theorem State.applyBucket_fault {k di first : Nat} {gs : List Nat} {t : State} {st : Status} {sc : Scope} (h : s.applyBucket k di first gs = .fault t st sc) :
    t.SameLife s := by
  have hsame := s.applyBucket_same k di first gs
  rw [h] at hsame
  exact hsame.2

variable {s} in
theorem State.applyBucket_done {k di first : Nat} {gs : List Nat} {t : State} {wc : Bytes} {ok : Bool} (h : s.applyBucket k di first gs = .done t wc ok) :
    t.SameLife s := by
  have hsame := s.applyBucket_same k di first gs
  rw [h] at hsame
  exact hsame.2

@[simp] theorem execUpdBucketApply_keeps (p : Part) (set : BitVec 4) : s.Keeps (execUpdBucketApply p set s) := by
  unfold execUpdBucketApply
  extract_lets k
  split
  · simp
  · split
    · simp
    · refine State.whenRails_keeps ?_
      split
      · split
        · simp
        · split
          · simp
          · split
            next h => exact State.keeps_next.2 (State.fetchState_same h).2
            · split
              · simp
              next h => simpa using State.applyBucket_fault h
              next h =>
                have ht := State.applyBucket_done h
                split <;> simpa using ht
      next gi _ =>
        extract_lets g
        split
        · simp
        · split
          · simp
          · extract_lets t
            split
            · simp
            · split
              extract_lets gs
              split
              · simp
              · split
                next h => exact State.keeps_next.2 (State.fetchState_same h).2
                · split
                  · simp
                  next h => simpa using State.applyBucket_fault h
                  next h =>
                    have ht := State.applyBucket_done h
                    split <;> simpa using ht

@[simp] theorem execRunStart_keeps (r : Nat) : s.Keeps (execRunStart r s) := by
  dsimp only [execRunStart, State.fresh]
  repeat' split
  all_goals simp

@[simp] theorem execRunGroupWaitLimit_keeps (r : Nat) : s.Keeps (execRunGroupWaitLimit r s) := by
  dsimp only [execRunGroupWaitLimit, State.fresh]
  repeat' split
  all_goals simp

@[simp] theorem execRunComplete_keeps (r : Nat) : s.Keeps (execRunComplete r s) := by
  dsimp only [execRunComplete, State.fresh]
  repeat' split
  all_goals simp

@[simp] theorem execPipelineWatchdog_keeps (r : Nat) : s.Keeps (execPipelineWatchdog r s) := by
  dsimp only [execPipelineWatchdog, State.fresh]
  repeat' split
  all_goals simp

@[simp] theorem execHbmReadReturn_keeps (acc : Nat) (v : Arrival) : s.Keeps (execHbmReadReturn acc v s) := by
  unfold execHbmReadReturn
  split
  · simp
  · split
    · simp
    · refine State.whenRails_keeps ?_
      dsimp only
      repeat' split
      all_goals simp

@[simp] theorem execHbmAccessTimeout_keeps (acc : Nat) : s.Keeps (execHbmAccessTimeout acc s) := by
  dsimp only [execHbmAccessTimeout, State.fresh]
  repeat' split
  all_goals simp

@[simp] theorem execHbmWriteAnswer_keeps (acc : Nat) (v : Arrival) : s.Keeps (execHbmWriteAnswer acc v s) := by
  unfold execHbmWriteAnswer
  split
  · simp
  · split
    · simp
    · refine State.whenRails_keeps ?_
      dsimp only
      repeat' split
      all_goals simp

@[simp] theorem execFlashPartReturn_keeps (acc part : Nat) (v : PartAnswer) : s.Keeps (execFlashPartReturn acc part v s) := by
  dsimp only [execFlashPartReturn, State.fresh]
  repeat' split
  all_goals simp

@[simp] theorem execFlashPartLate_keeps (acc part : Nat) : s.Keeps (execFlashPartLate acc part s) := by
  dsimp only [execFlashPartLate, State.fresh]
  repeat' split
  all_goals simp

@[simp] theorem execTierStallTimeout_keeps (acc : Nat) : s.Keeps (execTierStallTimeout acc s) := by
  dsimp only [execTierStallTimeout, State.fresh]
  repeat' split
  all_goals simp

@[simp] theorem execFlashWriteDone_keeps (acc : Nat) (okWrite : Bool) : s.Keeps (execFlashWriteDone acc okWrite s) := by
  dsimp only [execFlashWriteDone, State.fresh]
  repeat' split
  all_goals simp

@[simp] theorem execSegmentErase_keeps (seg : Nat) : s.Keeps (execSegmentErase seg s) := by
  unfold execSegmentErase
  split <;> simp

@[simp] theorem execSegmentRelocate_keeps (seg : Nat) (pick : List Nat) (failed : Bool) : s.Keeps (execSegmentRelocate seg pick failed s) := by
  dsimp only [execSegmentRelocate, State.fresh]
  repeat' split
  all_goals simp

@[simp] theorem execPageWipeDone_keeps (frame : Nat) : s.Keeps (execPageWipeDone frame s) := by
  unfold execPageWipeDone
  split
  · exact State.whenRails_keeps (by simp)
  · simp

@[simp] theorem execSubtreeRebuild_keeps (height node : Nat) (fromCatcher : List Nat) : s.Keeps (execSubtreeRebuild height node fromCatcher s) := by
  unfold execSubtreeRebuild
  split
  · simp
  · refine State.whenRails_keeps ?_
    extract_lets frames kept s1
    split
    next lost t h =>
    have ht : t.Same s1 := by
      refine snd_same h (foldl_snd_same _ _ fun acc e => ?_)
      split
      · simp
      · split
        · simp
        · split
          · simp
          · split
            next hv => exact snd_same hv (State.restorePage_same ..)
    simpa using ht.2

@[simp] theorem execContextCreate_keeps (q : QId) (a : CtxArgs) (pick : Nat) : s.Keeps (execContextCreate q a pick s) := by
  refine State.whenAdmin_keeps fun k e s => ?_
  dsimp only [State.fresh]
  split
  · simp
  · split
    next h _ => simpa using (State.newRing_same h).2
    · simp

@[simp] theorem execQueueCreate_keeps (q : QId) (a : QueueArgs) (pick : Nat) : s.Keeps (execQueueCreate q a pick s) := by
  refine State.whenAdmin_keeps fun k e s => ?_
  dsimp only
  split
  · simp
  · simp
  · split
    · simp
    next h => simpa using (State.newRing_same h).2

@[simp] theorem execQueueAbort_keeps (q : QId) (a : QueueRef) : s.Keeps (execQueueAbort q a s) := by
  refine State.whenAdmin_keeps fun k e s => ?_
  dsimp only [State.fresh]
  repeat' split
  all_goals simp

@[simp] theorem execQueueDestroy_keeps (q : QId) (a : QueueRef) : s.Keeps (execQueueDestroy q a s) := by
  refine State.whenAdmin_keeps fun k e s => ?_
  dsimp only [State.fresh]
  repeat' split
  all_goals simp

@[simp] theorem execContextDestroy_keeps (q : QId) (ctx : U16) : s.Keeps (execContextDestroy q ctx s) := by
  refine State.whenAdmin_keeps fun k e s => ?_
  split <;> simp

@[simp] theorem execPartitionAbort_keeps (q : QId) (part : U8) : s.Keeps (execPartitionAbort q part s) := by
  refine State.whenAdmin_keeps fun k e s => ?_
  repeat' split
  all_goals simp

@[simp] theorem execObjectFree_keeps (q : QId) (handle : U32) : s.Keeps (execObjectFree q handle s) := by
  refine State.whenCtx_keeps fun k e c x s => ?_
  split <;> simp

@[simp] theorem execRekey_keeps (q : QId) (slot : U16) : s.Keeps (execRekey q slot s) := by
  unfold execRekey
  split
  · simp
  · refine State.whenCtx_keeps fun k e c x s => ?_
    dsimp only [State.fresh]
    repeat' split
    all_goals simp

@[simp] theorem execCarouselBlock_keeps (sweep : Fin 8) (badLines : List Nat) (unverifiable : Option Nat) :
    s.Keeps (execCarouselBlock sweep badLines unverifiable s) := by
  unfold execCarouselBlock
  extract_lets n
  split
  · simp
  · split
    · simp
    · split
      · simp
      · split
        · simp
        · extract_lets held
          split
          · simp
          · split
            · simp
            · split
              · simp
              · refine State.whenRails_keeps ?_
                dsimp only
                repeat' split
                all_goals simp

@[simp] theorem execCarouselFlashPage_keeps (sweep : Fin 8) (pick : Nat) (failed : Option Status) : s.Keeps (execCarouselFlashPage sweep pick failed s) := by
  unfold execCarouselFlashPage
  extract_lets n spent
  split
  · simp
  · split
    · simp
    · split
      · simp
      · split
        · simp
        · split
          · simp
          · have hspent : spent.SameLife s := by simp [spent]
            split
            · simpa using hspent
            · simpa using hspent
            · extract_lets p
              split
              · simpa using hspent
              · refine State.keeps_trans (State.whenRails_keeps ?_) hspent
                split
                · simp
                · split
                  · simp
                  next h => simpa using (State.pickFlash_same h).2

@[simp] theorem execSnapshot_keeps (q : QId) : s.Keeps (execSnapshot q s) := by
  refine State.whenCtx_keeps fun k e c x s => ?_
  split <;> simp

@[simp] theorem execSnapPageCopy_keeps (p : Part) (failed : Option Status) : s.Keeps (execSnapPageCopy p failed s) := by
  unfold execSnapPageCopy
  split
  · simp
  · split
    · simp
    · extract_lets kept
      have hkept : kept.SameLife s := by simp [kept]
      split
      · split <;> simpa using hkept
      · split
        · simpa using hkept
        · extract_lets y
          split
          · simpa using hkept
          · split
            · simpa using hkept
            · simpa using hkept
            · simpa using hkept
            · refine State.keeps_trans (State.whenRails_keeps ?_) hkept
              dsimp only
              repeat' split
              all_goals simp

@[simp] theorem execSnapshotSeal_keeps (p : Part) (failed : Option Status) : s.Keeps (execSnapshotSeal p failed s) := by
  dsimp only [execSnapshotSeal, State.fresh]
  repeat' split
  all_goals simp

@[simp] theorem execTroupeSet_keeps (q : QId) (a : TableArgs) : s.Keeps (execTroupeSet q a s) := by
  refine State.whenAdmin_keeps fun k e s => (State.withTable_same fun b s => ?_).2
  split <;> simp

@[simp] theorem execGroupSet_keeps (q : QId) (a : TableArgs) : s.Keeps (execGroupSet q a s) := by
  refine State.whenAdmin_keeps fun k e s => (State.withTable_same fun b s => ?_).2
  split <;> simp

@[simp] theorem execGroupClear_keeps (q : QId) (a : TableArgs) : s.Keeps (execGroupClear q a s) := by
  refine State.whenAdmin_keeps fun k e s => (State.withTable_same fun b s => ?_).2
  dsimp only
  repeat' split
  all_goals simp

@[simp] theorem execGroupJoin_keeps (q : QId) (a : JoinArgs) : s.Keeps (execGroupJoin q a s) := by
  refine State.whenCtx_keeps fun k e c x s => ?_
  split
  · simp
  · split
    · simp
    · simp
    next h => simpa using (State.tryJoin_same h).2

@[simp] theorem execRestoreGo_keeps (p : Part) : s.Keeps (execRestoreGo p s) := by
  dsimp only [execRestoreGo, State.fresh]
  repeat' split
  all_goals simp

@[simp] theorem execRestoreDone_keeps (p : Part) (failed : Option Status) : s.Keeps (execRestoreDone p failed s) := by
  dsimp only [execRestoreDone, State.fresh]
  repeat' split
  all_goals simp

@[simp] theorem execReplayArm_keeps (p : Part) (value : U64) : s.Keeps (execReplayArm p value s) := by
  unfold execReplayArm
  split <;> simp

end
end Sys2Proof.Machine
end

section
/-! ### Commands that keep queue and life cycle: digests, collectives, mirrors and takeovers -/

namespace Sys2Proof.Machine
section
variable (s : State)

@[simp] theorem execDigestListArrive_keeps (p : Part) (set : BitVec 4) (lists : List (U8 × List U128)) : s.Keeps (execDigestListArrive p set lists s) := by
  dsimp only [execDigestListArrive, State.fresh]
  repeat' split
  all_goals simp

@[simp] theorem execLineDigestsArrive_keeps (p : Part) (set : BitVec 4) (page : U32) (lines : List (Nat × Bytes)) : s.Keeps (execLineDigestsArrive p set page lines s) := by
  dsimp only [execLineDigestsArrive, State.fresh]
  repeat' split
  all_goals simp

@[simp] theorem execUpdAttemptClose_keeps (p : Part) (set : BitVec 4) : s.Keeps (execUpdAttemptClose p set s) := by
  dsimp only [execUpdAttemptClose, State.fresh]
  repeat' split
  all_goals simp

@[simp] theorem execCollectiveUp_keeps (m : GroupMsg) : s.Keeps (execCollectiveUp m s) := by
  dsimp only [execCollectiveUp, State.fresh]
  repeat' split
  all_goals simp

@[simp] theorem execCollectiveDown_keeps (m : GroupMsg) : s.Keeps (execCollectiveDown m s) := by
  unfold execCollectiveDown
  dsimp only
  split
  · simp
  · split
    · split <;> simp
    · split
      · simp
      · refine State.keeps_next.2 (State.Same.trans ?_ (State.arrived_same s kDown m)).2
        refine (State.takeCopies_same ..).trans ((State.progress_same ..).trans (foldl_same _ _ fun s c => ?_))
        split <;> simp

@[simp] theorem execCollectiveClose_keeps (m : GroupMsg) : s.Keeps (execCollectiveClose m s) := by
  dsimp only [execCollectiveClose, State.fresh]
  repeat' split
  all_goals simp

@[simp] theorem execCollectiveVerdict_keeps (m : GroupMsg) : s.Keeps (execCollectiveVerdict m s) := by
  dsimp only [execCollectiveVerdict, State.fresh]
  repeat' split
  all_goals simp

@[simp] theorem execCollectiveAbort_keeps (m : GroupMsg) : s.Keeps (execCollectiveAbort m s) := by
  unfold execCollectiveAbort
  extract_lets gi s1 g
  have h1 : s1.Same s := by simp [s1]
  clear_value s1
  split
  · simpa using h1.2
  · dsimp -zeta only [State.fresh]
    extract_lets v sets s2 s3
    have h2 : s2.Same s := by
      dsimp only [s2]
      split
      · simpa using h1
      · refine (foldl_same _ _ fun s e => ?_).trans h1
        split <;> simp
    have h3 : s3.Same s := by simpa [s3] using h2
    split
    · exact State.keeps_next.2 h3.2
    · refine State.keeps_next.2 ((foldl_same _ _ fun s e => ?_).trans h3).2
      split
      · split <;> simp
      · simp

@[simp] theorem execDispatch_keeps (m : GroupMsg) : s.Keeps (execDispatch m s) := by
  simp [execDispatch]

@[simp] theorem execCombine_keeps (m : GroupMsg) : s.Keeps (execCombine m s) := by
  simp [execCombine]

@[simp] theorem execGroupWaitLimit_keeps (group : U8) : s.Keeps (execGroupWaitLimit group s) := by
  dsimp only [execGroupWaitLimit, State.fresh]
  repeat' split
  all_goals simp

@[simp] theorem execMirrorLine_keeps (m : MirrorMsg) : s.Keeps (execMirrorLine m s) := by
  simp [execMirrorLine]

@[simp] theorem execMirrorState_keeps (m : MirrorMsg) : s.Keeps (execMirrorState m s) := by
  simp [execMirrorState]

@[simp] theorem execMirrorCommit_keeps (m : MirrorMsg) : s.Keeps (execMirrorCommit m s) := by
  simp [execMirrorCommit]

@[simp] theorem execMirrorFlash_keeps (m : MirrorMsg) : s.Keeps (execMirrorFlash m s) := by
  simp [execMirrorFlash]

@[simp] theorem execMirrorSnap_keeps (m : MirrorMsg) : s.Keeps (execMirrorSnap m s) := by
  simp [execMirrorSnap]

@[simp] theorem execMirrorResync_keeps (m : MirrorMsg) : s.Keeps (execMirrorResync m s) := by
  simp [execMirrorResync]

@[simp] theorem execResyncDone_keeps (p : Part) : s.Keeps (execResyncDone p s) := by
  dsimp only [execResyncDone, State.fresh]
  repeat' split
  all_goals simp

@[simp] theorem execMirrorAck_keeps (m : MirrorMsg) : s.Keeps (execMirrorAck m s) := by
  dsimp only [execMirrorAck, State.fresh]
  repeat' split
  all_goals simp

@[simp] theorem execMirrorPage_keeps (m : MirrorMsg) : s.Keeps (execMirrorPage m s) := by
  dsimp only [execMirrorPage, State.fresh]
  repeat' split
  all_goals simp

@[simp] theorem execMirrorPair_keeps (m : MirrorMsg) : s.Keeps (execMirrorPair m s) := by
  dsimp only [execMirrorPair, State.fresh]
  repeat' split
  all_goals simp

@[simp] theorem execTakeoverNotice_keeps (flyer : Pos) (identity : U128) (ts : U64) : s.Keeps (execTakeoverNotice flyer identity ts s) := by
  unfold execTakeoverNotice
  generalize List.range 16 = parts
  extract_lets b f c s1 old s2
  have h1 : s1.Same s := by simp [s1]
  have h2 : s2.Same s := by
    dsimp only [s2]
    split
    · exact h1
    · simpa using h1
  clear_value s1 s2
  split
  · exact State.keeps_next.2 h1.2
  next d _ =>
    split
    · exact State.keeps_next.2 h1.2
    · extract_lets s3
      have h3 : s3.Same s := by simpa [s3] using h2
      split
      · refine State.keeps_next.2 ((foldl_same _ _ fun s p => ?_).trans h3).2
        split
        · split <;> simp
        · simp
      · exact State.keeps_next.2 h3.2

@[simp] theorem execFenceNoticeTimeout_keeps (p : Part) : s.Keeps (execFenceNoticeTimeout p s) := by
  dsimp only [execFenceNoticeTimeout, State.fresh]
  repeat' split
  all_goals simp

end
end Sys2Proof.Machine
end

section
/-! ### Commands that keep queue and life cycle: ports, links and registers -/

namespace Sys2Proof.Machine
section
variable (s : State)

@[simp] theorem execRigFrameSlot_keeps (port : PortNo) : s.Keeps (execRigFrameSlot port s) := by
  unfold execRigFrameSlot
  split <;> simp

@[simp] theorem execRigFrameReceive_keeps (port : PortNo) (o : FrameOutcome) (flit : Flit) : s.Keeps (execRigFrameReceive port o flit s) := by
  dsimp only [execRigFrameReceive, State.fresh]
  repeat' split
  all_goals simp

@[simp] theorem execFlitReceive_keeps (port : PortNo) (flit : Flit) : s.Keeps (execFlitReceive port flit s) := by
  dsimp only [execFlitReceive, State.fresh]
  repeat' split
  all_goals simp

@[simp] theorem execRigAckTimeout_keeps (port : PortNo) : s.Keeps (execRigAckTimeout port s) := by
  dsimp only [execRigAckTimeout, State.fresh]
  repeat' split
  all_goals simp

@[simp] theorem execRigHeartbeatSend_keeps (port : PortNo) : s.Keeps (execRigHeartbeatSend port s) := by
  dsimp only [execRigHeartbeatSend, State.fresh]
  repeat' split
  all_goals simp

@[simp] theorem execRigHeartbeatReceive_keeps (port : PortNo) (hb : Heartbeat) (tArrive : U64) : s.Keeps (execRigHeartbeatReceive port hb tArrive s) := by
  dsimp only [execRigHeartbeatReceive, State.fresh]
  repeat' split
  all_goals simp

@[simp] theorem execRigHeartbeatMiss_keeps (port : PortNo) (k : U64) : s.Keeps (execRigHeartbeatMiss port k s) := by
  dsimp only [execRigHeartbeatMiss, State.fresh]
  repeat' split
  all_goals simp

@[simp] theorem execTimeParentTimeout_keeps : s.Keeps (execTimeParentTimeout s) := by
  dsimp only [execTimeParentTimeout, State.fresh]
  repeat' split
  all_goals simp

@[simp] theorem execPortTrainStart_keeps (port : PortNo) : s.Keeps (execPortTrainStart port s) := by
  dsimp only [execPortTrainStart, State.fresh]
  repeat' split
  all_goals simp

@[simp] theorem execPortRetrainTimer_keeps (port : PortNo) : s.Keeps (execPortRetrainTimer port s) := by
  dsimp only [execPortRetrainTimer, State.fresh]
  repeat' split
  all_goals simp

@[simp] theorem execPortTrainTimeout_keeps (port : PortNo) : s.Keeps (execPortTrainTimeout port s) := by
  dsimp only [execPortTrainTimeout, State.fresh]
  repeat' split
  all_goals simp

@[simp] theorem execPortLockLost_keeps (port : PortNo) : s.Keeps (execPortLockLost port s) := by
  simp [execPortLockLost]

@[simp] theorem execPortLaneLock_keeps (port : PortNo) : s.Keeps (execPortLaneLock port s) := by
  dsimp only [execPortLaneLock, State.fresh]
  repeat' split
  all_goals simp

@[simp] theorem execAuthHello_keeps (port : PortNo) (m : AuthMsg) : s.Keeps (execAuthHello port m s) := by
  unfold execAuthHello
  dsimp only [State.fresh]
  split
  · simp
  · split
    · simp
    · split
      · simp
      · simp

@[simp] theorem execAuthReply_keeps (port : PortNo) (m : AuthMsg) : s.Keeps (execAuthReply port m s) := by
  unfold execAuthReply
  dsimp only
  split
  · split
    · simp
    · split
      · simp
      · split
        · simp
        · simp
  · simp

@[simp] theorem execAuthFinish_keeps (port : PortNo) (m : AuthMsg) : s.Keeps (execAuthFinish port m s) := by
  dsimp only [execAuthFinish, State.fresh]
  repeat' split
  all_goals simp

@[simp] theorem execAuthTimeout_keeps (port : PortNo) : s.Keeps (execAuthTimeout port s) := by
  dsimp only [execAuthTimeout, State.fresh]
  repeat' split
  all_goals simp

@[simp] theorem execFwdSubmission_keeps (queue : U16) (index : U32) (ts : U64) (entry : Bytes) : s.Keeps (execFwdSubmission queue index ts entry s) := by
  dsimp only [execFwdSubmission, State.fresh]
  repeat' split
  all_goals simp

@[simp] theorem execFwdCompletion_keeps (pos : Pos) (queue : U16) (index : U32) (record : Bytes) : s.Keeps (execFwdCompletion pos queue index record s) := by
  dsimp only [execFwdCompletion, State.fresh]
  repeat' split
  all_goals simp

@[simp] theorem execFwdEvent_keeps (pos : Pos) (event : U32) (record : Bytes) : s.Keeps (execFwdEvent pos event record s) := by
  simp [execFwdEvent]

@[simp] theorem execFwdRegResponse_keeps (pos : Pos) (off value : U64) : s.Keeps (execFwdRegResponse pos off value s) := by
  simp [execFwdRegResponse]

@[simp] theorem execMemberUnreachable_keeps (pos : Pos) : s.Keeps (execMemberUnreachable pos s) := by
  dsimp only [execMemberUnreachable, State.fresh]
  repeat' split
  all_goals simp

@[simp] theorem execRegWrite_keeps (core : Bool) (fn : Fn) (off : U32) (size : Nat) (value : U64) : s.Keeps (execRegWrite core fn off size value s) := by
  unfold execRegWrite
  split <;> simp

@[simp] theorem execNegGo_keeps (fn : Fn) : s.Keeps (execNegGo fn s) := by
  dsimp only [execNegGo, State.fresh]
  repeat' split
  all_goals simp

@[simp] theorem execDbgAccess_keeps (off : U32) (write : Bool) (size : Nat) (value : U64) : s.Keeps (execDbgAccess off write size value s) := by
  dsimp only [execDbgAccess, State.fresh]
  repeat' split
  all_goals simp

end
end Sys2Proof.Machine
end

section
/-! ### Commands that keep queue and life cycle: components, start-up, loops, firmware, PCI Express and sideband -/

namespace Sys2Proof.Machine
section
variable (s : State)

@[simp] theorem execSecFault_keeps : s.Keeps (execSecFault s) := by
  simp [execSecFault]

@[simp] theorem execComponentWatchdog_keeps (c : Comp) : s.Keeps (execComponentWatchdog c s) := by
  simp [execComponentWatchdog]

@[simp] theorem execComponentRestartDone_keeps (c : Comp) (codeOk : Bool) : s.Keeps (execComponentRestartDone c codeOk s) := by
  dsimp only [execComponentRestartDone, State.fresh]
  repeat' split
  all_goals simp

@[simp] theorem execCipherUnitFail_keeps (_unit : Nat) : s.Keeps (execCipherUnitFail _unit s) := by
  simp [execCipherUnitFail]

@[simp] theorem execPartitionCoreWfi_keeps (core : Fin 32) (enter : Bool) : s.Keeps (execPartitionCoreWfi core enter s) := by
  simp [execPartitionCoreWfi]

@[simp] theorem execRegHighWordLatch_keeps (core : Bool) (fn : Fn) (place : ReadAt) : s.Keeps (execRegHighWordLatch core fn place s) := by
  dsimp only [execRegHighWordLatch, State.fresh]
  repeat' split
  all_goals simp

@[simp] theorem execFwdRegRequest_keeps (head : Pos) (off value : U64) : s.Keeps (execFwdRegRequest head off value s) := by
  unfold execFwdRegRequest
  dsimp only [State.fresh]
  split
  · split <;> simp
  · simp

@[simp] theorem execPowerGood_keeps (o : StartupOutcome) : s.Keeps (execPowerGood o s) := by
  unfold execPowerGood
  split <;> simp

@[simp] theorem execPowerGoodLoss_keeps : s.Keeps (execPowerGoodLoss s) := by
  unfold execPowerGoodLoss
  split <;> simp

@[simp] theorem execRomRailRecheck_keeps (railsOk : Bool) : s.Keeps (execRomRailRecheck railsOk s) := by
  dsimp only [execRomRailRecheck, State.fresh]
  repeat' split
  all_goals simp

@[simp] theorem execRailOutOfTolerance_keeps (rail : Fin 19) : s.Keeps (execRailOutOfTolerance rail s) := by
  dsimp only [execRailOutOfTolerance, State.fresh]
  repeat' split
  all_goals simp

@[simp] theorem execPerstAssert_keeps (o : StartupOutcome) : s.Keeps (execPerstAssert o s) := by
  dsimp only [execPerstAssert, State.fresh]
  repeat' split
  all_goals simp

@[simp] theorem execPerstRelease_keeps : s.Keeps (execPerstRelease s) := by
  simp [execPerstRelease]

@[simp] theorem execWakeN_keeps (o : StartupOutcome) : s.Keeps (execWakeN o s) := by
  unfold execWakeN
  split <;> simp

@[simp] theorem execWarmReset_keeps (o : StartupOutcome) : s.Keeps (execWarmReset o s) := by
  unfold execWarmReset
  split <;> simp

@[simp] theorem execFaultAutoReset_keeps (o : StartupOutcome) : s.Keeps (execFaultAutoReset o s) := by
  dsimp only [execFaultAutoReset, State.fresh]
  repeat' split
  all_goals simp

@[simp] theorem execPwrStateSleep_keeps : s.Keeps (execPwrStateSleep s) := by
  unfold execPwrStateSleep
  split <;> simp

@[simp] theorem execThermalShutdown_keeps (celsius : Nat) : s.Keeps (execThermalShutdown celsius s) := by
  dsimp only [execThermalShutdown, State.fresh]
  repeat' split
  all_goals simp

@[simp] theorem execAonTick_keeps : s.Keeps (execAonTick s) := by
  unfold execAonTick
  split <;> simp

@[simp] theorem execBudgetPeriod_keeps : s.Keeps (execBudgetPeriod s) := by
  unfold execBudgetPeriod
  split <;> simp

@[simp] theorem execPwrDomainLoop_keeps : s.Keeps (execPwrDomainLoop s) := by
  unfold execPwrDomainLoop
  split <;> simp

@[simp] theorem execPwrCapLoop_keeps (watts : Nat) : s.Keeps (execPwrCapLoop watts s) := by
  unfold execPwrCapLoop
  split <;> simp

@[simp] theorem execPwrThermalLoop_keeps (celsius : Nat) : s.Keeps (execPwrThermalLoop celsius s) := by
  unfold execPwrThermalLoop
  split <;> simp

@[simp] theorem execPowerBrakeAssert_keeps : s.Keeps (execPowerBrakeAssert s) := by
  simp [execPowerBrakeAssert]

@[simp] theorem execPowerBrakeRelease_keeps : s.Keeps (execPowerBrakeRelease s) := by
  simp [execPowerBrakeRelease]

@[simp] theorem execThermalTrip_keeps (celsius : Nat) : s.Keeps (execThermalTrip celsius s) := by
  dsimp only [execThermalTrip, State.fresh]
  repeat' split
  all_goals simp

@[simp] theorem execThermalTripClear_keeps (celsius : Nat) : s.Keeps (execThermalTripClear celsius s) := by
  unfold execThermalTripClear
  split <;> simp

@[simp] theorem execDomainAwake_keeps (d : Domain) : s.Keeps (execDomainAwake d s) := by
  dsimp only [execDomainAwake, State.fresh]
  repeat' split
  all_goals simp

@[simp] theorem execDomainWakeTimeout_keeps (d : Domain) : s.Keeps (execDomainWakeTimeout d s) := by
  dsimp only [execDomainWakeTimeout, State.fresh]
  repeat' split
  all_goals simp

@[simp] theorem execDomainIdle_keeps (d : Domain) : s.Keeps (execDomainIdle d s) := by
  dsimp only [execDomainIdle, State.fresh]
  repeat' split
  all_goals simp

@[simp] theorem execFwStart_keeps : s.Keeps (execFwStart s) := by
  dsimp only [execFwStart, State.fresh]
  repeat' split
  all_goals simp

@[simp] theorem execFwActivate_keeps (o : StartupOutcome) : s.Keeps (execFwActivate o s) := by
  unfold execFwActivate
  split <;> simp

@[simp] theorem execBootFlashWriteDone_keeps (readBack : Bytes) (o : StartupOutcome) : s.Keeps (execBootFlashWriteDone readBack o s) := by
  dsimp only [execBootFlashWriteDone, State.fresh]
  repeat' split
  all_goals simp

@[simp] theorem execHostReadCompletion_keeps (acc : Nat) (blocks : List HostBlock) (fw : Option FwImage) : s.Keeps (execHostReadCompletion acc blocks fw s) := by
  dsimp only [execHostReadCompletion, State.fresh]
  repeat' split
  all_goals simp

@[simp] theorem execHostCompletionTimeout_keeps (acc : Nat) : s.Keeps (execHostCompletionTimeout acc s) := by
  dsimp only [execHostCompletionTimeout, State.fresh]
  repeat' split
  all_goals simp

@[simp] theorem execFunctionLevelReset_keeps (fn : Fn) : s.Keeps (execFunctionLevelReset fn s) := by
  dsimp only [execFunctionLevelReset, State.fresh]
  repeat' split
  all_goals simp

@[simp] theorem execIdeCheckFail_keeps (fn : Fn) : s.Keeps (execIdeCheckFail fn s) := by
  dsimp only [execIdeCheckFail, State.fresh]
  repeat' split
  all_goals simp

@[simp] theorem execTdispLeaveRun_keeps (fn : Fn) : s.Keeps (execTdispLeaveRun fn s) := by
  unfold execTdispLeaveRun
  split <;> simp

@[simp] theorem execPcieLinkChange_keeps (rate : BitVec 3) (width : BitVec 5) (flit : Bool) : s.Keeps (execPcieLinkChange rate width flit s) := by
  unfold execPcieLinkChange
  split <;> simp

@[simp] theorem execPcieConfigRequest_keeps (fn : Fn) (c : CfgReq) : s.Keeps (execPcieConfigRequest fn c s) := by
  dsimp only [execPcieConfigRequest, State.fresh]
  repeat' split
  all_goals simp

@[simp] theorem execI3cDaa_keeps (addr : BitVec 7) : s.Keeps (execI3cDaa addr s) := by
  unfold execI3cDaa
  split <;> simp

@[simp] theorem execMctpControl_keeps (request : Bytes) : s.Keeps (execMctpControl request s) := by
  unfold execMctpControl
  split <;> simp

@[simp] theorem execPldmRequest_keeps (type command : U8) (arg : Bytes) : s.Keeps (execPldmRequest type command arg s) := by
  dsimp only [execPldmRequest, State.fresh]
  repeat' split
  all_goals simp

@[simp] theorem execSensorUpdate_keeps (id : Nat) (value : Int) : s.Keeps (execSensorUpdate id value s) := by
  dsimp only [execSensorUpdate, State.fresh]
  repeat' split
  all_goals simp

end
end Sys2Proof.Machine
end

section
/-! ### Messages to SEC move the life cycle forward alone (R488 to R490) -/

namespace Sys2Proof.Machine

/-- The moves of the life cycle that LIFECYCLE makes. -/
def lifeMoves : List (Nat × Nat) := [(1, 2), (2, 3), (3, 4), (3, 5), (4, 5)]

/-- A state after another one's: with its queue, whole rails, and its place in the life cycle, or a later one whose wipe is under way. -/
structure State.Follows (u s : State) : Prop where
  lifeOk : u.lifeOk = true
  pending : u.pending = s.pending
  life : u.sec.life = s.sec.life ∨ ((s.sec.life.toNat, u.sec.life.toNat) ∈ lifeMoves ∧ u.sec.wiping.isSome = true)

section Mail
variable {s t u : State} {i : Instr}

theorem State.lifeOk_of_sameLife (h : u.SameLife s) (hok : s.lifeOk = true) : u.lifeOk = true := by
  obtain ⟨-, hlife, hlifeN⟩ := h
  rw [State.lifeOk, hlife, hlifeN]
  exact hok

theorem State.follows_of_sameLife (hok : s.lifeOk = true) (h : u.SameLife s) : u.Follows s :=
  ⟨State.lifeOk_of_sameLife h hok, h.1, .inl h.2.1⟩

/-- What comes after a state that is like another comes after that one. -/
theorem State.Follows.of_sameLife (h : u.Follows t) (hs : t.SameLife s) : u.Follows s := by
  obtain ⟨hok, hpending, hlife⟩ := h
  obtain ⟨hqueue, hsame, -⟩ := hs
  exact ⟨hok, hpending.trans hqueue, hsame ▸ hlife⟩

/-- LIFECYCLE makes one of its moves and begins the wipe, or changes nothing. -/
theorem State.doLifecycle_follows (hok : s.lifeOk = true) (h : SecHdr) (target : U8) (token : Bytes) : (s.doLifecycle h target token).Follows s := by
  cases hclean : secClean h with
  | false =>
    rw [State.doLifecycle_unclean hok hclean]
    exact State.follows_of_sameLife hok (State.reply_same ..).2
  | true =>
    cases hfails : s.lifeFails target.toNat token with
    | some st =>
      rw [State.doLifecycle_refused hok hclean hfails]
      exact State.follows_of_sameLife hok (State.reply_same ..).2
    | none =>
      rw [State.doLifecycle_moves hok hclean hfails]
      refine ⟨?_, (State.fullWipe_same _).2.1, .inr ⟨?_, ?_⟩⟩
      · simp [State.lifeOk, Sec.moved]
      · have hto : (target.setWidth 32 : U32).toNat = target.toNat := by
          simp
          omega
        rw [State.fullWipe_sec, Sec.moved, hto]
        obtain ⟨h1, h2⟩ | ⟨h1, h2⟩ | ⟨h1, h2⟩ | ⟨h1, h2⟩ | ⟨h1, h2⟩ := State.lifeFails_none hfails <;> simp [h1, h2, lifeMoves]
      · rw [State.fullWipe_sec]
        rfl

/-- Every other message leaves the life cycle alone. -/
theorem State.secEffect_same (hi : ∀ h target token, i ≠ .lifecycle h target token) : (s.secEffect i).Same s := by
  unfold State.secEffect
  split
  case h_11 h target token => exact absurd rfl (hi h target token)
  all_goals simp

theorem State.secEffect_follows (hok : s.lifeOk = true) (i : Instr) : (s.secEffect i).Follows s := by
  by_cases hi : ∃ h target token, i = .lifecycle h target token
  · obtain ⟨h, target, token, rfl⟩ := hi
    exact State.doLifecycle_follows hok h target token
  · exact State.follows_of_sameLife hok (State.secEffect_same fun h target token heq => hi ⟨h, target, token, heq⟩).2

theorem State.mail_follows (hok : s.lifeOk = true) (i : Instr) : (s.mail i).Follows s := by
  unfold State.mail
  split
  · exact State.follows_of_sameLife hok (by simp)
  · split
    · exact State.follows_of_sameLife hok (by simp)
    · exact State.secEffect_follows hok i

/-- While a wipe is under way a message waits. -/
theorem State.mail_of_wiping (hwipe : s.sec.wiping.isSome = true) (i : Instr) : (s.mail i).SameLife s ∧ (s.mail i).sec.wiping = s.sec.wiping := by
  obtain ⟨w, hw⟩ := Option.isSome_iff_exists.1 hwipe
  unfold State.mail
  split
  · simp
  · rw [if_pos (State.mailWaits_of_wiping hw i)]
    simp

/-- One message after others: once one of them has moved the life cycle, the rest wait. -/
theorem State.Follows.mail (h : t.Follows s) (i : Instr) : (t.mail i).Follows s := by
  obtain ⟨hok, hpending, hlife | ⟨hmoved, hwipe⟩⟩ := h
  · obtain ⟨hok', hpending', hlife'⟩ := State.mail_follows hok i
    exact ⟨hok', hpending'.trans hpending, hlife ▸ hlife'⟩
  · obtain ⟨hsame, hwiping⟩ := State.mail_of_wiping hwipe i
    exact ⟨State.lifeOk_of_sameLife hsame hok, hsame.1.trans hpending, .inr ⟨hsame.2.1 ▸ hmoved, hwiping ▸ hwipe⟩⟩

theorem State.serveMail_follows (hok : s.lifeOk = true) (h : t.SameLife s) : t.serveMail.Follows s := by
  refine List.foldlRecOn _ _ (motive := fun u : State => u.Follows s) ?_ fun u hu i _ => hu.mail i
  exact State.follows_of_sameLife hok h

end Mail
/-! Every command, by its constructor. -/

section Exec
variable {s u : State} (hok : s.lifeOk = true)
include hok

theorem State.follows_of_keeps {o : Host.Outcome State Fault Refusal} (ho : s.Keeps o) (h : o = .next u) : u.Follows s :=
  State.follows_of_sameLife hok (ho u h)

theorem State.follows_of_mail {i : Instr} (h : Host.Outcome.next (s.mail i) = (.next u : Host.Outcome State Fault Refusal)) : u.Follows s :=
  Host.Outcome.next.inj h ▸ State.mail_follows hok i

theorem execLifecycleWipeDone_follows (h : execLifecycleWipeDone s = .next u) : u.Follows s := by
  unfold execLifecycleWipeDone at h
  split at h
  · exact State.follows_of_keeps hok (by simp) h
  next w _ =>
    rw [← Host.Outcome.next.inj h]
    refine State.serveMail_follows hok ?_
    split <;> simp

theorem execPartitionResetDone_follows {p : Part} (h : execPartitionResetDone p s = .next u) : u.Follows s := by
  unfold execPartitionResetDone at h
  dsimp only at h
  split at h
  · rw [← Host.Outcome.next.inj h]
    refine State.serveMail_follows hok ?_
    split <;> simp
  · split at h
    · rw [← Host.Outcome.next.inj h]
      exact State.serveMail_follows hok (by simp)
    · exact State.follows_of_keeps hok (by simp) h
  · exact State.follows_of_keeps hok (by simp) h

theorem execSecRestartDone_follows (h : execSecRestartDone s = .next u) : u.Follows s := by
  unfold execSecRestartDone at h
  generalize List.range 16 = parts at h
  split at h
  · exact State.follows_of_keeps hok (by simp) h
  · rw [← Host.Outcome.next.inj h]
    refine State.serveMail_follows hok ((State.verifyStaged_same _).trans ((foldl_same _ _ fun s p => ?_).trans (by simp))).2
    dsimp only [State.fresh]
    split <;> simp

theorem execStartupReady_follows (h : execStartupReady s = .next u) : u.Follows s := by
  unfold execStartupReady at h
  generalize List.range 17 = fns at h
  split at h
  · exact State.follows_of_keeps hok (by simp) h
  · split at h
    · exact State.follows_of_keeps hok (by simp) h
    · extract_lets s1 s2 s3 boot pins s4 pwr s5 at h
      have h5 : s5.Same s := by simp [s5, s4, s3, s2, s1]
      clear_value s5
      split at h
      · rw [← Host.Outcome.next.inj h]
        refine State.follows_of_sameLife hok ((State.fullWipe_same _).trans (State.Same.trans ?_ h5)).2
        exact ⟨rfl, rfl, rfl, rfl⟩
      · rw [← Host.Outcome.next.inj h]
        refine State.serveMail_follows hok ((foldl_same _ _ fun s f => s.makeAdmin_same f).trans ?_).2
        exact (State.newTable_same ..).trans h5

theorem exec_follows {i : Instr} (h : exec i s = .next u) : u.Follows s := by
  cases i with
  | run q a pick => exact State.follows_of_keeps hok (execRun_keeps s q a pick) h
  | copy q a => exact State.follows_of_keeps hok (execCopy_keeps s q a) h
  | fill q a => exact State.follows_of_keeps hok (execFill_keeps s q a) h
  | wait q a => exact State.follows_of_keeps hok (execWait_keeps s q a) h
  | signal q a => exact State.follows_of_keeps hok (execSignal_keeps s q a) h
  | objectCreate q a pick => exact State.follows_of_keeps hok (execObjectCreate_keeps s q a pick) h
  | objectFree q handle => exact State.follows_of_keeps hok (execObjectFree_keeps s q handle) h
  | eventCreate q a pick => exact State.follows_of_keeps hok (execEventCreate_keeps s q a pick) h
  | eventDestroy q event => exact State.follows_of_keeps hok (execEventDestroy_keeps s q event) h
  | seedSet q seed => exact State.follows_of_keeps hok (execSeedSet_keeps s q seed) h
  | eventQuery q event => exact State.follows_of_keeps hok (execEventQuery_keeps s q event) h
  | loadImage q a => exact State.follows_of_keeps hok (execLoadImage_keeps s q a) h
  | unloadImage q slot => exact State.follows_of_keeps hok (execUnloadImage_keeps s q slot) h
  | sealObject q handle => exact State.follows_of_keeps hok (execSeal_keeps s q handle) h
  | publish q a => exact State.follows_of_keeps hok (execPublish_keeps s q a) h
  | pinAdapter q a => exact State.follows_of_keeps hok (execPinAdapter_keeps s q a) h
  | unpinAdapter q slot => exact State.follows_of_keeps hok (execUnpinAdapter_keeps s q slot) h
  | evictAdapter q slot => exact State.follows_of_keeps hok (execEvictAdapter_keeps s q slot) h
  | probeReport q a => exact State.follows_of_keeps hok (execProbeReport_keeps s q a) h
  | snapshot q => exact State.follows_of_keeps hok (execSnapshot_keeps s q) h
  | rekey q slot => exact State.follows_of_keeps hok (execRekey_keeps s q slot) h
  | recipeLoad q a => exact State.follows_of_keeps hok (execRecipeLoad_keeps s q a) h
  | updateSetCreate q a => exact State.follows_of_keeps hok (execUpdateSetCreate_keeps s q a) h
  | updateSetDestroy q set => exact State.follows_of_keeps hok (execUpdateSetDestroy_keeps s q set) h
  | groupJoin q a => exact State.follows_of_keeps hok (execGroupJoin_keeps s q a) h
  | contextCreate q a pick => exact State.follows_of_keeps hok (execContextCreate_keeps s q a pick) h
  | contextDestroy q ctx => exact State.follows_of_keeps hok (execContextDestroy_keeps s q ctx) h
  | queueCreate q a pick => exact State.follows_of_keeps hok (execQueueCreate_keeps s q a pick) h
  | queueDestroy q a => exact State.follows_of_keeps hok (execQueueDestroy_keeps s q a) h
  | queueAbort q a => exact State.follows_of_keeps hok (execQueueAbort_keeps s q a) h
  | partitionAbort q part => exact State.follows_of_keeps hok (execPartitionAbort_keeps s q part) h
  | troupeSet q a => exact State.follows_of_keeps hok (execTroupeSet_keeps s q a) h
  | groupSet q a => exact State.follows_of_keeps hok (execGroupSet_keeps s q a) h
  | groupClear q a => exact State.follows_of_keeps hok (execGroupClear_keeps s q a) h
  | basePropose q handle => exact State.follows_of_keeps hok (execBasePropose_keeps s q handle) h
  | baseCommit q => exact State.follows_of_keeps hok (execBaseCommit_keeps s q) h
  | baseAbandon q => exact State.follows_of_keeps hok (execBaseAbandon_keeps s q) h
  | doorbell q value => exact State.follows_of_keeps hok (execDoorbell_keeps s q value) h
  | cqHeadWrite q value => exact State.follows_of_keeps hok (execCqHeadWrite_keeps s q value) h
  | entryFetch q => exact State.follows_of_keeps hok (execEntryFetch_keeps s q) h
  | runStart r => exact State.follows_of_keeps hok (execRunStart_keeps s r) h
  | runComplete r => exact State.follows_of_keeps hok (execRunComplete_keeps s r) h
  | loadImageDone p slot => exact State.follows_of_keeps hok (execLoadImageDone_keeps s p slot) h
  | pipelineWatchdog r => exact State.follows_of_keeps hok (execPipelineWatchdog_keeps s r) h
  | vadd t w => exact State.follows_of_keeps hok (execVadd_keeps s t w) h
  | vsub t w => exact State.follows_of_keeps hok (execVsub_keeps s t w) h
  | vmul t w => exact State.follows_of_keeps hok (execVmul_keeps s t w) h
  | vfma t w => exact State.follows_of_keeps hok (execVfma_keeps s t w) h
  | vfms t w => exact State.follows_of_keeps hok (execVfms_keeps s t w) h
  | vfnma t w => exact State.follows_of_keeps hok (execVfnma_keeps s t w) h
  | vdiv t w => exact State.follows_of_keeps hok (execVdiv_keeps s t w) h
  | vsqrt t w => exact State.follows_of_keeps hok (execVsqrt_keeps s t w) h
  | vmin t w => exact State.follows_of_keeps hok (execVmin_keeps s t w) h
  | vmax t w => exact State.follows_of_keeps hok (execVmax_keeps s t w) h
  | vabs t w => exact State.follows_of_keeps hok (execVabs_keeps s t w) h
  | vneg t w => exact State.follows_of_keeps hok (execVneg_keeps s t w) h
  | vcpysgn t w => exact State.follows_of_keeps hok (execVcpysgn_keeps s t w) h
  | vcmpeq t w => exact State.follows_of_keeps hok (execVcmpeq_keeps s t w) h
  | vcmplt t w => exact State.follows_of_keeps hok (execVcmplt_keeps s t w) h
  | vcmple t w => exact State.follows_of_keeps hok (execVcmple_keeps s t w) h
  | vcmpun t w => exact State.follows_of_keeps hok (execVcmpun_keeps s t w) h
  | gand t w => exact State.follows_of_keeps hok (execGand_keeps s t w) h
  | gor t w => exact State.follows_of_keeps hok (execGor_keeps s t w) h
  | gnot t w => exact State.follows_of_keeps hok (execGnot_keeps s t w) h
  | vsel t w => exact State.follows_of_keeps hok (execVsel_keeps s t w) h
  | vexp t w => exact State.follows_of_keeps hok (execVexp_keeps s t w) h
  | vexp2 t w => exact State.follows_of_keeps hok (execVexp2_keeps s t w) h
  | vexpm1 t w => exact State.follows_of_keeps hok (execVexpm1_keeps s t w) h
  | vlog t w => exact State.follows_of_keeps hok (execVlog_keeps s t w) h
  | vlog2 t w => exact State.follows_of_keeps hok (execVlog2_keeps s t w) h
  | vrcp t w => exact State.follows_of_keeps hok (execVrcp_keeps s t w) h
  | vrsqrt t w => exact State.follows_of_keeps hok (execVrsqrt_keeps s t w) h
  | vsinpi t w => exact State.follows_of_keeps hok (execVsinpi_keeps s t w) h
  | vcospi t w => exact State.follows_of_keeps hok (execVcospi_keeps s t w) h
  | vsigm t w => exact State.follows_of_keeps hok (execVsigm_keeps s t w) h
  | vtanh t w => exact State.follows_of_keeps hok (execVtanh_keeps s t w) h
  | vsilu t w => exact State.follows_of_keeps hok (execVsilu_keeps s t w) h
  | cvt t w => exact State.follows_of_keeps hok (execCvt_keeps s t w) h
  | vhi t w => exact State.follows_of_keeps hok (execVhi_keeps s t w) h
  | vlo t w => exact State.follows_of_keeps hok (execVlo_keeps s t w) h
  | vrsum t w => exact State.follows_of_keeps hok (execVrsum_keeps s t w) h
  | vrmax t w => exact State.follows_of_keeps hok (execVrmax_keeps s t w) h
  | vrmin t w => exact State.follows_of_keeps hok (execVrmin_keeps s t w) h
  | vrsum16 t w => exact State.follows_of_keeps hok (execVrsum16_keeps s t w) h
  | vrmax16 t w => exact State.follows_of_keeps hok (execVrmax16_keeps s t w) h
  | rld t w => exact State.follows_of_keeps hok (execRld_keeps s t w) h
  | radd t w => exact State.follows_of_keeps hok (execRadd_keeps s t w) h
  | rst t w => exact State.follows_of_keeps hok (execRst_keeps s t w) h
  | ld t w => exact State.follows_of_keeps hok (execLd_keeps s t w) h
  | st t w => exact State.follows_of_keeps hok (execSt_keeps s t w) h
  | sin t w => exact State.follows_of_keeps hok (execSin_keeps s t w) h
  | sout t w => exact State.follows_of_keeps hok (execSout_keeps s t w) h
  | sinq t w => exact State.follows_of_keeps hok (execSinq_keeps s t w) h
  | soutq t w => exact State.follows_of_keeps hok (execSoutq_keeps s t w) h
  | vrand t w => exact State.follows_of_keeps hok (execVrand_keeps s t w) h
  | vand t w => exact State.follows_of_keeps hok (execVand_keeps s t w) h
  | vor t w => exact State.follows_of_keeps hok (execVor_keeps s t w) h
  | vxor t w => exact State.follows_of_keeps hok (execVxor_keeps s t w) h
  | vmov t w => exact State.follows_of_keeps hok (execVmov_keeps s t w) h
  | vrot t w => exact State.follows_of_keeps hok (execVrot_keeps s t w) h
  | vsync t w => exact State.follows_of_keeps hok (execVsync_keeps s t w) h
  | loop t useReg reg count => exact State.follows_of_keeps hok (execLoop_keeps s t useReg reg count) h
  | endloop t => exact State.follows_of_keeps hok (execEndloop_keeps s t) h
  | sets t reg imm => exact State.follows_of_keeps hok (execSets_keeps s t reg imm) h
  | adds t reg imm => exact State.follows_of_keeps hok (execAdds_keeps s t reg imm) h
  | args t reg slot => exact State.follows_of_keeps hok (execArgs_keeps s t reg slot) h
  | mrd t tensor port rows => exact State.follows_of_keeps hok (execMrd_keeps s t tensor port rows) h
  | mwr t tensor port rows => exact State.follows_of_keeps hok (execMwr_keeps s t tensor port rows) h
  | endProgram t => exact State.follows_of_keeps hok (execEndProgram_keeps s t) h
  | mxuOp t a => exact State.follows_of_keeps hok (execMxuOp_keeps s t a) h
  | mxuTileStart t => exact State.follows_of_keeps hok (execMxuTileStart_keeps s t) h
  | mxuDrain t => exact State.follows_of_keeps hok (execMxuDrain_keeps s t) h
  | tatt t slot port reg rows => exact State.follows_of_keeps hok (execTatt_keeps s t slot port reg rows) h
  | tsrc t port => exact State.follows_of_keeps hok (execTsrc_keeps s t port) h
  | troute t port reg => exact State.follows_of_keeps hok (execTroute_keeps s t port reg) h
  | tsort t inp outp plan => exact State.follows_of_keeps hok (execTsort_keeps s t inp outp plan) h
  | tgath t plan restore pack => exact State.follows_of_keeps hok (execTgath_keeps s t plan restore pack) h
  | temit t outp => exact State.follows_of_keeps hok (execTemit_keeps s t outp) h
  | adapterWaitTimeout t => exact State.follows_of_keeps hok (execAdapterWaitTimeout_keeps s t) h
  | xallred t wire inp outp group count => exact State.follows_of_keeps hok (execXallred_keeps s t wire inp outp group count) h
  | xredsc t wire inp outp group count => exact State.follows_of_keeps hok (execXredsc_keeps s t wire inp outp group count) h
  | xallga t wire inp outp group count => exact State.follows_of_keeps hok (execXallga_keeps s t wire inp outp group count) h
  | xdisp t inp outp group => exact State.follows_of_keeps hok (execXdisp_keeps s t inp outp group) h
  | xcomb t inp outp group => exact State.follows_of_keeps hok (execXcomb_keeps s t inp outp group) h
  | ufeed t fmt port set reg count => exact State.follows_of_keeps hok (execUfeed_keeps s t fmt port set reg count) h
  | uend t set => exact State.follows_of_keeps hok (execUend_keeps s t set) h
  | updBucketApply p set => exact State.follows_of_keeps hok (execUpdBucketApply_keeps s p set) h
  | updAttemptClose p set => exact State.follows_of_keeps hok (execUpdAttemptClose_keeps s p set) h
  | beatSend r strm route => exact State.follows_of_keeps hok (execBeatSend_keeps s r strm route) h
  | beatArrive r strm route first again => exact State.follows_of_keeps hok (execBeatArrive_keeps s r strm route first again) h
  | creditReturn r strm route => exact State.follows_of_keeps hok (execCreditReturn_keeps s r strm route) h
  | hbmReadReturn acc v => exact State.follows_of_keeps hok (execHbmReadReturn_keeps s acc v) h
  | hbmAccessTimeout acc => exact State.follows_of_keeps hok (execHbmAccessTimeout_keeps s acc) h
  | subtreeRebuild height node fromCatcher => exact State.follows_of_keeps hok (execSubtreeRebuild_keeps s height node fromCatcher) h
  | flashPartReturn acc part v => exact State.follows_of_keeps hok (execFlashPartReturn_keeps s acc part v) h
  | flashPartLate acc part => exact State.follows_of_keeps hok (execFlashPartLate_keeps s acc part) h
  | tierStallTimeout acc => exact State.follows_of_keeps hok (execTierStallTimeout_keeps s acc) h
  | segmentErase seg => exact State.follows_of_keeps hok (execSegmentErase_keeps s seg) h
  | segmentRelocate seg pick failed => exact State.follows_of_keeps hok (execSegmentRelocate_keeps s seg pick failed) h
  | pageWipeDone frame => exact State.follows_of_keeps hok (execPageWipeDone_keeps s frame) h
  | adapterLoadDone entry status => exact State.follows_of_keeps hok (execAdapterLoadDone_keeps s entry status) h
  | adapterWipeDone entry => exact State.follows_of_keeps hok (execAdapterWipeDone_keeps s entry) h
  | carouselBlock sweep badLines unverifiable => exact State.follows_of_keeps hok (execCarouselBlock_keeps s sweep badLines unverifiable) h
  | carouselFlashPage sweep pick failed => exact State.follows_of_keeps hok (execCarouselFlashPage_keeps s sweep pick failed) h
  | snapPageCopy p failed => exact State.follows_of_keeps hok (execSnapPageCopy_keeps s p failed) h
  | snapshotSeal p failed => exact State.follows_of_keeps hok (execSnapshotSeal_keeps s p failed) h
  | restoreGo p => exact State.follows_of_keeps hok (execRestoreGo_keeps s p) h
  | restoreDone p failed => exact State.follows_of_keeps hok (execRestoreDone_keeps s p failed) h
  | replayArm p value => exact State.follows_of_keeps hok (execReplayArm_keeps s p value) h
  | negGo fn => exact State.follows_of_keeps hok (execNegGo_keeps s fn) h
  | fwStart => exact State.follows_of_keeps hok (execFwStart_keeps s) h
  | fwActivate o => exact State.follows_of_keeps hok (execFwActivate_keeps s o) h
  | warmReset o => exact State.follows_of_keeps hok (execWarmReset_keeps s o) h
  | pwrStateSleep => exact State.follows_of_keeps hok (execPwrStateSleep_keeps s) h
  | dbgAccess off write size value => exact State.follows_of_keeps hok (execDbgAccess_keeps s off write size value) h
  | regHighWordLatch core fn place => exact State.follows_of_keeps hok (execRegHighWordLatch_keeps s core fn place) h
  | regWrite core fn off size value => exact State.follows_of_keeps hok (execRegWrite_keeps s core fn off size value) h
  | layoutSet h l => exact State.follows_of_mail hok h
  | layoutClear h => exact State.follows_of_mail hok h
  | sessionKey h => exact State.follows_of_mail hok h
  | sessionBind h ct report maskedSeal => exact State.follows_of_mail hok h
  | keyGenerate h slot => exact State.follows_of_mail hok h
  | keyImport h slot ct wrapped => exact State.follows_of_mail hok h
  | keyWithdraw h slot => exact State.follows_of_mail hok h
  | consentSet h tok => exact State.follows_of_mail hok h
  | coreStart h a => exact State.follows_of_mail hok h
  | sessionClose h => exact State.follows_of_mail hok h
  | lifecycle h target token => exact State.follows_of_mail hok h
  | lifecycleWipeDone => exact execLifecycleWipeDone_follows hok h
  | getVersion => exact State.follows_of_mail hok h
  | getCapabilities => exact State.follows_of_mail hok h
  | negotiateAlgorithms request => exact State.follows_of_mail hok h
  | getDigests => exact State.follows_of_mail hok h
  | getCertificate slot off len => exact State.follows_of_mail hok h
  | getMeasurements index nonce signed => exact State.follows_of_mail hok h
  | challenge slot nonce => exact State.follows_of_mail hok h
  | chunkGet handle seqNo => exact State.follows_of_mail hok h
  | ideKmRequest fn c => exact State.follows_of_mail hok h
  | tdispRequest fn c => exact State.follows_of_mail hok h
  | secFault => exact State.follows_of_keeps hok (execSecFault_keeps s) h
  | secRestartDone => exact execSecRestartDone_follows hok h
  | componentWatchdog c => exact State.follows_of_keeps hok (execComponentWatchdog_keeps s c) h
  | componentRestartDone c codeOk => exact State.follows_of_keeps hok (execComponentRestartDone_keeps s c codeOk) h
  | rigFrameReceive port o flit => exact State.follows_of_keeps hok (execRigFrameReceive_keeps s port o flit) h
  | flitReceive port flit => exact State.follows_of_keeps hok (execFlitReceive_keeps s port flit) h
  | rigFrameSlot port => exact State.follows_of_keeps hok (execRigFrameSlot_keeps s port) h
  | rigAckTimeout port => exact State.follows_of_keeps hok (execRigAckTimeout_keeps s port) h
  | rigHeartbeatSend port => exact State.follows_of_keeps hok (execRigHeartbeatSend_keeps s port) h
  | rigHeartbeatReceive port hb tArrive => exact State.follows_of_keeps hok (execRigHeartbeatReceive_keeps s port hb tArrive) h
  | rigHeartbeatMiss port k => exact State.follows_of_keeps hok (execRigHeartbeatMiss_keeps s port k) h
  | fenceNoticeTimeout p => exact State.follows_of_keeps hok (execFenceNoticeTimeout_keeps s p) h
  | portTrainStart port => exact State.follows_of_keeps hok (execPortTrainStart_keeps s port) h
  | portRetrainTimer port => exact State.follows_of_keeps hok (execPortRetrainTimer_keeps s port) h
  | portLaneLock port => exact State.follows_of_keeps hok (execPortLaneLock_keeps s port) h
  | portTrainTimeout port => exact State.follows_of_keeps hok (execPortTrainTimeout_keeps s port) h
  | portLockLost port => exact State.follows_of_keeps hok (execPortLockLost_keeps s port) h
  | authHello port m => exact State.follows_of_keeps hok (execAuthHello_keeps s port m) h
  | authReply port m => exact State.follows_of_keeps hok (execAuthReply_keeps s port m) h
  | authFinish port m => exact State.follows_of_keeps hok (execAuthFinish_keeps s port m) h
  | authTimeout port => exact State.follows_of_keeps hok (execAuthTimeout_keeps s port) h
  | memberUnreachable pos => exact State.follows_of_keeps hok (execMemberUnreachable_keeps s pos) h
  | timeParentTimeout => exact State.follows_of_keeps hok (execTimeParentTimeout_keeps s) h
  | fwdSubmission queue index ts entry => exact State.follows_of_keeps hok (execFwdSubmission_keeps s queue index ts entry) h
  | fwdCompletion pos queue index record => exact State.follows_of_keeps hok (execFwdCompletion_keeps s pos queue index record) h
  | fwdEvent pos event record => exact State.follows_of_keeps hok (execFwdEvent_keeps s pos event record) h
  | fwdRegRequest head off value => exact State.follows_of_keeps hok (execFwdRegRequest_keeps s head off value) h
  | fwdRegResponse pos off value => exact State.follows_of_keeps hok (execFwdRegResponse_keeps s pos off value) h
  | collectiveUp m => exact State.follows_of_keeps hok (execCollectiveUp_keeps s m) h
  | collectiveDown m => exact State.follows_of_keeps hok (execCollectiveDown_keeps s m) h
  | collectiveClose m => exact State.follows_of_keeps hok (execCollectiveClose_keeps s m) h
  | collectiveVerdict m => exact State.follows_of_keeps hok (execCollectiveVerdict_keeps s m) h
  | collectiveAbort m => exact State.follows_of_keeps hok (execCollectiveAbort_keeps s m) h
  | dispatch m => exact State.follows_of_keeps hok (execDispatch_keeps s m) h
  | combine m => exact State.follows_of_keeps hok (execCombine_keeps s m) h
  | groupWaitLimit group => exact State.follows_of_keeps hok (execGroupWaitLimit_keeps s group) h
  | digestListArrive p set lists => exact State.follows_of_keeps hok (execDigestListArrive_keeps s p set lists) h
  | lineDigestsArrive p set page lines => exact State.follows_of_keeps hok (execLineDigestsArrive_keeps s p set page lines) h
  | mirrorLine m => exact State.follows_of_keeps hok (execMirrorLine_keeps s m) h
  | mirrorState m => exact State.follows_of_keeps hok (execMirrorState_keeps s m) h
  | mirrorCommit m => exact State.follows_of_keeps hok (execMirrorCommit_keeps s m) h
  | mirrorFlash m => exact State.follows_of_keeps hok (execMirrorFlash_keeps s m) h
  | mirrorSnap m => exact State.follows_of_keeps hok (execMirrorSnap_keeps s m) h
  | mirrorResync m => exact State.follows_of_keeps hok (execMirrorResync_keeps s m) h
  | resyncDone p => exact State.follows_of_keeps hok (execResyncDone_keeps s p) h
  | mirrorAck m => exact State.follows_of_keeps hok (execMirrorAck_keeps s m) h
  | mirrorPage m => exact State.follows_of_keeps hok (execMirrorPage_keeps s m) h
  | mirrorPair m => exact State.follows_of_keeps hok (execMirrorPair_keeps s m) h
  | takeoverNotice flyer identity ts => exact State.follows_of_keeps hok (execTakeoverNotice_keeps s flyer identity ts) h
  | aonTick => exact State.follows_of_keeps hok (execAonTick_keeps s) h
  | budgetPeriod => exact State.follows_of_keeps hok (execBudgetPeriod_keeps s) h
  | waitDeadline index => exact State.follows_of_keeps hok (execWaitDeadline_keeps s index) h
  | pwrDomainLoop => exact State.follows_of_keeps hok (execPwrDomainLoop_keeps s) h
  | pwrCapLoop watts => exact State.follows_of_keeps hok (execPwrCapLoop_keeps s watts) h
  | pwrThermalLoop celsius => exact State.follows_of_keeps hok (execPwrThermalLoop_keeps s celsius) h
  | domainAwake d => exact State.follows_of_keeps hok (execDomainAwake_keeps s d) h
  | domainWakeTimeout d => exact State.follows_of_keeps hok (execDomainWakeTimeout_keeps s d) h
  | faultAutoReset o => exact State.follows_of_keeps hok (execFaultAutoReset_keeps s o) h
  | domainIdle d => exact State.follows_of_keeps hok (execDomainIdle_keeps s d) h
  | powerBrakeAssert => exact State.follows_of_keeps hok (execPowerBrakeAssert_keeps s) h
  | powerBrakeRelease => exact State.follows_of_keeps hok (execPowerBrakeRelease_keeps s) h
  | thermalTrip celsius => exact State.follows_of_keeps hok (execThermalTrip_keeps s celsius) h
  | thermalTripClear celsius => exact State.follows_of_keeps hok (execThermalTripClear_keeps s celsius) h
  | thermalShutdown celsius => exact State.follows_of_keeps hok (execThermalShutdown_keeps s celsius) h
  | powerGood o => exact State.follows_of_keeps hok (execPowerGood_keeps s o) h
  | powerGoodLoss => exact State.follows_of_keeps hok (execPowerGoodLoss_keeps s) h
  | romRailRecheck railsOk => exact State.follows_of_keeps hok (execRomRailRecheck_keeps s railsOk) h
  | railOutOfTolerance rail => exact State.follows_of_keeps hok (execRailOutOfTolerance_keeps s rail) h
  | startupReady => exact execStartupReady_follows hok h
  | perstAssert o => exact State.follows_of_keeps hok (execPerstAssert_keeps s o) h
  | perstRelease => exact State.follows_of_keeps hok (execPerstRelease_keeps s) h
  | wakeN o => exact State.follows_of_keeps hok (execWakeN_keeps s o) h
  | functionLevelReset fn => exact State.follows_of_keeps hok (execFunctionLevelReset_keeps s fn) h
  | ideCheckFail fn => exact State.follows_of_keeps hok (execIdeCheckFail_keeps s fn) h
  | tdispLeaveRun fn => exact State.follows_of_keeps hok (execTdispLeaveRun_keeps s fn) h
  | hostCompletionTimeout acc => exact State.follows_of_keeps hok (execHostCompletionTimeout_keeps s acc) h
  | pcieLinkChange rate width flit => exact State.follows_of_keeps hok (execPcieLinkChange_keeps s rate width flit) h
  | i3cDaa addr => exact State.follows_of_keeps hok (execI3cDaa_keeps s addr) h
  | mctpControl request => exact State.follows_of_keeps hok (execMctpControl_keeps s request) h
  | pldmRequest type command arg => exact State.follows_of_keeps hok (execPldmRequest_keeps s type command arg) h
  | sensorUpdate id value => exact State.follows_of_keeps hok (execSensorUpdate_keeps s id value) h
  | hostReadCompletion acc blocks fw => exact State.follows_of_keeps hok (execHostReadCompletion_keeps s acc blocks fw) h
  | hbmWriteAnswer acc v => exact State.follows_of_keeps hok (execHbmWriteAnswer_keeps s acc v) h
  | flashWriteDone acc okWrite => exact State.follows_of_keeps hok (execFlashWriteDone_keeps s acc okWrite) h
  | bootFlashWriteDone readBack o => exact State.follows_of_keeps hok (execBootFlashWriteDone_keeps s readBack o) h
  | partitionResetDone p => exact execPartitionResetDone_follows hok h
  | runGroupWaitLimit r => exact State.follows_of_keeps hok (execRunGroupWaitLimit_keeps s r) h
  | ringWindowWrite fn off data => exact State.follows_of_keeps hok (execRingWindowWrite_keeps s fn off data) h
  | pcieConfigRequest fn c => exact State.follows_of_keeps hok (execPcieConfigRequest_keeps s fn c) h
  | partitionCoreWfi core enter => exact State.follows_of_keeps hok (execPartitionCoreWfi_keeps s core enter) h
  | cipherUnitFail unit => exact State.follows_of_keeps hok (execCipherUnitFail_keeps s unit) h

end Exec

/-- Settles O60: a command keeps the rest of the queue, and only a LIFECYCLE message moves the life cycle, after which every other message waits. -/
theorem lifeCycleMovesForward : Obligations.LifeCycleMovesForward := by
  unfold Obligations.LifeCycleMovesForward
  intro s s' hok hstep
  unfold step at hstep
  split at hstep
  next hempty =>
    rw [← Host.Outcome.next.inj hstep, hempty]
    exact ⟨hok, .inl rfl, rfl⟩
  next i rest hfront =>
    obtain ⟨hok', hpending, hlife⟩ := exec_follows (s := { s with pending := rest }) hok hstep
    refine ⟨hok', hlife.imp_right And.left, ?_⟩
    rw [hpending, hfront]
    rfl

end Sys2Proof.Machine
end
